-- ==== Sys2Proof/Word.lean ====
section
/-! DEFINITION. The word types of the PSM-12 model: bytes, the 64-bit scalar word, the 512-bit vector word.
A bit vector stands for what the manual treats as bits (00_scope.md, R1, R2); indices, counts and keys are `Nat`. -/

namespace Sys2Proof

/-- One byte (R1). -/
abbrev Byte := BitVec 8

/-- A scalar register value (Table 06-1). -/
abbrev Word := BitVec 64

/-- A vector register value (Table 06-1). -/
abbrev VWord := BitVec 512

end Sys2Proof
end

