-- ==== Sys2Proof/Syntax.lean ====
section
/-! DEFINITION. The commands of the PSM-12 (spec/opcode_table.json, one constructor of `Instr` per row) and the
types of their operands: what the hosts, the board, the peers, the cards and the package's own engines supply.
A Febupor command is named by its number in the package's command sequence (R81); a cell instruction by its cell
and context (R157); every other row by the object its event happens at. -/

namespace Sys2Proof

/-- The two host ports (R72). -/
inductive HPort where
  | h0
  | h1
deriving DecidableEq, Repr

/-- The four lanes of travel of an aisle or chantry router (R289): east, west, south, north. -/
inductive Dir where
  | e
  | w
  | s
  | n
deriving DecidableEq, Repr

/-- What a register access addresses: PF BAR0 or a VF BAR0 at an offset (Tables 03-2, 03-5), an SMBus command
code (Table 18-2), or one of the two configuration-space fields the manual lets decide something: Memory Space
Enable of a function and the count of enabled VFs (R74, R90). -/
inductive RegTarget where
  | pf (p : HPort) (offset : Nat)
  | vf (p : HPort) (vf : Nat) (offset : Nat)
  | smbus (code : Nat)
  | memorySpaceEnable (p : HPort) (fn : Nat)
  | vfCount (p : HPort)
deriving DecidableEq, Repr

/-- What one HBM stack reports when its controller initialises it (R418, R419). -/
structure StackInit where
  /-- the 16-byte STACK_ID, read little-endian -/
  stackId : Nat
  /-- rows of the pending list whose bank has no spare -/
  noSpare : List Nat
  /-- fewest spare rows left in any bank after the repairs -/
  spareMin : Nat
deriving DecidableEq, Repr

/-- A tag found by a sweep: its UID, its block size and bytes 0-19 (R523, R527). -/
structure BankTag where
  uid : Nat
  blockSize : Nat
  bytes : List Byte
deriving DecidableEq, Repr

/-- The three causes of a host port reset (R92). -/
inductive PortResetCause where
  | perst
  | hotReset
  | dlDown
deriving DecidableEq, Repr

/-- What the PCIe completion of a chapel's host read brings (R591). -/
inductive PcieResult where
  | data (bytes : List Byte)
  | unsupportedRequest
  | completerAbort
  | poisoned
deriving DecidableEq, Repr

/-- Who moves the 64-byte units of a copy: a slype engine of a cell, or the sacristy mover (Table 04-12). -/
inductive Mover where
  | engine (cell eng : Nat)
  | sacristy
deriving DecidableEq, Repr

/-- What a link does to the packet it carries: nothing, a header the sideband check refuses (R295), or payload
byte `index` changed by `flip` (R318). -/
inductive Damage where
  | none
  | header
  | payload (index : Nat) (flip : Byte)
deriving DecidableEq, Repr

/-- The inputs of an aisle router (R289). -/
inductive AisleSrc where
  | ring (d : Dir)
  | injection
  | gate
deriving DecidableEq, Repr

/-- A lane of an ambulatory ring: a nave ring or one track of a spine, in increasing or decreasing order
(R363, R364). -/
inductive AmbLane where
  | nave (d : Nat) (up : Bool)
  | spine (north : Bool) (track : Nat) (up : Bool)
deriving DecidableEq, Repr

/-- An input of the ambulatory: a lane's input at a position (relay stations have positions of their own, R365),
or the injection port of an endpoint's stop. -/
inductive AmbInput where
  | lane (l : AmbLane) (pos : Nat)
  | inject (ep : Nat)
deriving DecidableEq, Repr

/-- The holders of trackers (Table 13-10). -/
inductive TrackerOwner where
  | threads (cell : Nat)
  | engine (cell eng : Nat)
  | mover
  | relay (port : Nat)
deriving DecidableEq, Repr

/-- The on-die ECC report of a burst (Table 15-2). -/
inductive OnDie where
  | clean
  | corrected
  | uncorrected
deriving DecidableEq, Repr

/-- What the controller's SECDED decode finds (Table 15-2). -/
inductive EccDecode where
  | clean
  | singleBit
  | uncorrectable
deriving DecidableEq, Repr

/-- A Transept frame (Tables 16-2, 16-3): the control field by field, the body as bytes. `reserved` says that some
reserved control bit is nonzero. -/
structure Frame where
  idle : Bool
  fseq : Nat
  ack : Nat
  ackValid : Bool
  nak : Bool
  /-- the seven block classes -/
  classes : List Nat
  /-- CREDIT, one byte per class A, C, Q, S, E -/
  credit : List Nat
  lanes : BitVec 8
  ctrlOp : Nat
  ctrlArg : BitVec 24
  echoOp : Nat
  reserved : Bool
  /-- 616 body bytes -/
  body : List Byte
deriving DecidableEq, Repr

/-- One received codeword (R425, R432): beyond the FEC, or decoded with the symbol errors it corrected on each
lane, the state of FMARK and FCRC, and the frame. -/
inductive FrameRx where
  | uncorrectable
  | decoded (symbolErrors : List Nat) (fmarkGood fcrcGood : Bool) (f : Frame)
deriving DecidableEq, Repr

/-- The wire accesses to the tag (R507, R508). -/
inductive WireAccess where
  | capsule
  | svcTagWrite
  | smbus
deriving DecidableEq, Repr

/-- How an ISO/IEC 15693 request addresses the tag: not addressed, by UID, or the selected tag. -/
inductive TagAddr where
  | all
  | uid (u : BitVec 64)
  | selected
deriving DecidableEq, Repr

/-- What a card on ANT_BADGE sends (R516-R522, Table 19-6). -/
inductive CardAnswer where
  /-- an answer to WUPA, well formed or not -/
  | atqa (wellFormed : Bool)
  /-- an anticollision or SELECT answer: the UID bytes of this cascade level, its check byte right, SAK right, and
  whether the UID is complete -/
  | uidPart (bytes : List Byte) (wellFormed complete : Bool)
  /-- ATS: well formed; the highest rate TA(1) allows in both directions, in kbit/s (106 when absent) -/
  | ats (wellFormed : Bool) (rate : Nat)
  | ppsAnswer
  /-- an I-block: its data and its chaining bit -/
  | iBlock (bytes : List Byte) (more : Bool)
  | rAck
  | sWtx
  | sDeselect
  /-- a frame with a bad CRC or parity -/
  | badFrame
  /-- a block longer than FSD, or of a type not allowed at this point -/
  | wrongBlock
deriving DecidableEq, Repr

/-- What one slot of an inventory round brings (R524). -/
inductive SlotAnswer where
  | empty
  | tag (uid : Nat)
  | collision
deriving DecidableEq, Repr

/-- What the tags of a bank send (R518, R523-R528). -/
inductive BankAnswer where
  /-- the sixteen slots of an inventory round -/
  | slots (answers : List SlotAnswer)
  | systemInfo (blockSize : Nat)
  | blocks (data : List Byte)
  | written
  /-- an error flag with its code -/
  | error (code : Nat)
  /-- an answer with a bad CRC or outside its window -/
  | invalid
deriving DecidableEq, Repr

/-- The commands: one constructor per row of spec/opcode_table.json, those with operands first. -/
inductive Instr where
  /-- REGISTER_WRITE (R5): the register addressed, the access width in bytes, the value written, and the W1C bits hardware sets in the same PCLK cycle (R7). -/
  | registerWrite (tgt : RegTarget) (size : Nat) (value : BitVec 64) (hwSet : BitVec 32)
  /-- RC_REGISTER_READ (R8): the register read, the access width in bytes, and the RING_ERR cause hardware records in the same PCLK cycle (R7, R8). -/
  | rcRegisterRead (tgt : RegTarget) (size : Nat) (hw : BitVec 8)
  /-- LOW_HALF_READ (R566): port and BAR0 offset of the low half. -/
  | lowHalfRead (p : HPort) (offset : Nat)
  /-- FIRMWARE_READY (R42): for M0-M7 what the stack reports at initialisation: its STACK_ID, the pending rows without a spare, the fewest spare rows left. -/
  | firmwareReady (hbmStacks : List StackInit)
  /-- SWEEP_COMPLETE (R523): the bank, the tags found with their first 20 bytes, and whether collisions remained at 32 tags. -/
  | sweepComplete (bank : Nat) (tags : List BankTag) (more : Bool)
  /-- HBM_TRAINING_COMPLETE (R419): whether every pseudo-channel passed the margin check, and for M0-M7 the best rate the stack passes in full training (0: none). -/
  | hbmTrainingComplete (marginPass : Bool) (best : List Nat)
  /-- PKG_IDENTIFY (R121): command number; whether its buffer writes end without a PCIe error. -/
  | pkgIdentify (n : Nat) (wrOk : Bool)
  /-- PKG_RESET (R470): command number. -/
  | pkgReset (n : Nat)
  /-- PKG_POWER_STATE (R45): command number. -/
  | pkgPowerState (n : Nat)
  /-- TRANSEPT_HELD_RETRAIN_DONE (R47): Transept port. -/
  | transeptHeldRetrainDone (port : Nat)
  /-- PKG_POWER_LIMIT (R50): command number. -/
  | pkgPowerLimit (n : Nat)
  /-- LIMITER_SAMPLE (R51): measured input power. -/
  | limiterSample (watts : Nat)
  /-- PKG_INTERLOCK_ACK (R492): command number. -/
  | pkgInterlockAck (n : Nat)
  /-- SENSOR_SAMPLE (R586): sensor index 0-199 (R586) and junction temperature in thousandths of a degree. -/
  | sensorSample (sensor : Nat) (milliC : Int)
  /-- THERMAL_STATE_CHANGE (R62): sensor index 0-199. -/
  | thermalStateChange (sensor : Nat)
  /-- THERMTRIP_COMPARATOR (R65): sensor index. -/
  | thermtripComparator (sensor : Nat)
  /-- DOORBELL_WRITE (R80): port, offset, width, value. -/
  | doorbellWrite (p : HPort) (offset size : Nat) (value : BitVec 64)
  /-- COMPLETION_HEAD_DOORBELL (R86): port, offset, width, value. -/
  | completionHeadDoorbell (p : HPort) (offset size : Nat) (value : BitVec 64)
  /-- EVENT_HEAD_DOORBELL (R125): port, offset, width, value. -/
  | eventHeadDoorbell (p : HPort) (offset size : Nat) (value : BitVec 64)
  /-- BAR_MISS_REQUEST (R74): port, read or write, PCIe address. -/
  | barMissRequest (p : HPort) (read : Bool) (addr : BitVec 64)
  /-- MSIX_UNMASK (R87): port, function (0 the PF, c + 1 the VF of chapel c), vector. -/
  | msixUnmask (p : HPort) (fn vector : Nat)
  /-- BUS_MASTER_ENABLE_SET (R87): port, function. -/
  | busMasterEnableSet (p : HPort) (fn : Nat)
  /-- BUS_MASTER_ENABLE_CLEAR (R593): port, function. -/
  | busMasterEnableClear (p : HPort) (fn : Nat)
  /-- VF_FLR (R91): port, VF number 1-192. -/
  | vfFlr (p : HPort) (vf : Nat)
  /-- PF_FLR (R93): port. -/
  | pfFlr (p : HPort)
  /-- HOST_PORT_RESET (R92): port and which of PERSTx_N low, hot reset, DL_Down. -/
  | hostPortReset (p : HPort) (why : PortResetCause)
  /-- PERST_RELEASE (R68): port. -/
  | perstRelease (p : HPort)
  /-- HOST_L1_EXIT (R486): port. -/
  | hostL1Exit (p : HPort)
  /-- LINK_L0_REACHED (R95): port, GT/s, lanes. -/
  | linkL0Reached (p : HPort) (rate width : Nat)
  /-- HOST_PORT_REQUEST (R90): port. -/
  | hostPortRequest (p : HPort)
  /-- HOST_READ_COMPLETION (R591): port, PCIe tag, what the completion brings. -/
  | hostReadCompletion (p : HPort) (tag : Nat) (result : PcieResult)
  /-- HOST_COMPLETION_TIMEOUT (R591): port, PCIe tag. -/
  | hostCompletionTimeout (p : HPort) (tag : Nat)
  /-- HOST_WRITE_TRANSMITTED (R592): port, number of the posted write. -/
  | hostWriteTransmitted (p : HPort) (tag : Nat)
  /-- RING_CONFIG_WRITE (R97): port, offset, width, value. -/
  | ringConfigWrite (p : HPort) (offset size : Nat) (value : BitVec 64)
  /-- RING_ENABLE (R98): port, ring, word written at +0x10. -/
  | ringEnable (p : HPort) (ring : Nat) (value : BitVec 32)
  /-- RING_DISABLE (R99): port, ring, word written at +0x10. -/
  | ringDisable (p : HPort) (ring : Nat) (value : BitVec 32)
  /-- EVENT_RING_ENABLE (R127): port, word written at +0x10. -/
  | eventRingEnable (p : HPort) (value : BitVec 32)
  /-- EVENT_RING_DISABLE (R127): port, word written at +0x10. -/
  | eventRingDisable (p : HPort) (value : BitVec 32)
  /-- ENTRY_FETCH (R106): command number and its 64 bytes (none: the fetch ends in a PCIe error). -/
  | entryFetch (n : Nat) (data : Option (List Byte))
  /-- ENTRY_FETCH_TIMEOUT (R589): command number. -/
  | entryFetchTimeout (n : Nat)
  /-- DATA_BUFFER_READ_TIMEOUT (R109): command number. -/
  | dataBufferReadTimeout (n : Nat)
  /-- CHAPEL_CREATE (R121): command number. -/
  | chapelCreate (n : Nat)
  /-- CHAPEL_LAUNCH (R163): command number. -/
  | chapelLaunch (n : Nat)
  /-- CHAPEL_PAUSE (R195): command number. -/
  | chapelPause (n : Nat)
  /-- CHAPEL_PAUSE_TIMEOUT (R121): command number. -/
  | chapelPauseTimeout (n : Nat)
  /-- PAUSE_COMPLETE (R195): chapel. -/
  | pauseComplete (chapel : Nat)
  /-- CHAPEL_RESUME (R195): command number. -/
  | chapelResume (n : Nat)
  /-- CHAPEL_RETIRE (R121): command number. -/
  | chapelRetire (n : Nat)
  /-- CHAPEL_RETIRE_TIMEOUT (R121): command number. -/
  | chapelRetireTimeout (n : Nat)
  /-- CHAPEL_EVICT (R388): command number. -/
  | chapelEvict (n : Nat)
  /-- EVICT_TEARDOWN_COMPLETE (R388): chapel. -/
  | evictTeardownComplete (chapel : Nat)
  /-- CHAPEL_QUERY (R328): command number; whether its buffer writes end without a PCIe error. -/
  | chapelQuery (n : Nat) (wrOk : Bool)
  /-- HANDLER_LOAD (R267): command number. -/
  | handlerLoad (n : Nat)
  /-- MCAST_LOAD (R310): command number. -/
  | mcastLoad (n : Nat)
  /-- SUM_TREE_LOAD (R332): command number. -/
  | sumTreeLoad (n : Nat)
  /-- FABRIC_DRAIN (R316): command number. -/
  | fabricDrain (n : Nat)
  /-- DRAIN_COMPLETE (R316): command number. -/
  | drainComplete (n : Nat)
  /-- FABRIC_DRAIN_TIMEOUT (R121): command number. -/
  | fabricDrainTimeout (n : Nat)
  /-- MEM_WINDOW_MAP (R386): command number. -/
  | memWindowMap (n : Nat)
  /-- LECTERN_DEFINE (R252): command number. -/
  | lecternDefine (n : Nat)
  /-- SLYPE_COPY (R191): command number. -/
  | slypeCopy (n : Nat)
  /-- LINK_TRAIN (R436): command number. -/
  | linkTrain (n : Nat)
  /-- LINK_TRAIN_COMPLETE (R436): command number and the time taken in microseconds. -/
  | linkTrainComplete (n micros : Nat)
  /-- LINK_TRAIN_TIMEOUT (R121): command number. -/
  | linkTrainTimeout (n : Nat)
  /-- LINK_STATUS (R453): command number; whether its buffer writes end without a PCIe error. -/
  | linkStatus (n : Nat) (wrOk : Bool)
  /-- LINK_ASSIGN (R446): command number. -/
  | linkAssign (n : Nat)
  /-- SCREEN_PROPOSE (R590): command number. -/
  | screenPropose (n : Nat)
  /-- SCREEN_APPROVE (R152): command number. -/
  | screenApprove (n : Nat)
  /-- BADGE_APPROVAL_TIMEOUT (R155): command number. -/
  | badgeApprovalTimeout (n : Nat)
  /-- SCREEN_WITHDRAW (R152): command number. -/
  | screenWithdraw (n : Nat)
  /-- SCREEN_READ (R152): command number; whether its buffer writes end without a PCIe error. -/
  | screenRead (n : Nat) (wrOk : Bool)
  /-- PARTY_ENROL (R145): command number. -/
  | partyEnrol (n : Nat)
  /-- SVC_GATEHOUSE_OP (R523): command number. -/
  | svcGatehouseOp (n : Nat)
  /-- GATEHOUSE_OP_TIMEOUT (R526): command number; whether its buffer writes end without a PCIe error. -/
  | gatehouseOpTimeout (n : Nat) (wrOk : Bool)
  /-- SVC_BELFRY_CFG (R544): command number. -/
  | svcBelfryCfg (n : Nat)
  /-- SVC_BELFRY_READ (R560): command number; whether its buffer writes end without a PCIe error. -/
  | svcBelfryRead (n : Nat) (wrOk : Bool)
  /-- SVC_SYNTHETIC_WAKE (R561): command number. -/
  | svcSyntheticWake (n : Nat)
  /-- SVC_TAG_WRITE (R502): command number. -/
  | svcTagWrite (n : Nat)
  /-- SVC_CAL_STORE (R495): command number; whether its buffer writes end without a PCIe error. -/
  | svcCalStore (n : Nat) (wrOk : Bool)
  /-- CAL_STORE_WRITE_DONE (R495): whether the read-back of the slot verified. -/
  | calStoreWriteDone (readBack : Bool)
  /-- DIAG_LOG_READ (R123): command number; whether its buffer writes end without a PCIe error. -/
  | diagLogRead (n : Nat) (wrOk : Bool)
  /-- DIAG_CAPSULE_READ (R480): command number; whether its buffer writes end without a PCIe error. -/
  | diagCapsuleRead (n : Nat) (wrOk : Bool)
  /-- DIAG_PATTERN (R121): command number. -/
  | diagPattern (n : Nat)
  /-- DIAG_PATTERN_END (R121): command number, bit errors and bits checked. -/
  | diagPatternEnd (n errors bits : Nat)
  /-- SCALAR_ALU (R206): cell, context. -/
  | scalarAlu (cell tid : Nat)
  /-- IMMEDIATE_ALU (R207): cell, context. -/
  | immediateAlu (cell tid : Nat)
  /-- SHI (R207): cell, context. -/
  | shi (cell tid : Nat)
  /-- INSK (R207): cell, context. -/
  | insk (cell tid : Nat)
  /-- MULTIPLY_DIVIDE (R208): cell, context. -/
  | multiplyDivide (cell tid : Nat)
  /-- SCALAR_FLOATING_POINT (R211): cell, context. -/
  | scalarFloatingPoint (cell tid : Nat)
  /-- LOAD (R212): cell, context. -/
  | load (cell tid : Nat)
  /-- STORE (R212): cell, context. -/
  | store (cell tid : Nat)
  /-- VLD (R212): cell, context. -/
  | vld (cell tid : Nat)
  /-- VST (R212): cell, context. -/
  | vst (cell tid : Nat)
  /-- ATOMIC (R213): cell, context. -/
  | atomic (cell tid : Nat)
  /-- BRANCH (R204): cell, context. -/
  | branch (cell tid : Nat)
  /-- JAL (R204): cell, context. -/
  | jal (cell tid : Nat)
  /-- JALR (R204): cell, context. -/
  | jalr (cell tid : Nat)
  /-- FENCE_ACQ (R184): cell, context. -/
  | fenceAcq (cell tid : Nat)
  /-- FENCE_REL (R184): cell, context. -/
  | fenceRel (cell tid : Nat)
  /-- FENCE_FULL (R184): cell, context. -/
  | fenceFull (cell tid : Nat)
  /-- EXIT (R165): cell, context. -/
  | exit (cell tid : Nat)
  /-- SPAWN (R164): cell, context. -/
  | spawn (cell tid : Nat)
  /-- BAR_CELL (R189): cell, context. -/
  | barCell (cell tid : Nat)
  /-- BRK (R228): cell, context. -/
  | brk (cell tid : Nat)
  /-- ERET (R234): cell, context. -/
  | eret (cell tid : Nat)
  /-- ERET_R (R234): cell, context. -/
  | eretR (cell tid : Nat)
  /-- RDSR (R215): cell, context. -/
  | rdsr (cell tid : Nat)
  /-- WRSR (R215): cell, context. -/
  | wrsr (cell tid : Nat)
  /-- VECTOR_INTEGER (R218): cell, context. -/
  | vectorInteger (cell tid : Nat)
  /-- VECTOR_FLOATING_POINT (R218): cell, context. -/
  | vectorFloatingPoint (cell tid : Nat)
  /-- VCVT (R219): cell, context. -/
  | vcvt (cell tid : Nat)
  /-- VECTOR_REDUCTION (R221): cell, context. -/
  | vectorReduction (cell tid : Nat)
  /-- SEND (R263): cell, context. -/
  | send (cell tid : Nat)
  /-- SEND_REL (R186): cell, context. -/
  | sendRel (cell tid : Nat)
  /-- SEND_CH (R283): cell, context. -/
  | sendCh (cell tid : Nat)
  /-- SEND_CH_REL (R283): cell, context. -/
  | sendChRel (cell tid : Nat)
  /-- CHAN_OPEN (R281): cell, context. -/
  | chanOpen (cell tid : Nat)
  /-- CHAN_CLOSE (R286): cell, context. -/
  | chanClose (cell tid : Nat)
  /-- TURN_WAIT (R275): cell, context. -/
  | turnWait (cell tid : Nat)
  /-- HRET (R279): cell, context. -/
  | hret (cell tid : Nat)
  /-- SUM_C (R223): cell, context. -/
  | sumC (cell tid : Nat)
  /-- SUM_W (R223): cell, context. -/
  | sumW (cell tid : Nat)
  /-- TALLY_CLAIM (R397): cell, context. -/
  | tallyClaim (cell tid : Nat)
  /-- TALLY_RELEASE (R398): cell, context. -/
  | tallyRelease (cell tid : Nat)
  /-- TALLY_INIT (R394): cell, context. -/
  | tallyInit (cell tid : Nat)
  /-- TALLY_FOLD (R394): cell, context. -/
  | tallyFold (cell tid : Nat)
  /-- TALLY_FEED (R393): cell, context. -/
  | tallyFeed (cell tid : Nat)
  /-- TALLY_RD (R396): cell, context. -/
  | tallyRd (cell tid : Nat)
  /-- TALLY_PERFORM (R395): cell. -/
  | tallyPerform (cell : Nat)
  /-- CHOIR_GO (R225): cell, context. -/
  | choirGo (cell tid : Nat)
  /-- CHOIR_PASS_START (R242): cell. -/
  | choirPassStart (cell : Nat)
  /-- CHOIR_PASS_END (R243): cell. -/
  | choirPassEnd (cell : Nat)
  /-- SLYPE_GO (R226): cell, context. -/
  | slypeGo (cell tid : Nat)
  /-- SLYPE_WAIT (R194): cell, context. -/
  | slypeWait (cell tid : Nat)
  /-- SLYPE_UNIT_ISSUE (R192): the slype engine of a cell, or the sacristy mover. -/
  | slypeUnitIssue (mover : Mover)
  /-- ILLEGAL_INSTRUCTION (R202): cell, context. -/
  | illegalInstruction (cell tid : Nat)
  /-- MEM_ERROR (R177): cell, context. -/
  | memError (cell tid : Nat)
  /-- MESSAGE_ARRIVAL (R272): cell whose oldest ejected message is placed. -/
  | messageArrival (cell : Nat)
  /-- RECORD_DISPATCH (R276): cell, T-index. -/
  | recordDispatch (cell turn : Nat)
  /-- AISLE_PACKET_ARRIVAL (R297): router, lane of travel, what the link did to the packet. -/
  | aislePacketArrival (cell : Nat) (dir : Dir) (damage : Damage)
  /-- OUTPUT_GRANT (R299): router, output. -/
  | outputGrant (cell : Nat) (out : Dir)
  /-- INJECTION_CLAIM (R300): router, output, gate or injection port. -/
  | injectionClaim (cell : Nat) (out : Dir) (gate : Bool)
  /-- AISLE_EJECTION (R301): router, the port whose packet is ejected. -/
  | aisleEjection (cell : Nat) (src : AisleSrc)
  /-- CAST_TRACKER_TIMEOUT (R315): cell, tracker 0-7. -/
  | castTrackerTimeout (cell index : Nat)
  /-- UNI_A_RETRANSMIT (R321): cell, index of the copy in the assured buffer. -/
  | uniARetransmit (cell index : Nat)
  /-- UNI_A_EXHAUSTED (R324): cell, index of the copy in the assured buffer. -/
  | uniAExhausted (cell index : Nat)
  /-- UNI_A_ACK (R359): cell whose oldest ejected system flit is an acknowledgement. -/
  | uniAAck (cell : Nat)
  /-- SUM_OPERAND_ARRIVAL (R346): router whose oldest ejected reduction operand enters a slot. -/
  | sumOperandArrival (cell : Nat)
  /-- SUM_COMBINE_DONE (R338): router, sum group. -/
  | sumCombineDone (cell group : Nat)
  /-- SUM_SLOT_TIMEOUT (R347): router, sum group. -/
  | sumSlotTimeout (cell group : Nat)
  /-- SUM_RELEASE_TOGGLE (R340): child router, sum group. -/
  | sumReleaseToggle (cell group : Nat)
  /-- SUM_RELEASE_WAIT_TIMEOUT (R340): child router, sum group. -/
  | sumReleaseWaitTimeout (cell group : Nat)
  /-- SUM_RESULT_ARRIVAL (R343): cell whose oldest arrived result is taken. -/
  | sumResultArrival (cell : Nat)
  /-- SUM_WAIT_TIMEOUT (R344): cell, waiting context. -/
  | sumWaitTimeout (cell tid : Nat)
  /-- CHANTRY_FLIT_ARRIVAL (R353): router, the lanes of travel on which a flit arrives in this cycle, those whose flit fails the hop check. -/
  | chantryFlitArrival (cell : Nat) (ins : List Dir) (bad : List Dir)
  /-- CHANTRY_INJECTION (R354): router. -/
  | chantryInjection (cell : Nat)
  /-- CHANTRY_HOLD (R361): router, and whether the cause is a starved injection port. -/
  | chantryHold (cell : Nat) (starved : Bool)
  /-- CHANNEL_OPEN (R282): receiving cell whose oldest ejected system flit is an open. -/
  | channelOpen (cell : Nat)
  /-- CHANNEL_OPEN_REPLY (R359): sending cell whose oldest ejected system flit is an open reply. -/
  | channelOpenReply (cell : Nat)
  /-- CHANNEL_CREDIT (R359): sending cell whose oldest ejected system flit is a credit. -/
  | channelCredit (cell : Nat)
  /-- CREDIT_REPEAT (R360): receiving cell, channel. -/
  | creditRepeat (cell chan : Nat)
  /-- OPEN_REPEAT (R360): sending cell, handle. -/
  | openRepeat (cell handle : Nat)
  /-- CHANNEL_OPEN_GIVE_UP (R360): sending cell, handle. -/
  | channelOpenGiveUp (cell handle : Nat)
  /-- AMB_FLIT_ARRIVAL (R378): the input, and the 16 header bytes it reads where they differ from those sent. -/
  | ambFlitArrival (at_ : AmbInput) (corrupt : Option (List Byte))
  /-- AMB_REQUEST_AT_TARGET (R385): target endpoint. -/
  | ambRequestAtTarget (ep : Nat)
  /-- COALESCE_ENTRY_EXPIRY (R255): controller, 2 KiB block. -/
  | coalesceEntryExpiry (m block : Nat)
  /-- AMB_RESPONSE (R380): initiator endpoint. -/
  | ambResponse (ep : Nat)
  /-- TRACKER_TIMEOUT (R381): initiator, tracker number. -/
  | trackerTimeout (owner : TrackerOwner) (txn : Nat)
  /-- AMB_CTRL_WRITE (R382): port, word written at 0xD00. -/
  | ambCtrlWrite (p : HPort) (value : BitVec 32)
  /-- BAY_FENCE (R389): bay. -/
  | bayFence (bay : Nat)
  /-- BAY_DRAINED (R389): bay. -/
  | bayDrained (bay : Nat)
  /-- BAY_DRAIN_FORCED (R390): bay. -/
  | bayDrainForced (bay : Nat)
  /-- FENCE_ACK (R389): bay. -/
  | fenceAck (bay : Nat)
  /-- BAY_POWER_ON_REQUEST (R391): bay. -/
  | bayPowerOnRequest (bay : Nat)
  /-- BAY_POWER_GOOD (R389): bay. -/
  | bayPowerGood (bay : Nat)
  /-- HBM_ACCESS_DONE (R411): controller, the on-die report, the controller's decode. -/
  | hbmAccessDone (m : Nat) (onDie : OnDie) (dec : EccDecode)
  /-- HBM_SCRUB (R414): controller, the on-die report, the controller's decode. -/
  | hbmScrub (m : Nat) (onDie : OnDie) (dec : EccDecode)
  /-- STACK_TEMP_SAMPLE (R416): stack, temperature in thousandths of a degree. -/
  | stackTempSample (m : Nat) (milliC : Int)
  /-- STACK_THERMAL_CHANGE (R416): stack. -/
  | stackThermalChange (m : Nat)
  /-- TRANSEPT_FRAME_RECEIVED (R432): port, the codeword as the FEC delivers it. -/
  | transeptFrameReceived (port : Nat) (rx : FrameRx)
  /-- REPLAY_TIMER (R433): port. -/
  | replayTimer (port : Nat)
  /-- REPLAY_EXHAUSTED (R433): port. -/
  | replayExhausted (port : Nat)
  /-- PEER_SILENT (R445): port. -/
  | peerSilent (port : Nat)
  /-- LANE_TRAINING_DONE (R437): port, lanes trained, lanes whose frames name another lane. -/
  | laneTrainingDone (port : Nat) (good wrong : BitVec 8)
  /-- LANE_LOSS (R440): port, lane. -/
  | laneLoss (port lane : Nat)
  /-- RESTRIPE_COMPLETE (R441): port. -/
  | restripeComplete (port : Nat)
  /-- LANE_RETRAIN_TIMER (R444): port. -/
  | laneRetrainTimer (port : Nat)
  /-- LANE_RETRAIN_DONE (R444): port, lane, success. -/
  | laneRetrainDone (port lane : Nat) (ok : Bool)
  /-- HELLO (R438): port and the body of the peer's HELLO. -/
  | hello (port : Nat) (asset : BitVec 64) (peerPort : Nat) (mask : BitVec 8)
  /-- OWNER (R446): port, owner the peer announces (0xFF none). -/
  | owner (port chapel : Nat)
  /-- LANE_DROP (R440): port, the peer's new mask. -/
  | laneDrop (port : Nat) (mask : BitVec 8)
  /-- LANE_RESTORE (R444): port, the peer's new mask. -/
  | laneRestore (port : Nat) (mask : BitVec 8)
  /-- LANE_RETRAIN (R444): port, lane. -/
  | laneRetrain (port lane : Nat)
  /-- DEPART (R465): port, the 32-byte body. -/
  | depart (port : Nat) (body : List Byte)
  /-- DOWN (R450): port, cause. -/
  | down (port cause : Nat)
  /-- UNKNOWN (R439): port, the value the peer refused. -/
  | unknown (port op : Nat)
  /-- CTRL_OP_REPEAT_EXPIRY (R439): port. -/
  | ctrlOpRepeatExpiry (port : Nat)
  /-- DEPARTURE_PAUSE_HARD (R465): chapel. -/
  | departurePauseHard (chapel : Nat)
  /-- INTERLOCK_SAMPLE (R489): the two channels as read on this TICK. -/
  | interlockSample (aOpen bOpen : Bool)
  /-- SMB_TAG_READ (R502): first block, count. -/
  | smbTagRead (first count : Nat)
  /-- SMB_TAG_WRITE (R502): first block, the bytes of whole blocks. -/
  | smbTagWrite (first : Nat) (data : List Byte)
  /-- KEY_SET (R498): the block written: port byte, key bytes. -/
  | keySet (bytes : List Byte)
  /-- KEY_CLEAR (R499): the block written: port byte. -/
  | keyClear (bytes : List Byte)
  /-- WIRE_ACCESS_BUSY (R507): the waiting access. -/
  | wireAccessBusy (who : WireAccess)
  /-- TAG_INVENTORY (R503): 16 or 1 slots, mask length, mask. -/
  | tagInventory (slots16 : Bool) (maskLen : Nat) (mask : BitVec 64)
  /-- STAY_QUIET (R503): addressed UID. -/
  | stayQuiet (uid : BitVec 64)
  /-- SELECT (R503): addressed UID. -/
  | select (uid : BitVec 64)
  /-- RESET_TO_READY (R503): addressing. -/
  | resetToReady (addr : TagAddr)
  /-- GET_SYSTEM_INFORMATION (R503): addressing. -/
  | getSystemInformation (addr : TagAddr)
  /-- READ_SINGLE_BLOCK (R503): addressing, option flag, block. -/
  | readSingleBlock (addr : TagAddr) (option : Bool) (block : Nat)
  /-- READ_MULTIPLE_BLOCKS (R503): addressing, option flag, first block, count. -/
  | readMultipleBlocks (addr : TagAddr) (option : Bool) (first count : Nat)
  /-- WRITE_SINGLE_BLOCK (R503): addressing, block, 32 bytes. -/
  | writeSingleBlock (addr : TagAddr) (block : Nat) (data : List Byte)
  /-- WRITE_MULTIPLE_BLOCKS (R503): addressing, first block, count, bytes. -/
  | writeMultipleBlocks (addr : TagAddr) (first count : Nat) (data : List Byte)
  /-- TAG_OTHER_COMMAND (R503): addressing, command code. -/
  | tagOtherCommand (addr : TagAddr) (code : Nat)
  /-- FIELD_DROP (R510): the note blocks a write was addressing. -/
  | fieldDrop (blocks : List Nat)
  /-- PING (R530): antenna index, 12-bit amplitude code. -/
  | ping (antenna code : Nat)
  /-- ANTENNA_FAULT_RETRY (R515): antenna index, transmitter current. -/
  | antennaFaultRetry (antenna milliAmp : Nat)
  /-- CARD_ANSWER (R518): what the card sent. -/
  | cardAnswer (ans : CardAnswer)
  /-- BANK_TAG_ANSWER (R518): what the bank's tags sent; whether buffer writes end without a PCIe error. -/
  | bankTagAnswer (ans : BankAnswer) (wrOk : Bool)
  /-- ANSWER_WINDOW_EXPIRY (R518): whether buffer writes end without a PCIe error. -/
  | answerWindowExpiry (wrOk : Bool)
  /-- RESEAL_TIMEOUT (R556): the 120 s timer (true) or the 30 s timer. -/
  | resealTimeout (total : Bool)
  /-- RAIL_LEAVES_TOLERANCE_IN_CRYPT (R59): rail group 2-5. -/
  | railLeavesToleranceInCrypt (group : Nat)
  /-- LANE_RESTORE_START (R444): port. -/
  | laneRestoreStart (port : Nat)
  /-- DATA_BUFFER_READ_COMPLETION (R106): command number and the buffer bytes (none: a PCIe error). -/
  | dataBufferReadCompletion (n : Nat) (data : Option (List Byte))
  /-- SCREEN_PARITY (R462): LOC (Table 17-7) of the router or target whose copy fails. -/
  | screenParity (loc : Nat)
  /-- BREW_SAMPLE_PERIOD (R543): the 96 modulator bits of each channel in the period. -/
  | brewSamplePeriod (bits0 bits1 bits2 : BitVec 96)
  /-- FIELD_TURN_ON (R512): antenna index, transmitter current. -/
  | fieldTurnOn (antenna milliAmp : Nat)
  /-- TRANSEPT_FRAME_SEND (R430): port. -/
  | transeptFrameSend (port : Nat)
  /-- CLK_LOSS (R31). -/
  | clkLoss
  /-- RAIL_LOSS (R59). -/
  | railLoss
  /-- PWRGD_MAIN_FALL (R40). -/
  | pwrgdMainFall
  /-- PWRGD_MAIN_RISE (R587). -/
  | pwrgdMainRise
  /-- PWRGD_AON_RISE (R39). -/
  | pwrgdAonRise
  /-- XTAL_CHECK_PASS (R577). -/
  | xtalCheckPass
  /-- XTAL_CHECK_FAIL (R581). -/
  | xtalCheckFail
  /-- CLOISTER_POR_COMPLETE (R577). -/
  | cloisterPorComplete
  /-- PWRGD_AON_FALL (R578). -/
  | pwrgdAonFall
  /-- MAIN_DOMAINS_STABLE (R42). -/
  | mainDomainsStable
  /-- PLL_LOCK (R30). -/
  | pllLock
  /-- CHANCEL_RESET_RELEASE (R42). -/
  | chancelResetRelease
  /-- PACKAGE_READY (R42). -/
  | packageReady
  /-- CRYPT_REACHED (R45). -/
  | cryptReached
  /-- SHED_HARD_GATE (R53). -/
  | shedHardGate
  /-- THERMAL_EVENT_POST (R67). -/
  | thermalEventPost
  /-- SCREEN_APPLY_COMPLETE (R152). -/
  | screenApplyComplete
  /-- PROPOSAL_EXPIRY (R149). -/
  | proposalExpiry
  /-- PORTS_FENCED (R462). -/
  | portsFenced
  /-- SACRISTY_LOCKSTEP (R471). -/
  | sacristyLockstep
  /-- CAPSULE_PERIODIC (R479). -/
  | capsulePeriodic
  /-- CAPSULE_TAG_WRITE (R504). -/
  | capsuleTagWrite
  /-- INTERLOCK_OPEN_DECLARED (R490). -/
  | interlockOpenDeclared
  /-- INTERLOCK_CLOSED_DECLARED (R490). -/
  | interlockClosedDeclared
  /-- INTERLOCK_DISCREPANCY_LATCH (R490). -/
  | interlockDiscrepancyLatch
  /-- ALERT_RESPONSE (R484). -/
  | alertResponse
  /-- SMB_TSTAMP_READ (R485). -/
  | smbTstampRead
  /-- TAG_COMMIT (R506). -/
  | tagCommit
  /-- FD_N_ASSERT (R505). -/
  | fdNAssert
  /-- FD_N_RELEASE (R505). -/
  | fdNRelease
  /-- FIELD_SETTLE (R512). -/
  | fieldSettle
  /-- WUPA_POLL (R520). -/
  | wupaPoll
  /-- CARD_HOLD_LIMIT (R519). -/
  | cardHoldLimit
  /-- DRIP_FRAME_END (R547). -/
  | dripFrameEnd
deriving DecidableEq, Repr

end Sys2Proof
end

