-- ==== Sys2Proof/Machine/Isa.lean ====
section
/-! DEFINITION. The cell's instruction words (R200-R203, Tables 07-1 to 07-16): fields, the instructions they spell, and
which words are ILLEGAL. A register operand is its number. -/

namespace Sys2Proof.Machine

/-- A decoded cell instruction. -/
inductive Ins where
  /-- Table 07-3, by FUNC -/
  | alu (func rd ra rb : Nat)
  /-- ADDI, ANDI, ORI, XORI, SLTI, SLTIU, by MAJOR - 2 -/
  | imm (k rd ra imm : Nat)
  /-- SHI: kind 0-3 SLL, SRL, SRA, ROR -/
  | shi (kind rd ra amount : Nat)
  | insk (rd h imm : Nat)
  /-- Table 07-4, by FUNC -/
  | mulDiv (func rd ra rb : Nat)
  /-- Table 07-5, by FUNC -/
  | fp (func rd ra rb : Nat)
  /-- width in bytes, sign extension -/
  | load (width : Nat) (signed : Bool) (rd ra off : Nat)
  | store (width rs ra off : Nat)
  | vld (vd ra off : Nat)
  | vst (vs ra off : Nat)
  | atomic (rd ra rb ord : Nat) (wide : Bool) (aop : Nat)
  /-- the six compares in MAJOR order -/
  | branch (k ra rb off : Nat)
  | jal (rd off : Nat)
  | jalr (rd ra imm : Nat)
  | fenceAcq
  | fenceRel
  | fenceFull
  | exit
  | spawn (rd ra rb : Nat)
  | barCell (rd ra : Nat)
  | brk
  | eret
  | eretR (ra : Nat)
  | rdsr (rd n : Nat)
  | wrsr (ra n : Nat)
  /-- Tables 07-10, 07-11, by FUNC -/
  | vint (func et vd va vb rs : Nat)
  | vfp (func et vd va vb rs : Nat)
  | vcvt (func et vd va p : Nat)
  | vred (func et va rs : Nat)
  /-- SEND, SEND.rel, SEND.ch, SEND.ch.rel -/
  | send (chan rel : Bool) (rl ra rb : Nat)
  | chanOpen (rd ra rb : Nat)
  | chanClose (ra : Nat)
  | turnWait (rd ra : Nat)
  | hret
  | sumC (rl ra rb : Nat)
  | sumW (rd ra rb : Nat)
  | tallyClaim (rd : Nat)
  | tallyRelease
  | tallyInit
  | tallyFold (ra : Nat)
  /-- TALLY.B, TALLY.H, TALLY.W: bytes fed -/
  | tallyFeed (bytes ra : Nat)
  | tallyRd (rd : Nat)
  | choirGo (rd ra : Nat)
  | slypeGo (rd ra rb rc eng : Nat)
  | slypeWait (rd eng : Nat)
deriving DecidableEq, Repr

/-- Bits [hi:lo] of a word. -/
def fld (w hi lo : Nat) : Nat := (w >>> lo) % 2 ^ (hi + 1 - lo)

/-- The special registers of Table 07-9. -/
def specials : List Nat :=
  [0x000, 0x001, 0x002, 0x003, 0x004, 0x005, 0x006, 0x007, 0x010, 0x011, 0x020, 0x021, 0x022, 0x023,
   0x030, 0x031, 0x032, 0x033]

/-- An instruction where `ok` holds. -/
def insIf (ok : Bool) (i : Ins) : Option Ins := if ok then some i else none

/-- MAJOR 0x01, 0x0A, 0x0B (R206-R211). -/
def decodeScalar (major rd ra rb func : Nat) : Option Ins :=
  if major = 0x01 then insIf (decide (func ≤ 0x19 ∧ (0x12 ≤ func → rb = 0))) (.alu func rd ra rb)
  else if major = 0x0A then insIf (decide (func ≤ 8)) (.mulDiv func rd ra rb)
  else insIf (decide (func ≤ 0xF ∧ ((func = 4 ∨ 0xA ≤ func) → rb = 0))) (.fp func rd ra rb)

/-- MAJOR 0x28 (Table 07-8). -/
def decodeSystem (rd ra rb func : Nat) : Option Ins :=
  let none3 := decide (rd = 0 ∧ ra = 0 ∧ rb = 0)
  match func with
  | 0x000 => insIf none3 .fenceAcq
  | 0x001 => insIf none3 .fenceRel
  | 0x002 => insIf none3 .fenceFull
  | 0x010 => insIf none3 .exit
  | 0x011 => some (.spawn rd ra rb)
  | 0x012 => insIf (decide (rb = 0)) (.barCell rd ra)
  | 0x018 => insIf none3 .brk
  | 0x020 => insIf none3 .eret
  | 0x021 => insIf (decide (rd = 0 ∧ rb = 0)) (.eretR ra)
  | _ => none

/-- MAJOR 0x38 (Table 07-14). -/
def decodeMessage (rd ra rb func : Nat) : Option Ins :=
  match func with
  | 0x000 => some (.send false false rd ra rb)
  | 0x001 => some (.send false true rd ra rb)
  | 0x002 => some (.send true false rd ra rb)
  | 0x003 => some (.send true true rd ra rb)
  | 0x010 => some (.chanOpen rd ra rb)
  | 0x011 => insIf (decide (rd = 0 ∧ rb = 0)) (.chanClose ra)
  | 0x020 => insIf (decide (rb = 0)) (.turnWait rd ra)
  | 0x021 => insIf (decide (rd = 0 ∧ ra = 0 ∧ rb = 0)) .hret
  | _ => none

/-- MAJOR 0x3A (Table 07-16). -/
def decodeTally (rd ra rb func : Nat) : Option Ins :=
  match func with
  | 0x000 => insIf (decide (ra = 0 ∧ rb = 0)) (.tallyClaim rd)
  | 0x001 => insIf (decide (rd = 0 ∧ ra = 0 ∧ rb = 0)) .tallyRelease
  | 0x002 => insIf (decide (rd = 0 ∧ ra = 0 ∧ rb = 0)) .tallyInit
  | 0x003 => insIf (decide (rd = 0 ∧ rb = 0)) (.tallyFold ra)
  | 0x004 => insIf (decide (rd = 0 ∧ rb = 0)) (.tallyFeed 1 ra)
  | 0x005 => insIf (decide (rd = 0 ∧ rb = 0)) (.tallyFeed 2 ra)
  | 0x006 => insIf (decide (rd = 0 ∧ rb = 0)) (.tallyFeed 4 ra)
  | 0x007 => insIf (decide (ra = 0 ∧ rb = 0)) (.tallyRd rd)
  | _ => none

/-- Format A (Table 07-2). -/
def decodeA (major w : Nat) : Option Ins :=
  let rd := fld w 25 21
  let ra := fld w 20 16
  let rb := fld w 15 11
  let func := fld w 10 0
  if major = 0x28 then decodeSystem rd ra rb func
  else if major = 0x38 then decodeMessage rd ra rb func
  else if major = 0x39 then
    if func = 0 then some (.sumC rd ra rb) else insIf (decide (func = 1)) (.sumW rd ra rb)
  else if major = 0x3A then decodeTally rd ra rb func
  else if major = 0x3B then insIf (decide (func = 0 ∧ rb = 0)) (.choirGo rd ra)
  else decodeScalar major rd ra rb func

/-- Format I (R207, R215). -/
def decodeI (major w : Nat) : Option Ins :=
  let rd := fld w 25 21
  let ra := fld w 20 16
  let imm := fld w 15 0
  match major with
  | 0x08 => insIf (decide (imm < 256)) (.shi (fld imm 7 6) rd ra (fld imm 5 0))
  | 0x09 => insIf (decide (ra < 4)) (.insk rd ra imm)
  | 0x27 => some (.jalr rd ra imm)
  | 0x29 => insIf (decide (ra = 0) && specials.contains imm) (.rdsr rd imm)
  | 0x2A => insIf (decide (rd = 0) && specials.contains imm) (.wrsr ra imm)
  | _ => some (.imm (major - 2) rd ra imm)

/-- Format M (R212). -/
def decodeM (major w : Nat) : Option Ins :=
  let rd := fld w 25 21
  let ra := fld w 20 16
  let off := fld w 15 0
  match major with
  | 0x10 => some (.load 1 true rd ra off)
  | 0x11 => some (.load 1 false rd ra off)
  | 0x12 => some (.load 2 true rd ra off)
  | 0x13 => some (.load 2 false rd ra off)
  | 0x14 => some (.load 4 true rd ra off)
  | 0x15 => some (.load 4 false rd ra off)
  | 0x16 => some (.load 8 false rd ra off)
  | 0x18 => some (.store 1 rd ra off)
  | 0x19 => some (.store 2 rd ra off)
  | 0x1A => some (.store 4 rd ra off)
  | 0x1B => some (.store 8 rd ra off)
  | 0x1C => insIf (decide (rd < 16)) (.vld rd ra off)
  | _ => insIf (decide (rd < 16)) (.vst rd ra off)

/-- Format AT (R213, Table 07-7). -/
def decodeAT (w : Nat) : Option Ins :=
  let aop := fld w 7 4
  let wide := decide (fld w 8 8 = 1)
  insIf (decide (fld w 3 0 = 0 ∧ aop ≤ 0xA) && !(decide (aop = 0xA) && wide))
    (.atomic (fld w 25 21) (fld w 20 16) (fld w 15 11) (fld w 10 9) wide aop)

/-- Format S (R226). -/
def decodeS (w : Nat) : Option Ins :=
  let ra := fld w 20 16
  let rb := fld w 15 11
  let rc := fld w 10 6
  if fld w 4 1 ≠ 0 then none
  else if fld w 0 0 = 0 then some (.slypeGo (fld w 25 21) ra rb rc (fld w 5 5))
  else insIf (decide (ra = 0 ∧ rb = 0 ∧ rc = 0)) (.slypeWait (fld w 25 21) (fld w 5 5))

/-- Vector integer (Table 07-10): the listed FUNC, and the fields the row marks unused. -/
def vintOk (func et vd va vb rs : Nat) : Bool :=
  decide (func ≤ 0x13 ∧ et ≤ 3) &&
    (if 0x05 ≤ func ∧ func ≤ 0x08 then decide (rs = 0)
     else if 0x0B ≤ func ∧ func ≤ 0x0D then decide (vb = 0)
     else if 0x0F ≤ func ∧ func ≤ 0x11 then decide (vd = 0)
     else if func = 0x12 then decide (va = 0 ∧ vb = 0)
     else if func = 0x13 then decide (vb = 0)
     else true)

/-- Vector floating point (Table 07-11). -/
def vfpOk (func et vd vb : Nat) : Bool :=
  decide (func ≤ 9 ∧ 4 ≤ et ∧ et ≤ 6) &&
    (if 6 ≤ func ∧ func ≤ 8 then decide (vd = 0) else if func = 9 then decide (vb = 0) else true)

/-- The factor of a listed VCVT pair, 0 for one not listed; narrowing pairs are FUNC 2-6 (Table 07-12). -/
def vcvtFactor (func et : Nat) : Nat :=
  match func with
  | 0 => if et = 6 then 1 else 0
  | 1 => if et = 2 then 1 else if et = 4 ∨ et = 5 then 2 else 0
  | 2 | 3 => if et = 6 then 2 else 0
  | 4 | 5 => if et = 6 then 4 else 0
  | 6 => if et = 2 then 4 else 0
  | 7 | 8 | 9 => if et = 0 then 4 else 0
  | _ => 0

/-- Format V (R217-R221). -/
def decodeV (major w : Nat) : Option Ins :=
  let vd := fld w 25 22
  let va := fld w 21 18
  let vb := fld w 17 14
  let et := fld w 13 11
  let func := fld w 10 5
  let rs := fld w 4 0
  match major with
  | 0x30 => insIf (vintOk func et vd va vb rs) (.vint func et vd va vb rs)
  | 0x31 => insIf (vfpOk func et vd vb) (.vfp func et vd va vb rs)
  | 0x32 => insIf (decide (vb < vcvtFactor func et ∧ rs = 0)) (.vcvt func et vd va vb)
  | _ => insIf (decide (func ≤ 2 ∧ et ≤ 6 ∧ vd = 0 ∧ vb = 0)) (.vred func et va rs)

/-- The instruction a word spells; none for a word that raises ILLEGAL (R202). -/
def decodeIns (w : Nat) : Option Ins :=
  let major := fld w 31 26
  if major = 0x01 ∨ major = 0x0A ∨ major = 0x0B ∨ major = 0x28 ∨ (0x38 ≤ major ∧ major ≤ 0x3B) then decodeA major w
  else if (2 ≤ major ∧ major ≤ 9) ∨ major = 0x27 ∨ major = 0x29 ∨ major = 0x2A then decodeI major w
  else if (0x10 ≤ major ∧ major ≤ 0x16) ∨ (0x18 ≤ major ∧ major ≤ 0x1D) then decodeM major w
  else if major = 0x1E then decodeAT w
  else if 0x20 ≤ major ∧ major ≤ 0x25 then
    some (.branch (major - 0x20) (fld w 25 21) (fld w 20 16) (fld w 15 0))
  else if major = 0x26 then some (.jal (fld w 25 21) (fld w 20 0))
  else if 0x30 ≤ major ∧ major ≤ 0x33 then decodeV major w
  else if major = 0x3C then decodeS w
  else none

/-- The rows of the command table that carry cell instructions. -/
inductive Row where
  | scalarAlu | immediateAlu | shi | insk | mulDiv | scalarFp | load | store | vld | vst | atomic | branch | jal | jalr
  | fenceAcq | fenceRel | fenceFull | exit | spawn | barCell | brk | eret | eretR | rdsr | wrsr
  | vectorInt | vectorFp | vcvt | vectorRed | send | sendRel | sendCh | sendChRel | chanOpen | chanClose | turnWait
  | hret | sumC | sumW | tallyClaim | tallyRelease | tallyInit | tallyFold | tallyFeed | tallyRd | choirGo | slypeGo
  | slypeWait
deriving DecidableEq, Repr

/-- The row an instruction belongs to. -/
def Ins.row : Ins → Row
  | .alu .. => .scalarAlu
  | .imm .. => .immediateAlu
  | .shi .. => .shi
  | .insk .. => .insk
  | .mulDiv .. => .mulDiv
  | .fp .. => .scalarFp
  | .load .. => .load
  | .store .. => .store
  | .vld .. => .vld
  | .vst .. => .vst
  | .atomic .. => .atomic
  | .branch .. => .branch
  | .jal .. => .jal
  | .jalr .. => .jalr
  | .fenceAcq => .fenceAcq
  | .fenceRel => .fenceRel
  | .fenceFull => .fenceFull
  | .exit => .exit
  | .spawn .. => .spawn
  | .barCell .. => .barCell
  | .brk => .brk
  | .eret => .eret
  | .eretR .. => .eretR
  | .rdsr .. => .rdsr
  | .wrsr .. => .wrsr
  | .vint .. => .vectorInt
  | .vfp .. => .vectorFp
  | .vcvt .. => .vcvt
  | .vred .. => .vectorRed
  | .send false false .. => .send
  | .send false true .. => .sendRel
  | .send true false .. => .sendCh
  | .send true true .. => .sendChRel
  | .chanOpen .. => .chanOpen
  | .chanClose .. => .chanClose
  | .turnWait .. => .turnWait
  | .hret => .hret
  | .sumC .. => .sumC
  | .sumW .. => .sumW
  | .tallyClaim .. => .tallyClaim
  | .tallyRelease => .tallyRelease
  | .tallyInit => .tallyInit
  | .tallyFold .. => .tallyFold
  | .tallyFeed .. => .tallyFeed
  | .tallyRd .. => .tallyRd
  | .choirGo .. => .choirGo
  | .slypeGo .. => .slypeGo
  | .slypeWait .. => .slypeWait

/-- The scalar registers an instruction reads (R162, R227). -/
def Ins.readsS : Ins → List Nat
  | .alu _ _ a b => [a, b]
  | .imm _ _ a _ => [a]
  | .shi _ _ a _ => [a]
  | .insk d _ _ => [d]
  | .mulDiv _ _ a b => [a, b]
  | .fp _ _ a b => [a, b]
  | .load _ _ _ a _ => [a]
  | .store _ s a _ => [s, a]
  | .vld _ a _ => [a]
  | .vst _ a _ => [a]
  | .atomic d a b _ _ aop => if aop = 9 then [d, a, b] else [a, b]
  | .branch _ a b _ => [a, b]
  | .jalr _ a _ => [a]
  | .spawn _ a b => [a, b]
  | .barCell _ a => [a]
  | .eretR a => [a]
  | .wrsr a _ => [a]
  | .vint f _ _ _ _ s => if (0x0B ≤ f ∧ f ≤ 0x0E) ∨ f = 0x12 ∨ f = 0x13 then [s] else []
  | .vfp f _ _ _ _ s => if f = 9 then [s] else []
  | .send _ _ l a b => [l, a, b]
  | .chanOpen _ a b => [a, b]
  | .chanClose a => [a]
  | .turnWait _ a => [a]
  | .hret => [28, 29]
  | .sumC l a b => [l, a, b]
  | .sumW _ a b => [a, b]
  | .tallyFold a => [a]
  | .tallyFeed _ a => [a]
  | .choirGo _ a => [a]
  | .slypeGo _ a b c _ => [a, b, c]
  | _ => []

/-- The vector registers an instruction reads. -/
def Ins.readsV : Ins → List Nat
  | .vst s _ _ => [s]
  | .vint f _ _ a b _ =>
    if (0x0B ≤ f ∧ f ≤ 0x0D) ∨ f = 0x13 then [a] else if f = 0x12 then [] else [a, b]
  | .vfp f _ d a b _ => if f = 3 then [d, a, b] else if f = 9 then [a] else [a, b]
  | .vcvt f _ d a _ => if 2 ≤ f ∧ f ≤ 6 then [d, a] else [a]
  | .vred _ _ a _ => [a]
  | _ => []

/-- The scalar register an instruction writes. -/
def Ins.writesS : Ins → Option Nat
  | .alu _ d _ _ | .imm _ d _ _ | .shi _ d _ _ | .insk d _ _ | .mulDiv _ d _ _ | .fp _ d _ _ => some d
  | .load _ _ d _ _ | .atomic d _ _ _ _ _ | .jal d _ | .jalr d _ _ | .spawn d _ _ | .barCell d _ | .rdsr d _ => some d
  | .vint f _ _ _ _ s => if 0x0F ≤ f ∧ f ≤ 0x11 then some s else none
  | .vfp f _ _ _ _ s => if 6 ≤ f ∧ f ≤ 8 then some s else none
  | .vred _ _ _ s => some s
  | .chanOpen d _ _ | .turnWait d _ | .sumW d _ _ | .tallyClaim d | .tallyRd d | .choirGo d _ => some d
  | .slypeGo d _ _ _ _ | .slypeWait d _ => some d
  | _ => none

/-- The vector register an instruction writes. -/
def Ins.writesV : Ins → Option Nat
  | .vld d _ _ => some d
  | .vint f _ d _ _ _ => if 0x0F ≤ f ∧ f ≤ 0x11 then none else some d
  | .vfp f _ d _ _ _ => if 6 ≤ f ∧ f ≤ 8 then none else some d
  | .vcvt _ _ d _ _ => some d
  | _ => none

end Sys2Proof.Machine
end

