-- ==== Sys2Proof/Config.lean ====
section
/-! DEFINITION. The free values: what the manual leaves open although the machine goes on. Each is an opaque
constant, so that nothing can be proved of a particular value; `State.freeCount` gives each draw its own number. -/

namespace Sys2Proof.Config

/-- A fresh byte the manual does not fix, one for each draw. -/
opaque freeByte : Nat → Byte

/-- A fresh word the manual does not fix, one for each draw. -/
opaque freeWord : Nat → Word

/-- A fresh natural number the manual does not fix, one for each draw. -/
opaque freeNat : Nat → Nat

/-- The byte at an offset of the message control block that is reserved for the cell (Table 09-2: contents undefined). -/
opaque reservedByte : Nat → Byte

/-- The row of a stack that holds an HBM address (R417 names rows; the manual gives no mapping of addresses to
them). -/
opaque hbmRow : Nat → Nat

/-- The output of the belfry's 31-tap half-band filter on the last 31 outputs of its decimator, newest first (R542
gives the filter's length, passband and rejection; the manual gives no coefficients). -/
opaque brewFir : List (BitVec 64) → BitVec 16

/-- The common logarithm of a binary32 value (R547: the manual rounds its products and sums, and states no rounding of
a logarithm). -/
opaque log10 : BitVec 32 → BitVec 32

/-- The chapel status mirror of a VF BAR (R89): what a chapel's state, fault policy, last fault class, last cause and
time of change read as there. The manual names the fields and gives no layout. -/
opaque vfMirror (state policy cls cause : Nat) (changed : BitVec 64) : List Byte

end Sys2Proof.Config
end

