-- ==== Sys2Proof/Machine/Table.lean ====
section
/-! DEFINITION. The two sparse containers of the state: tables from a number to a record, and byte memories.
Both are lists with strictly rising keys that list no entry equal to what an unlisted key reads as, so that equal
contents are equal data. -/

namespace Sys2Proof.Machine

/-- A table from numbers to records, in canonical form: rising keys, no entry equal to the default. -/
abbrev Tbl (α : Type) := List (Nat × α)

/-- The record at key `k`; `d` where the table lists none. -/
def tget {α : Type} (d : α) : Tbl α → Nat → α
  | [], _ => d
  | (k', v) :: t, k => if k = k' then v else tget d t k

/-- The table with key `k` removed. -/
def tdel {α : Type} : Tbl α → Nat → Tbl α
  | [], _ => []
  | (k', v) :: t, k => if k = k' then tdel t k else (k', v) :: tdel t k

/-- The table with `v` listed at key `k`, in its place in the rising order. -/
def tins {α : Type} : Tbl α → Nat → α → Tbl α
  | [], k, v => [(k, v)]
  | (k', v') :: t, k, v =>
    if k = k' then (k, v) :: t
    else if k < k' then (k, v) :: (k', v') :: t
    else (k', v') :: tins t k v

/-- The table whose record at `k` is `v`: a record equal to the default is not listed. -/
def tput {α : Type} [DecidableEq α] (d : α) (t : Tbl α) (k : Nat) (v : α) : Tbl α :=
  if v = d then tdel t k else tins t k v

/-- Every key of the table is above `b` and the keys rise. -/
def trising {α : Type} : Nat → Tbl α → Bool
  | _, [] => true
  | b, (k, _) :: t => decide (b ≤ k) && trising (k + 1) t

/-- The canonical form of a table with default `d`. -/
def Tbl.wf {α : Type} [DecidableEq α] (d : α) (t : Tbl α) : Bool :=
  trising 0 t && t.all (fun e => decide (e.2 ≠ d))

/-- A byte memory: the listed bytes, by address. -/
abbrev Memory := List Host.Cell

/-- What an unlisted byte reads as: zero (R178: CHAPEL_CREATE zeroes every byte of a cell store), but where the control
block is reserved for the cell, whose contents are undefined (Table 09-2). -/
def storeDefault (a : Nat) : Byte := if 0x7F580 ≤ a then Config.reservedByte a else 0#8

/-- The canonical form of a memory: rising addresses, and no byte listed that an unlisted one would read as. -/
def Memory.wf (m : Memory) : Bool := trising 0 m && m.all fun e => decide (e.2 ≠ storeDefault e.1)

/-- The byte at address `a`. -/
def Memory.read (m : Memory) (a : Nat) : Byte := tget (storeDefault a) m a

/-- The memory with byte `b` at address `a`. -/
def Memory.write (m : Memory) (a : Nat) (b : Byte) : Memory := tput (storeDefault a) m a b

/-- `n` bytes from address `a` upward. -/
def Memory.readBytes (m : Memory) (a : Nat) : Nat → List Byte
  | 0 => []
  | n + 1 => m.read a :: Memory.readBytes m (a + 1) n

/-- The memory with the bytes `bs` from address `a` upward. -/
def Memory.writeBytes (m : Memory) (a : Nat) : List Byte → Memory
  | [] => m
  | b :: bs => (m.write a b).writeBytes (a + 1) bs

/-- A memory in which a byte that nothing has written is told from one that holds zero (HBM, R408): every written
byte is listed, whatever it holds. -/
abbrev WrittenMemory := List Host.Cell

/-- The canonical form of a `WrittenMemory`: rising addresses. -/
def WrittenMemory.wf (m : WrittenMemory) : Bool := trising 0 m

/-- The byte at address `a`, none where nothing has written it. -/
def WrittenMemory.read? (m : WrittenMemory) (a : Nat) : Option Byte :=
  (m.find? (fun e => e.1 == a)).map Prod.snd

/-- The memory with byte `b` written at `a`. -/
def WrittenMemory.write (m : WrittenMemory) (a : Nat) (b : Byte) : WrittenMemory := tins m a b

/-- The memory with the bytes `bs` written from `a` upward. -/
def WrittenMemory.writeBytes (m : WrittenMemory) (a : Nat) : List Byte → WrittenMemory
  | [] => m
  | b :: bs => WrittenMemory.writeBytes (WrittenMemory.write m a b) (a + 1) bs

/-- A finite set of numbers as a rising list. -/
def setInsert (k : Nat) : List Nat → List Nat
  | [] => [k]
  | x :: xs => if k = x then x :: xs else if k < x then k :: x :: xs else x :: setInsert k xs

/-- The set without `k`. -/
def setErase (k : Nat) (xs : List Nat) : List Nat := xs.filter (fun x => x ≠ k)

end Sys2Proof.Machine
end

