-- ==== Sys2Proof/Machine/CellState.lean ====
section
/-! DEFINITION. The state of a cell: contexts, cell store, slype engines, choir, tally, turns, channels, the aisle
and chantry sides of its router, its sum slots and its ambulatory trackers (chapters 06-14). -/

namespace Sys2Proof.Machine

/-- Context states (Table 06-2). -/
inductive CtxMode where
  | free
  | ready
  | wait
  | stopped
deriving DecidableEq, Repr

/-- What a context in WAIT waits for (Table 06-2). Waits on a condition re-issue the instruction when it holds;
the others are ended by the event that writes the result. -/
inductive Waiting where
  | none
  /-- FENCE.REL or FENCE.FULL, passed already: every earlier access (R184) -/
  | accesses
  /-- a release before an operation, which issues again once every earlier access is complete (R184-R187, R192) -/
  | release
  /-- FENCE.ACQ, or the acquire after an atomic, passed already: every earlier load and atomic -/
  | loads
  /-- a free tracker (R379) -/
  | tracker
  /-- a slot of the choir queue (R225) -/
  | choirSlot
  /-- a slot of the tally queue (R395) -/
  | tallySlot
  /-- the aisle injection queue or the assured buffer (R306, R307) -/
  | aisleQueue
  /-- the chantry injection queue (R356) -/
  | chantryQueue
  /-- slype engine `eng` to be IDLE (R194) -/
  | slype (eng : Nat)
  /-- a record on a turn of the mask; rd of the TURN.WAIT (R275) -/
  | turn (mask : BitVec 8) (rd : Nat)
  /-- the barrier with this mask; rd (R189) -/
  | barrier (mask : BitVec 16) (rd : Nat)
  /-- a barrier while another one runs (R189) -/
  | barrierTurn
  /-- a SUM.W result; rd (R343) -/
  | sum (rd : Nat)
  /-- the answer to CHAN.OPEN on a handle; rd (R281) -/
  | chanOpen (handle rd : Nat)
  /-- a credit on a handle (R283) -/
  | chanCredit (handle : Nat)
  /-- every credit back on a handle (R286) -/
  | chanClose (handle : Nat)
  /-- EXIT: every outstanding access (R165), and the tally's queue (R398) -/
  | exit
deriving DecidableEq, Repr

/-- An error response waiting to be taken as MEM_ERROR (R177, R231). -/
structure MemErr where
  pc : BitVec 19
  addr : BitVec 48
  cause : Nat
deriving DecidableEq, Repr

/-- A thread context (Table 06-1). The scalar and vector registers are listed where nonzero; s0 is never listed. -/
structure Ctx where
  mode : CtxMode := .free
  waiting : Waiting := .none
  pc : BitVec 19 := 0#19
  s : Tbl Word := []
  v : Tbl VWord := []
  /-- chapel cycle count at which this thread's CYCLE was zero (R198) -/
  cycleBase : Nat := 0
  excVec : Word := 0#64
  excPc : Word := 0#64
  excCause : Word := 0#64
  excAddr : Word := 0#64
  /-- CHSTATE RESUMED (Table 06-3) -/
  resumed : Bool := false
  /-- scalar registers awaited (R162) -/
  awaits : List Nat := []
  /-- vector registers awaited (R162) -/
  awaitsV : List Nat := []
  /-- error responses not yet taken (R231), oldest first -/
  errors : List MemErr := []
  /-- a stop at the next safe point is asked for (R195) -/
  stopAsked : Bool := false
  /-- its next instruction has begun and waited: a MEM_ERROR is taken only after it -/
  begun : Bool := false
  /-- registers whose fixed latency may still run (R227): scalar r as r, vector v as 64 + v -/
  late : List Nat := []
deriving DecidableEq, Repr

/-- A context that holds no thread. -/
def Ctx.fresh : Ctx := {}

/-- Operations of the ambulatory (Table 13-6). -/
inductive AmbOp where
  | read
  | write
  | atomic
  | data
  | done
  | cfgWrite
  | cfgRead
  | cfgReply
  | fence
  | fenceAck
  | notice
deriving DecidableEq, Repr

/-- An ambulatory flit (Table 13-5): its header fields and its data bytes. -/
structure AmbFlit where
  vnet : Nat := 0
  prio : Nat := 0
  op : AmbOp := .read
  chapel : Nat := 255
  src : Nat := 0
  size : Nat := 0
  dest : Nat := 0
  aop : Nat := 0
  txn : Nat := 0
  epoch : Nat := 0
  addr : Nat := 0
  win : Nat := 127
  remote : Bool := false
  span : Nat := 0
  synth : Bool := false
  poison : Bool := false
  status : Nat := 0
  data : List Byte := []
  /-- TSTAMP when it arrived at the input that holds it (R377); the model's own -/
  arrived : Nat := 0
  /-- the spine it leaves its nave by: 0 none, 1 north, 2 south (R371); the model's own -/
  via : Nat := 0
deriving DecidableEq, Repr

/-- The place a response lands (R379). -/
inductive Landing where
  | none
  /-- scalar register, access width in bytes, sign extension -/
  | reg (rd width : Nat) (signed : Bool)
  | vreg (vd : Nat)
  /-- a slype unit: its index -/
  | unit (index : Nat)
  /-- a store -/
  | store
  /-- a request relayed for the peer of a Transept port: the original SRC, TXN, EPOCH and span slot -/
  | relay (src txn epoch span : Nat)
deriving DecidableEq, Repr

/-- A tracker (R379): free, held by an access not yet sent (R182), or outstanding. -/
structure Tracker where
  busy : Bool := false
  sent : Bool := false
  epoch : Nat := 0
  /-- issuing context (threads' trackers) -/
  tid : Nat := 0
  pc : BitVec 19 := 0#19
  /-- chapel address of the access (R177) -/
  addr : Nat := 0
  landing : Landing := .none
  /-- a load or an atomic (FENCE.ACQ, Table 06-5) -/
  isLoad : Bool := false
  /-- the request as sent, or to be sent -/
  req : AmbFlit := {}
  /-- order of issue in the holder -/
  order : Nat := 0
deriving DecidableEq, Repr

def Tracker.fresh : Tracker := {}

/-- A unit of 64 bytes in flight in a copy (R379): its index, its data once read, and the tracker it holds. -/
structure CopyUnit where
  index : Nat
  data : Option (List Byte)
  tracker : Option Nat
deriving DecidableEq, Repr

/-- A slype engine (R190-R194, Table 06-6). `mode` is 0 IDLE, 1 BUSY, 2 SUSPENDED. -/
structure Slype where
  status : Nat := 0
  mode : Nat := 0
  moved : Nat := 0
  err : Nat := 0
  src : Nat := 0
  /-- the destination register of SLYPE.GO, or the destination address of a SLYPE_COPY -/
  dst : Nat := 0
  len : Nat := 0
  /-- the number of the SLYPE_COPY it serves -/
  host : Option Nat := none
  /-- starting context -/
  tid : Nat := 0
  /-- next unit to issue -/
  nextUnit : Nat := 0
  /-- units issued and not ended; of a packet being gathered, those read or being read -/
  units : List CopyUnit := []
  /-- units complete beyond the first one that is not -/
  ended : List Nat := []
  /-- first unit and unit count of each UNI-A packet not yet acknowledged, by destination key·65536 + SEQ -/
  unacked : Tbl (Nat × Nat) := []
  /-- STATUS and address of the first unit that failed -/
  failed : Option (Nat × Nat) := none
  /-- next COPY_SEQ of the engine (R313) -/
  copySeq : Nat := 0
  trackers : Tbl Tracker := []
deriving DecidableEq, Repr

def Slype.fresh : Slype := {}

/-- A queued choir descriptor (R239): the 64 bytes, the issuing context and rd, and whether a store has hit its
operands since (R244). -/
structure ChoirJob where
  desc : List Byte
  tid : Nat
  rd : Nat
  spoiled : Bool
deriving DecidableEq, Repr

/-- The choir: the pass running and the queue (R225, R241). -/
structure Choir where
  running : Option ChoirJob := none
  queue : List ChoirJob := []
deriving DecidableEq, Repr

/-- A queued tally instruction (R395): INIT, FOLD or feed of bytes, or a read into rd. -/
inductive TallyOp where
  | init
  | fold (bytes : List Byte)
  | feed (bytes : List Byte)
  | rd (tid rd : Nat)
deriving DecidableEq, Repr

/-- The tally (R392-R399). -/
structure Tally where
  owner : Option Nat := none
  crc : BitVec 32 := 0xFFFFFFFF#32
  queue : List TallyOp := []
  /-- a release or the owner's EXIT waits for the queue (R398) -/
  releasing : Bool := false
deriving DecidableEq, Repr

/-- A record in a turn (R270). -/
structure Record where
  /-- own-store offset of the record -/
  offset : Nat
  /-- bytes it takes -/
  size : Nat
  /-- bytes it takes with the skipped remainder before it (R272) -/
  span : Nat
  header : List Byte
  spilled : Bool
  /-- channel number of a channel record -/
  chan : Option Nat
  /-- the context it was dispatched to -/
  taken : Option Nat
  retired : Bool
deriving DecidableEq, Repr

/-- A turn: its descriptor as HANDLER_LOAD gave it and its contents (Tables 09-4, 09-5). -/
structure Turn where
  ringBase : Nat := 0
  ringSize : Nat := 0
  spillBase : Nat := 0
  spillSize : Nat := 0
  chanBase : Nat := 0
  chanSize : Nat := 0
  spawn : Bool := false
  ringTail : Nat := 0
  ringHead : Nat := 0
  /-- bytes of the ring not free -/
  ringHeld : Nat := 0
  spillTail : Nat := 0
  spillHeld : Nat := 0
  spilledTotal : Nat := 0
  overflowed : Bool := false
  spillActive : Bool := false
  records : List Record := []
deriving DecidableEq, Repr

def Turn.fresh : Turn := {}

/-- A message as it leaves its network at the destination (R263): what the record header needs. -/
structure Message where
  len : Nat
  handler : Nat
  aisle : Bool
  /-- sender's global cell ID on its package -/
  src : Nat
  srcSpan : Nat
  turn : Nat
  tid : Nat
  tag : BitVec 32
  /-- channel number and CHSEQ of a channel message -/
  chan : Option (Nat × Nat)
  payload : List Byte
deriving DecidableEq, Repr

/-- The sending end of a channel (R281-R287). `phase`: 0 opening, 1 open, 2 closing, 3 closed. -/
structure ChanTx where
  phase : Nat := 3
  peer : Word := 0#64
  /-- TID of the CHAN.OPEN -/
  tid : Nat := 0
  maxLen : Nat := 0
  total : Nat := 0
  credits : Nat := 0
  nextSeq : Nat := 0
  /-- receiver's channel number -/
  chan : Nat := 0
  /-- messages sent, modulo 65,536 -/
  sent : Nat := 0
  /-- messages the receiver has retired, as its last credit says -/
  retired : Nat := 0
  repeats : Nat := 0
deriving DecidableEq, Repr

def ChanTx.fresh : ChanTx := {}

/-- The receiving end of a channel (R282, R284). -/
structure ChanRx where
  used : Bool := false
  src : Nat := 0
  srcSpan : Nat := 255
  handle : Nat := 0
  turn : Nat := 0
  handler : Nat := 0
  tag : BitVec 32 := 0#32
  base : Nat := 0
  slotSize : Nat := 0
  credits : Nat := 0
  /-- next CHSEQ to become deliverable -/
  next : Nat := 0
  /-- messages written to their slots and waiting for their predecessors -/
  early : List (Nat × Message) := []
  retired : Nat := 0
  /-- a credit has been sent since the last message arrived (R360) -/
  creditOut : Bool := false
deriving DecidableEq, Repr

def ChanRx.fresh : ChanRx := {}

/-- The running barrier of a cell (R189). -/
structure Barrier where
  mask : BitVec 16
  arrived : List Nat
deriving DecidableEq, Repr

/-- An aisle packet (Tables 10-2, 10-3, 11-5): header fields, payload and trailer. -/
structure AislePkt where
  cls : Nat := 0
  route : Nat := 0
  kind : Nat := 0
  chapel : Nat := 255
  dest : Nat := 0
  src : Nat := 0
  engine : Bool := false
  seq : Nat := 0
  units : Nat := 0
  resend : Bool := false
  remote : Bool := false
  span : Nat := 0
  srcSpan : Nat := 255
  tag : BitVec 32 := 0#32
  routeInfo : BitVec 64 := 0#64
  /-- bytes 24-31 -/
  kindBytes : List Byte := []
  /-- the sending thread of a message, which the header has no field for (log entry 22); 16 where it is not known -/
  tid : Nat := 16
  payload : List Byte := []
  check : BitVec 32 := 0#32
deriving DecidableEq, Repr

/-- A packet in a slot of a ring input, an injection queue or a gate port, with the outputs it has still to be sent
to and whether it is still to be ejected here (R291). -/
structure Slot where
  pkt : AislePkt
  outs : List Dir
  eject : Bool
deriving DecidableEq, Repr

/-- An unacknowledged UNI-A packet in the assured buffer (R307, R321). -/
structure UniCopy where
  pkt : AislePkt
  sends : Nat
deriving DecidableEq, Repr

/-- The receive window of one UNI-A source (R322). -/
structure RxWin where
  ne : Nat := 0
  bitmap : BitVec 64 := 0#64
deriving DecidableEq, Repr

def RxWin.fresh : RxWin := {}

/-- A cast tracker (R315). -/
structure CastTrk where
  src : Nat
  srcSpan : Nat
  engine : Bool
  copySeq : Nat
  lastIndex : Nat
  count : Nat
  notify : Bool
  turn : Nat
  handler : Nat
deriving DecidableEq, Repr

/-- A chantry flit (Table 12-1). -/
structure ChFlit where
  kind : Nat := 0
  remote : Bool := false
  channel : Bool := false
  chapel : Nat := 255
  dest : Nat := 0
  tid : Nat := 0
  src : Nat := 0
  turn : Nat := 0
  age : Nat := 0
  inj : Nat := 0
  span : Nat := 0
  srcSpan : Nat := 255
  len : Nat := 0
  handler : Nat := 0
  tag : BitVec 32 := 0#32
  payload : List Byte := []
deriving DecidableEq, Repr

/-- The aisle side of a cell's router (R289-R301). Lists of four stand for lanes e, w, s, n. -/
structure AisleNode where
  /-- slots of each ring input, by the lane of travel -/
  inE : List Slot := []
  inW : List Slot := []
  inS : List Slot := []
  inN : List Slot := []
  /-- packets on the link into each ring input -/
  linkE : List AislePkt := []
  linkW : List AislePkt := []
  linkS : List AislePkt := []
  linkN : List AislePkt := []
  /-- injection queue (R306), oldest first; resends first -/
  injQ : List Slot := []
  /-- admission stopped (R306) -/
  injHold : Bool := false
  /-- gate entry packets at chapel-relative cell 0 (R305) -/
  gateIn : List Slot := []
  /-- packets that left through the gate towards the Transept ports -/
  gateOut : List AislePkt := []
  /-- outputs the injection port, and the gate, have a claim on (R300) -/
  claimInj : List Dir := []
  claimGate : List Dir := []
  /-- packets that the router's sum slots have formed (R338) -/
  sumOut : List Slot := []
  /-- outputs whose last turning packet came from the westbound or the northbound lane (R299) -/
  lastTurn : List Dir := []
  /-- outputs for which the gate was served last (R299) -/
  lastGate : List Dir := []
deriving DecidableEq, Repr

/-- UNI-A, UNI-P and cast state of a cell (R307, R315, R321-R326). Keys: destinations span·4096 + cell with span 64
for this package; sources likewise with their SRC_SPAN. -/
structure UniState where
  assured : List UniCopy := []
  txSeq : Tbl Nat := []
  rx : Tbl RxWin := []
  pTx : Tbl Nat := []
  /-- previous UNI-P SEQ + 1 of each source -/
  pRx : Tbl Nat := []
  casts : List CastTrk := []
deriving DecidableEq, Repr

/-- The chantry side of a cell's router (R351-R361). -/
structure ChNode where
  linkE : List ChFlit := []
  linkW : List ChFlit := []
  linkS : List ChFlit := []
  linkN : List ChFlit := []
  /-- outputs, ejection port and gate exit taken in the router's present cycle -/
  taken : List Dir := []
  ejTaken : Bool := false
  exitTaken : Bool := false
  /-- SEND flits (R356) -/
  injQ : List ChFlit := []
  /-- the cell's system flits -/
  sysQ : List ChFlit := []
  injCount : Nat := 0
  /-- gate exit and entry of chapel-relative cell 0 (R357) -/
  gateOut : List ChFlit := []
  gateIn : List ChFlit := []
  lastGate : Bool := false
  /-- HOLD this router asserts for a flit of AGE 255, and for its own starved injection port (R361) -/
  holdAge : Bool := false
  holdOwn : Bool := false
deriving DecidableEq, Repr

/-- An operand in a sum slot (R334-R338). -/
structure SumOperand where
  /-- 0 CONTRIB, 1-4 IN_E, IN_W, IN_S, IN_N, 5 + s gate child of span slot s: the fold order of R336 -/
  input : Nat
  round : Nat
  slice : Nat
  count : Nat
  /-- binary32 or int32 elements -/
  elems : List (BitVec 32)
deriving DecidableEq, Repr

/-- The sum state of one group at one router (R340, R346). -/
structure SumInst where
  next : Option (Nat × Nat) := none
  operands : List SumOperand := []
  /-- inputs whose release toggle reads 1 (R340) -/
  toggles : List Nat := []
  /-- the parent's toggle as this router saw it last -/
  seen : Bool := false
  /-- this router has sent to its parent and waits for the toggle (R340) -/
  sentWaits : Bool := false
  /-- partial sums and FAILED packets formed while the parent's slot was not released -/
  ready : List AislePkt := []
deriving DecidableEq, Repr

def SumInst.fresh : SumInst := {}

/-- A posted SUM.W (R343). -/
structure SumWait where
  group : Nat
  round : Nat
  slice : Nat
  offset : Nat
  tid : Nat
deriving DecidableEq, Repr

/-- A sum result, delivered or in a landing buffer (R343); `failed` for a FAILED packet. -/
structure SumResult where
  group : Nat
  round : Nat
  slice : Nat
  failed : Bool
  cause : Nat
  count : Nat
  bytes : List Byte
deriving DecidableEq, Repr

/-- The sum side of a cell (chapter 11). -/
structure SumNode where
  insts : Tbl SumInst := []
  /-- reduction packets ejected and waiting to enter a slot -/
  inbox : List AislePkt := []
  /-- results waiting to be taken by the cell -/
  results : List SumResult := []
  posted : List SumWait := []
  landing : List SumResult := []
deriving DecidableEq, Repr

/-- A cell: everything of Table 01-2. -/
structure Cell where
  store : Memory := []
  ctxs : Tbl Ctx := []
  /-- the context that issued last (R159) -/
  lastTid : Nat := 15
  eng0 : Slype := {}
  eng1 : Slype := {}
  choir : Choir := {}
  tally : Tally := {}
  turns : Tbl Turn := []
  /-- contexts in TURN.WAIT, longest waiting first (R276) -/
  waiters : List Nat := []
  chanTx : Tbl ChanTx := []
  chanRx : Tbl ChanRx := []
  barrier : Option Barrier := none
  /-- messages ejected and not yet placed -/
  arrivals : List Message := []
  /-- system flits ejected and not yet consumed -/
  sysIn : List ChFlit := []
  aisle : AisleNode := {}
  uni : UniState := {}
  ch : ChNode := {}
  sum : SumNode := {}
  /-- the threads' trackers 0-127 -/
  trackers : Tbl Tracker := []
  /-- accesses issued so far (the order of trackers) -/
  issued : Nat := 0
deriving DecidableEq, Repr

def Cell.fresh : Cell := {}

end Sys2Proof.Machine
end

