-- ==== Sys2Proof/Machine/HostState.lean ====
section
/-! DEFINITION. The state of the host side: ports, rings, the command sequence, chapels, windows, lecterns, screens
and proposals (chapters 03, 04, 05, and the tables of 10 and 11 that the sacristy loads). -/

namespace Sys2Proof.Machine

/-- What a Febupor command names and holds (Table 04-7). -/
inductive Obj where
  | package
  | powerLimit
  | chapel (c : Nat)
  | bay (b : Nat)
  | port (p : Nat)
  | lectern (n : Nat)
  | screen
  | reader
  | belfry
  | tag
  | calStore
deriving DecidableEq, Repr

/-- What follows the posting of a completion: entry to IDLE (R44) or to CRYPT (R45). -/
inductive AfterPost where
  | nothing
  | enterIdle
  | enterCrypt
deriving DecidableEq, Repr

/-- A completion (Table 04-4) before its PHASE and SQ_HEAD are known. `slot` is the submission slot it answers. -/
structure Completion where
  slot : Nat := 0
  id : BitVec 32 := 0#32
  opcode : Nat := 0
  status : Nat := 0
  replayed : Bool := false
  written : Bool := false
  detail : Nat := 0
  /-- RESULT, bytes 16-31 -/
  result : List Byte := []
  after : AfterPost := .nothing
deriving DecidableEq, Repr

/-- An entry of a duplicate window (R110): the number of its command, the entry's bytes and, once it has one, its
completion. -/
structure DupEntry where
  n : Nat
  bytes : List Byte
  answer : Option Completion
deriving DecidableEq, Repr

/-- A submission and completion ring pair (Table 04-1, R98-R114). -/
structure Ring where
  sqBase : Nat := 0
  cqBase : Nat := 0
  enable : Bool := false
  log2 : Nat := 0
  sqHead : Nat := 0
  sqTail : Nat := 0
  cqHead : Nat := 0
  cqTail : Nat := 0
  /-- completion slots written and not yet freed by the host -/
  cqUsed : Nat := 0
  phase : Bool := true
  ringErr : BitVec 8 := 0#8
  armed : Bool := false
  dup : List DupEntry := []
  /-- completions waiting for a slot or for Bus Master Enable, oldest first (R100, R593) -/
  waiting : List Completion := []
  /-- submission slots answered or removed that SQ_HEAD has not passed (R101) -/
  passed : List Nat := []
deriving DecidableEq, Repr

def Ring.fresh : Ring := {}

/-- An event (Table 04-17) before its PHASE and SEQ are known. -/
structure Event where
  code : Nat
  chapel : Nat
  tstamp : BitVec 64
  /-- DETAIL, bytes 16-31 -/
  detail : List Byte
deriving DecidableEq, Repr

/-- The event ring of a port (Table 04-1a, R124-R127). -/
structure EventRing where
  base : Nat := 0
  enable : Bool := false
  log2 : Nat := 0
  head : Nat := 0
  tail : Nat := 0
  used : Nat := 0
  phase : Bool := true
  ringErr : BitVec 8 := 0#8
  armed : Bool := false
  seq : BitVec 32 := 0#32
  lost : Nat := 0
  /-- WAKE_REASON and class P FAULT events waiting (R125, R126) -/
  waiting : List Event := []
  /-- class P FAULT events posted since the last clearing (R126) -/
  pPosted : Nat := 0
  /-- the latest LINK_DEGRADED of a port whose event ring was disabled (R127) -/
  degraded : Option Event := none
deriving DecidableEq, Repr

/-- An MSI-X table entry (R85). -/
structure MsixEntry where
  addr : BitVec 64 := 0#64
  data : BitVec 32 := 0#32
  mask : Bool := true
deriving DecidableEq, Repr

def MsixEntry.fresh : MsixEntry := {}

/-- A posted write TLP not yet transmitted, and the request it serves (R592). -/
structure HostWrite where
  tag : Nat
  req : AmbFlit
deriving DecidableEq, Repr

/-- Link states of a host port. -/
inductive LinkState where
  | down
  | l0
  | l1
deriving DecidableEq, Repr

/-- A doorbell held before package-ready (R84): its offset, width and value. -/
structure HeldDoorbell where
  port : HPort
  offset : Nat
  size : Nat
  value : BitVec 64
deriving DecidableEq, Repr

/-- A host port (chapter 03). -/
structure HostPort where
  link : LinkState := .down
  rate : Nat := 0
  width : Nat := 0
  /-- Bus Master Enable and Memory Space Enable of the PF -/
  bme : Bool := false
  mse : Bool := false
  /-- VFs enabled, and the VFs (1-192) with BME, with MSE set -/
  vfs : Nat := 0
  vfBme : List Nat := []
  vfMse : List Nat := []
  rings : Tbl Ring := []
  er : EventRing := {}
  /-- MSI-X tables: PF vector v at key v; vector v of VF f at key 128·f + v -/
  msix : Tbl MsixEntry := []
  /-- pending bits, by the same keys -/
  msixPend : List Nat := []
  /-- outstanding reads by PCIe tag: the request each serves; of the mover, TXN is its tracker and ADDR its unit (R72) -/
  reads : Tbl AmbFlit := []
  /-- requests of chapels that have passed R385 and wait to be emitted (R375) -/
  reqs : List AmbFlit := []
  writes : List HostWrite := []
  nextWrite : Nat := 0
  /-- offset of the low half read last and the high half it latched (R566) -/
  latch : Option (Nat × BitVec 32) := none
deriving DecidableEq, Repr

/-- What a PCIe tag names that no request holds. -/
def noRead : AmbFlit := {}

/-- How far a Febupor command has come: accepted, reading its buffer, checked and waiting for its turn, executing
(R106, R115). -/
inductive Stage where
  | accepted
  | reading
  | ready
  | running
deriving DecidableEq, Repr

/-- A command of the package's command sequence (R81). -/
structure Cmd where
  n : Nat
  port : HPort
  ring : Nat
  slot : Nat
  /-- TSTAMP at its acceptance (R148) -/
  accepted : BitVec 64 := 0#64
  stage : Stage := .accepted
  /-- its entry's fetch is under way (R593) -/
  fetching : Bool := false
  entry : List Byte := []
  buf : List Byte := []
  /-- the objects it names (Table 04-7); those in `held` it holds while it runs -/
  objs : List Obj := []
  /-- objects that earlier commands of the sequence changed after this one's acceptance (R107) -/
  changed : List Obj := []
  /-- slots of the repeats that wait for its completion (R111) -/
  repeats : List Nat := []
  /-- its completion will be dropped (R92, R99) -/
  dropped : Bool := false
  /-- the plaintext of its envelope, once authenticated (R118) -/
  plain : List Byte := []
  /-- TSTAMP when it started -/
  started : BitVec 64 := 0#64
  /-- counts it reports: threads stopped, bytes moved -/
  count : Nat := 0
  count2 : Nat := 0
  /-- a retire that escalated (Table 04-10) -/
  escalated : Bool := false
deriving DecidableEq, Repr

/-- Chapel states in the order of Table 05-1. -/
inductive ChState where
  | empty
  | formed
  | running
  | paused
  | retiring
  | evicting
  | faulted
deriving DecidableEq, Repr

/-- The encoding of a chapel state (R478, Table 04-18). -/
def ChState.code : ChState → Nat
  | .empty => 0
  | .formed => 1
  | .running => 2
  | .paused => 3
  | .retiring => 4
  | .evicting => 5
  | .faulted => 6

/-- A mapped memory window (Table 04-12): KIND 1 HBM, 2 host H0, 3 host H1; 0 unmapped. -/
structure Window where
  kind : Nat := 0
  access : Nat := 0
  addr : Nat := 0
  base : Nat := 0
  size : Nat := 0
  /-- an unmap waits for its outstanding requests (Table 04-12) -/
  closing : Bool := false
deriving DecidableEq, Repr

def Window.fresh : Window := {}

/-- A loaded multicast group (R309, R310): its header fields and its entries by chapel-relative cell. -/
structure McastGroup where
  kind : Nat := 0
  dim : Nat := 0
  dir : Nat := 0
  root : Nat := 0
  copyMask : Nat := 0
  entries : Tbl Nat := []
deriving DecidableEq, Repr

def McastGroup.fresh : McastGroup := {}

/-- A loaded sum group (R332-R334): header fields and entries by chapel-relative cell. -/
structure SumGroup where
  kind : Nat := 0
  op : Nat := 0
  root : Nat := 0
  sliceBytes : Nat := 0
  slices : Nat := 0
  downGroup : Nat := 0
  slotTimeout : Nat := 0
  waitTimeout : Nat := 0
  gateChildren : BitVec 64 := 0#64
  gateParent : Nat := 255
  entries : Tbl Nat := []
deriving DecidableEq, Repr

def SumGroup.fresh : SumGroup := {}

/-- A chapel (R128-R132). -/
structure Chapel where
  state : ChState := .empty
  policy : Nat := 0
  pauseHard : Bool := false
  shedHard : Bool := false
  drained : Bool := false
  departed : Bool := false
  origin : Nat := 0
  width : Nat := 0
  height : Nat := 0
  /-- last fault class, 0xFF for none, and cause -/
  lastClass : Nat := 255
  lastCause : Nat := 0
  /-- the cause that made it FAULTED, 0 for none (R108, R458) -/
  firstK : Nat := 0
  changedAt : BitVec 64 := 0#64
  /-- CCLK cycles counted while RUNNING or RETIRING (R198) -/
  cycles : BitVec 48 := 0#48
  windows : Tbl Window := []
  mcast : Tbl McastGroup := []
  sums : Tbl SumGroup := []
  /-- a stop at safe points is under way: CHAPEL_PAUSE, shed or departure -/
  pausing : Bool := false
  /-- a class K THERM_TRIP while FORMED (R64) -/
  tripped : Bool := false
  /-- its departure pause runs (R465) -/
  departing : Bool := false
  /-- threads held by an interlock shed while RETIRING (Table 02-5a) -/
  shedHeld : Bool := false
deriving DecidableEq, Repr

def Chapel.fresh : Chapel := {}

/-- A chapel record of the screen (Table 05-4). -/
structure ChapelRec where
  valid : Bool := false
  origin : Nat := 0
  width : Nat := 0
  height : Nat := 0
  grant : Nat := 0
  hostPorts : Nat := 0
  transept : Nat := 0
deriving DecidableEq, Repr

def ChapelRec.fresh : ChapelRec := {}

/-- A port record of the screen (Table 05-5). -/
structure PortRec where
  owner : Nat := 255
  span : Nat := 0
  peer : Nat := 0
deriving DecidableEq, Repr

def PortRec.fresh : PortRec := {}

/-- The current screen (R139). -/
structure Screen where
  generation : BitVec 32 := 0#32
  chapels : Tbl ChapelRec := []
  ports : Tbl PortRec := []
deriving DecidableEq, Repr

/-- The kinds of proposal that share the pending slot (R148). -/
inductive ProposalKind where
  | screen
  | enrol
  | synthetic
deriving DecidableEq, Repr

/-- The pending proposal (R148): `image` holds the bytes SCREEN_READ returns (R142). -/
structure Proposal where
  id : BitVec 32
  kind : ProposalKind
  image : List Byte
  slot : Nat
  port : HPort
  expiry : Nat
  digest : List Byte
deriving DecidableEq, Repr

/-- A party slot's kind (R143). -/
inductive PartyKind where
  | host (p : HPort)
  | badge
deriving DecidableEq, Repr

/-- An enrolled party (R143): kind and 97-byte public key. -/
structure Party where
  kind : PartyKind
  key : List Byte
deriving DecidableEq, Repr

/-- A lectern (R252): defined or not, its HBM base and size. -/
structure Lectern where
  defined : Bool := false
  base : Nat := 0
  size : Nat := 0
deriving DecidableEq, Repr

def Lectern.fresh : Lectern := {}

/-- The Febupor side of the sacristy. -/
structure Febupor where
  /-- the number the next accepted entry takes -/
  nextCmd : Nat := 0
  /-- the command sequence: entries accepted and not yet completed, in order (R81) -/
  cmds : List Cmd := []
  heldBells : List HeldDoorbell := []
  screen : Screen := {}
  /-- the screen an approval is writing, current at SCREEN_APPLY_COMPLETE (R152) -/
  applying : Option (Nat × Screen) := none
  pending : Option Proposal := none
  /-- the last 16 expired PROPOSAL_IDs, newest first (R150) -/
  expired : List (BitVec 32) := []
  lecterns : Tbl Lectern := []
deriving DecidableEq, Repr

end Sys2Proof.Machine
end

