-- ==== Sys2Proof/Machine/CloisterState.lean ====
section
/-! DEFINITION. The state of the always-on side and of the package's own control: power, clocks, pins, wake
sequencer, interlock, calibration store, command keys, tag, sensors, limiter, shed, faults and capsule
(chapters 02, 17, 18). -/

namespace Sys2Proof.Machine

/-- Power states (Table 02-4). -/
inductive PowerState where
  | active
  | idle
  | crypt
  | off
deriving DecidableEq, Repr

/-- CLOISTER_STATUS.POWER (Table 18-3). -/
def PowerState.code : PowerState → Nat
  | .active => 0
  | .idle => 1
  | .crypt => 2
  | .off => 3

/-- The steps of main bring-up (Table 02-3): held, switches closing, PLL released, locked, chancel reset released,
firmware running, HBM complete, package-ready posted. -/
inductive Phase where
  | held
  | switches
  | pllReleased
  | locked
  | chancels
  | firmware
  | hbmDone
  | ready
deriving DecidableEq, Repr

/-- The order of the bring-up steps. -/
def Phase.rank : Phase → Nat
  | .held => 0
  | .switches => 1
  | .pllReleased => 2
  | .locked => 3
  | .chancels => 4
  | .firmware => 5
  | .hbmDone => 6
  | .ready => 7

/-- An entry of WAKE_REASONS (R487). -/
structure WakeEntry where
  source : Nat
  order : Nat
  count : Nat
  tstamp : BitVec 64
deriving DecidableEq, Repr

/-- Power, clocks and resets (chapter 02) and the wake sequencer (R486-R488). -/
structure Power where
  aonPg : Bool := false
  mainPg : Bool := false
  /-- the crystal check has passed -/
  xtal : Bool := false
  /-- the crystal check has failed (R581) -/
  xtalFailed : Bool := false
  /-- cloister power-on reset has completed -/
  porDone : Bool := false
  /-- PERST0_N, PERST1_N released -/
  perst0 : Bool := false
  perst1 : Bool := false
  phase : Phase := .held
  /-- the PLL is locked and CCLK, HCLK, PCLK and TSCLK run -/
  pll : Bool := false
  /-- main reset is held until PWRGD_MAIN falls (R585) -/
  lossHeld : Bool := false
  state : PowerState := .off
  /-- the CRYPT was requested (R45, R587) -/
  requested : Bool := false
  /-- entry to CRYPT is under way (R45) -/
  entering : Bool := false
  tstamp : BitVec 64 := 0#64
  /-- KCLK cycles since the PLL stopped (R32) -/
  k : Nat := 0
  limitW : Nat := 1200
  hbmKeep : Bool := false
  /-- HBM contents were lost in CRYPT (R59) -/
  hbmLost : Bool := false
  wakeEn0 : Bool := true
  wakeEn1 : Bool := true
  /-- WAKE0_N, WAKE1_N driven low (R95) -/
  wake0 : Bool := false
  wake1 : Bool := false
  /-- a wake waits for CRYPT to be reached or for PWRGD_MAIN (R48, R49) -/
  wakeHeld : Bool := false
  /-- recording of wake sources is on (R488) -/
  recording : Bool := false
  wakes : List WakeEntry := []
  /-- THERMTRIP_N driven low (R65) -/
  thermtrip : Bool := false
deriving DecidableEq, Repr

/-- Thermal states (Table 02-7), in the encoding of R67. -/
abbrev Thermal := Nat

/-- A junction sensor or stack: its state, the last samples (quarter degrees, newest first, at most 20), and its
state at the last THERMAL event (R62, R67). -/
structure Sensor where
  state : Thermal := 0
  samples : List Int := []
  reported : Thermal := 0
  /-- it changed state since the last THERMAL event -/
  moved : Bool := false
deriving DecidableEq, Repr

def Sensor.fresh : Sensor := {}

/-- The shed (R53-R55). -/
inductive Shed where
  | none
  | shedding
  | floor
deriving DecidableEq, Repr

/-- The limiter and the heat (R50-R67). -/
structure Heat where
  /-- issue rate in sixteenths (R51) -/
  rate : Nat := 16
  /-- samples of the last millisecond, newest first -/
  watts : List Nat := []
  shed : Shed := .none
  ackNeeded : Bool := false
  sensors : Tbl Sensor := []
  /-- TSTAMP of the last THERMAL event -/
  lastEvent : Option (BitVec 64) := none
deriving DecidableEq, Repr

/-- The interlock (R489-R492). `state`: 0 closed, 1 open, 2 discrepancy latched. -/
structure Interlock where
  aOpen : Bool := true
  bOpen : Bool := true
  bothOpen : Nat := 0
  bothClosed : Nat := 0
  /-- ticks of the disagreement run, and whether DISC_COUNT has it -/
  run : Nat := 0
  counted : Bool := false
  state : Nat := 1
  disc : Nat := 0
  /-- INTERLOCK values to post after bring-up (R491) -/
  owed : List Nat := []
deriving DecidableEq, Repr

/-- A log entry (Table 17-7). -/
structure LogEntry where
  tstamp : BitVec 64
  cls : Nat
  chapel : Nat
  cause : Nat
  loc : Nat
  repeated : Nat
  detail : List Byte
deriving DecidableEq, Repr

/-- The rate-limit record of one cause and LOC (R476): when it was logged last, and how many entries were suppressed
since. -/
structure Limit where
  last : Option (BitVec 64) := none
  suppressed : Nat := 0
deriving DecidableEq, Repr

def Limit.fresh : Limit := {}

/-- A departure under way (R462): DEPART has gone out with this class and cause, ports to be FENCED. -/
structure Departure where
  cls : Nat
  cause : Nat
  ports : List Nat
deriving DecidableEq, Repr

/-- Faults (chapter 17). -/
structure Faults where
  pkgFaulted : Bool := false
  halted : Bool := false
  pLatched : Bool := false
  pCause : Nat := 0
  kFaults : Nat := 0
  pTstamp : BitVec 64 := 0#64
  logN : List LogEntry := []
  logS : List LogEntry := []
  overN : Nat := 0
  overS : Nat := 0
  limits : Tbl Limit := []
  /-- the latest 44 class K and P entries, oldest first (Table 17-9) -/
  history : List LogEntry := []
  /-- TSTAMP of the last class K capsule (R479) -/
  lastK : Option (BitVec 64) := none
  departing : Option Departure := none
deriving DecidableEq, Repr

/-- The states of a calibration slot (R494). -/
inductive CalSt where
  | empty
  | valid
  | torn
deriving DecidableEq, Repr

/-- The Transept result of one port in a slot (Table 18-8). -/
structure CalPort where
  serial : BitVec 32 := 0#32
  mask : BitVec 8 := 0#8
deriving DecidableEq, Repr

def CalPort.fresh : CalPort := {}

/-- A calibration slot (R493): what Table 18-8 names but for the result bytes, which nothing reads back. -/
structure CalSlot where
  st : CalSt := .empty
  gen : Nat := 0
  rate : Nat := 0
  stackIds : List Nat := []
  ports : Tbl CalPort := []
deriving DecidableEq, Repr

/-- A store of calibration under way (R495): the target and what is written. -/
structure CalStore where
  toB : Bool
  slot : CalSlot
  /-- number of the SVC_CAL_STORE -/
  cmd : Nat
deriving DecidableEq, Repr

/-- What the cloister flash holds (R139, R494, R498, chapter 18): kept by every reset. -/
structure Flash where
  epoch : BitVec 32 := 0#32
  nextProposal : BitVec 32 := 1#32
  parties : Tbl (Option Party) := []
  slotA : CalSlot := {}
  slotB : CalSlot := {}
  keyH0 : Option (List Byte) := none
  keyH1 : Option (List Byte) := none
  /-- last accepted nonces (R119) -/
  nonceH0 : Nat := 0
  nonceH1 : Nat := 0
  capsuleGen : BitVec 32 := 0#32
  /-- the capsule source copy (Table 18-1) -/
  capsule : Option (List Byte) := none
  firmware : BitVec 32 := 0#32
  /-- by stack: the STACK_ID its lists belong to, its rows pending repair and its repaired rows (R417, R418) -/
  stackIds : Tbl Nat := []
  rowsPending : Tbl (List Nat) := []
  rowsRepaired : Tbl (List Nat) := []
  /-- ping baselines of the three antennas (R532) -/
  base0 : Option Nat := none
  base1 : Option Nat := none
  base2 : Option Nat := none
  /-- the belfry configuration image last accepted (R544) -/
  belfry : Option (List Byte) := none
deriving DecidableEq, Repr

/-- A tag write staged by the wire side and not yet committed (R506): first block and bytes; the number of the
SVC_TAG_WRITE behind it, none for an SMBus write. -/
structure Staged where
  first : Nat
  data : List Byte
  cmd : Option Nat
deriving DecidableEq, Repr

/-- Inventory states of the tag (R503). -/
inductive TagState where
  | ready
  | quiet
  | selected
deriving DecidableEq, Repr

/-- The reliquary tag (R501-R510). -/
structure Tag where
  /-- 256 blocks of 32 bytes in their storage; unlisted bytes are zero -/
  mem : Memory := []
  state : TagState := .ready
  /-- an outside field is present -/
  field : Bool := false
  /-- FD_N driven low -/
  fdLow : Bool := false
  /-- the current capsule is in the storage of blocks 128-191 -/
  swapped : Bool := false
  staged : List Staged := []
deriving DecidableEq, Repr

/-- The cloister (chapter 18). -/
structure Cloister where
  alertCause : BitVec 32 := 0#32
  alertEn : BitVec 32 := 0x7F#32
  wakeSrcEn : BitVec 32 := 7#32
  ilk : Interlock := {}
  calB : Bool := false
  calNone : Bool := true
  calInUse : Bool := false
  store : Option CalStore := none
  /-- a capsule is still to be written to the tag (R504) -/
  tagOwed : Bool := false
  tag : Tag := {}
deriving DecidableEq, Repr

end Sys2Proof.Machine
end

