-- ==== Sys2Proof/Machine/NetState.lean ====
section
/-! DEFINITION. The state of the package's shared networks and memories: the ambulatory, the HBM controllers and
stacks, and the Transept ports (chapters 08, 13, 15, 16). -/

namespace Sys2Proof.Machine

/-- States of a bay's power domain (Table 13-13). -/
inductive BayState where
  | on
  | draining
  | fenced
  | off
  | waking
deriving DecidableEq, Repr

/-- A bay's power domain (R389-R391), with the requests that wait for it. -/
structure Bay where
  st : BayState := .off
  offWanted : Bool := false
  onWanted : Bool := false
deriving DecidableEq, Repr

def Bay.fresh : Bay := {}

/-- An input of an ambulatory lane (R374): its six virtual channels, VNET·2 + VC, of up to eight flits, and the flits
on the link into it with their channel. -/
structure LaneIn where
  vcs : Tbl (List AmbFlit) := []
  link : List (Nat × AmbFlit) := []
deriving DecidableEq, Repr

def LaneIn.fresh : LaneIn := {}

/-- The aisle record of a bay (Table 10-9). -/
structure BayAisle where
  chkFail : Nat := 0
  resends : Nat := 0
  exhausted : Nat := 0
  duplicates : Nat := 0
  lastChkSrc : Nat := 0
  lastChkDest : Nat := 0
  lastResendDest : Nat := 0
  lastChkRoute : Nat := 0
  lastChkTstamp : BitVec 64 := 0#64
deriving DecidableEq, Repr

def BayAisle.fresh : BayAisle := {}

/-- What waits at an endpoint: flits to inject at its stop, and flits ejected to it. -/
structure EndQ where
  inject : List AmbFlit := []
  reqs : List AmbFlit := []
  rsps : List AmbFlit := []
deriving DecidableEq, Repr

def EndQ.fresh : EndQ := {}

/-- A chapel's HBM or host window or a lectern grant as the targets hold it (R385, R386): the window tables of the
targets, by chapel·64 + window. -/
structure TargetTables where
  windows : Tbl Window := []
  /-- lectern grants by chapel -/
  grants : Tbl Nat := []
  lecterns : Tbl Lectern := []
deriving DecidableEq, Repr

/-- The ambulatory (chapter 13). -/
structure Amb where
  timeoutUs : Nat := 100
  /-- inputs by lane and position -/
  lanes : Tbl LaneIn := []
  ends : Tbl EndQ := []
  bays : Tbl Bay := []
  targets : TargetTables := {}
  /-- the sacristy's mover (Table 04-12): the copy it runs, its direction (true: HBM to host) and port, and its
  trackers -/
  mover : Slype := {}
  moverOut : Bool := false
  moverPort : Nat := 0
deriving DecidableEq, Repr

/-- A request joined to a coalescing entry (R255): the request, and whether it opened the entry. -/
structure Joined where
  req : AmbFlit
  first : Bool
deriving DecidableEq, Repr

/-- A coalescing entry of a controller (R254-R258): its 2 KiB block, the TSTAMP it opened at, the bytes of the block
once its stack read has been done, whether it takes no more requests, and the requests waiting. -/
structure Coalesce where
  block : Nat
  opened : BitVec 64
  data : Option (List Byte) := none
  shut : Bool := false
  waiting : List Joined := []
deriving DecidableEq, Repr

/-- An access a controller has accepted: a request, or the stack read of a coalescing entry. -/
inductive HbmAccess where
  | req (f : AmbFlit)
  | block (b : Nat) (opened : BitVec 64)
deriving DecidableEq, Repr

/-- An HBM controller and what it keeps of its stack (chapter 15). -/
structure Stack where
  train : Nat := 0
  rate : Nat := 0
  spareMin : Nat := 0
  /-- TEMP, whole degrees -/
  temp : Nat := 0
  ce : Nat := 0
  ue : Nat := 0
  odeCorr : Nat := 0
  /-- accepted accesses in arrival order (R409) -/
  queue : List HbmAccess := []
  entries : List Coalesce := []
  blockReads : Nat := 0
  reqServed : Nat := 0
  reqCoalesced : Nat := 0
  blockErrors : Nat := 0
  /-- sectors corrected since the last bring-up, by row (R417) -/
  corrected : Tbl Nat := []
  /-- next sector of the background read (R414) -/
  scrub : Nat := 0
deriving DecidableEq, Repr

def Stack.fresh : Stack := {}

/-- The contents of the eight stacks, by package HBM address: the bytes written, the sectors with their POISON mark
set, and the rows that soft repair has filled with zeros (R408, R410, R418). -/
structure Hbm where
  mem : WrittenMemory := []
  poison : List Nat := []
  zeroRows : List Nat := []
deriving DecidableEq, Repr

/-- A control operation a port repeats until it is echoed (R439): its value, CTRL_ARG and body. -/
structure CtrlOp where
  op : Nat
  arg : Nat
  body : List Byte
deriving DecidableEq, Repr

/-- A request of this package forwarded to a peer (R383): what answers it if the link goes down. -/
structure Forward where
  used : Bool := false
  req : AmbFlit := {}
deriving DecidableEq, Repr

def Forward.fresh : Forward := {}

/-- The per-class state of a port's five streams A, C, Q, S, E (R427-R430). -/
structure Stream where
  /-- credits used, modulo 256 -/
  used : Nat := 0
  /-- CREDIT as received, modulo 256 -/
  recv : Nat := 0
  /-- CREDIT as sent, modulo 256 -/
  released : Nat := 0
  /-- credits the units received so far have taken, modulo 256 -/
  got : Nat := 0
  /-- bytes of a unit received in part -/
  part : List Byte := []
  /-- bytes of the unit being sent that are still to go -/
  sending : List Byte := []
  /-- whole units waiting to be sent, as bytes (classes Q, S, E) -/
  queue : List (List Byte) := []
deriving DecidableEq, Repr

def Stream.fresh : Stream := {}

/-- The counters of LINK_STATUS (Table 16-14). -/
structure LinkCounters where
  cwCorrected : Nat := 0
  cwUncorrectable : Nat := 0
  fcrcFail : Nat := 0
  nakSent : Nat := 0
  nakReceived : Nat := 0
  replayTimeouts : Nat := 0
  laneDrops : Nat := 0
  laneRestores : Nat := 0
  symbolErrors : Tbl Nat := []
  screenDiscards : Nat := 0
  protoDowns : Nat := 0
deriving DecidableEq, Repr

/-- A Transept port (chapter 16). `state`: Table 16-10. -/
structure TPort where
  state : Nat := 0
  /-- owner chapel and span slot by LINK_ASSIGN; 0xFF for none -/
  owner : Nat := 255
  span : Nat := 0
  /-- the owner the peer announces -/
  peerOwner : Nat := 255
  /-- active and trained lanes -/
  mask : BitVec 8 := 0#8
  trained : BitVec 8 := 0#8
  /-- lanes this side has in the set before HELLO (R437) -/
  good : BitVec 8 := 0#8
  peerMask : Option (BitVec 8) := none
  /-- lost lanes, how often each was lost, and those retired (R444) -/
  lost : List Nat := []
  losses : Tbl Nat := []
  retired : List Nat := []
  /-- lanes to be retrained, the one under way first -/
  retraining : List Nat := []
  /-- lanes retrained and waiting for a restore -/
  restorable : List Nat := []
  /-- the mask of a peer's LANE_RESTORE that waits for the first moment R444 allows -/
  restoreMask : Option (BitVec 8) := none
  lossClass : Nat := 255
  serial : Option Nat := none
  peerAsset : Nat := 0
  downCause : Nat := 0
  /-- traffic frames sent since link-up; FSEQ is this modulo 4,096 -/
  txSeq : Nat := 0
  /-- FSEQ expected -/
  rxSeq : Nat := 0
  ackValid : Bool := false
  /-- NAK is to be set in the next frame; none may be set before the next acceptance or 2 µs (R432) -/
  nakDue : Bool := false
  nakAt : Option (BitVec 64) := none
  /-- traffic frames sent and unacknowledged, oldest first -/
  replay : List Frame := []
  /-- of these, how many are still to be sent again (R433) -/
  resend : Nat := 0
  /-- consecutive replays of the oldest frame -/
  replays : Nat := 0
  a : Stream := {}
  c : Stream := {}
  q : Stream := {}
  s : Stream := {}
  e : Stream := {}
  /-- place in the rotation C, S, E, Q, A of the class that takes the next block -/
  rot : Nat := 0
  ctrl : Option CtrlOp := none
  ctrlQueue : List CtrlOp := []
  /-- last CTRL_OP received (ECHO_OP), and its CTRL_ARG and body while the peer repeats it -/
  echo : Nat := 0
  lastCtrl : Option (Nat × List Byte) := none
  /-- consecutive codewords with 8 or more symbol errors, by lane (R440) -/
  badRuns : Tbl Nat := []
  /-- lanes whose loss waits for the restripe under way (R443) -/
  waitingLosses : List Nat := []
  /-- TSTAMP of the last restripe's end -/
  lastRestripe : Option (BitVec 64) := none
  changedAt : BitVec 64 := 0#64
  counters : LinkCounters := {}
  /-- relay trackers (R384) -/
  trackers : Tbl Tracker := []
  /-- requests of the peer that wait for a relay tracker -/
  relayWait : List AmbFlit := []
  forwards : Tbl Forward := []
  /-- it was held in IDLE and retrains (R47) -/
  heldState : Bool := false
deriving DecidableEq, Repr

def TPort.fresh : TPort := {}

end Sys2Proof.Machine
end

