-- ==== Sys2Proof/Machine/RadioState.lean ====
section
/-! DEFINITION. The state of the gatehouse reader and of the belfry (chapters 19, 20). -/

namespace Sys2Proof.Machine

/-! ### The gatehouse -/

/-- What the reader waits for on ANT_BADGE while a badge approval runs (Table 05-8, R517-R521). -/
inductive CardStage where
  /-- no card is active: the next WUPA is due -/
  | polling
  /-- WUPA sent -/
  | atqa
  /-- anticollision and SELECT of a cascade level -/
  | select
  | rats
  | pps
  /-- SELECT by name sent (step 1) -/
  | byName
  /-- INTERNAL AUTHENTICATE sent (step 2) -/
  | authenticate
  /-- DESELECT sent after a signature (step 3) -/
  | deselect
deriving DecidableEq, Repr

/-- A badge approval that runs (R154, R155): its command, the party's slot, the card it deals with. -/
structure BadgeRun where
  cmd : Nat
  slot : Nat
  stage : CardStage := .polling
  /-- UID bytes of the card so far -/
  uid : List Byte := []
  /-- UIDs not to be selected again in this approval (R521) -/
  barred : List (List Byte) := []
  /-- bit rate in kbit/s (R517) -/
  rate : Nat := 106
  /-- bytes of a chained answer -/
  answer : List Byte := []
  /-- repeats of the present request -/
  tries : Nat := 0
  signature : List Byte := []
deriving DecidableEq, Repr

/-- What a SVC_GATEHOUSE_OP exchange waits for (R516, R524, R527, R528). -/
inductive TagStage where
  /-- the sixteen slots of the round with this mask -/
  | inventory (maskLen mask : Nat)
  | systemInfo
  | read
  | write
deriving DecidableEq, Repr

/-- A SVC_GATEHOUSE_OP of OP 0 to 2 that runs. -/
structure ReaderOp where
  cmd : Nat
  op : Nat
  bank : Nat
  uid : Nat
  first : Nat
  count : Nat
  stage : TagStage
  /-- rounds still to search, lowest slot first (R524): mask lengths and masks -/
  rounds : List (Nat × Nat) := []
  found : List Nat := []
  blockSize : Nat := 4
  /-- blocks whose writes the tag confirmed -/
  moved : Nat := 0
  /-- repeats of the present request -/
  tries : Nat := 0
deriving DecidableEq, Repr

/-- An OP 3 that runs (R532): its command, whether the WUPA has gone unanswered, and the codes by antenna. -/
structure BaselineRun where
  cmd : Nat
  polled : Bool := false
  codes : Tbl (List Nat) := []
deriving DecidableEq, Repr

/-- The gatehouse (R511-R538). -/
structure Gatehouse where
  /-- GH_ANTSEL; 3: transmitter off -/
  antsel : Nat := 3
  field : Bool := false
  /-- the wait after the field came on is over (R512) -/
  settled : Bool := false
  antFault : BitVec 3 := 0#3
  pingEn : BitVec 3 := 1#3
  threshold : BitVec 8 := 48#8
  pings : Nat := 0
  lastPing : Nat := 0
  detects : Nat := 0
  falseDetects : Nat := 0
  protoErrors : Nat := 0
  writeRetries : Nat := 0
  base0 : Option Nat := none
  base1 : Option Nat := none
  base2 : Option Nat := none
  /-- a detuning ping on this antenna waits for its confirmation (R531) -/
  confirming : Option Nat := none
  /-- repeats of a WUPA sent outside an approval -/
  tries : Nat := 0
  /-- antennas that give no detect until a ping falls within THRESHOLD (R531) -/
  spent : List Nat := []
  /-- banks with a sweep in progress, the first of them under way (R523) -/
  sweeping : List Nat := []
  /-- the tags of the latest sweep, by bank (R523) -/
  banks : Tbl (List BankTag) := []
  approval : Option BadgeRun := none
  op : Option ReaderOp := none
  baseline : Option BaselineRun := none
deriving DecidableEq, Repr

/-- The transmitter is off (R511, R512). -/
def Gatehouse.off (g : Gatehouse) : Gatehouse := { g with antsel := 3, field := false, settled := false, tries := 0 }

/-- The users that act for the hosts are gone; a sweep or the confirmation of a ping goes on. -/
def Gatehouse.dropUsers (g : Gatehouse) : Gatehouse :=
  let h := { g with approval := none, op := none, baseline := none }
  if g.sweeping.isEmpty && g.confirming.isNone then h.off else h

/-! ### The belfry -/

/-- A CIC decimator of order five: five integrators and five comb delays, modulo 2^64 (R542). -/
structure Cic where
  integ : List (BitVec 64) := List.replicate 5 0#64
  comb : List (BitVec 64) := List.replicate 5 0#64
deriving DecidableEq, Repr

/-- An IMA ADPCM encoder: predictor and step index, those before the block's first sample, and the block's codes so
far (R554). -/
structure Adpcm where
  pred : Int := 0
  step : Nat := 0
  headPred : Int := 0
  headStep : Nat := 0
  codes : List Nat := []
deriving DecidableEq, Repr

/-- A belfry channel: its two decimators, the outputs the half-band filter still needs, newest first, the drip
samples of the frame under way, in order, and its encoder (R542, R553). -/
structure Channel where
  drip : Cic := {}
  brew : Cic := {}
  taps : List (BitVec 64) := []
  frame : List Int := []
  adpcm : Adpcm := {}
deriving DecidableEq, Repr

def Channel.fresh : Channel := {}

/-- A pattern's detector (R549): armed, matches of the last frames, newest first, and consecutive frames without a
match since it woke. -/
structure PatState where
  armed : Bool := false
  hist : List Bool := []
  quiet : Nat := 0
deriving DecidableEq, Repr

def PatState.fresh : PatState := {}

/-- A drip frame to be decided: its number and the samples of the three channels (R547, R550); a configuration that
takes effect at the boundary behind it (R546). -/
structure FrameDue where
  number : Nat
  samples : List (List Int)
  cfg : Option (List Byte)
deriving DecidableEq, Repr

/-- The belfry (R539-R563). -/
structure Belfry where
  /-- the configuration in force, 80 bytes; empty until one is accepted (R546) -/
  cfg : List Byte := []
  /-- an accepted configuration that waits for the next frame boundary -/
  next : Option (List Byte) := none
  /-- frames still excluded from detection -/
  excluded : Nat := 0
  /-- LIVE: the next INDEX to be written (R543) -/
  live : Nat := 0
  channels : Tbl Channel := []
  due : Option FrameDue := none
  patterns : Tbl PatState := []
  /-- brew history by INDEX: the three samples -/
  brew : Tbl (List (BitVec 16)) := []
  /-- ADPCM history by block: 396 bytes -/
  blocks : Tbl (List Byte) := []
  sealed : Bool := true
  synthetic : Bool := false
  wakeIndex : Nat := 0
  wakes : Nat := 0
  lastPattern : Nat := 0
  lastSynthetic : Bool := false
deriving DecidableEq, Repr

end Sys2Proof.Machine
end

