-- ==== Sys2Proof/Machine/State.lean ====
section
/-! DEFINITION. The state of one package, its reset, and the reasons a step can stop. -/

namespace Sys2Proof.Machine

/-- What a command puts on the outside of the package. -/
inductive Emission where
  /-- a posted write TLP: port, function (0 the PF, c + 1 the VF of chapel c), host address, bytes (R88, R104) -/
  | memWrite (p : HPort) (fn addr : Nat) (data : List Byte)
  /-- a read TLP: port, function, host address, bytes, tag -/
  | memRead (p : HPort) (fn addr len tag : Nat)
  /-- an MSI-X message (R86, R87) -/
  | msix (p : HPort) (fn vector : Nat)
  /-- the value a register read returns -/
  | readData (value : BitVec 64)
  /-- a completion with status Unsupported Request (R74) -/
  | unsupported (p : HPort)
  /-- the answer of the SMBus target -/
  | smbus (data : List Byte)
  /-- a NACK of the SMBus target (R484) -/
  | smbusNack
  /-- the answer of the reliquary tag to a reader's frame -/
  | tagAnswer (data : List Byte)
  /-- what the reader sends: antenna index and the bytes a frame carries between its framing and its CRC (chapter 19) -/
  | radio (antenna : Nat) (data : List Byte)
  /-- a frame a Transept port sends (R425) -/
  | frame (port : Nat) (f : Frame)
deriving DecidableEq, Repr

/-- The package. -/
structure State where
  /-- commands that wait, first in, first out -/
  pending : List Instr := []
  /-- what the latest command that took effect put outside -/
  emitted : List Emission := []
  /-- free values drawn so far; the model's own -/
  freeCount : Nat := 0
  /-- idle steps so far; the model's own -/
  now : Nat := 0
  pw : Power := {}
  heat : Heat := {}
  flt : Faults := {}
  clo : Cloister := {}
  flash : Flash := {}
  h0 : HostPort := {}
  h1 : HostPort := {}
  feb : Febupor := {}
  chapels : Tbl Chapel := []
  cells : Tbl Cell := []
  amb : Amb := {}
  /-- the aisle records of the bays (R328) -/
  aisleBays : Tbl BayAisle := []
  hbmStacks : Tbl Stack := []
  hbm : Hbm := {}
  links : Tbl TPort := []
  gate : Gatehouse := {}
  bel : Belfry := {}
deriving DecidableEq, Repr

/-- Reasons for which the machine stops. None of the spec's behaviours stops this block: the type has one
constructor so that the interface has a fault type, and no meaning raises it. -/
inductive Fault where
  /-- raised by nothing; safe -/
  | stopped
deriving DecidableEq, Repr

/-- Reasons for which a command has no meaning. -/
inductive Refusal where
  /-- raised by a dispatch arm whose command has no meaning yet; safe: the run stops -/
  | notModelled (mnemonic : String)
deriving DecidableEq, Repr

/-- The package before its cloister supply first rises (OFF, R43): every field at the value the spec gives for
reset, or at the value a log entry names. -/
def State.reset : State := {}

end Sys2Proof.Machine
end

