-- ==== Sys2Proof/Machine/Ops.lean ====
section
/-! DEFINITION. The named operations over the state: the outcome of a command, byte strings, access to the parts of
the state, and the geometry of naves, bays and chapels (R1, R13-R15, R168). -/

namespace Sys2Proof.Machine

/-- The outcome of a command. -/
abbrev Res := Host.Outcome State Fault Refusal

/-- A command whose event can happen in `s` (its precondition `c` holds) has its effect `k` on the state with the
last command's emissions gone; one whose event cannot happen leaves the state as it is (log entry 2). -/
def possible (c : Bool) (s : State) (k : State → State) : Res :=
  .next (if c then k { s with emitted := [] } else s)

/-- `f` where `c` holds, else the state as it is. -/
def State.when (s : State) (c : Bool) (f : State → State) : State := if c then f s else s

/-- The state with one more thing put outside. -/
def State.emit (s : State) (e : Emission) : State := { s with emitted := s.emitted ++ [e] }

/-! ### Byte strings (R1) -/

/-- The low `n` bytes of `v`, lowest first. -/
def le : Nat → Nat → List Byte
  | 0, _ => []
  | n + 1, v => BitVec.ofNat 8 v :: le n (v / 256)

/-- The number little-endian bytes spell. -/
def leNat : List Byte → Nat
  | [] => 0
  | b :: bs => b.toNat + 256 * leNat bs

/-- The number big-endian bytes spell. -/
def beNat (bs : List Byte) : Nat := leNat bs.reverse

/-- `n` bytes of `bs` from offset `off`; zeros past the end. -/
def sliceB (bs : List Byte) (off n : Nat) : List Byte :=
  let t := (bs.drop off).take n
  t ++ List.replicate (n - t.length) 0#8

/-- The little-endian field of `n` bytes at `off`. -/
def fieldN (bs : List Byte) (off n : Nat) : Nat := leNat (sliceB bs off n)

/-- The byte at `off`, zero past the end. -/
def byteAt (bs : List Byte) (off : Nat) : Byte := bs.getD off 0#8

/-- `bs` with the bytes `v` written over it from `off`. -/
def patch (bs : List Byte) (off : Nat) (v : List Byte) : List Byte :=
  bs.take off ++ v ++ bs.drop (off + v.length)

/-- `bs` cut or padded with zeros to `n` bytes. -/
def padTo (n : Nat) (bs : List Byte) : List Byte := sliceB bs 0 n

/-- `n` zero bytes. -/
def zeros (n : Nat) : List Byte := List.replicate n 0#8

/-- Bits [hi:lo] of `v`. -/
def bitsN (v hi lo : Nat) : Nat := (v >>> lo) % 2 ^ (hi + 1 - lo)

/-- Bit `i` of `v` (R2). -/
def bitN (v i : Nat) : Bool := v.testBit i

/-- The offset of the first byte at or after `off` that is not zero and whose offset satisfies `p`. -/
def firstNonzero (p : Nat → Bool) : Nat → List Byte → Option Nat
  | _, [] => none
  | off, b :: bs => if p off && b != 0#8 then some off else firstNonzero p (off + 1) bs

/-- The offset of the first byte in which two byte strings differ. -/
def firstDiff : Nat → List Byte → List Byte → Option Nat
  | _, [], [] => none
  | off, a :: as, b :: bs => if a = b then firstDiff (off + 1) as bs else some off
  | off, _, _ => some off

/-- `v + 1`, saturating at `top`. -/
def satInc (top v : Nat) : Nat := if v < top then v + 1 else top

/-! ### Parts of the state -/

/-- The state of host port `p`. -/
def State.hp (s : State) : HPort → HostPort
  | .h0 => s.h0
  | .h1 => s.h1

/-- The state with host port `p` changed by `f`. -/
def State.modHp (s : State) (p : HPort) (f : HostPort → HostPort) : State :=
  match p with
  | .h0 => { s with h0 := f s.h0 }
  | .h1 => { s with h1 := f s.h1 }

/-- 0 for H0, 1 for H1. -/
def portIx : HPort → Nat
  | .h0 => 0
  | .h1 => 1

/-- The host port with index 0 or 1. -/
def portOf (n : Nat) : HPort := if n = 0 then .h0 else .h1

/-- Both ports. -/
def bothPorts : List HPort := [.h0, .h1]

/-- Ring `i` of port `p`. -/
def State.ring (s : State) (p : HPort) (i : Nat) : Ring := tget Ring.fresh (s.hp p).rings i

/-- The state with ring `i` of port `p` changed by `f`. -/
def State.modRing (s : State) (p : HPort) (i : Nat) (f : Ring → Ring) : State :=
  s.modHp p fun h => { h with rings := tput Ring.fresh h.rings i (f (tget Ring.fresh h.rings i)) }

/-- Chapel `c`. -/
def State.chapel (s : State) (c : Nat) : Chapel := tget Chapel.fresh s.chapels c

/-- The state with chapel `c` changed by `f`. -/
def State.modChapel (s : State) (c : Nat) (f : Chapel → Chapel) : State :=
  { s with chapels := tput Chapel.fresh s.chapels c (f (s.chapel c)) }

/-- The cell with global ID `g`. -/
def State.cell (s : State) (g : Nat) : Cell := tget Cell.fresh s.cells g

/-- The state with cell `g` changed by `f`. -/
def State.modCell (s : State) (g : Nat) (f : Cell → Cell) : State :=
  { s with cells := tput Cell.fresh s.cells g (f (s.cell g)) }

/-- Context `t` of a cell. -/
def Cell.ctx (c : Cell) (t : Nat) : Ctx := tget Ctx.fresh c.ctxs t

/-- The cell with context `t` changed by `f`. -/
def Cell.modCtx (c : Cell) (t : Nat) (f : Ctx → Ctx) : Cell :=
  { c with ctxs := tput Ctx.fresh c.ctxs t (f (c.ctx t)) }

/-- Context `t` of cell `g`. -/
def State.ctx (s : State) (g t : Nat) : Ctx := (s.cell g).ctx t

/-- The state with context `t` of cell `g` changed by `f`. -/
def State.modCtx (s : State) (g t : Nat) (f : Ctx → Ctx) : State := s.modCell g (·.modCtx t f)

/-- Slype engine `e` of a cell. -/
def Cell.eng (c : Cell) (e : Nat) : Slype := if e = 0 then c.eng0 else c.eng1

/-- The cell with slype engine `e` changed by `f`. -/
def Cell.modEng (c : Cell) (e : Nat) (f : Slype → Slype) : Cell :=
  if e = 0 then { c with eng0 := f c.eng0 } else { c with eng1 := f c.eng1 }

/-- The state with slype engine `e` of cell `g` changed by `f`. -/
def State.modEng (s : State) (g e : Nat) (f : Slype → Slype) : State := s.modCell g (·.modEng e f)

/-- The HBM stack `m` and its controller. -/
def State.stack (s : State) (m : Nat) : Stack := tget Stack.fresh s.hbmStacks m

/-- The state with stack `m` changed by `f`. -/
def State.modStack (s : State) (m : Nat) (f : Stack → Stack) : State :=
  { s with hbmStacks := tput Stack.fresh s.hbmStacks m (f (s.stack m)) }

/-- Transept port `t`. -/
def State.link (s : State) (t : Nat) : TPort := tget TPort.fresh s.links t

/-- The state with Transept port `t` changed by `f`. -/
def State.modLink (s : State) (t : Nat) (f : TPort → TPort) : State :=
  { s with links := tput TPort.fresh s.links t (f (s.link t)) }

/-- The power domain of bay `b` (R389). -/
def State.bay (s : State) (b : Nat) : Bay := tget Bay.fresh s.amb.bays b

/-- The state with the power domain of bay `b` changed by `f`. -/
def State.modBay (s : State) (b : Nat) (f : Bay → Bay) : State :=
  { s with amb := { s.amb with bays := tput Bay.fresh s.amb.bays b (f (s.bay b)) } }

/-- The queues of endpoint `e` (Table 13-4). -/
def State.endq (s : State) (e : Nat) : EndQ := tget EndQ.fresh s.amb.ends e

/-- The state with the queues of endpoint `e` changed by `f`. -/
def State.modEnd (s : State) (e : Nat) (f : EndQ → EndQ) : State :=
  { s with amb := { s.amb with ends := tput EndQ.fresh s.amb.ends e (f (s.endq e)) } }

/-- Sensor `i` (R586). -/
def State.sensor (s : State) (i : Nat) : Sensor := tget Sensor.fresh s.heat.sensors i

/-- The state with sensor `i` changed by `f`. -/
def State.modSensor (s : State) (i : Nat) (f : Sensor → Sensor) : State :=
  { s with heat := { s.heat with sensors := tput Sensor.fresh s.heat.sensors i (f (s.sensor i)) } }

/-- Party slot `i` (R143). -/
def State.party (s : State) (i : Nat) : Option Party := tget none s.flash.parties i

/-- Parties enrolled. -/
def State.partyCount (s : State) : Nat := s.flash.parties.length

/-- The slot that holds the host party of port `p` (R143). -/
def State.hostParty (s : State) (p : HPort) : Option Nat :=
  (s.flash.parties.find? (fun e => match e.2 with | some q => decide (q.kind = .host p) | none => false)).map Prod.fst

/-- Lectern `n` (R252). -/
def State.lectern (s : State) (n : Nat) : Lectern := tget Lectern.fresh s.feb.lecterns n

/-- A chapel record of the current screen. -/
def State.chapelRec (s : State) (c : Nat) : ChapelRec := tget ChapelRec.fresh s.feb.screen.chapels c

/-- A port record of the current screen. -/
def State.portRec (s : State) (p : Nat) : PortRec := tget PortRec.fresh s.feb.screen.ports p

/-- TSTAMP as a number. -/
def State.ts (s : State) : Nat := s.pw.tstamp.toNat

/-- The chapels 0-191. -/
def chapelIds : List Nat := List.range 192

/-- The main domains are out of reset and the package can act for its hosts. -/
def State.mainOn (s : State) : Bool := decide (5 ≤ s.pw.phase.rank)

/-- CCLK and HCLK drive the bays and the Transept ports: ACTIVE, and not at the service floor (Table 02-4, R52). -/
def State.awake (s : State) : Bool := decide (s.pw.state = .active ∧ s.heat.shed ≠ .floor)

/-- A free byte of its own, and the state in which it is drawn. -/
def State.freeBytes (s : State) : Nat → List Byte × State
  | 0 => ([], s)
  | n + 1 =>
    let r := State.freeBytes { s with freeCount := s.freeCount + 1 } n
    (Config.freeByte s.freeCount :: r.1, r.2)

/-- A free word of its own. -/
def State.freeWord (s : State) : Word × State :=
  (Config.freeWord s.freeCount, { s with freeCount := s.freeCount + 1 })

/-- A free number of its own. -/
def State.freeNat (s : State) : Nat × State :=
  (Config.freeNat s.freeCount, { s with freeCount := s.freeCount + 1 })

/-! ### Geometry -/

/-- X and Y of a cell (R13). -/
def cellX (g : Nat) : Nat := g % 64
/-- Y of a cell (R13). -/
def cellY (g : Nat) : Nat := g / 64
/-- The cell at (X, Y) (R13). -/
def cellAt (x y : Nat) : Nat := y * 64 + x
/-- The nave of a cell (R14). -/
def naveOf (g : Nat) : Nat := 4 * (cellY g / 16) + cellX g / 16
/-- The bay of a cell (R15). -/
def bayOf (g : Nat) : Nat := cellY g / 4 * 16 + cellX g / 4
/-- The north-west cell of a bay (R15). -/
def bayCell (b : Nat) : Nat := cellAt (4 * (b % 16)) (4 * (b / 16))
/-- The nave of a bay. -/
def naveOfBay (b : Nat) : Nat := naveOf (bayCell b)

/-- Cells of a chapel: NCELLS (Table 06-3). -/
def Chapel.ncells (c : Chapel) : Nat := 16 * c.width * c.height

/-- The global ID of chapel-relative cell `r` (R168). -/
def Chapel.globalOf (c : Chapel) (r : Nat) : Nat :=
  cellAt (4 * (c.origin % 16) + r % (4 * c.width)) (4 * (c.origin / 16) + r / (4 * c.width))

/-- The chapel's cells in chapel-relative order. -/
def Chapel.cells (c : Chapel) : List Nat := (List.range c.ncells).map c.globalOf

/-- Cell `g` lies in the chapel's rectangle. -/
def Chapel.holds (c : Chapel) (g : Nat) : Bool :=
  decide (4 * (c.origin % 16) ≤ cellX g ∧ cellX g < 4 * (c.origin % 16) + 4 * c.width ∧
    4 * (c.origin / 16) ≤ cellY g ∧ cellY g < 4 * (c.origin / 16) + 4 * c.height)

/-- The chapel-relative index of cell `g` (R168). -/
def Chapel.relOf (c : Chapel) (g : Nat) : Nat :=
  (cellY g - 4 * (c.origin / 16)) * (4 * c.width) + (cellX g - 4 * (c.origin % 16))

/-- The bays of a rectangle, row by row. -/
def rectBays (origin width height : Nat) : List Nat :=
  (List.range height).flatMap fun r => (List.range width).map fun k => origin + 16 * r + k

/-- The bays of a chapel. -/
def Chapel.bays (c : Chapel) : List Nat := rectBays c.origin c.width c.height

/-- The chapel whose rectangle holds cell `g`: the one owner a cell, and a link with both ends in it, can have
(R128, R135). Only a chapel that is not EMPTY has tables (Table 05-1). -/
def State.chapelOfCell (s : State) (g : Nat) : Option Nat :=
  (s.chapels.find? (fun e => decide (e.2.state ≠ .empty) && e.2.holds g)).map Prod.fst

/-- The chapel whose rectangle holds bay `b`. -/
def State.chapelOfBay (s : State) (b : Nat) : Option Nat := s.chapelOfCell (bayCell b)

/-- Every context of a chapel, as cell and TID. -/
def Chapel.contexts (c : Chapel) : List (Nat × Nat) :=
  c.cells.flatMap fun g => (List.range 16).map fun t => (g, t)

/-- The contexts of a chapel that hold a thread (Table 06-2). -/
def State.threads (s : State) (c : Nat) : List (Nat × Nat) :=
  (s.chapel c).contexts.filter fun e => decide ((s.ctx e.1 e.2).mode ≠ .free)

/-- The contexts of a chapel that are READY or WAIT. -/
def State.liveThreads (s : State) (c : Nat) : List (Nat × Nat) :=
  (s.chapel c).contexts.filter fun e =>
    decide ((s.ctx e.1 e.2).mode = .ready ∨ (s.ctx e.1 e.2).mode = .wait)

end Sys2Proof.Machine
end

