-- ==== Sys2Proof/Machine/Crypto.lean ====
section
/-! DEFINITION. The published algorithms the manual names: SHA-384 (FIPS 180-4), ECDSA verification over P-384
(FIPS 186-4), and AES-256-GCM (FIPS 197, SP 800-38D), as R118, R141 and R154 use them. The manual names the standards;
their contents stand outside it (log entry 5). -/

namespace Sys2Proof.Machine

/-! ### SHA-384 -/

/-- The round constants, first half. -/
def shaK1 : List (BitVec 64) :=
  [0x428A2F98D728AE22, 0x7137449123EF65CD, 0xB5C0FBCFEC4D3B2F, 0xE9B5DBA58189DBBC,
    0x3956C25BF348B538, 0x59F111F1B605D019, 0x923F82A4AF194F9B, 0xAB1C5ED5DA6D8118,
    0xD807AA98A3030242, 0x12835B0145706FBE, 0x243185BE4EE4B28C, 0x550C7DC3D5FFB4E2,
    0x72BE5D74F27B896F, 0x80DEB1FE3B1696B1, 0x9BDC06A725C71235, 0xC19BF174CF692694,
    0xE49B69C19EF14AD2, 0xEFBE4786384F25E3, 0x0FC19DC68B8CD5B5, 0x240CA1CC77AC9C65,
    0x2DE92C6F592B0275, 0x4A7484AA6EA6E483, 0x5CB0A9DCBD41FBD4, 0x76F988DA831153B5,
    0x983E5152EE66DFAB, 0xA831C66D2DB43210, 0xB00327C898FB213F, 0xBF597FC7BEEF0EE4,
    0xC6E00BF33DA88FC2, 0xD5A79147930AA725, 0x06CA6351E003826F, 0x142929670A0E6E70,
    0x27B70A8546D22FFC, 0x2E1B21385C26C926, 0x4D2C6DFC5AC42AED, 0x53380D139D95B3DF,
    0x650A73548BAF63DE, 0x766A0ABB3C77B2A8, 0x81C2C92E47EDAEE6, 0x92722C851482353B]

/-- The round constants, second half. -/
def shaK2 : List (BitVec 64) :=
  [0xA2BFE8A14CF10364, 0xA81A664BBC423001, 0xC24B8B70D0F89791, 0xC76C51A30654BE30,
    0xD192E819D6EF5218, 0xD69906245565A910, 0xF40E35855771202A, 0x106AA07032BBD1B8,
    0x19A4C116B8D2D0C8, 0x1E376C085141AB53, 0x2748774CDF8EEB99, 0x34B0BCB5E19B48A8,
    0x391C0CB3C5C95A63, 0x4ED8AA4AE3418ACB, 0x5B9CCA4F7763E373, 0x682E6FF3D6B2B8A3,
    0x748F82EE5DEFB2FC, 0x78A5636F43172F60, 0x84C87814A1F0AB72, 0x8CC702081A6439EC,
    0x90BEFFFA23631E28, 0xA4506CEBDE82BDE9, 0xBEF9A3F7B2C67915, 0xC67178F2E372532B,
    0xCA273ECEEA26619C, 0xD186B8C721C0C207, 0xEADA7DD6CDE0EB1E, 0xF57D4F7FEE6ED178,
    0x06F067AA72176FBA, 0x0A637DC5A2C898A6, 0x113F9804BEF90DAE, 0x1B710B35131C471B,
    0x28DB77F523047D84, 0x32CAAB7B40C72493, 0x3C9EBE0A15C9BEBC, 0x431D67C49C100D4C,
    0x4CC5D4BECB3E42B6, 0x597F299CFC657E2A, 0x5FCB6FAB3AD6FAEC, 0x6C44198C4A475817]

/-- The initial hash value of SHA-384. -/
def shaInit : List (BitVec 64) :=
  [0xCBBB9D5DC1059ED8, 0x629A292A367CD507, 0x9159015A3070DD17, 0x152FECD8F70E5939,
    0x67332667FFC00B31, 0x8EB44A8768581511, 0xDB0C2E0D64F98FA7, 0x47B5481DBEFA4FA4]

/-- The message schedule: each further word from the sixteen before it, newest first. -/
def shaSchedule : Nat → List (BitVec 64) → List (BitVec 64)
  | 0, w => w
  | n + 1, w =>
    let a := w.getD 1 0#64
    let b := w.getD 14 0#64
    let s1 := a.rotateRight 19 ^^^ a.rotateRight 61 ^^^ (a >>> 6)
    let s0 := b.rotateRight 1 ^^^ b.rotateRight 8 ^^^ (b >>> 7)
    shaSchedule n ((s1 + w.getD 6 0#64 + s0 + w.getD 15 0#64) :: w)

/-- One round on the working variables a to h. -/
def shaRound (v : List (BitVec 64)) (kw : BitVec 64 × BitVec 64) : List (BitVec 64) :=
  match v with
  | [a, b, c, d, e, f, g, h] =>
    let t1 := h + (e.rotateRight 14 ^^^ e.rotateRight 18 ^^^ e.rotateRight 41) + ((e &&& f) ^^^ (~~~e &&& g)) +
      kw.1 + kw.2
    let t2 := (a.rotateRight 28 ^^^ a.rotateRight 34 ^^^ a.rotateRight 39) + ((a &&& b) ^^^ (a &&& c) ^^^ (b &&& c))
    [t1 + t2, a, b, c, d + t1, e, f, g]
  | _ => v

/-- One 128-byte block. -/
def shaBlock (h : List (BitVec 64)) (block : List Byte) : List (BitVec 64) :=
  let w := (List.range 16).map fun i => BitVec.ofNat 64 (beNat (sliceB block (8 * i) 8))
  let ws := (shaSchedule 64 w.reverse).reverse
  List.zipWith (· + ·) h (((shaK1 ++ shaK2).zip ws).foldl shaRound h)

/-- Big-endian bytes of a number. -/
def be (n v : Nat) : List Byte := (le n v).reverse

/-- The blocks of a padded message. -/
def shaBlocks : Nat → List Byte → List (BitVec 64) → List (BitVec 64)
  | 0, _, h => h
  | n + 1, m, h => shaBlocks n (m.drop 128) (shaBlock h (m.take 128))

/-- SHA-384. -/
def sha384 (m : List Byte) : List Byte :=
  let pad := (239 - m.length % 128) % 128
  let p := m ++ [0x80#8] ++ zeros pad ++ be 16 (8 * m.length)
  ((shaBlocks (p.length / 128) p shaInit).take 6).flatMap fun x => be 8 x.toNat

/-! ### ECDSA over P-384 -/

/-- The field prime of P-384. -/
def p384P : Nat := 2 ^ 384 - 2 ^ 128 - 2 ^ 96 + 2 ^ 32 - 1
/-- The order of the base point. -/
def p384N : Nat :=
  0xFFFFFFFFFFFFFFFFFFFFFFFFFFFFFFFFFFFFFFFFFFFFFFFFC7634D81F4372DDF581A0DB248B0A77AECEC196ACCC52973
/-- The curve's coefficient b. -/
def p384B : Nat :=
  0xB3312FA7E23EE7E4988E056BE3F82D19181D9C6EFE8141120314088F5013875AC656398D8A2ED19D2A85C8EDD3EC2AEF
/-- The base point's x. -/
def p384Gx : Nat :=
  0xAA87CA22BE8B05378EB1C71EF320AD746E1D3B628BA79B9859F741E082542A385502F25DBF55296C3A545E3872760AB7
/-- The base point's y. -/
def p384Gy : Nat :=
  0x3617DE4A96262C6F5D9E98BF9292DC29F8F41DBD289A147CE9DA3113B5F0B8C00A60B1CE1D7E819D7A431D7C90EA0E5F

/-- Powers modulo `m`, bit by bit from the least significant. -/
def powMod (m : Nat) : Nat → Nat → Nat → Nat → Nat
  | 0, _, _, acc => acc
  | k + 1, b, e, acc => powMod m k (b * b % m) (e / 2) (if e % 2 = 1 then acc * b % m else acc)

/-- The inverse modulo a prime below 2^384. -/
def invMod (m a : Nat) : Nat := powMod m 384 (a % m) (m - 2) 1

/-- Points of the curve; `none` is the point at infinity. -/
abbrev Pt := Option (Nat × Nat)

/-- The sum of two points. -/
def ptAdd (a b : Pt) : Pt :=
  match a, b with
  | none, b => b
  | a, none => a
  | some (x1, y1), some (x2, y2) =>
    let p := p384P
    if x1 = x2 ∧ (y1 + y2) % p = 0 then none
    else
      let l := if x1 = x2 then (3 * x1 * x1 + (p - 3)) * invMod p (2 * y1) % p
        else (y2 + p - y1) * invMod p (x2 + p - x1) % p
      let x3 := (l * l + 2 * p - x1 - x2) % p
      some (x3, (l * (x1 + p - x3) + p - y1) % p)

/-- A multiple of a point, bit by bit from the least significant. -/
def ptMul : Nat → Nat → Pt → Pt → Pt
  | 0, _, _, acc => acc
  | k + 1, e, b, acc => ptMul k (e / 2) (ptAdd b b) (if e % 2 = 1 then ptAdd acc b else acc)

/-- X and Y of a 97-byte public key (R141). -/
def keyXY (key : List Byte) : Nat × Nat := (beNat (sliceB key 1 48), beNat (sliceB key 49 48))

/-- X and Y name a point of the curve (Table 04-14, PARTY_ENROL). -/
def onCurve (key : List Byte) : Bool :=
  let x := (keyXY key).1
  let y := (keyXY key).2
  decide (x < p384P ∧ y < p384P ∧ y * y % p384P = (x * x * x + (p384P - 3) * x + p384B) % p384P)

/-- The 96-byte signature over `msg` verifies against the 97-byte key (R141). -/
def ecdsaVerify (key msg sig : List Byte) : Bool :=
  let r := beNat (sliceB sig 0 48)
  let s := beNat (sliceB sig 48 48)
  let n := p384N
  if r = 0 ∨ n ≤ r ∨ s = 0 ∨ n ≤ s then false
  else
    let w := invMod n s
    let u1 := beNat (sha384 msg) * w % n
    let u2 := r * w % n
    match ptAdd (ptMul 384 u1 (some (p384Gx, p384Gy)) none) (ptMul 384 u2 (some (keyXY key)) none) with
    | some (x, _) => decide (x % n = r)
    | none => false

/-! ### AES-256-GCM -/

/-- Multiplication by x in the AES field. -/
def xtime (b : Byte) : Byte := if b.getLsbD 7 then (b <<< 1) ^^^ 0x1B#8 else b <<< 1

/-- The product in the AES field, over the bits of `b`. -/
def gmul : Nat → Byte → Byte → Byte → Byte
  | 0, _, _, acc => acc
  | k + 1, a, b, acc => gmul k (xtime a) (b >>> 1) (if b.getLsbD 0 then acc ^^^ a else acc)

/-- The inverse in the AES field: the power 254. -/
def ginv (a : Byte) : Byte :=
  let m := fun x y => gmul 8 x y 0#8
  let a2 := m a a
  let a3 := m a2 a
  let a12 := m (m a3 a3) (m a3 a3)
  let a15 := m a12 a3
  let sq := fun x => m x x
  let a240 := sq (sq (sq (sq a15)))
  m (m a240 a12) a2

/-- The AES S-box. -/
def sbox (a : Byte) : Byte :=
  let b := ginv a
  b ^^^ b.rotateLeft 1 ^^^ b.rotateLeft 2 ^^^ b.rotateLeft 3 ^^^ b.rotateLeft 4 ^^^ 0x63#8

/-- The byte-wise sum of two strings. -/
def xorB (a b : List Byte) : List Byte := List.zipWith (· ^^^ ·) a b

/-- The next words of the AES-256 key schedule; `ws` newest first, `i` the index of the word to come. -/
def aesExpand : Nat → Nat → Byte → List (List Byte) → List (List Byte)
  | 0, _, _, ws => ws
  | n + 1, i, rcon, ws =>
    let prev := ws.headD []
    let old := ws.getD 7 []
    let t := if i % 8 = 0 then xorB ((prev.drop 1 ++ prev.take 1).map sbox) [rcon, 0#8, 0#8, 0#8]
      else if i % 8 = 4 then prev.map sbox else prev
    aesExpand n (i + 1) (if i % 8 = 0 then xtime rcon else rcon) (xorB old t :: ws)

/-- The fifteen round keys of 16 bytes. -/
def aesKeys (key : List Byte) : List (List Byte) :=
  let w0 := (List.range 8).map fun i => sliceB key (4 * i) 4
  let ws := (aesExpand 52 8 1#8 w0.reverse).reverse
  (List.range 15).map fun r => ((ws.drop (4 * r)).take 4).flatten

/-- ShiftRows on a column-major state. -/
def shiftRows (st : List Byte) : List Byte :=
  (List.range 16).map fun i => byteAt st ((i + 4 * (i % 4)) % 16)

/-- MixColumns of one column. -/
def mixColumn (c : List Byte) : List Byte :=
  match c with
  | [a, b, c, d] =>
    let two := xtime
    let three := fun x => xtime x ^^^ x
    [two a ^^^ three b ^^^ c ^^^ d, a ^^^ two b ^^^ three c ^^^ d,
     a ^^^ b ^^^ two c ^^^ three d, three a ^^^ b ^^^ c ^^^ two d]
  | _ => c

/-- MixColumns. -/
def mixColumns (st : List Byte) : List Byte := (List.range 4).flatMap fun i => mixColumn (sliceB st (4 * i) 4)

/-- The middle rounds and the last. -/
def aesRounds : List (List Byte) → List Byte → List Byte
  | [], st => st
  | [k], st => xorB (shiftRows (st.map sbox)) k
  | k :: ks, st => aesRounds ks (xorB (mixColumns (shiftRows (st.map sbox))) k)

/-- One block under a key schedule. -/
def aesBlock (ks : List (List Byte)) (b : List Byte) : List Byte := aesRounds (ks.drop 1) (xorB b (ks.headD []))

/-- The product in the GCM field, bits taken from the most significant. -/
def gcmMul : Nat → BitVec 128 → BitVec 128 → BitVec 128 → BitVec 128
  | 0, _, _, z => z
  | k + 1, x, v, z =>
    gcmMul k (x <<< 1) (if v.getLsbD 0 then (v >>> 1) ^^^ (0xE1#128 <<< 120) else v >>> 1)
      (if x.getLsbD 127 then z ^^^ v else z)

/-- The 16-byte blocks of a string, the last padded with zeros. -/
def blocks16 (m : List Byte) : List (List Byte) :=
  (List.range ((m.length + 15) / 16)).map fun i => sliceB m (16 * i) 16

/-- GHASH over blocks. -/
def ghash (h : BitVec 128) (bs : List (List Byte)) : BitVec 128 :=
  bs.foldl (fun y b => gcmMul 128 (y ^^^ BitVec.ofNat 128 (beNat b)) h 0#128) 0#128

/-- The GCM key stream applied to a text, from counter 2 on. -/
def gcmStream (ks : List (List Byte)) (nonce : List Byte) : Nat → List (List Byte) → List Byte
  | _, [] => []
  | i, b :: bs => xorB b (aesBlock ks (nonce ++ be 4 i)) ++ gcmStream ks nonce (i + 1) bs

/-- The text under the key stream: encryption and decryption alike. -/
def gcmCrypt (key nonce text : List Byte) : List Byte :=
  (gcmStream (aesKeys key) nonce 2 (blocks16 text)).take text.length

/-- The 16-byte tag of a ciphertext and its additional data. -/
def gcmTag (key nonce aad text : List Byte) : List Byte :=
  let ks := aesKeys key
  let h := BitVec.ofNat 128 (beNat (aesBlock ks (zeros 16)))
  let y := ghash h (blocks16 aad ++ blocks16 text ++ [be 8 (8 * aad.length) ++ be 8 (8 * text.length)])
  xorB (be 16 y.toNat) (aesBlock ks (nonce ++ be 4 1))

/-- The plaintext of an envelope (R118): nonce, ciphertext, tag; none where the tag fails. -/
def openEnvelope (key aad buf : List Byte) : Option (List Byte) :=
  if buf.length < 28 then none
  else
    let nonce := buf.take 12
    let text := (buf.drop 12).take (buf.length - 28)
    if gcmTag key nonce aad text = buf.drop (buf.length - 16) then some (gcmCrypt key nonce text) else none

/-- An envelope around a plaintext (R118, R120). -/
def sealEnvelope (key nonce aad text : List Byte) : List Byte :=
  let ct := gcmCrypt key nonce text
  nonce ++ ct ++ gcmTag key nonce aad ct

end Sys2Proof.Machine
end

