-- ==== Sys2Proof/Machine/Checks.lean ====
section
/-! DEFINITION. What Table 04-5 checks in a command entry and in its data buffer without reference to the state:
form, lengths, limits, ranges, and the images of chapters 05, 09 and 20. A check answers the offsets of the bytes
that break a rule; the lowest is the first offending byte. -/

namespace Sys2Proof.Machine

/-- Offset `o` where `bad` holds. -/
def badIf (bad : Bool) (o : Nat) : List Nat := if bad then [o] else []

/-- The lowest of some offsets. -/
def lowest : List Nat → Option Nat
  | [] => none
  | o :: os => some (os.foldl min o)

/-- The first nonzero byte of the field of `n` bytes at `off`. -/
def nonzeroAt (bs : List Byte) (off n : Nat) : List Nat :=
  match firstNonzero (fun _ => true) off (sliceB bs off n) with
  | some o => [o]
  | none => []

/-- 288 GiB (R405). -/
def hbmEnd : Nat := 0x004800000000
/-- Where window addresses begin and end (Table 04-12). -/
def windowLow : Nat := 0x000100000000
/-- The end of window addresses. -/
def windowHigh : Nat := 0x004900000000

/-! ### Opcodes -/

/-- The defined opcodes (Tables 04-9 to 04-16). -/
def opcodes : List Nat :=
  [0x0001, 0x0002, 0x0003, 0x0004, 0x0005, 0x0101, 0x0102, 0x0103, 0x0104, 0x0105, 0x0106, 0x0107, 0x0108,
   0x0201, 0x0202, 0x0203, 0x0301, 0x0302, 0x0303, 0x0401, 0x0402, 0x0403, 0x0501, 0x0502, 0x0503, 0x0504, 0x0505,
   0x0601, 0x0602, 0x0603, 0x0604, 0x0605, 0x0606, 0x0701, 0x0702, 0x0703]

/-- The secured opcodes (Table 04-15, R117). -/
def opSecured (op : Nat) : Bool := decide (op = 0x0602 ∨ op = 0x0603 ∨ op = 0x0605 ∨ op = 0x0606)

/-- The parameter fields of an opcode, as offset and length (Tables 04-9 to 04-16). -/
def opFields (op : Nat) : List (Nat × Nat) :=
  match op with
  | 0x0002 | 0x0107 | 0x0103 | 0x0104 | 0x0106 | 0x0203 | 0x0402 | 0x0501 | 0x0504 | 0x0603 | 0x0604 => [(24, 1)]
  | 0x0003 | 0x0004 | 0x0105 | 0x0202 | 0x0401 | 0x0505 | 0x0605 | 0x0606 => [(24, 2)]
  | 0x0101 => [(24, 6)]
  | 0x0102 => [(24, 1), (26, 2), (32, 4), (40, 8)]
  | 0x0108 => [(24, 1), (26, 2)]
  | 0x0201 => [(24, 1), (26, 4)]
  | 0x0301 => [(24, 4), (32, 24)]
  | 0x0302 => [(24, 2), (32, 16)]
  | 0x0303 => [(24, 3), (32, 24)]
  | 0x0403 => [(24, 3)]
  | 0x0502 => [(24, 1), (28, 4)]
  | 0x0503 => [(28, 4)]
  | 0x0601 => [(24, 4), (32, 8)]
  | 0x0701 => [(24, 1), (26, 4)]
  | 0x0703 => [(24, 1), (26, 3), (32, 4)]
  | _ => []

/-- DATA_LEN is what the opcode requires (Tables 04-9 to 04-16, R267, R526, R527, R532, R544, R559; for MCAST_LOAD and
SUM_TREE_LOAD the exact length needs the chapel and is checked at the command's turn). -/
def opLenOk (op : Nat) (e : List Byte) : Bool :=
  let n := fieldN e 16 4
  let b := fun o => (byteAt e o).toNat
  match op with
  | 0x0001 => n = 256
  | 0x0107 => n % 32 = 0
  | 0x0108 => n = 1280
  | 0x0201 | 0x0202 => n ≠ 0
  | 0x0402 => n = 0 ∨ n = 128
  | 0x0501 => n = 6496
  | 0x0502 => n = 0 ∨ n = 144
  | 0x0504 => true
  | 0x0505 => n = if b 25 = 3 then 0 else 97
  | 0x0601 =>
    if b 24 = 0 then n = 256 else if b 24 = 1 ∨ b 24 = 2 then n = 32 * b 27 else if b 24 = 3 then n = 0 else true
  | 0x0602 => n = 108
  | 0x0603 =>
    if b 24 = 0 then 66 ≤ n ∧ (n - 60) % 6 = 0 else if b 24 = 1 then 456 ≤ n ∧ (n - 60) % 396 = 0 else 60 ≤ n
  | 0x0605 => n = 28 + 32 * b 25
  | 0x0606 => n = if b 24 = 1 then 44 else 28
  | 0x0701 => n = 32 * fieldN e 28 2
  | 0x0702 => n = 2048
  | _ => n = 0

/-- The opcode reads its data buffer: Table 04-5 step 4 applies. -/
def opReads (op : Nat) (e : List Byte) : Bool :=
  decide (op = 0x0108 ∨ op = 0x0201 ∨ op = 0x0202 ∨ op = 0x0501 ∨ op = 0x0502 ∨ op = 0x0505) || opSecured op ||
    (decide (op = 0x0601) && decide ((byteAt e 24).toNat = 2))

/-- The default time limit of a command in µs (Table 04-8); none where it has no time limit. -/
def opLimit (op : Nat) (e : List Byte) : Option Nat :=
  match op with
  | 0x0103 | 0x0203 => some 1000
  | 0x0105 => some 10000
  | 0x0401 => some 500000
  | 0x0502 => if fieldN e 16 4 = 0 then some 60000000 else none
  | 0x0601 => some 100000
  | 0x0703 => some (fieldN e 32 4)
  | _ => none

/-- Step 3 of Table 04-5: the header. -/
def headerBad (op : Nat) (e : List Byte) : List Nat :=
  let flags := (byteAt e 2).toNat
  let addr := fieldN e 8 8
  let len := fieldN e 16 4
  let tmo := fieldN e 20 4
  badIf (decide (flags ≠ if opSecured op then 1 else 0)) 2 ++ badIf (byteAt e 3 != 0#8) 3 ++
    badIf (decide (addr % 64 ≠ 0 ∨ (len = 0 ∧ addr ≠ 0))) 8 ++
    badIf (decide (16777216 < len) || !opLenOk op e) 16 ++
    badIf (decide (120000000 < tmo) || (decide (tmo ≠ 0) && (opLimit op e).isNone)) 20

/-- A parameter byte that the opcode does not define. -/
def opUndefined (op o : Nat) : Bool := !(opFields op).any fun f => decide (f.1 ≤ o ∧ o < f.1 + f.2)

/-- Nonzero reserved parameter bytes (R103, R6). -/
def reservedBad (op : Nat) (e : List Byte) : List Nat :=
  ((List.range 40).map (· + 24)).filter fun o => opUndefined op o && byteAt e o != 0#8

/-- The fields of MEM_WINDOW_MAP out of their values (Table 04-12, R405). -/
def windowBad (e : List Byte) : List Nat :=
  let kind := (byteAt e 26).toNat
  let acc := (byteAt e 27).toNat
  let ca := fieldN e 32 8
  let tb := fieldN e 40 8
  let sz := fieldN e 48 8
  badIf (decide (3 < kind)) 26 ++
    (if kind = 0 then nonzeroAt e 27 1 ++ nonzeroAt e 32 24
     else badIf (decide (acc = 0 ∨ 3 < acc)) 27 ++
       badIf (decide (ca % 65536 ≠ 0 ∨ ca < windowLow ∨ windowHigh < ca + sz)) 32 ++
       badIf (decide (tb % 65536 ≠ 0) || decide (kind = 1 ∧ hbmEnd < tb + sz)) 40 ++
       badIf (decide (sz = 0 ∨ sz % 65536 ≠ 0)) 48)

/-- The fields of LECTERN_DEFINE out of their values (Table 04-12, R405). -/
def lecternBad (e : List Byte) : List Nat :=
  let op := (byteAt e 25).toNat
  let base := fieldN e 32 8
  let sz := fieldN e 40 8
  badIf (decide (1 < op)) 25 ++
    (if op = 1 then nonzeroAt e 32 16
     else badIf (decide (base % 2048 ≠ 0 ∨ hbmEnd < base + sz)) 32 ++
       badIf (decide (sz % 2048 ≠ 0 ∨ sz < 2048 ∨ 68719476736 < sz)) 40)

/-- The fields of SLYPE_COPY out of their values (Table 04-12, R190, R405). -/
def copyBad (e : List Byte) : List Nat :=
  let port := (byteAt e 25).toNat
  let dir := (byteAt e 26).toNat
  let src := fieldN e 32 8
  let dst := fieldN e 40 8
  let len := fieldN e 48 8
  (if (byteAt e 24).toNat = 0xFE then
     badIf (decide (1 < port)) 25 ++ badIf (decide (1 < dir)) 26 ++
       badIf (decide (dir = 1 ∧ (hbmEnd < src + len ∨ src % 64 ≠ 0))) 32 ++
       badIf (decide (dir = 0 ∧ (hbmEnd < dst + len ∨ dst % 64 ≠ 0))) 40
   else nonzeroAt e 25 1 ++ nonzeroAt e 26 1 ++ badIf (decide (src % 64 ≠ 0)) 32 ++ badIf (decide (dst % 64 ≠ 0)) 40) ++
    badIf (decide (len = 0 ∨ len % 64 ≠ 0 ∨ 1099511627776 < len)) 48

/-- The fields of SVC_GATEHOUSE_OP out of their values (Table 04-15, R532). -/
def readerBad (e : List Byte) : List Nat :=
  let op := (byteAt e 24).toNat
  let bank := (byteAt e 25).toNat
  let count := (byteAt e 27).toNat
  badIf (decide (3 < op)) 24 ++
    (if op = 3 then nonzeroAt e 25 3 ++ nonzeroAt e 32 8
     else badIf (decide (bank ≠ 1 ∧ bank ≠ 2)) 25 ++
       (if op = 0 then nonzeroAt e 26 2 ++ nonzeroAt e 32 8
        else badIf (decide (count = 0 ∨ 8 < count)) 27))

/-- Step 5 of Table 04-5 in the entry: enumerated and range fields, alignments and sizes. -/
def paramBad (op : Nat) (e : List Byte) : List Nat :=
  let b := fun o => (byteAt e o).toNat
  match op with
  | 0x0002 => badIf (decide (1 < b 24)) 24
  | 0x0003 => badIf (decide (2 < b 24)) 24 ++ badIf (decide (7 < b 25 ∨ (b 24 ≠ 2 ∧ b 25 ≠ 0))) 25
  | 0x0004 => badIf (decide (fieldN e 24 2 < 1200 ∨ 2100 < fieldN e 24 2)) 24
  | 0x0101 => badIf (decide (1 < b 25)) 25 ++ badIf (decide (b 28 = 0 ∨ 16 < b 28)) 28 ++
      badIf (decide (b 29 = 0 ∨ 12 < b 29)) 29
  | 0x0102 => badIf (decide (fieldN e 26 2 = 0)) 26 ++
      badIf (decide (fieldN e 32 4 % 4 ≠ 0 ∨ 524288 ≤ fieldN e 32 4)) 32
  | 0x0105 => badIf (decide (1 < b 25)) 25
  | 0x0201 => badIf (decide (1023 < fieldN e 26 2)) 26 ++
      badIf (decide (fieldN e 28 2 = 0 ∨ 1024 < fieldN e 28 2 ∨ 1024 < fieldN e 26 2 + fieldN e 28 2)) 28
  | 0x0202 => badIf (decide (63 < b 25)) 25
  | 0x0301 => windowBad e
  | 0x0302 => lecternBad e
  | 0x0303 => copyBad e
  | 0x0401 => badIf (decide (2 < b 25)) 25
  | 0x0403 => badIf (decide (63 < b 26)) 26
  | 0x0504 => badIf (decide (1 < b 24)) 24
  | 0x0505 => badIf (decide (3 < b 25)) 25
  | 0x0601 => readerBad e
  | 0x0603 => badIf (decide (1 < b 24)) 24
  | 0x0605 => badIf (decide (b 25 = 0 ∨ 64 < b 25 ∨ 256 < b 24 + b 25)) 25
  | 0x0606 => badIf (decide (2 < b 24)) 24 ++ badIf (decide (1 < b 25 ∨ (b 24 ≠ 2 ∧ b 25 ≠ 0))) 25
  | 0x0701 => badIf (decide (1 < b 24)) 24 ++ badIf (decide (4095 < fieldN e 26 2)) 26 ++
      badIf (decide (fieldN e 28 2 = 0 ∨ 4096 < fieldN e 26 2 + fieldN e 28 2)) 28
  | 0x0703 => badIf (decide (1 < b 24)) 24 ++ badIf (decide (2 < b 28)) 28 ++
      badIf (decide (fieldN e 32 4 = 0 ∨ 10000000 < fieldN e 32 4)) 32
  | _ => []

/-- Step 6 of Table 04-5 for what no earlier command can change: indices that name nothing on this package. -/
def indexMissing (op : Nat) (e : List Byte) : Bool :=
  let b := fun o => (byteAt e o).toNat
  match op with
  | 0x0101 => decide (191 < b 24 ∨ 191 < fieldN e 26 2)
  | 0x0102 | 0x0103 | 0x0104 | 0x0105 | 0x0106 | 0x0107 | 0x0201 | 0x0202 | 0x0203 => decide (191 < b 24)
  | 0x0108 => decide (191 < b 24 ∨ (3071 < fieldN e 26 2 ∧ fieldN e 26 2 ≠ 0xFFFF))
  | 0x0301 => decide (191 < b 24 ∨ 63 < b 25)
  | 0x0302 => decide (7 < b 24)
  | 0x0303 => decide (191 < b 24 ∧ b 24 ≠ 0xFE)
  | 0x0401 | 0x0402 => decide (11 < b 24)
  | 0x0403 => decide (11 < b 24 ∨ (191 < b 25 ∧ b 25 ≠ 0xFF))
  | 0x0501 | 0x0502 | 0x0505 => decide (7 < b 24)
  | 0x0604 => decide (3 < b 24)
  | 0x0703 => decide ((b 24 = 0 ∧ 191 < fieldN e 26 2) ∨ (b 24 = 1 ∧ 11 < fieldN e 26 2))
  | _ => false

/-- CHAPEL_CREATE's geometry, checked once ORIGIN_BAY is found (Table 04-10, R106). -/
def geometryBad (op : Nat) (e : List Byte) : Bool :=
  let o := fieldN e 26 2
  decide (op = 0x0101) && decide (16 < o % 16 + (byteAt e 28).toNat ∨ 12 < o / 16 + (byteAt e 29).toNat)

/-! ### The handler image (R267) -/

/-- Offset of turn descriptor `t` in the handler image. -/
def turnOff (t : Nat) : Nat := 1024 + 32 * t

/-- The three regions of an enabled turn: offset of the base field, base and size. -/
def turnRegions (img : List Byte) (t : Nat) : List (Nat × Nat × Nat) :=
  if fieldN img (turnOff t + 4) 4 = 0 then []
  else [0, 8, 16].map fun k => (turnOff t + k, fieldN img (turnOff t + k) 4, fieldN img (turnOff t + k + 4) 4)

/-- Two regions share a byte. -/
def regionsMeet (a b : Nat × Nat × Nat) : Bool :=
  decide (a.2.1 < b.2.1 + b.2.2 ∧ b.2.1 < a.2.1 + a.2.2 ∧ a.2.2 ≠ 0 ∧ b.2.2 ≠ 0)

/-- A handler entry breaks Table 09-3. -/
def handlerBad (img : List Byte) (i : Nat) : List Nat :=
  let v := fieldN img (4 * i) 4
  let pc := v % 2 ^ 19
  badIf (decide (pc % 4 ≠ 0 ∨ 0x7F000 ≤ pc)) (4 * i) ++ badIf (decide (bitsN v 23 19 ≠ 0)) (4 * i + 2) ++
    badIf (decide (bitsN v 30 24 ≠ 0)) (4 * i + 3)

/-- A turn descriptor breaks Table 09-4. -/
def turnBad (img : List Byte) (t : Nat) : List Nat :=
  let o := turnOff t
  let f := fun k => fieldN img (o + k) 4
  if f 4 = 0 then nonzeroAt img o 32
  else
    badIf (decide (f 0 % 64 ≠ 0)) o ++ badIf (decide (f 4 < 1024 ∨ 262144 < f 4 ∨ f 4 % 64 ≠ 0)) (o + 4) ++
      badIf (decide (f 8 % 64 ≠ 0)) (o + 8) ++ badIf (decide (f 12 % 64 ≠ 0)) (o + 12) ++
      badIf (decide (f 16 % 64 ≠ 0)) (o + 16) ++ badIf (decide (f 20 % 64 ≠ 0)) (o + 20) ++
      badIf (decide (1 < (byteAt img (o + 24)).toNat)) (o + 24) ++ nonzeroAt img (o + 25) 7 ++
      (turnRegions img t).flatMap fun r => badIf (decide (0x7F000 < r.2.1 + r.2.2)) r.1

/-- A region of turn `t` that meets one of a lower-numbered turn: its base field. -/
def turnOverlap (img : List Byte) (t : Nat) : List Nat :=
  let below := (List.range t).flatMap (turnRegions img)
  (turnRegions img t).flatMap fun r => badIf (below.any (regionsMeet r)) r.1

/-- What breaks a HANDLER_LOAD image (R267). -/
def handlerImageBad (img : List Byte) : List Nat :=
  (List.range 256).flatMap (handlerBad img) ++ (List.range 8).flatMap (turnBad img) ++
    (List.range 8).flatMap (turnOverlap img)

/-! ### The screen image (R133, R134) -/

/-- Offset of chapel record `c` in a screen image. -/
def chapelOff (c : Nat) : Nat := 64 + 32 * c
/-- Offset of port record `p` in a screen image. -/
def portOff (p : Nat) : Nat := 6208 + 16 * p

/-- Chapel record `c` of a screen image (Table 05-4). -/
def imgChapel (img : List Byte) (c : Nat) : ChapelRec :=
  let o := chapelOff c
  let b := fun k => (byteAt img (o + k)).toNat
  { valid := b 0 % 2 = 1, origin := fieldN img (o + 2) 2, width := b 4, height := b 5, grant := b 6,
    hostPorts := b 7 % 4, transept := fieldN img (o + 8) 2 % 4096 }

/-- Port record `p` of a screen image (Table 05-5). -/
def imgPort (img : List Byte) (p : Nat) : PortRec :=
  ⟨(byteAt img (portOff p)).toNat, (byteAt img (portOff p + 1)).toNat, fieldN img (portOff p + 8) 8⟩

/-- The ranges and the geometry of a valid record hold. -/
def ChapelRec.fits (r : ChapelRec) : Bool :=
  decide (r.origin ≤ 191 ∧ 1 ≤ r.width ∧ r.width ≤ 16 ∧ 1 ≤ r.height ∧ r.height ≤ 12 ∧
    r.origin % 16 + r.width ≤ 16 ∧ r.origin / 16 + r.height ≤ 12)

/-- Two rectangles share a bay. -/
def ChapelRec.meets (a b : ChapelRec) : Bool :=
  decide (a.origin % 16 < b.origin % 16 + b.width ∧ b.origin % 16 < a.origin % 16 + a.width ∧
    a.origin / 16 < b.origin / 16 + b.height ∧ b.origin / 16 < a.origin / 16 + a.height)

/-- A chapel record of an image breaks Table 05-6. -/
def chapelRecBad (img : List Byte) (c : Nat) : List Nat :=
  let o := chapelOff c
  let r := imgChapel img c
  if !r.valid then nonzeroAt img o 32
  else
    badIf (decide (1 < (byteAt img o).toNat)) o ++ nonzeroAt img (o + 1) 1 ++
      badIf (decide (191 < r.origin)) (o + 2) ++ badIf (decide (r.width = 0 ∨ 16 < r.width)) (o + 4) ++
      badIf (decide (r.height = 0 ∨ 12 < r.height)) (o + 5) ++
      badIf (decide (16 < r.origin % 16 + r.width ∨ 12 < r.origin / 16 + r.height)) (o + 2) ++
      badIf (decide (3 < (byteAt img (o + 7)).toNat)) (o + 7) ++
      badIf (decide (15 < (byteAt img (o + 9)).toNat)) (o + 9) ++ nonzeroAt img (o + 10) 22 ++
      badIf (r.fits && (List.range c).any fun d =>
        let q := imgChapel img d
        q.valid && q.fits && q.meets r) (o + 2)

/-- A port record of an image breaks Table 05-6. -/
def portRecBad (img : List Byte) (p : Nat) : List Nat :=
  let o := portOff p
  let r := imgPort img p
  let claims := fun c => (imgChapel img c).valid && bitN (imgChapel img c).transept p
  badIf (!(decide (r.owner = 255) || (decide (r.owner < 192) && (imgChapel img r.owner).valid)) ||
      chapelIds.any fun c => claims c != decide (r.owner = c)) o ++
    badIf (decide (63 < r.span ∨ (r.owner = 255 ∧ r.span ≠ 0))) (o + 1) ++ nonzeroAt img (o + 2) 6 ++
    badIf (decide (r.owner ≠ 255) && (List.range p).any fun q =>
      let x := imgPort img q
      decide (x.owner = r.owner ∧ x.span = r.span ∧ x.peer ≠ r.peer)) (o + 8)

/-- What breaks a screen image (R134). -/
def screenImageBad (img : List Byte) : List Nat :=
  badIf (decide (fieldN img 0 4 ≠ 0x4E524353)) 0 ++ badIf (decide (fieldN img 12 2 ≠ 6400)) 12 ++
    nonzeroAt img 14 50 ++ chapelIds.flatMap (chapelRecBad img) ++ (List.range 12).flatMap (portRecBad img)

/-! ### The belfry's configuration (R544) -/

/-- Offset of pattern record `i` in the plaintext. -/
def patternOff (i : Nat) : Nat := 16 + 16 * i

/-- A signed byte. -/
def sbyte (b : Byte) : Int := b.toInt

/-- A pattern record breaks Table 20-4 or Table 20-5. -/
def patternBad (img : List Byte) (i : Nat) : List Nat :=
  let o := patternOff i
  let b := fun k => (byteAt img (o + k)).toNat
  let lo := sbyte (byteAt img (o + 5))
  let hi := sbyte (byteAt img (o + 6))
  let ch := bitsN (b 0) 4 2
  if b 0 % 2 = 0 then nonzeroAt img o 16
  else
    badIf (decide (ch = 0 ∨ 31 < b 0 ∨ ch &&& bitsN (byteAt img 0).toNat 3 1 ≠ ch)) o ++
      badIf (decide (b 1 < 2 ∨ 63 < b 1)) (o + 1) ++
      badIf (decide (b 2 < 1 ∨ 8 < b 2 ∨ 127 < b 2 * b 1 + 1)) (o + 2) ++
      badIf (decide (lo < -96 ∨ 0 < lo ∨ hi < lo)) (o + 5) ++ badIf (decide (hi < -96 ∨ 0 < hi)) (o + 6) ++
      badIf (decide (b 7 < 1 ∨ 32 < b 7)) (o + 7) ++ badIf (decide (b 8 < b 7 ∨ 32 < b 8)) (o + 8) ++
      badIf (decide (b 9 = 0)) (o + 9) ++ nonzeroAt img (o + 10) 6

/-- What breaks the SVC_BELFRY_CFG plaintext. -/
def belfryBad (img : List Byte) : List Nat :=
  let b := fun k => (byteAt img k).toNat
  badIf (decide (15 < b 0)) 0 ++ badIf (decide (1 < b 1)) 1 ++ badIf (decide (4 < b 2)) 2 ++
    badIf (decide (4 < b 3)) 3 ++ badIf (decide (3 < b 4)) 4 ++ nonzeroAt img 5 11 ++
    (List.range 4).flatMap (patternBad img)

/-- What breaks the SVC_BELFRY_READ plaintext (R558, R559). -/
def belfryReadBad (which dataLen : Nat) (p : List Byte) : List Nat :=
  let start := fieldN p 0 8
  let n := fieldN p 8 4
  let want := if which = 0 then 60 + 6 * n else 60 + 396 * n / 256
  badIf (decide (which = 1 ∧ start % 256 ≠ 0 ∧ start ≠ 2 ^ 64 - 1)) 0 ++
    badIf (decide (n = 0 ∨ 65536 < n ∨ (which = 1 ∧ n % 256 ≠ 0) ∨ want ≠ dataLen)) 8 ++
    badIf (decide (1 < (byteAt p 12).toNat)) 12 ++ nonzeroAt p 13 (p.length - 13)

/-! ### Buffers -/

/-- Step 5 in the data buffer, for the rules that need no state. -/
def bufferBad (op : Nat) (e buf : List Byte) : List Nat :=
  match op with
  | 0x0108 => handlerImageBad buf
  | 0x0501 => screenImageBad buf
  | 0x0505 =>
    if (byteAt e 25).toNat = 3 then []
    else if byteAt buf 0 ≠ 4#8 then [0]
    else if onCurve buf then [] else [1]
  | _ => []

/-- Bit [31] of DETAIL: the offset lies in the data buffer (Table 04-4). -/
def inBuffer (o : Nat) : Nat := 0x80000000 + o

/-- DETAIL of the first failure of step 5. -/
def step5Bad (op : Nat) (e buf : List Byte) : Option Nat :=
  match lowest (reservedBad op e ++ paramBad op e) with
  | some o => some o
  | none => (lowest (bufferBad op e buf)).map inBuffer

/-- DETAIL of the first failure of step 5 in the plaintext of an envelope (R544, R559). -/
def plainBad (op : Nat) (e plain : List Byte) : Option Nat :=
  match op with
  | 0x0602 => (lowest (belfryBad plain)).map fun o => inBuffer (12 + o)
  | 0x0603 => (lowest (belfryReadBad (byteAt e 24).toNat (fieldN e 16 4) plain)).map fun o => inBuffer (12 + o)
  | _ => none

end Sys2Proof.Machine
end

