-- ==== Sys2Proof/Machine/ChoirDesc.lean ====
section
/-! DEFINITION. Choir descriptors: their fields, checks and rows (R225, R235-R238), and the undefined bytes an abandoned
or disturbed pass leaves (R244). -/

namespace Sys2Proof.Machine

/-- Two byte ranges meet. -/
def rangesMeet (a n b m : Nat) : Bool := decide (a < b + m ∧ b < a + n)

/-- Element size of a choir type, as input or as output (Table 08-2). -/
def choirSize (output : Bool) (ty : Nat) : Nat :=
  match ty with
  | 0 | 5 => 2
  | 1 => 4
  | 4 => if output then 4 else 1
  | _ => 1

/-! ### Descriptors (Tables 08-1 to 08-3) -/

/-- A choir descriptor's fields. -/
structure ChoirDesc where
  aType : Nat
  bType : Nat
  mode : Nat
  k : Nat
  aAddr : Nat
  bAddr : Nat
  cAddr : Nat
  aStride : Nat
  bStride : Nat
  cStride : Nat
  scale : Nat
deriving DecidableEq, Repr

/-- The fields of 64 descriptor bytes. -/
def choirDesc (d : List Byte) : ChoirDesc where
  aType := fieldN d 0 1 % 16
  bType := fieldN d 0 1 / 16
  mode := fieldN d 1 1
  k := fieldN d 2 2
  aAddr := fieldN d 4 4
  bAddr := fieldN d 8 4
  cAddr := fieldN d 12 4
  aStride := fieldN d 16 4
  bStride := fieldN d 20 4
  cStride := fieldN d 24 4
  scale := fieldN d 28 4

/-- OUT_TYPE. -/
def ChoirDesc.out (d : ChoirDesc) : Nat := d.mode % 16
/-- ACCUM. -/
def ChoirDesc.accum (d : ChoirDesc) : Bool := bitN d.mode 4

/-- An operand pair of Table 08-3. -/
def choirPair (a b : Nat) : Bool :=
  decide ((a = b ∧ (a = 0 ∨ a = 1 ∨ a = 4)) ∨ ((a = 2 ∨ a = 3) ∧ (b = 2 ∨ b = 3)))

/-- MODE as Table 08-3 allows it for the operand pair. -/
def ChoirDesc.modeOk (d : ChoirDesc) : Bool :=
  let int := decide (d.aType = 4)
  decide (d.mode < 32) &&
    (if int then decide (d.out = 4) else [0, 1, 2, 3, 5].contains d.out) &&
    (!d.accum || decide (d.out = if int then 4 else 1))

/-- SCALE as Table 08-3 allows it: a finite normal binary32, or exactly 1.0. -/
def ChoirDesc.scaleOk (d : ChoirDesc) : Bool :=
  let ex := bitsN d.scale 30 23
  if d.aType = 4 then decide (d.scale = 0x3F800000) else decide (0 < ex ∧ ex < 255)

/-- The rows of an operand: their first offsets and how many bytes each has. -/
def choirRows (count base stride width : Nat) : List (Nat × Nat) :=
  (List.range count).map fun i => (base + i * stride, width)

/-- A's rows. -/
def ChoirDesc.aRows (d : ChoirDesc) : List (Nat × Nat) := choirRows 32 d.aAddr d.aStride (d.k * choirSize false d.aType)
/-- B's rows. -/
def ChoirDesc.bRows (d : ChoirDesc) : List (Nat × Nat) := choirRows d.k d.bAddr d.bStride (32 * choirSize false d.bType)
/-- C's rows. -/
def ChoirDesc.cRows (d : ChoirDesc) : List (Nat × Nat) := choirRows 32 d.cAddr d.cStride (32 * choirSize true d.out)

/-- Every row ends at or below 524,288. -/
def rowsFit (rows : List (Nat × Nat)) : Bool := rows.all fun r => decide (r.1 + r.2 ≤ 524288)

/-- A row of one list meets a row of the other. -/
def rowsMeet (a b : List (Nat × Nat)) : Bool := a.any fun x => b.any fun y => rangesMeet x.1 x.2 y.1 y.2

/-- The offsets of the failing fields of a descriptor (R238). -/
def choirBad (bytes : List Byte) : List Nat :=
  let d := choirDesc bytes
  badIf (!choirPair d.aType d.bType) 0 ++
    badIf (!d.modeOk) 1 ++
    badIf (decide (d.k < 32 ∨ 4096 < d.k ∨ d.k % 32 ≠ 0)) 2 ++
    badIf (decide (d.aAddr % 64 ≠ 0) || !rowsFit d.aRows) 4 ++
    badIf (decide (d.bAddr % 64 ≠ 0) || !rowsFit d.bRows) 8 ++
    badIf (decide (d.cAddr % 64 ≠ 0) || !rowsFit d.cRows || rowsMeet d.cRows (d.aRows ++ d.bRows)) 12 ++
    badIf (decide (d.aStride % 32 ≠ 0)) 16 ++
    badIf (decide (d.bStride % 32 ≠ 0)) 20 ++
    badIf (decide (d.cStride % 32 ≠ 0 ∨ d.cStride < 32 * choirSize true d.out)) 24 ++
    badIf (!d.scaleOk) 28 ++
    (firstNonzero (fun o => decide (32 ≤ o)) 0 bytes).toList

/-! ### Undefined results (R244) -/

/-- C with undefined bytes (R244). -/
def spoilRows (s : State) (g : Nat) (rows : List (Nat × Nat)) : State :=
  rows.foldl (fun s r =>
    let fb := s.freeBytes r.2
    fb.2.modCell g fun c => { c with store := c.store.writeBytes r.1 fb.1 }) s

/-- The pass that runs in cell `g` is abandoned: its C bytes are undefined (chapter 08, Queue, timing and ordering), but
for a MALFORMED descriptor, whose pass writes nothing (R238). -/
def abandonPass (s : State) (g : Nat) : State :=
  match (s.cell g).choir.running with
  | none => s
  | some j => if (lowest (choirBad j.desc)).isNone then spoilRows s g (choirDesc j.desc).cRows else s

end Sys2Proof.Machine
end

