-- ==== Sys2Proof/Machine/Report.lean ====
section
/-! DEFINITION. Reporting: interrupts (R85-R87), events (R124-R127), the fault log (R475-R477), the capsule
(R478-R480) and completions (R100-R112). -/

namespace Sys2Proof.Machine

/-! ### MSI-X -/

/-- The key of vector `v` of function `fn` in a port's MSI-X table. -/
def msixKey (fn v : Nat) : Nat := if fn = 0 then v else 128 * fn + v

/-- Bus Master Enable of a function. -/
def HostPort.busMaster (h : HostPort) (fn : Nat) : Bool :=
  if fn = 0 then h.bme else decide (fn ≤ h.vfs) && h.vfBme.contains fn

/-- Memory Space Enable of a function. -/
def HostPort.memSpace (h : HostPort) (fn : Nat) : Bool :=
  if fn = 0 then h.mse else decide (fn ≤ h.vfs) && h.vfMse.contains fn

/-- A vector is signalled: sent, or its pending bit set while it is masked or its function's Bus Master Enable is
clear (R87, R593). -/
def signal (s : State) (p : HPort) (fn v : Nat) : State :=
  let h := s.hp p
  if (tget MsixEntry.fresh h.msix (msixKey fn v)).mask || !h.busMaster fn then
    s.modHp p fun h => { h with msixPend := setInsert (msixKey fn v) h.msixPend }
  else s.emit (.msix p fn v)

/-- A vector of a chapel's VF is signalled on each port where that VF is enabled (R89, R593). -/
def signalChapel (s : State) (c v : Nat) : State :=
  bothPorts.foldl (fun s p => if c + 1 ≤ (s.hp p).vfs then signal s p (c + 1) v else s) s

/-! ### Events -/

/-- A port in L1 leaves it for outbound traffic (R94). -/
def wakeLink (s : State) (p : HPort) : State :=
  s.modHp p fun h => if h.link = .l1 then { h with link := .l0 } else h

/-- The 32 bytes of an event entry (Table 04-17). -/
def EventRing.entry (r : EventRing) (e : Event) : List Byte :=
  le 2 e.code ++ [if r.phase then 0x80#8 else 0#8, BitVec.ofNat 8 e.chapel] ++ le 4 r.seq.toNat ++
    le 8 e.tstamp.toNat ++ padTo 16 e.detail

/-- The event ring of `p` takes entries: it is enabled and the link is not down (R127). -/
def HostPort.eventsOn (h : HostPort) : Bool := h.er.enable && decide (h.link ≠ .down)

/-- A slot is free, and the PF may master the bus (R125, R593). -/
def HostPort.eventRoom (h : HostPort) : Bool :=
  h.eventsOn && h.bme && decide (h.er.used < 2 ^ h.er.log2)

/-- An event is written to the ring of `p`, which has room (R124), and vector 0 is signalled if armed (R86). -/
def writeEvent (s : State) (p : HPort) (e : Event) : State :=
  let r := (s.hp p).er
  let tail := (r.tail + 1) % 2 ^ r.log2
  let s := (wakeLink s p).emit (.memWrite p 0 (r.base + 32 * r.tail) (r.entry e))
  let s := s.modHp p fun h => { h with er := { h.er with
    tail := tail, used := h.er.used + 1, seq := h.er.seq + 1#32,
    phase := if tail = 0 then !h.er.phase else h.er.phase, armed := false } }
  if r.armed then signal s p 0 0 else s

/-- Events EVENTS_LOST: the count dropped (R125). -/
def lostEvent (s : State) (n : Nat) : Event := ⟨0x000C, 255, s.pw.tstamp, le 4 n⟩

/-- The waiting events are posted, oldest first, while there is room (R125). -/
def flushWaiting (p : HPort) : List Event → State → State
  | [], s => s.modHp p fun h => { h with er := { h.er with waiting := [] } }
  | e :: es, s =>
    if (s.hp p).eventRoom then flushWaiting p es (writeEvent s p e)
    else s.modHp p fun h => { h with er := { h.er with waiting := e :: es } }

/-- Space has returned: EVENTS_LOST first, then what waits (R125). -/
def flushEvents (s : State) (p : HPort) : State :=
  let h := s.hp p
  let s := if decide (0 < h.er.lost) && h.eventRoom then
      (writeEvent s p (lostEvent s h.er.lost)).modHp p fun h => { h with er := { h.er with lost := 0 } }
    else s
  if 0 < (s.hp p).er.lost then s else flushWaiting p (s.hp p).er.waiting s

/-- WAKE_REASON (Table 04-18). -/
def wakeCode : Nat := 0x0007

/-- An exempt event waits; a newer WAKE_REASON takes the place of an undelivered one of its source, which counts as
lost (R126). -/
def holdEvent (r : EventRing) (e : Event) : EventRing :=
  let same := fun (w : Event) => decide (e.code = wakeCode) && decide (w.code = wakeCode) &&
    decide (w.detail.head? = e.detail.head?)
  if r.waiting.any same then
    { r with waiting := r.waiting.map (fun w => if same w then e else w), lost := satInc 0xFFFFFFFF r.lost }
  else { r with waiting := r.waiting ++ [e] }

/-- An event is posted to the ring of `p`: written, dropped and counted, or held (R125-R127). WAKE_REASON is held
whatever the port's state. -/
def postOn (s : State) (p : HPort) (e : Event) (exempt : Bool) : State :=
  let h := s.hp p
  if h.eventsOn then
    if h.eventRoom && decide (h.er.lost = 0) && h.er.waiting.isEmpty then writeEvent s p e
    else if exempt then s.modHp p fun h => { h with er := holdEvent h.er e }
    else s.modHp p fun h => { h with er := { h.er with lost := satInc 0xFFFFFFFF h.er.lost } }
  else if e.code = wakeCode then s.modHp p fun h => { h with er := holdEvent h.er e }
  else s

/-- The sacristy posts an event on both ports (R127); nothing is posted while it is halted (R471). -/
def post (s : State) (code chapel : Nat) (detail : List Byte) : State :=
  if s.flt.halted then s
  else bothPorts.foldl (fun s p => postOn s p ⟨code, chapel, s.pw.tstamp, padTo 16 detail⟩ (code = wakeCode)) s

/-- An event that concerns one port only (R127). -/
def postPort (s : State) (p : HPort) (code chapel : Nat) (detail : List Byte) : State :=
  if s.flt.halted then s else postOn s p ⟨code, chapel, s.pw.tstamp, padTo 16 detail⟩ false

/-- A class P FAULT event: exempt, and at most eight to a port (R125, R126). -/
def postFaultP (s : State) (detail : List Byte) : State :=
  bothPorts.foldl (fun s p =>
    if (s.hp p).eventsOn && decide ((s.hp p).er.pPosted < 8) then
      (postOn s p ⟨0x0006, 255, s.pw.tstamp, padTo 16 detail⟩ true).modHp p fun h =>
        { h with er := { h.er with pPosted := h.er.pPosted + 1 } }
    else s) s

/-! ### The fault log -/

/-- LOC of a cell (Table 17-7). -/
def locCell (g : Nat) : Nat := g
/-- LOC of a bay. -/
def locBay (b : Nat) : Nat := 0x1000 + b
/-- LOC of an aisle link, by its sending cell. -/
def locAisle (g : Nat) : Nat := 0x2000 + g
/-- LOC of a chantry link, by its sending cell. -/
def locChantry (g : Nat) : Nat := 0x3000 + g
/-- LOC of an HBM controller. -/
def locHbm (m : Nat) : Nat := 0x4000 + m
/-- LOC of a Transept port. -/
def locPort (t : Nat) : Nat := 0x5000 + t
/-- LOC of a host port. -/
def locHost (p : HPort) : Nat := 0x6000 + portIx p
/-- LOC of the sacristy. -/
def locSacristy : Nat := 0x7000
/-- LOC of the cloister. -/
def locCloister : Nat := 0x8000
/-- LOC of a thermal sensor (R586). -/
def locSensor (i : Nat) : Nat := 0x9000 + i
/-- LOC of the package. -/
def locPackage : Nat := 0xA000

/-- Which chancels' logs take an entry of this LOC: chancel N's, chancel S's (R475). -/
def logSides (loc : Nat) : Bool × Bool :=
  let id := loc % 4096
  let side (n : Bool) := (n, !n)
  match loc / 4096 with
  | 0 | 2 | 3 => side (decide (naveOf id < 6))
  | 1 => side (decide (naveOfBay id < 6))
  | 4 => side (decide (id < 4))
  | 5 => side (decide (id < 6))
  | 6 => side (decide (id = 0))
  | 9 => if id < 192 then side (decide (naveOfBay id < 6))
         else side (decide (id < 196 ∨ (200 ≤ id ∧ id < 204)))
  | _ => (true, true)

/-- A log with one more entry; the oldest of 4,096 is overwritten and counted (R477). -/
def addLog (log : List LogEntry) (lost : Nat) (e : LogEntry) : List LogEntry × Nat :=
  if log.length < 4096 then (log ++ [e], lost) else (log.drop 1 ++ [e], satInc 0xFFFFFFFF lost)

/-- An entry is written to the logs its class and LOC name (R475); class K and P entries join the latest 44. -/
def logEntry (s : State) (e : LogEntry) : State :=
  let sides := if e.cls = 0 then logSides e.loc else (true, true)
  let n := if sides.1 then addLog s.flt.logN s.flt.overN e else (s.flt.logN, s.flt.overN)
  let q := if sides.2 then addLog s.flt.logS s.flt.overS e else (s.flt.logS, s.flt.overS)
  let hist := if e.cls = 0 then s.flt.history
    else (s.flt.history ++ [e]).drop (s.flt.history.length + 1 - 44)
  { s with flt := { s.flt with logN := n.1, overN := n.2, logS := q.1, overS := q.2, history := hist } }

/-- The state with the rate-limit record of `key` set. -/
def setLimit (s : State) (key : Nat) (l : Limit) : State :=
  { s with flt := { s.flt with limits := tput Limit.fresh s.flt.limits key l } }

/-- A class C entry, at most one per `period` TSCLK cycles for its key (0: no limit); suppressed entries are counted in
REPEAT (R454, R476). The logs stand in the chancels: nothing is written while they are in reset. -/
def logKeyed (s : State) (key period cause loc chapel : Nat) (detail : List Byte) : State :=
  if s.pw.phase.rank < 4 then s
  else
    let l := tget Limit.fresh s.flt.limits key
    let early := match l.last with
      | some t => decide (s.ts - t.toNat < period)
      | none => false
    if early then setLimit s key { l with suppressed := satInc 0xFFFF l.suppressed }
    else
      let s := logEntry s ⟨s.pw.tstamp, 0, chapel, cause, loc, l.suppressed, padTo 16 detail⟩
      if period = 0 then s else setLimit s key ⟨some s.pw.tstamp, 0⟩

/-- A class C entry, at most one per `period` TSCLK cycles for its cause and LOC. -/
def logC (s : State) (period cause loc chapel : Nat) (detail : List Byte) : State :=
  logKeyed s (cause * 65536 + loc) period cause loc chapel detail

/-- One millisecond in TSCLK cycles. -/
def oneMs : Nat := 100000

/-! ### The capsule -/

/-- The low 64 bits of the asset ID: bytes 8-15 of the asset record (Table 18-11). -/
def State.assetLow (s : State) : List Byte := Memory.readBytes s.clo.tag.mem 8 8

/-- The 32 bytes of a log entry (Table 17-7). -/
def LogEntry.bytes (e : LogEntry) : List Byte :=
  le 8 e.tstamp.toNat ++ [BitVec.ofNat 8 e.cls, BitVec.ofNat 8 e.chapel] ++ le 2 e.cause ++ le 2 e.loc ++
    le 2 e.repeated ++ padTo 16 e.detail

/-- CHAPELS of the capsule: two bytes for one chapel (Table 17-9). -/
def Chapel.capsule (c : Chapel) : List Byte :=
  le 2 (c.state.code + 8 * c.policy + 16 * (if c.lastClass = 255 then 3 else c.lastClass) +
    64 * (if c.departed then 1 else 0))

/-- PORTS of the capsule: eight bytes for one Transept port (Table 17-9). -/
def TPort.capsule (t : TPort) : List Byte :=
  [BitVec.ofNat 8 t.state, t.mask, BitVec.ofNat 8 t.owner, BitVec.ofNat 8 t.span, BitVec.ofNat 8 t.downCause,
    BitVec.ofNat 8 t.lossClass, 0#8, 0#8]

/-- Four bay thermal states in a byte (Table 17-9). -/
def thermByte (s : State) (k : Nat) : Byte :=
  BitVec.ofNat 8 ((s.sensor (4 * k)).state + 4 * (s.sensor (4 * k + 1)).state + 16 * (s.sensor (4 * k + 2)).state +
    64 * (s.sensor (4 * k + 3)).state)

/-- The 2,048 bytes of a capsule (Table 17-9). -/
def capsuleBytes (s : State) (gen : BitVec 32) (trigger cause : Nat) : List Byte :=
  le 4 0x50534143 ++ le 4 gen.toNat ++ le 8 s.ts ++
    [BitVec.ofNat 8 trigger, BitVec.ofNat 8 s.pw.state.code] ++ le 2 cause ++ le 4 s.flash.epoch.toNat ++
    le 4 s.feb.screen.generation.toNat ++ le 4 s.flash.firmware.toNat ++ s.assetLow ++ zeros 24 ++
    chapelIds.flatMap (fun c => (s.chapel c).capsule) ++
    (List.range 12).flatMap (fun t => (s.link t).capsule) ++
    (List.range 8).flatMap (fun m => [BitVec.ofNat 8 (s.sensor (200 + m)).state, BitVec.ofNat 8 (s.stack m).train,
      BitVec.ofNat 8 (s.stack m).rate, BitVec.ofNat 8 (s.stack m).spareMin]) ++
    (List.range 48).map (thermByte s) ++
    (List.range 8).map (fun i => BitVec.ofNat 8 (s.sensor (192 + i)).state) ++ zeros 8 ++
    padTo 1408 (s.flt.history.flatMap LogEntry.bytes)

/-- A capsule reaches the cloister, which keeps it in CF and owes it to the tag (R479, R504). -/
def holdCapsule (s : State) (gen : BitVec 32) (bytes : List Byte) : State :=
  { s with flash := { s.flash with capsuleGen := gen, capsule := some bytes },
           clo := { s.clo with tagOwed := true } }

/-- The sacristy makes a capsule (R479). -/
def makeCapsule (s : State) (trigger cause : Nat) : State :=
  let gen := s.flash.capsuleGen + 1#32
  holdCapsule s gen (capsuleBytes s gen trigger cause)

/-- The cloister makes a capsule from the last one it holds, or a blank one (R479). -/
def cloisterCapsule (s : State) (cause : Nat) : State :=
  let gen := s.flash.capsuleGen + 1#32
  match s.flash.capsule with
  | some old => holdCapsule s gen
      (patch (patch (patch (patch old 4 (le 4 gen.toNat)) 8 (le 8 s.ts)) 16 [5#8]) 18 (le 2 cause))
  | none => holdCapsule s gen (padTo 2048
      (le 4 0x50534143 ++ le 4 gen.toNat ++ le 8 s.ts ++ [5#8, BitVec.ofNat 8 s.pw.state.code] ++ le 2 cause ++
        le 4 s.flash.epoch.toNat ++ zeros 8 ++ s.assetLow ++ [1#8]))

/-! ### Completions -/

/-- The 32 bytes of a completion entry (Table 04-4). -/
def Completion.bytes (c : Completion) (phase : Bool) (sqHead : Nat) : List Byte :=
  le 4 c.id.toNat ++ le 2 c.opcode ++
    [BitVec.ofNat 8 c.status,
     BitVec.ofNat 8 ((if phase then 128 else 0) + (if c.replayed then 64 else 0) + (if c.written then 32 else 0))] ++
    le 2 sqHead ++ zeros 2 ++ le 4 c.detail ++ padTo 16 c.result

/-- SQ_HEAD moved past every slot at it that is answered or removed (R101). -/
def advanceHead (n : Nat) : Nat → Nat → List Nat → Nat × List Nat
  | 0, head, passed => (head, passed)
  | fuel + 1, head, passed =>
    if passed.contains head then advanceHead n fuel ((head + 1) % n) (passed.erase head) else (head, passed)

/-- Ring `r` with submission slot `slot` answered or removed (R101). -/
def Ring.pass (r : Ring) (slot : Nat) : Ring :=
  let h := advanceHead (2 ^ r.log2) (r.passed.length + 1) r.sqHead (setInsert slot r.passed)
  { r with sqHead := h.1, passed := h.2 }

/-- The carafe is sealed (R556); the synthetic mark of its unseal ends (R562). -/
def reseal (s : State) : State := { s with bel := { s.bel with sealed := true, synthetic := false } }

/-- The package enters IDLE (R44); a stay starts (R488), and the carafe is sealed (R556). -/
def goIdle (s : State) : State :=
  let s := reseal s
  { s with pw := { s.pw with state := .idle, recording := true, wakes := [] } }

/-- Entry to a requested CRYPT begins: the capsule is copied, and a stay starts (R45, R488). -/
def beginCrypt (s : State) : State :=
  let s := makeCapsule (reseal s) 3 0
  { s with pw := { s.pw with entering := true, requested := true, recording := true, wakes := [] } }

/-- What follows a posted completion. -/
def AfterPost.run (a : AfterPost) (s : State) : State :=
  match a with
  | .nothing => s
  | .enterIdle => goIdle s
  | .enterCrypt => beginCrypt s

/-- A completion is written to its ring (R100-R104), and the ring's vector is signalled if armed (R86). -/
def writeCompletion (s : State) (p : HPort) (i : Nat) (c : Completion) : State :=
  let r := (s.ring p i).pass c.slot
  let tail := (r.cqTail + 1) % 2 ^ r.log2
  let s := (wakeLink s p).emit (.memWrite p 0 (r.cqBase + 32 * r.cqTail) (c.bytes r.phase r.sqHead))
  let s := s.modRing p i fun _ => { r with cqTail := tail, cqUsed := r.cqUsed + 1, armed := false,
                                           phase := if tail = 0 then !r.phase else r.phase }
  let s := if r.armed then signal s p 0 (i + 1) else s
  c.after.run s

/-- A completion of ring `i` can be written: a slot is free and the PF masters the bus (R100, R593). -/
def State.ringRoom (s : State) (p : HPort) (i : Nat) : Bool :=
  let r := s.ring p i
  r.enable && (s.hp p).bme && decide ((s.hp p).link ≠ .down) && decide (r.cqUsed < 2 ^ r.log2) && !s.flt.halted

/-- The waiting completions of a ring are posted in order while there is room (R100, R102). -/
def flushList (p : HPort) (i : Nat) : List Completion → State → State
  | [], s => s.modRing p i fun r => { r with waiting := [] }
  | c :: cs, s =>
    if s.ringRoom p i then flushList p i cs (writeCompletion s p i c)
    else s.modRing p i fun r => { r with waiting := c :: cs }

/-- The waiting completions of a ring are posted while there is room. -/
def flushRing (s : State) (p : HPort) (i : Nat) : State := flushList p i (s.ring p i).waiting s

/-- A completion joins the completions of its ring, in the order in which commands complete (R102). -/
def postCompletion (s : State) (p : HPort) (i : Nat) (c : Completion) : State :=
  flushRing (s.modRing p i fun r => { r with waiting := r.waiting ++ [c] }) p i

/-- Command `n`, while it is in the sequence. -/
def State.cmd (s : State) (n : Nat) : Option Cmd := s.feb.cmds.find? (fun c => c.n = n)

/-- The state with command `n` changed by `f`. -/
def State.modCmd (s : State) (n : Nat) (f : Cmd → Cmd) : State :=
  { s with feb := { s.feb with cmds := s.feb.cmds.map (fun c => if c.n = n then f c else c) } }

/-- The state without command `n`. -/
def State.dropCmd (s : State) (n : Nat) : State :=
  { s with feb := { s.feb with cmds := s.feb.cmds.filter (fun c => c.n ≠ n) } }

/-- OPCODE of a command's entry. -/
def Cmd.opcode (c : Cmd) : Nat := fieldN c.entry 0 2

/-- A command completes: it leaves the sequence, its duplicate window keeps the answer, and its completion and those
of its repeats are posted, or dropped and logged (R92, R99, R110, R111). -/
def completeCmd (s : State) (c : Cmd) (status detail : Nat) (result : List Byte) (written : Bool)
    (after : AfterPost) : State :=
  let ans : Completion := ⟨c.slot, BitVec.ofNat 32 (fieldN c.entry 4 4), c.opcode, status, false, written, detail,
    result, .nothing⟩
  let s := s.dropCmd c.n
  if c.dropped then after.run (logC s 0 0x0003 (locHost c.port) 255 [])
  else
    let s := s.modRing c.port c.ring fun r =>
      { r with dup := r.dup.map (fun d => if d.n = c.n then { d with answer := some ans } else d) }
    let s := postCompletion s c.port c.ring { ans with after := after }
    c.repeats.foldl (fun s slot => postCompletion s c.port c.ring { ans with slot := slot, replayed := true }) s

/-- A command completes with a status and DETAIL, an empty RESULT and no buffer written. -/
def failCmd (s : State) (c : Cmd) (status detail : Nat) : State := completeCmd s c status detail [] false .nothing

/-- A command completes OK with this RESULT. -/
def okCmd (s : State) (c : Cmd) (result : List Byte) : State := completeCmd s c 0 0 result false .nothing

/-- Objects whose state a command has changed are noted on every command behind it in the sequence (R107). -/
def touch (s : State) (n : Nat) (objs : List Obj) : State :=
  { s with feb := { s.feb with cmds := s.feb.cmds.map (fun c =>
    if n < c.n then { c with changed := c.changed ++ objs } else c) } }

/-- Byte `o` of a command's entry. -/
def Cmd.byte (c : Cmd) (o : Nat) : Nat := (byteAt c.entry o).toNat

/-- A command has changed its objects and completes OK (R107). -/
def doneCmd (s : State) (c : Cmd) (result : List Byte) : State := okCmd (touch s c.n c.objs) c result

/-- DATA_ADDR of an entry. -/
def Cmd.dataAddr (c : Cmd) : Nat := fieldN c.entry 8 8
/-- DATA_LEN of an entry. -/
def Cmd.dataLen (c : Cmd) : Nat := fieldN c.entry 16 4

/-- A command writes its data buffer and completes: the writes are emitted, and a write that ends in a PCIe error
is logged and leaves DATA_WRITTEN clear (R104, R105, R109). -/
def writeBuffer (s : State) (c : Cmd) (data : List Byte) (wrOk : Bool) : State × Bool :=
  if data.isEmpty then (s, false)
  else
    let ok := wrOk && (s.hp c.port).bme
    let s := if (s.hp c.port).bme then (wakeLink s c.port).emit (.memWrite c.port 0 c.dataAddr data) else s
    if ok then (s, true) else (logC s 0 0x0002 (locHost c.port) 255 [], false)

end Sys2Proof.Machine
end

