-- ==== Sys2Proof/Machine/Contain.lean ====
section
/-! DEFINITION. Stopping and resuming threads (Table 06-7), changes of chapel and port state, and containment:
class K and P faults, departures and their notices (R454-R466). -/

namespace Sys2Proof.Machine

/-! ### Threads -/

/-- A scalar register with a value; s0 ignores writes (Table 06-1). -/
def Ctx.setS (c : Ctx) (r : Nat) (v : Word) : Ctx :=
  if r = 0 then c else { c with s := tput 0#64 c.s r v }

/-- A scalar register's value; s0 reads zero. -/
def Ctx.getS (c : Ctx) (r : Nat) : Word := if r = 0 then 0#64 else tget 0#64 c.s r

/-- A context that waited gets its result in rd, passes its instruction, and is READY unless it is STOPPED. -/
def Ctx.leave (c : Ctx) (rd : Nat) (v : Word) : Ctx :=
  { (c.setS rd v) with waiting := .none, pc := c.pc + 4#19, mode := if c.mode = .wait then .ready else c.mode }

/-- A context that waited on a condition is READY to issue its instruction again. -/
def Ctx.retry (c : Ctx) : Ctx :=
  { c with waiting := .none, begun := true, mode := if c.mode = .wait then .ready else c.mode }

/-- The contexts of a cell whose wait satisfies `p` issue their instruction again. -/
def Cell.retryWhere (c : Cell) (p : Waiting → Bool) : Cell :=
  { c with ctxs := c.ctxs.map fun e => (e.1, if p e.2.waiting then e.2.retry else e.2) }

/-- rd of a context waiting in a barrier. -/
def Waiting.barrierRd : Waiting → Option Nat
  | .barrier _ rd => Option.some rd
  | _ => Option.none

/-- The running barrier of a cell ends: those who arrived leave with `v`, and those who wait for another barrier's
end try again (R189). -/
def Cell.endBarrier (c : Cell) (v : Word) : Cell :=
  let c := { c with barrier := none, ctxs := c.ctxs.map fun (e : Nat × Ctx) =>
    (e.1, match e.2.waiting.barrierRd with | some rd => e.2.leave rd v | none => e.2) }
  c.retryWhere fun w => decide (w = Waiting.barrierTurn)

/-- A participant of the running barrier exits or is stopped: the others leave with 1 (R189). -/
def Cell.barrierLoses (c : Cell) (t : Nat) : Cell :=
  match c.barrier with
  | some b => if b.mask.getLsbD t then c.endBarrier 1#64 else c
  | none => c

/-- Context `t` of a cell goes STOPPED. -/
def Cell.stopCtx (c : Cell) (t : Nat) : Cell :=
  let x := c.ctx t
  if x.mode = .ready ∨ x.mode = .wait then
    (c.modCtx t fun x => { x with mode := .stopped, stopAsked := false }).barrierLoses t
  else c

/-- A thread has a global access outstanding. -/
def Cell.outstanding (c : Cell) (t : Nat) : Bool := c.trackers.any fun e => e.2.busy && decide (e.2.tid = t)

/-- A wait that is itself a safe point: a turn, a barrier or a SUM wait. -/
def Waiting.safe : Waiting → Bool
  | .turn _ _ => true
  | .barrier _ _ => true
  | .barrierTurn => true
  | .sum _ => true
  | _ => false

/-- Context `t` stands at a safe point (chapter 06, Pause, retire and evict). -/
def Cell.atSafePoint (c : Cell) (t : Nat) : Bool := (c.ctx t).waiting.safe || !c.outstanding t

/-- A stop at the next safe point is asked of context `t` (Table 06-7). -/
def Cell.askStop (c : Cell) (t : Nat) : Cell :=
  let x := c.ctx t
  if x.mode = .ready ∨ x.mode = .wait then
    if c.atSafePoint t then c.stopCtx t else c.modCtx t fun x => { x with stopAsked := true }
  else c

/-- The TIDs of a cell. -/
def tids : List Nat := List.range 16

/-- BUSY engines of a cell go SUSPENDED. -/
def Slype.suspend (e : Slype) : Slype := if e.mode = 1 then { e with mode := 2 } else e

/-- SUSPENDED engines continue. -/
def Slype.goOn (e : Slype) : Slype := if e.mode = 2 then { e with mode := 1 } else e

/-- The cells of chapel `c` changed by `f`. -/
def State.modCells (s : State) (c : Nat) (f : Cell → Cell) : State :=
  (s.chapel c).cells.foldl (fun s g => s.modCell g f) s

/-- A pause begins: every thread is to stop at its next safe point, every BUSY engine is suspended (Table 06-7). -/
def askStopChapel (s : State) (c : Nat) : State :=
  (s.modCells c fun x => { (tids.foldl Cell.askStop x) with eng0 := x.eng0.suspend, eng1 := x.eng1.suspend }).modChapel c
    fun h => { h with pausing := true }

/-- Every thread of the chapel stops at its instruction boundary. -/
def hardStopChapel (s : State) (c : Nat) : State := s.modCells c fun x => tids.foldl Cell.stopCtx x

/-- Engines are suspended and the choir's pass is gone: with the threads stopped, the class K row of Table 06-7. -/
def Cell.contain (x : Cell) : Cell :=
  let y := tids.foldl Cell.stopCtx x
  { y with eng0 := y.eng0.suspend, eng1 := y.eng1.suspend, choir := { y.choir with running := none } }

/-- A context goes back to READY, or to WAIT where it was waiting. -/
def Ctx.unstop (x : Ctx) : Ctx :=
  if x.mode = .stopped then { x with mode := if x.waiting = .none then .ready else .wait } else x

/-- The threads of a cell go on after a pause; CHSTATE RESUMED is set for every thread (Tables 06-3, 06-7). -/
def Cell.resume (x : Cell) : Cell :=
  { x with eng0 := x.eng0.goOn, eng1 := x.eng1.goOn,
           ctxs := x.ctxs.map fun e => (e.1, if e.2.mode = .free then e.2 else { e.2.unstop with resumed := true }) }

/-! ### States of chapels and ports -/

/-- The flags of CHAPEL_QUERY [18]. -/
def Chapel.flags (c : Chapel) : Nat :=
  (if c.pauseHard then 1 else 0) + (if c.shedHard then 2 else 0) + (if c.drained then 4 else 0) +
    (if c.departed then 8 else 0)

/-- A chapel changes state: one CHAPEL_STATE event (R132) and its VF vector 0 (Table 03-5). -/
def setChState (s : State) (c : Nat) (new : ChState) : State :=
  let old := (s.chapel c).state
  if old = new then s
  else
    let s := s.modChapel c fun h => { h with state := new, changedAt := s.pw.tstamp }
    signalChapel (post s 0x0005 c [BitVec.ofNat 8 old.code, BitVec.ofNat 8 new.code,
      BitVec.ofNat 8 (s.chapel c).flags]) c 0

/-- A Transept port changes state: one TRANSEPT_STATE event (R445). -/
def setLinkState (s : State) (t st : Nat) : State :=
  if (s.link t).state = st then s
  else
    let s := s.modLink t fun l => { l with state := st, changedAt := s.pw.tstamp }
    post s 0x0009 (s.link t).owner [BitVec.ofNat 8 t, (s.link t).mask, BitVec.ofNat 8 st]

/-- A port carries frames and counts as up: UP or RESTRIPING (R441). -/
def TPort.up (l : TPort) : Bool := decide (l.state = 2 ∨ l.state = 3)

/-- The up ports for which `p` holds, in ascending number. -/
def State.upPorts (s : State) (p : TPort → Bool) : List Nat :=
  (List.range 12).filter fun t => (s.link t).up && p (s.link t)

/-- A port starts to send a control operation, after those it already repeats (R439). -/
def sendCtrl (s : State) (t op arg : Nat) (body : List Byte) : State :=
  s.modLink t fun l => match l.ctrl with
    | none => { l with ctrl := some ⟨op, arg, body⟩ }
    | some _ => { l with ctrlQueue := l.ctrlQueue ++ [⟨op, arg, body⟩] }

/-! ### Faults -/

/-- The body of DEPART (Table 17-3). -/
def departBody (s : State) (scope chapel cls cause : Nat) : List Byte :=
  s.assetLow ++ [BitVec.ofNat 8 scope, BitVec.ofNat 8 chapel, BitVec.ofNat 8 cls, 0#8] ++ le 2 cause ++ zeros 2 ++
    le 8 s.ts ++ le 4 (s.flash.capsuleGen + 1#32).toNat ++ zeros 4

/-- DETAIL of a FAULT event (Table 04-18, R474). -/
def faultDetail (cls cause loc : Nat) (detail : List Byte) : List Byte :=
  [BitVec.ofNat 8 cls, 0#8] ++ le 2 cause ++ le 2 loc ++ padTo 10 detail

/-- The states in which a class K fault ends a chapel's run (R456). -/
def ChState.active : ChState → Bool
  | .running | .paused | .retiring => true
  | _ => false

/-- The RESULT of a command stopped by a fault: the bytes a SLYPE_COPY moved (R457). -/
def movedResult (s : State) (c : Cmd) (ch : Nat) : List Byte :=
  if c.opcode = 0x0303 then le 8 ((s.cell ((s.chapel ch).globalOf 0)).eng 1).moved else []

/-- Commands executing on chapel `c` complete FAULT_CONTAINED (R457). -/
def containCmds (s : State) (c cause : Nat) : State :=
  (s.feb.cmds.filter (fun k => decide (k.stage = .running) && k.objs.contains (.chapel c))).foldl
    (fun s k => completeCmd s k 0x0C cause (movedResult s k c) false .nothing) s

/-- A class K fault in chapel `c`, but for what its policy adds: both logs, K_FAULTS, FAULT event, VF vector 1, and in
an active state the containment of Table 17-2 (R456-R458, R472). -/
def faultKHere (s : State) (c cause loc : Nat) (detail : List Byte) : State :=
  let s := { s with flt := { s.flt with kFaults := satInc 0xFFFFFFFF s.flt.kFaults } }
  let s := logEntry s ⟨s.pw.tstamp, 1, c, cause, loc, 0, padTo 16 detail⟩
  let was := (s.chapel c).state
  let s := if was = .faulted then s else s.modChapel c fun h => { h with lastClass := 1, lastCause := cause }
  let s := signalChapel (post s 0x0006 c (faultDetail 1 cause loc detail)) c 1
  if was.active then
    let s := (s.chapel c).cells.foldl abandonPass s
    let s := (s.modCells c Cell.contain).modChapel c fun h => { h with firstK := cause, pausing := false }
    containCmds (setChState s c .faulted) c cause
  else s

/-- A class K capsule, at most once per 100 ms (R479). -/
def capsuleK (s : State) (cause : Nat) : State :=
  let due := match s.flt.lastK with
    | some t => decide (10000000 ≤ s.ts - t.toNat)
    | none => true
  if due then
    let s := makeCapsule s 1 cause
    { s with flt := { s.flt with lastK := some s.pw.tstamp } }
  else s

/-- The package departs (R462): every active chapel becomes FAULTED with PKG_DEPARTED, DEPART goes out on every up
port, and the ports are to be FENCED. -/
def depart (s : State) (cls cause : Nat) : State :=
  let s := (chapelIds.filter fun c => (s.chapel c).state.active).foldl
    (fun s c => faultKHere s c 0x0162 locPackage []) s
  let body := departBody s 1 255 cls cause
  let s := (s.upPorts fun _ => true).foldl (fun s t => sendCtrl s t 6 0 body) s
  { s with flt := { s.flt with departing := some ⟨cls, cause, List.range 12⟩ } }

/-- A class K fault in chapel `c` with its policy's notices (R459-R462). `hw`: its origin is hw; `quiet`: no notice
goes out (R461, a PEER_FAULT). -/
def faultK (s : State) (c cause loc : Nat) (detail : List Byte) (hw quiet : Bool) : State :=
  let active := (s.chapel c).state.active
  let remap := hw && decide ((s.chapel c).policy = 1)
  let s := faultKHere s c cause loc detail
  let s :=
    if !active then s
    else if remap then depart s 1 cause
    else if quiet then s
    else
      let body := departBody s 0 c 1 cause
      (s.upPorts fun l => decide (l.owner = c)).foldl (fun s t => sendCtrl s t 6 0 body) s
  capsuleK s cause

/-- FAULT_STATUS and SMB_ALERT_N record a class P fault (R472, R473). -/
def latchP (s : State) (cause : Nat) : State :=
  let s := { s with clo := { s.clo with alertCause := s.clo.alertCause ||| 2#32 } }
  if s.flt.pLatched then s
  else { s with flt := { s.flt with pLatched := true, pCause := cause, pTstamp := s.pw.tstamp } }

/-- A class P fault other than CLK_LOSS, RAIL_LOSS and SACRISTY_LOCKSTEP (R462, R469, R472, R479). HBM_TRAIN_FAIL
neither departs nor sets PKG_FAULTED (R421). -/
def faultP (s : State) (cause loc : Nat) (detail : List Byte) : State :=
  let s := latchP s cause
  let s := logEntry s ⟨s.pw.tstamp, 2, 255, cause, loc, 0, padTo 16 detail⟩
  let s := postFaultP s (faultDetail 2 cause loc detail)
  let s := bothPorts.foldl (fun s p => signal s p 0 65) s
  let s := if cause = 0x0146 then s
    else depart { s with flt := { s.flt with pkgFaulted := true } } 2 cause
  makeCapsule s 2 cause

end Sys2Proof.Machine
end

