-- ==== Sys2Proof/Machine/PowerOps.lean ====
section
/-! DEFINITION. Shared operations of power and reset (chapter 02), of the wake sequencer (R486-R488), of the shed
(R53, R54) and of a chapel's teardown. -/

namespace Sys2Proof.Machine

/-! ### TSTAMP -/

/-- TSTAMP as it would be on leaving CRYPT now (R32, R485). -/
def State.tsNow (s : State) : BitVec 64 :=
  if s.pw.pll then s.pw.tstamp else s.pw.tstamp + BitVec.ofNat 64 (s.pw.k * 2500 / 678)

/-! ### Calibration choice (R494) -/

/-- The generation of a slot, 0 unless VALID (Table 18-9). -/
def CalSlot.validGen (c : CalSlot) : Nat := if c.st = .valid then c.gen else 0

/-- The VALID slot with the higher generation, A on a tie: none, or whether it is B (R494). -/
def Flash.calChoice (f : Flash) : Option Bool :=
  if f.slotA.st = .valid ∧ (f.slotB.st ≠ .valid ∨ f.slotB.gen ≤ f.slotA.gen) then some false
  else if f.slotB.st = .valid then some true
  else none

/-- The slot in use, when there is one. -/
def State.calSlot (s : State) : Option CalSlot :=
  if s.clo.calInUse then some (if s.clo.calB then s.flash.slotB else s.flash.slotA) else none

/-- The cloister selects a slot and sets CAL_TORN for a torn one (R494). -/
def calSelect (s : State) : State :=
  let torn := decide (s.flash.slotA.st = .torn ∨ s.flash.slotB.st = .torn)
  let s := s.when torn fun s => { s with clo := { s.clo with alertCause := s.clo.alertCause ||| 16#32 } }
  match s.flash.calChoice with
  | some b => { s with clo := { s.clo with calB := b, calNone := false, calInUse := true } }
  | none => { s with clo := { s.clo with calNone := true, calInUse := false } }

/-! ### Bring-up and main reset -/

/-- The host ports, reset with the main domains. The levels of PERSTx_N are the board's. -/
def freshPorts (s : State) : State := { s with h0 := {}, h1 := {} }

/-- What a requested CRYPT with HBM_KEEP keeps of a controller: the training values held at CRYPT entry (R419). -/
def Stack.kept (x : Stack) : Stack := { rate := x.rate }

/-- Main reset is applied to every main domain (R40, R585): what they hold is lost. HBM contents and training values
survive only a requested CRYPT with HBM_KEEP (R46). -/
def mainReset (s : State) (keepHbm : Bool) : State :=
  let k := if s.pw.pll then 0 else s.pw.k
  { freshPorts s with
    pw := { s.pw with phase := .held, pll := false, state := .crypt, entering := false, k := k }
    heat := {}
    flt := { s.flt with departing := none }
    feb := { nextCmd := s.feb.nextCmd }
    chapels := [], cells := [], amb := {}, aisleBays := [], links := []
    hbmStacks := if keepHbm then (s.hbmStacks.map fun e => (e.1, e.2.kept)).filter fun e => decide (e.2 ≠ Stack.fresh) else []
    gate := s.gate.dropUsers
    hbm := if keepHbm then s.hbm else {} }

/-- A CRYPT that was not requested begins, and with it a stay (R43, R488). -/
def unrequestedCrypt (s : State) : State :=
  let s := mainReset (reseal s) false
  { s with pw := { s.pw with requested := false, hbmKeep := false, recording := true, wakes := [] } }

/-- The main bring-up of Table 02-3 starts (cycle 0). A bring-up that leaves a CRYPT that was not requested sets the
limit to 1,200 W (R50); THERMTRIP_N is released by main power-on (R65). -/
def startBringUp (s : State) : State :=
  let lim := if s.pw.requested then s.pw.limitW else 1200
  calSelect { s with pw := { s.pw with
    phase := .switches, state := .active, wakeHeld := false, limitW := lim, thermtrip := false } }

/-- The screen epoch advances, the screen is generation 0, and the pending proposal and the memory of expired ones
are gone (R140, R150, R153). -/
def newEpoch (s : State) : State :=
  { s with flash := { s.flash with epoch := s.flash.epoch + 1#32 },
           feb := { s.feb with screen := {}, applying := none, pending := none, expired := [] } }

/-! ### IDLE -/

/-- The package leaves IDLE for ACTIVE; each assigned Transept port retrains from its held state (R47). -/
def leaveIdle (s : State) : State :=
  if s.pw.state = .idle ∧ s.pw.entering = false then
    let s := { s with pw := { s.pw with state := .active, recording := false } }
    (List.range 12).foldl (fun s t =>
      if (s.link t).up && decide ((s.link t).owner ≠ 255) then
        setLinkState (s.modLink t fun l => { l with heldState := true }) t 1
      else s) s
  else s

/-! ### Wakes (R48, R68, R486-R488) -/

/-- A source is enabled: host resume and interlock always, the others by WAKE_SRC_EN (Table 18-5). -/
def wakeEnabled (s : State) (src : Nat) : Bool :=
  if src = 0x11 then s.clo.wakeSrcEn.getLsbD 0
  else if src = 0x12 then s.clo.wakeSrcEn.getLsbD 1
  else if src = 0x13 then s.clo.wakeSrcEn.getLsbD 2
  else true

/-- A device wake, as against a host resume (chapter 02, Host resume and device wake together). -/
def wakeDevice (src : Nat) : Bool := decide (0x10 ≤ src)

/-- The record of a wake: a first arrival of its source takes the next order number and its WAKE_REASON event is held
for each host (R487, R488, R70). -/
def recordWake (s : State) (src : Nat) : State :=
  if s.pw.wakes.any (fun w => decide (w.source = src)) then
    { s with pw := { s.pw with wakes := s.pw.wakes.map (fun w =>
      if w.source = src then { w with count := satInc 255 w.count } else w) } }
  else
    let ord := s.pw.wakes.length + 1
    let t := s.tsNow
    let s := { s with pw := { s.pw with wakes := s.pw.wakes ++ [⟨src, ord, 1, t⟩] } }
    bothPorts.foldl (fun s p => postOn s p
      ⟨wakeCode, 255, t, [BitVec.ofNat 8 src, BitVec.ofNat 8 ord] ++ zeros 6 ++ le 8 t.toNat⟩ true) s

/-- WAKEx_N are asserted for a device wake, where the port's wake enable is set (R71, R95). -/
def assertWakePins (s : State) : State :=
  { s with pw := { s.pw with wake0 := s.pw.wake0 || s.pw.wakeEn0, wake1 := s.pw.wake1 || s.pw.wakeEn1 } }

/-- The accepted wake starts bring-up, or is held for PWRGD_MAIN (R48). Main reset held after CLK_LOSS or RAIL_LOSS
waits for PWRGD_MAIN to fall and rise (R585). -/
def wakeBringUp (s : State) : State :=
  if s.pw.lossHeld then s
  else if s.pw.mainPg then startBringUp s
  else { s with pw := { s.pw with wakeHeld := true },
                clo := { s.clo with alertCause := s.clo.alertCause ||| 1#32 } }

/-- A wake source arrives at the sequencer (R48, R49, R486). -/
def wakeSource (s : State) (src : Nat) : State :=
  if s.pw.porDone && s.pw.recording && wakeEnabled s src then
    let s := recordWake s src
    if s.pw.entering then s
    else if s.pw.state = .idle then leaveIdle s
    else if s.pw.state = .crypt ∧ s.pw.phase = .held then
      wakeBringUp (s.when (wakeDevice src) assertWakePins)
    else s
  else s

/-! ### Shed (R53, R54) -/

/-- Threads of a RETIRING chapel are held by a shed at their next safe points (Table 02-5a). -/
def shedRetiring (s : State) (c : Nat) : State :=
  (s.modCells c fun x => tids.foldl Cell.askStop x).modChapel c fun h => { h with shedHeld := true }

/-- The shed starts: the issue rate is forced to 1/16, every RUNNING chapel is asked to pause, the threads of every
RETIRING one to stop (Table 02-5). -/
def startShed (s : State) : State :=
  let s := { s with heat := { s.heat with rate := 1, shed := .shedding, ackNeeded := true } }
  chapelIds.foldl (fun s c => match (s.chapel c).state with
    | .running => askStopChapel s c
    | .retiring => shedRetiring s c
    | _ => s) s

/-! ### Chapel teardown -/

/-- A chapel's bays are to be powered off (R16, Table 04-10). -/
def wantOff (s : State) (bays : List Nat) : State :=
  bays.foldl (fun s b => s.modBay b fun y => if y.st = .off then { y with onWanted := false }
    else { y with offWanted := true, onWanted := false }) s

/-- A chapel becomes EMPTY: its tables, contexts and stores are gone and its bays go off (Table 04-10). The last fault
stays readable until the chapel is created again. -/
def teardown (s : State) (c : Nat) : State :=
  let h := s.chapel c
  let s := setChState s c .empty
  let s := { s with cells := s.cells.filter fun e => !h.holds e.1 }
  let s := wantOff s h.bays
  let s := { s with amb := { s.amb with targets := { s.amb.targets with
    windows := s.amb.targets.windows.filter (fun e => e.1 / 64 ≠ c), grants := tdel s.amb.targets.grants c } } }
  s.modChapel c fun x => { Chapel.fresh with
    lastClass := x.lastClass, lastCause := x.lastCause, changedAt := x.changedAt }

end Sys2Proof.Machine
end

