-- ==== Sys2Proof/Machine/Cells.lean ====
section
/-! DEFINITION. Threads: who may issue (R159, R162), exceptions (R228-R234), the end of a chapel's threads (R166), and
the address unit (R169-R176, R203). -/

namespace Sys2Proof.Machine

/-! ### Issue -/

/-- The instruction word at a context's PC in its own store (R200). -/
def Cell.nextWord (c : Cell) (t : Nat) : Nat := leNat (Memory.readBytes c.store (c.ctx t).pc.toNat 4)

/-- The instruction touches one of these scalar or vector registers. -/
def Ins.touches (i : Ins) (ss vs : List Nat) : Bool :=
  i.readsS.any ss.contains || i.readsV.any vs.contains ||
    (match i.writesS with | some r => decide (r ≠ 0) && ss.contains r | none => false) ||
    (match i.writesV with | some r => vs.contains r | none => false)

/-- A MEM_ERROR is due at the context's instruction boundary (R231, R232). -/
def Ctx.errorDue (x : Ctx) : Bool := !x.errors.isEmpty && !x.begun && !x.excCause.getLsbD 63

/-- A READY context with a next instruction that awaits no register and no MEM_ERROR due (R162, R232). -/
def Cell.issuable (c : Cell) (t : Nat) : Bool :=
  let x := c.ctx t
  decide (x.mode = .ready) && !x.errorDue &&
    match decodeIns (c.nextWord t) with
    | some i => !i.touches x.awaits x.awaitsV
    | none => true

/-- A context that may be passed over: it cannot issue, or its next instruction touches a register whose fixed
latency may still run (R227). -/
def Cell.passable (c : Cell) (t : Nat) : Bool :=
  let x := c.ctx t
  !c.issuable t ||
    match decodeIns (c.nextWord t) with
    | some i => i.touches (x.late.filter (· < 64)) ((x.late.filter (64 ≤ ·)).map (· - 64))
    | none => false

/-- The contexts the scheduler looks at before `t`, in its order (R159). -/
def Cell.before (c : Cell) (t : Nat) : List Nat :=
  (List.range ((t + 15 - c.lastTid) % 16)).map fun k => (c.lastTid + 1 + k) % 16

/-- The cell's bay is powered and clocked, and its chapel runs threads. -/
def State.cellRuns (s : State) (g : Nat) : Bool :=
  decide ((s.bay (bayOf g)).st = .on) && s.awake &&
    match s.chapelOfCell g with
    | some c => decide ((s.chapel c).state = .running ∨ (s.chapel c).state = .retiring)
    | none => false

/-- Context `t` of cell `g` may issue now (R159). -/
def State.mayIssue (s : State) (g t : Nat) : Bool :=
  decide (g < 3072 ∧ t < 16) && s.cellRuns g && (s.cell g).issuable t && ((s.cell g).before t).all (s.cell g).passable

/-- The chapel of a cell; 255 where it has none. -/
def State.chapelIx (s : State) (g : Nat) : Nat := (s.chapelOfCell g).getD 255

/-! ### The end of a chapel's threads -/

/-- None of the chapel's contexts holds a thread, and none of its engines is BUSY or SUSPENDED (R166). -/
def State.exited (s : State) (c : Nat) : Bool :=
  (s.threads c).isEmpty && (s.chapel c).cells.all fun g => decide ((s.cell g).eng0.mode = 0 ∧ (s.cell g).eng1.mode = 0)

/-- The commands that run on chapel `c` with opcode `op`. -/
def State.runningOn (s : State) (c op : Nat) : List Cmd :=
  s.feb.cmds.filter fun k => decide (k.stage = .running ∧ k.opcode = op ∧ k.byte 24 = c)

/-- A RUNNING or RETIRING chapel whose threads have all exited becomes EMPTY (R166, Table 05-2); a CHAPEL_RETIRE that
waits for it, and a CHAPEL_PAUSE under way, complete. -/
def settleChapel (s : State) (c : Nat) : State :=
  if ((s.chapel c).state = .running ∨ (s.chapel c).state = .retiring) ∧ s.exited c then
    let s := teardown s c
    let s := (s.runningOn c 0x0105).foldl (fun s k => doneCmd s k (zeros 5)) s
    (s.runningOn c 0x0103).foldl (fun s k => doneCmd s k (zeros 4)) s
  else s

/-! ### Boundaries and exceptions -/

/-- A stop asked for takes place once the context stands at a safe point (Table 06-7). -/
def Cell.settleStop (c : Cell) (t : Nat) : Cell :=
  if (c.ctx t).stopAsked && c.atSafePoint t then c.stopCtx t else c

/-- A stop asked of context `t` of cell `g` takes place if it can. -/
def settleStop (s : State) (g t : Nat) : State := s.modCell g (·.settleStop t)

/-- DETAIL of a fault of the thread group (Table 17-8). -/
def threadDetail (t code sub pc addr : Nat) : List Byte :=
  [BitVec.ofNat 8 t, BitVec.ofNat 8 code] ++ le 2 sub ++ le 3 pc ++ zeros 1 ++ le 6 addr ++ zeros 2

/-- ACTIVE, RESUMABLE, SUBCAUSE and CODE of EXC_CAUSE (Table 07-17). -/
def excCause (resumable : Bool) (sub code : Nat) : Word :=
  BitVec.ofNat 64 (2 ^ 63 + (if resumable then 2 ^ 62 else 0) + 256 * sub + code)

/-- Exception entry (R228, R229): the record is written, and the thread goes on at EXC_VEC, or stops with class K
THREAD_EXC. -/
def enterExc (s : State) (g t : Nat) (resumable : Bool) (sub code pc addr : Nat) : State :=
  let s := s.modCtx g t fun x => { x with
    excPc := BitVec.ofNat 64 pc, excCause := excCause resumable sub code, excAddr := BitVec.ofNat 64 addr,
    pc := BitVec.ofNat 19 x.excVec.toNat, begun := false }
  if (s.ctx g t).excVec = 0#64 then
    let s := s.modCtx g t fun x => { x with pc := BitVec.ofNat 19 pc }
    let s := s.modCell g (·.stopCtx t)
    faultK s (s.chapelIx g) 0x0110 (locCell g) (threadDetail t code sub pc addr) false false
  else settleStop s g t

/-- The causes whose EXC_ADDR holds an address (Table 07-17): ADDR_UNMAPPED, ADDR_ACCESS, ADDR_ALIGN. -/
def addrCause (code : Nat) : Bool := decide (2 ≤ code ∧ code ≤ 4)

/-- A precise exception at the context's instruction (R228-R230). -/
def raise (s : State) (g t code addr : Nat) : State :=
  let x := s.ctx g t
  let addr := if addrCause code then addr % 2 ^ 48 else 0
  if x.excCause.getLsbD 63 then
    faultK s (s.chapelIx g) 0x0111 (locCell g) (threadDetail t code 0 x.pc.toNat addr) false false
  else enterExc s g t true 0 code x.pc.toNat addr

/-- A chapel address for an offset in the thread's own store. -/
def ownAddr (s : State) (g off : Nat) : Nat := (s.chapel (s.chapelIx g)).relOf g * 524288 + off % 524288

/-- A next PC that is 4-byte aligned and inside the store (R205). -/
def pcOk (pc : Nat) : Bool := decide (pc % 4 = 0 ∧ pc < 524288)

/-- The context goes on at `pc`, or PC_RANGE is raised and `k` does not happen (R205). -/
def goTo (s : State) (g t pc : Nat) (k : State → State) : State :=
  if pcOk pc then (k s).modCtx g t fun x => { x with pc := BitVec.ofNat 19 pc } else raise s g t 0x07 0

/-- The instruction after this one is next; execution past the end of the store raises PC_RANGE (R204, R205). -/
def next (s : State) (g t : Nat) (k : State → State) : State := goTo s g t ((s.ctx g t).pc.toNat + 4) k

/-- An instruction whose result is a scalar register. -/
def setRd (s : State) (g t rd : Nat) (v : Word) : State := next s g t fun s => s.modCtx g t (·.setS rd v)

/-- A vector register's value. -/
def Ctx.getV (x : Ctx) (r : Nat) : VWord := tget 0#512 x.v r

/-- A vector register written. -/
def Ctx.setV (x : Ctx) (r : Nat) (v : VWord) : Ctx := { x with v := tput 0#512 x.v r v }

/-- An instruction whose result is a vector register. -/
def setVd (s : State) (g t vd : Nat) (v : VWord) : State := next s g t fun s => s.modCtx g t (·.setV vd v)

/-- The context waits. -/
def wait (s : State) (g t : Nat) (w : Waiting) : State :=
  s.modCtx g t fun x => { x with mode := .wait, waiting := w }

/-- The registers whose fixed latency starts with this instruction (Table 07-17a). -/
def Ins.slow : Ins → List Nat
  | .mulDiv _ d _ _ | .fp _ d _ _ | .load _ _ d _ _ | .vred _ _ _ d => [d]
  | .vld d _ _ | .vcvt _ _ d _ _ => [64 + d]
  | .vint f _ d _ _ r => if 0x0F ≤ f ∧ f ≤ 0x11 then [r] else [64 + d]
  | .vfp f _ d _ _ r => if 6 ≤ f ∧ f ≤ 8 then [r] else [64 + d]
  | _ => []

/-- The context issues: the round-robin moves to it, and what it reads and writes has been finished (R159, R227). -/
def startIns (s : State) (g t : Nat) (i : Ins) : State :=
  s.modCell g fun c => { (c.modCtx t fun x => { x with
    begun := false
    late := (x.late.filter fun r => !(if r < 64 then i.touches [r] [] else i.touches [] [r - 64])) ++ i.slow })
    with lastTid := t }

/-- A cell instruction of row `row` issues from context `t` of cell `g` and has its effect `k`; then a stop asked for
may take place. -/
def issueIns (row : Row) (g t : Nat) (s : State) (k : State → Ins → State) : Res :=
  match decodeIns ((s.cell g).nextWord t) with
  | none => .next s
  | some i => possible (decide (i.row = row) && s.mayIssue g t) s fun s =>
    settleStop (k (startIns s g t i) i) g t

/-- ILLEGAL_INSTRUCTION (R202): the word at PC spells no instruction. -/
def execIllegalInstruction (cell tid : Nat) (s : State) : Res :=
  possible (s.mayIssue cell tid && (decodeIns ((s.cell cell).nextWord tid)).isNone) s fun s =>
    let s := s.modCell cell fun c => { (c.modCtx tid fun x => { x with begun := false }) with lastTid := tid }
    settleStop (raise s cell tid 0x01 0) cell tid

/-- MEM_ERROR (R177, R231-R233): the oldest error response due is taken at the instruction boundary. -/
def execMemError (cell tid : Nat) (s : State) : Res :=
  let x := s.ctx cell tid
  possible (s.cellRuns cell && decide (x.mode = .ready) && x.errorDue) s fun s =>
    match (s.ctx cell tid).errors with
    | e :: es =>
      let s := s.modCtx cell tid fun x => { x with errors := es }
      settleStop (enterExc s cell tid false e.cause 0x05 e.pc.toNat e.addr.toNat) cell tid
    | [] => s

/-! ### The address unit (R168-R176, R203) -/

/-- What an access does. -/
inductive Access where
  | load
  | store
  | atomic
deriving DecidableEq, Repr

/-- Where a chapel address leads. -/
inductive Place where
  /-- the thread's own store -/
  | own (off : Nat)
  /-- another cell's store, by global ID -/
  | cell (g off : Nat)
  /-- HBM through a window or a lectern: WIN and package HBM address -/
  | hbm (win addr : Nat)
  /-- host memory through a window: port, WIN and offset -/
  | host (p : HPort) (win off : Nat)
  /-- another package: span slot and offset -/
  | remote (slot off : Nat)
deriving DecidableEq, Repr

/-- The code of a refused address, or its place. -/
abbrev Placed := Except Nat Place

/-- The windows in the cells' tables: an unmap takes one out of them first (R386). -/
def Chapel.cellWindows (h : Chapel) : Tbl Window := h.windows.filter fun e => !e.2.closing

/-- A window translates an address (R172). -/
def windowPlace (kind : Access) (n : Nat) (w : Window) (a : Nat) : Placed :=
  let off := a - w.addr
  if (kind = .load ∧ w.access % 2 = 0) ∨ (kind ≠ .load ∧ w.access < 2) ∨ (kind = .atomic ∧ w.kind ≠ 1) then .error 0x03
  else if w.kind = 1 then .ok (.hbm n (w.base + off))
  else .ok (.host (portOf (w.kind - 2)) n off)

/-- A lectern address (R173). -/
def lecternPlace (s : State) (c : Nat) (kind : Access) (a : Nat) : Placed :=
  let n := (a - 0x010000000000) / 0x001000000000
  let off := (a - 0x010000000000) % 0x001000000000
  let l := s.lectern n
  if !bitN (s.chapelRec c).grant n || !l.defined || decide (l.size ≤ off) then .error 0x02
  else if kind ≠ .load then .error 0x03
  else .ok (.hbm (64 + n) (l.base + off))

/-- The ports of chapel `c` that hold span slot `n`, in ascending number (R174). -/
def State.slotPorts (s : State) (c n : Nat) : List Nat :=
  (List.range 12).filter fun t => decide ((s.link t).owner = c ∧ (s.link t).span = n)

/-- A chapel address classified for a thread of cell `g` (R169-R174, Table 06-4). -/
def classify (s : State) (g : Nat) (kind : Access) (a : Nat) : Placed :=
  let c := s.chapelIx g
  let h := s.chapel c
  if a < 0x60000000 then
    let ix := a / 524288
    let off := a % 524288
    if h.ncells ≤ ix then .error 0x02
    else if h.globalOf ix = g then .ok (.own off)
    else .ok (.cell (h.globalOf ix) off)
  else if a < 0x000100000000 then .error 0x02
  else if a < 0x004900000000 then
    match h.cellWindows.find? (fun e => decide (e.2.addr ≤ a ∧ a < e.2.addr + e.2.size)) with
    | some e => windowPlace kind e.1 e.2 a
    | none => .error 0x02
  else if a < 0x010000000000 then .error 0x02
  else if a < 0x018000000000 then lecternPlace s c kind a
  else if a < 0x400000000000 then .error 0x02
  else if a < 0x800000000000 then
    let slot := bitsN a 45 40
    if (s.slotPorts c slot).isEmpty then .error 0x02 else .ok (.remote slot (a % 2 ^ 40))
  else .error 0x02

/-- ra + sign-extended OFF, modulo 2^64 (R203). -/
def effAddr (base : Word) (off : Nat) : Nat := (base + (BitVec.ofNat 16 off).signExtend 64).toNat

/-- A data address checked in the order: bits [63:48], alignment, place (R203, R175, R169). -/
def checkAddr (s : State) (g : Nat) (kind : Access) (width a : Nat) : Placed :=
  if 2 ^ 48 ≤ a then .error 0x02
  else if a % width ≠ 0 then .error 0x04
  else classify s g kind a

end Sys2Proof.Machine
end

