-- ==== Sys2Proof/Machine/Float.lean ====
section
/-! DEFINITION. Floating point: binary32, binary16, bfloat16 and the two fp8 formats as exact dyadic values with one
rounding to nearest, ties to even (R209, R210, R219, R220). The formats are those of IEEE 754 (log entry 5). -/

namespace Sys2Proof.Machine

/-- A format: exponent bits and fraction bits; E4M3 has no infinities. -/
structure FFmt where
  ebits : Nat
  mbits : Nat
  /-- E4M3: the highest exponent holds numbers, and one NaN pattern -/
  e4m3 : Bool := false
deriving DecidableEq, Repr

/-- binary32 -/
def f32 : FFmt := ⟨8, 23, false⟩
/-- binary16 -/
def f16 : FFmt := ⟨5, 10, false⟩
/-- bfloat16 -/
def bf16 : FFmt := ⟨8, 7, false⟩
/-- fp8 E4M3 -/
def e4m3 : FFmt := ⟨4, 3, true⟩
/-- fp8 E5M2 -/
def e5m2 : FFmt := ⟨5, 2, false⟩

/-- Exponent bias. -/
def FFmt.bias (f : FFmt) : Nat := 2 ^ (f.ebits - 1) - 1

/-- Bits of the format. -/
def FFmt.width (f : FFmt) : Nat := f.ebits + f.mbits + 1

/-- The exponent of the last place of the smallest numbers. -/
def FFmt.low (f : FFmt) : Int := 1 - (f.bias : Int) - f.mbits

/-- A value: not a number, an infinity, or ±m·2^e. -/
inductive FVal where
  | nan
  | inf (neg : Bool)
  | fin (neg : Bool) (m : Nat) (e : Int)
deriving DecidableEq, Repr

/-- The magnitude bits above which E4M3 holds no number: 0x7F is NaN. -/
def FFmt.top (f : FFmt) : Nat :=
  if f.e4m3 then 2 ^ (f.ebits + f.mbits) - 1 else (2 ^ f.ebits - 1) * 2 ^ f.mbits

/-- The value a bit pattern stands for. -/
def fdec (f : FFmt) (v : Nat) : FVal :=
  let neg := v.testBit (f.ebits + f.mbits)
  let mag := v % 2 ^ (f.ebits + f.mbits)
  let frac := mag % 2 ^ f.mbits
  let ex := mag / 2 ^ f.mbits
  if f.top ≤ mag then if !f.e4m3 && mag = f.top then .inf neg else .nan
  else if ex = 0 then .fin neg frac f.low
  else .fin neg (frac + 2 ^ f.mbits) (f.low + ex - 1)

/-- The canonical quiet NaN (R210); 0x7F in E4M3 and 0x7E in E5M2 (R220). -/
def FFmt.nan (f : FFmt) : Nat :=
  if f.e4m3 then f.top else f.top + 2 ^ (f.mbits - 1)

/-- Bits in a number. -/
def bitLen (n : Nat) : Nat := if n = 0 then 0 else Nat.log2 n + 1

/-- `m` divided by 2^k, rounded to nearest, ties to even. -/
def roundShift (m k : Nat) : Nat :=
  let q := m >>> k
  let r := m % 2 ^ k
  let half := 2 ^ k / 2
  if k = 0 then m
  else if r > half ∨ (r = half ∧ q % 2 = 1) then q + 1 else q

/-- The magnitude bits of m·2^e rounded to the format, before overflow is looked at. -/
def roundMag (f : FFmt) (m : Nat) (e : Int) : Nat :=
  if m = 0 then 0
  else
    let q := max (e + bitLen m - (f.mbits + 1)) f.low
    let n := if q ≤ e then m <<< (e - q).toNat else roundShift m (q - e).toNat
    (q - f.low).toNat * 2 ^ f.mbits + n

/-- The sign bit of a format. -/
def signBit (f : FFmt) (neg : Bool) : Nat := if neg then 2 ^ (f.ebits + f.mbits) else 0

/-- A value rounded to a format: overflow gives infinity. -/
def fenc (f : FFmt) : FVal → Nat
  | .nan => f.nan
  | .inf neg => signBit f neg + f.top
  | .fin neg m e => signBit f neg + min (roundMag f m e) f.top

/-- A value rounded to a format that saturates finite overflow to its largest finite value; E4M3 takes infinity so
too (R220). -/
def fencSat (f : FFmt) : FVal → Nat
  | .nan => f.nan
  | .inf neg => signBit f neg + if f.e4m3 then f.top - 1 else f.top
  | .fin neg m e => signBit f neg + min (roundMag f m e) (f.top - 1)

/-- The signed integer m·2^(e - lo) of a finite value, for an exponent `lo` not above `e`. -/
def scaled (neg : Bool) (m : Nat) (e lo : Int) : Int :=
  let v : Int := (m <<< (e - lo).toNat : Nat)
  if neg then -v else v

/-- ±x as a value with exponent `e`; `z` is the sign of a zero. -/
def ofInt (x e : Int) (z : Bool) : FVal :=
  if x = 0 then .fin z 0 e else .fin (decide (x < 0)) x.natAbs e

/-- The exact sum; an exact zero from opposite signs is +0. -/
def fvAdd : FVal → FVal → FVal
  | .nan, _ => .nan
  | _, .nan => .nan
  | .inf a, .inf b => if a = b then .inf a else .nan
  | .inf a, _ => .inf a
  | _, .inf b => .inf b
  | .fin a m e, .fin b n g =>
    let lo := min e g
    ofInt (scaled a m e lo + scaled b n g lo) lo (a && b)

/-- The negation. -/
def fvNeg : FVal → FVal
  | .nan => .nan
  | .inf a => .inf !a
  | .fin a m e => .fin (!a) m e

/-- The exact product. -/
def fvMul : FVal → FVal → FVal
  | .nan, _ => .nan
  | _, .nan => .nan
  | .inf a, .inf b => .inf (a != b)
  | .inf a, .fin b m _ => if m = 0 then .nan else .inf (a != b)
  | .fin a m _, .inf b => if m = 0 then .nan else .inf (a != b)
  | .fin a m e, .fin b n g => .fin (a != b) (m * n) (e + g)

/-- The quotient, to more bits than any format keeps, the last one standing for what follows it. -/
def fvDiv : FVal → FVal → FVal
  | .nan, _ => .nan
  | _, .nan => .nan
  | .inf _, .inf _ => .nan
  | .inf a, .fin b _ _ => .inf (a != b)
  | .fin a _ _, .inf b => .fin (a != b) 0 0
  | .fin a m e, .fin b n g =>
    if n = 0 then if m = 0 then .nan else .inf (a != b)
    else
      let x := m <<< 64
      .fin (a != b) (2 * (x / n) + if x % n = 0 then 0 else 1) (e - g - 65)

/-- The integer square root, bit by bit from bit `k` - 1 downward. -/
def isqrt (n : Nat) : Nat → Nat → Nat
  | 0, r => r
  | k + 1, r =>
    let c := r + 2 ^ k
    isqrt n k (if c * c ≤ n then c else r)

/-- The square root, as `fvDiv` gives a quotient. -/
def fvSqrt : FVal → FVal
  | .nan => .nan
  | .inf a => if a then .nan else .inf false
  | .fin a m e =>
    if m = 0 then .fin a 0 e
    else if a then .nan
    else
      let odd := (e % 2).toNat
      let x := m <<< (64 + odd)
      let r := isqrt x 48 0
      .fin false (2 * r + if r * r = x then 0 else 1) ((e - odd - 64) / 2 - 1)

/-- x < y, for numbers; zeros of either sign are equal. -/
def fvLt : FVal → FVal → Bool
  | .nan, _ => false
  | _, .nan => false
  | .inf a, .inf b => a && !b
  | .inf a, .fin _ _ _ => a
  | .fin _ _ _, .inf b => !b
  | .fin a m e, .fin b n g =>
    let lo := min e g
    decide (scaled a m e lo < scaled b n g lo)

/-- x = y, for numbers. -/
def fvEq (x y : FVal) : Bool :=
  match x, y with
  | .nan, _ => false
  | _, .nan => false
  | x, y => !fvLt x y && !fvLt y x

/-- Sign of a value. -/
def fvSign : FVal → Bool
  | .nan => false
  | .inf a => a
  | .fin a _ _ => a

/-- x is below y in the order in which -0 is below +0. -/
def fvBelow (x y : FVal) : Bool := fvLt x y || (fvEq x y && fvSign x && !fvSign y)

/-- A result that is NaN is the canonical one; any other keeps its bits. -/
def pick (f : FFmt) (x : Nat) : Nat :=
  match fdec f x with
  | .nan => f.nan
  | _ => x

/-- Sum, difference, product, quotient, rounded (Table 07-5). -/
def fadd (f : FFmt) (x y : Nat) : Nat := fenc f (fvAdd (fdec f x) (fdec f y))
/-- Difference. -/
def fsub (f : FFmt) (x y : Nat) : Nat := fenc f (fvAdd (fdec f x) (fvNeg (fdec f y)))
/-- Product. -/
def fmul (f : FFmt) (x y : Nat) : Nat := fenc f (fvMul (fdec f x) (fdec f y))
/-- Quotient. -/
def fdiv (f : FFmt) (x y : Nat) : Nat := fenc f (fvDiv (fdec f x) (fdec f y))
/-- Square root. -/
def fsqrt (f : FFmt) (x : Nat) : Nat := fenc f (fvSqrt (fdec f x))
/-- x × y + z, rounded once. -/
def ffma (f : FFmt) (x y z : Nat) : Nat := fenc f (fvAdd (fvMul (fdec f x) (fdec f y)) (fdec f z))

/-- minimumNumber and maximumNumber of IEEE 754: a number is preferred to a NaN (Table 07-5). -/
def fminmax (f : FFmt) (isMax : Bool) (x y : Nat) : Nat :=
  match fdec f x, fdec f y with
  | .nan, _ => pick f y
  | _, .nan => pick f x
  | a, b => if fvBelow (if isMax then b else a) (if isMax then a else b) then x else y

/-- Equal, less, less or equal; false with a NaN (Table 07-5). -/
def feq (f : FFmt) (x y : Nat) : Bool := fvEq (fdec f x) (fdec f y)
/-- Less. -/
def flt (f : FFmt) (x y : Nat) : Bool := fvLt (fdec f x) (fdec f y)
/-- Less or equal. -/
def fle (f : FFmt) (x y : Nat) : Bool := feq f x y || flt f x y

/-- An integer as a value. -/
def fvOfInt (x : Int) : FVal := ofInt x 0 false

/-- A format's pattern converted to another, rounded. -/
def fconv (src dst : FFmt) (x : Nat) : Nat := fenc dst (fdec src x)

/-- The integer a value rounds to: toward zero, or to nearest even; none for NaN, infinities left to the caller. -/
def fvToInt (nearest : Bool) (m : Nat) (e : Int) : Nat :=
  if 0 ≤ e then m <<< e.toNat
  else if nearest then roundShift m (-e).toNat else m >>> (-e).toNat

/-- A value converted to a signed integer of `w` bits, saturating; NaN gives 0 (Tables 07-5, 07-12). -/
def fToInt (f : FFmt) (w : Nat) (nearest : Bool) (x : Nat) : Int :=
  let hi : Int := 2 ^ (w - 1) - 1
  let lo : Int := -(2 ^ (w - 1))
  match fdec f x with
  | .nan => 0
  | .inf neg => if neg then lo else hi
  | .fin neg m e =>
    if 200 < e + bitLen m then if neg then lo else hi
    else
      let v : Int := fvToInt nearest m e
      max lo (min hi (if neg then -v else v))

end Sys2Proof.Machine
end

