-- ==== Sys2Proof/Machine/Scalar.lean ====
section
/-! DEFINITION. Scalar instructions, program flow, and the special registers (R199, R204-R211, R214-R216, R234;
chapter 07). -/

namespace Sys2Proof.Machine

/-! ### Arithmetic -/

/-- The low 32 bits, sign-extended to a word. -/
def sext32 (v : Word) : Word := (v.truncate 32).signExtend 64

/-- The number of leading zeros of the low `n` bits of `v`. -/
def clz : Nat → Nat → Nat
  | 0, _ => 0
  | n + 1, v => if v.testBit n then 0 else 1 + clz n v

/-- The number of trailing zeros of `v` up to `n`. -/
def ctz : Nat → Nat → Nat
  | 0, _ => 0
  | n + 1, v => if v % 2 = 1 then 0 else 1 + ctz n (v / 2)

/-- The number of set bits among the low `n`. -/
def popCount : Nat → Nat → Nat
  | 0, _ => 0
  | n + 1, v => v % 2 + popCount n (v / 2)

/-- 1 for true. -/
def boolWord (b : Bool) : Word := if b then 1#64 else 0#64

/-- Shifts and rotation of a word by n < 64: SLL, SRL, SRA, ROR. -/
def shiftWord (kind : Nat) (a : Word) (n : Nat) : Word :=
  match kind with
  | 0 => a <<< n
  | 1 => a >>> n
  | 2 => a.sshiftRight n
  | _ => a.rotateRight n

/-- Table 07-3, by FUNC. -/
def aluOp (func : Nat) (a b : Word) : Word :=
  match func with
  | 0x000 => a + b
  | 0x001 => a - b
  | 0x002 => a &&& b
  | 0x003 => a ||| b
  | 0x004 => a ^^^ b
  | 0x005 => a &&& ~~~b
  | 0x006 => shiftWord 0 a (b.toNat % 64)
  | 0x007 => shiftWord 1 a (b.toNat % 64)
  | 0x008 => shiftWord 2 a (b.toNat % 64)
  | 0x009 => shiftWord 3 a (b.toNat % 64)
  | 0x00A => boolWord (a.slt b)
  | 0x00B => boolWord (a.ult b)
  | 0x00C => if a.slt b then a else b
  | 0x00D => if a.slt b then b else a
  | 0x00E => if a.ult b then a else b
  | 0x00F => if a.ult b then b else a
  | 0x010 => sext32 (a + b)
  | 0x011 => sext32 (a - b)
  | 0x012 => BitVec.ofNat 64 (clz 64 a.toNat)
  | 0x013 => BitVec.ofNat 64 (ctz 64 a.toNat)
  | 0x014 => BitVec.ofNat 64 (popCount 64 a.toNat)
  | 0x015 => BitVec.ofNat 64 (beNat (le 8 a.toNat))
  | 0x016 => (a.truncate 8).signExtend 64
  | 0x017 => (a.truncate 16).signExtend 64
  | 0x018 => sext32 a
  | _ => (a.truncate 32).zeroExtend 64

/-- The six immediate instructions (R207). -/
def immOp (k : Nat) (a : Word) (imm : Nat) : Word :=
  let sx := (BitVec.ofNat 16 imm).signExtend 64
  let zx := BitVec.ofNat 64 imm
  match k with
  | 0 => a + sx
  | 1 => a &&& zx
  | 2 => a ||| zx
  | 3 => a ^^^ zx
  | 4 => boolWord (a.slt sx)
  | _ => boolWord (a.ult sx)

/-- INSK: halfword `h` replaced by IMM (R207). -/
def inskOp (d : Word) (h imm : Nat) : Word :=
  (d &&& ~~~(0xFFFF#64 <<< (16 * h))) ||| (BitVec.ofNat 64 imm <<< (16 * h))

/-- Quotient, rounded toward zero (R208). -/
def divOp (signed : Bool) (a b : Word) : Word :=
  if b = 0#64 then BitVec.allOnes 64
  else if signed then BitVec.ofInt 64 (a.toInt.tdiv b.toInt) else a / b

/-- Remainder, with the sign of ra (R208). -/
def remOp (signed : Bool) (a b : Word) : Word :=
  if b = 0#64 then a
  else if signed then BitVec.ofInt 64 (a.toInt.tmod b.toInt) else a % b

/-- Table 07-4, by FUNC. -/
def mulDivOp (func : Nat) (a b : Word) : Word :=
  match func with
  | 0 => a * b
  | 1 => BitVec.ofInt 64 (a.toInt * b.toInt / 2 ^ 64)
  | 2 => BitVec.ofNat 64 (a.toNat * b.toNat / 2 ^ 64)
  | 3 => BitVec.ofInt 64 (a.toInt * (b.toNat : Int) / 2 ^ 64)
  | 4 => sext32 (a * b)
  | 5 => divOp true a b
  | 6 => divOp false a b
  | 7 => remOp true a b
  | _ => remOp false a b

/-- Table 07-5, by FUNC: operands in bits [31:0], the result zero-extended but for the integer conversions (R199,
R211). -/
def fpOp (func : Nat) (wa wb : Word) : Word :=
  let a := wa.toNat % 2 ^ 32
  let b := wb.toNat % 2 ^ 32
  let f := fun (n : Nat) => BitVec.ofNat 64 n
  match func with
  | 0 => f (fadd f32 a b)
  | 1 => f (fsub f32 a b)
  | 2 => f (fmul f32 a b)
  | 3 => f (fdiv f32 a b)
  | 4 => f (fsqrt f32 a)
  | 5 => f (fminmax f32 false a b)
  | 6 => f (fminmax f32 true a b)
  | 7 => boolWord (feq f32 a b)
  | 8 => boolWord (flt f32 a b)
  | 9 => boolWord (fle f32 a b)
  | 10 => f (a ^^^ 0x80000000)
  | 11 => f (a % 2 ^ 31)
  | 12 => f (fenc f32 (fvOfInt (wa.truncate 32).toInt))
  | 13 => f (fenc f32 (fvOfInt wa.toInt))
  | 14 => BitVec.ofInt 64 (fToInt f32 32 false a)
  | _ => BitVec.ofInt 64 (fToInt f32 64 false a)

/-- SCALAR_ALU (R206). -/
def execScalarAlu (cell tid : Nat) (s : State) : Res :=
  issueIns .scalarAlu cell tid s fun s i => match i with
    | .alu func rd ra rb =>
      let x := s.ctx cell tid
      setRd s cell tid rd (aluOp func (x.getS ra) (x.getS rb))
    | _ => s

/-- IMMEDIATE_ALU (R207). -/
def execImmediateAlu (cell tid : Nat) (s : State) : Res :=
  issueIns .immediateAlu cell tid s fun s i => match i with
    | .imm k rd ra imm => setRd s cell tid rd (immOp k ((s.ctx cell tid).getS ra) imm)
    | _ => s

/-- SHI (R207). -/
def execShi (cell tid : Nat) (s : State) : Res :=
  issueIns .shi cell tid s fun s i => match i with
    | .shi kind rd ra amount => setRd s cell tid rd (shiftWord kind ((s.ctx cell tid).getS ra) amount)
    | _ => s

/-- INSK (R207). -/
def execInsk (cell tid : Nat) (s : State) : Res :=
  issueIns .insk cell tid s fun s i => match i with
    | .insk rd h imm => setRd s cell tid rd (inskOp ((s.ctx cell tid).getS rd) h imm)
    | _ => s

/-- MULTIPLY_DIVIDE (R208). -/
def execMultiplyDivide (cell tid : Nat) (s : State) : Res :=
  issueIns .mulDiv cell tid s fun s i => match i with
    | .mulDiv func rd ra rb =>
      let x := s.ctx cell tid
      setRd s cell tid rd (mulDivOp func (x.getS ra) (x.getS rb))
    | _ => s

/-- SCALAR_FLOATING_POINT (R199, R209-R211). -/
def execScalarFloatingPoint (cell tid : Nat) (s : State) : Res :=
  issueIns .scalarFp cell tid s fun s i => match i with
    | .fp func rd ra rb =>
      let x := s.ctx cell tid
      setRd s cell tid rd (fpOp func (x.getS ra) (x.getS rb))
    | _ => s

/-! ### Program flow -/

/-- The six compares in MAJOR order (R204). -/
def compareOp (k : Nat) (a b : Word) : Bool :=
  match k with
  | 0 => a == b
  | 1 => a != b
  | 2 => a.slt b
  | 3 => !a.slt b
  | 4 => a.ult b
  | _ => !a.ult b

/-- A PC plus 4 times a signed word offset of `n` bits; a sum outside the store is no PC (R204, R205). -/
def branchPc (pc n off : Nat) : Nat :=
  let d := (BitVec.ofNat n off).toInt
  let v : Int := pc + 4 * d
  if v < 0 then 2 ^ 64 - 1 else v.toNat

/-- BRANCH (R204, R205): a branch not taken never raises PC_RANGE for its target. -/
def execBranch (cell tid : Nat) (s : State) : Res :=
  issueIns .branch cell tid s fun s i => match i with
    | .branch k ra rb off =>
      let x := s.ctx cell tid
      if compareOp k (x.getS ra) (x.getS rb) then goTo s cell tid (branchPc x.pc.toNat 16 off) id
      else next s cell tid id
    | _ => s

/-- A jump writes PC + 4 to rd (R204). -/
def jumpTo (s : State) (cell tid rd target : Nat) : State :=
  let link := BitVec.ofNat 64 ((s.ctx cell tid).pc.toNat + 4)
  goTo s cell tid target fun s => s.modCtx cell tid (·.setS rd link)

/-- JAL (R204). -/
def execJal (cell tid : Nat) (s : State) : Res :=
  issueIns .jal cell tid s fun s i => match i with
    | .jal rd off => jumpTo s cell tid rd (branchPc (s.ctx cell tid).pc.toNat 21 off)
    | _ => s

/-- JALR (R204). -/
def execJalr (cell tid : Nat) (s : State) : Res :=
  issueIns .jalr cell tid s fun s i => match i with
    | .jalr rd ra imm => jumpTo s cell tid rd (effAddr ((s.ctx cell tid).getS ra) imm)
    | _ => s

/-! ### Threads -/

/-- The state of a thread that starts (R163, R164). -/
def Ctx.started (pc : Nat) (arg : Word) (cycles : Nat) : Ctx :=
  Ctx.setS { mode := .ready, pc := BitVec.ofNat 19 pc, cycleBase := cycles } 1 arg

/-- The lowest-numbered FREE context of a cell. -/
def Cell.freeCtx (c : Cell) : Option Nat := tids.find? fun t => decide ((c.ctx t).mode = .free)

/-- A context holds a new thread. -/
def startThread (s : State) (g t pc : Nat) (arg : Word) : State :=
  s.modCtx g t fun _ => Ctx.started pc arg (s.chapel (s.chapelIx g)).cycles.toNat

/-- SPAWN (R164, R214). -/
def execSpawn (cell tid : Nat) (s : State) : Res :=
  issueIns .spawn cell tid s fun s i => match i with
    | .spawn rd ra rb =>
      let x := s.ctx cell tid
      let pc := (x.getS ra).toNat
      let arg := x.getS rb
      if !pcOk pc then raise s cell tid 0x07 0
      else match (s.cell cell).freeCtx with
        | some t =>
          if (s.chapel (s.chapelIx cell)).state = .retiring then setRd s cell tid rd (BitVec.allOnes 64)
          else next s cell tid fun s =>
            (startThread s cell t pc arg).modCtx cell tid (·.setS rd (BitVec.ofNat 64 t))
        | none => setRd s cell tid rd (BitVec.allOnes 64)
    | _ => s

/-- BRK (R214): BREAK. -/
def execBrk (cell tid : Nat) (s : State) : Res :=
  issueIns .brk cell tid s fun s _ => raise s cell tid 0x0B 0

/-- The context leaves its handler and goes on at `pc`. -/
def leaveHandler (s : State) (cell tid pc : Nat) : State :=
  goTo s cell tid pc fun s => s.modCtx cell tid fun x => { x with excCause := x.excCause &&& ~~~(1#64 <<< 63) }

/-- ERET (R234): ILLEGAL with ACTIVE clear, and with RESUMABLE clear. -/
def execEret (cell tid : Nat) (s : State) : Res :=
  issueIns .eret cell tid s fun s _ =>
    let x := s.ctx cell tid
    if !x.excCause.getLsbD 63 || !x.excCause.getLsbD 62 then raise s cell tid 0x01 0
    else leaveHandler s cell tid x.excPc.toNat

/-- ERET.R (R234): to ra, checked as a JALR target. -/
def execEretR (cell tid : Nat) (s : State) : Res :=
  issueIns .eretR cell tid s fun s i => match i with
    | .eretR ra =>
      let x := s.ctx cell tid
      if !x.excCause.getLsbD 63 then raise s cell tid 0x01 0
      else leaveHandler s cell tid (x.getS ra).toNat
    | _ => s

/-! ### Special registers -/

/-- SLYPE_STATn (Table 06-6). -/
def Slype.stat (e : Slype) : Word :=
  BitVec.ofNat 64 (e.status * 2 ^ 56 + e.mode * 2 ^ 48 + e.moved % 2 ^ 41)

/-- The value of special register `n` for a thread (Tables 06-3, 07-9). -/
def readSpecial (s : State) (cell tid n : Nat) : Word :=
  let ci := s.chapelIx cell
  let h := s.chapel ci
  let c := s.cell cell
  let x := c.ctx tid
  let w := fun (v : Nat) => BitVec.ofNat 64 v
  match n with
  | 0x000 => w tid
  | 0x001 => w (h.relOf cell)
  | 0x002 => w cell
  | 0x003 => w ci
  | 0x004 => w h.ncells
  | 0x005 => w (4 * h.width)
  | 0x006 => w (4 * h.height)
  | 0x007 => w ((if h.state = .retiring then 1 else 0) + if x.resumed then 2 else 0)
  | 0x010 => w ((h.cycles.toNat + 2 ^ 48 - x.cycleBase % 2 ^ 48) % 2 ^ 48)
  | 0x011 => s.pw.tstamp
  | 0x020 => x.excVec
  | 0x021 => x.excPc
  | 0x022 => x.excCause
  | 0x023 => x.excAddr
  | 0x030 => c.eng0.stat
  | 0x031 => c.eng1.stat
  | 0x032 => w c.eng0.err
  | _ => w c.eng1.err

/-- RDSR (R215); reading CHSTATE clears RESUMED for this thread. -/
def execRdsr (cell tid : Nat) (s : State) : Res :=
  issueIns .rdsr cell tid s fun s i => match i with
    | .rdsr rd n =>
      let v := readSpecial s cell tid n
      next s cell tid fun s => s.modCtx cell tid fun x =>
        let x := x.setS rd v
        if n = 7 then { x with resumed := false } else x
    | _ => s

/-- WRSR (R215, R216): EXC_VEC and EXC_PC alone can be written, with a valid PC. -/
def execWrsr (cell tid : Nat) (s : State) : Res :=
  issueIns .wrsr cell tid s fun s i => match i with
    | .wrsr ra n =>
      let v := (s.ctx cell tid).getS ra
      if (n ≠ 0x020 ∧ n ≠ 0x021) ∨ !pcOk v.toNat then raise s cell tid 0x06 0
      else next s cell tid fun s => s.modCtx cell tid fun x =>
        if n = 0x020 then { x with excVec := v } else { x with excPc := v }
    | _ => s

end Sys2Proof.Machine
end

