-- ==== Sys2Proof/Machine/Access.lean ====
section
/-! DEFINITION. Memory accesses of threads: trackers and requests (R179-R188, R379), their completion (R177, R231),
loads, stores and atomics (R212, R213), fences, EXIT and the barrier (R165, R184, R189). -/

namespace Sys2Proof.Machine

/-! ### Atomic operations (Table 07-7) -/

/-- The new value of `n` bytes under AOP, from the old value, the operand and CAS's expected value. -/
def atomicNew (aop n old operand expected : Nat) : Nat :=
  let w := 8 * n
  let a := old % 2 ^ w
  let b := operand % 2 ^ w
  match aop with
  | 0 => b
  | 1 => (a + b) % 2 ^ w
  | 2 => a &&& b
  | 3 => a ||| b
  | 4 => a ^^^ b
  | 5 | 6 =>
    let x := BitVec.ofNat w a
    let y := BitVec.ofNat w b
    if aop = 5 then if x.slt y then a else b else if x.slt y then b else a
  | 7 => min a b
  | 8 => max a b
  | 9 => if a = expected % 2 ^ w then b else a
  | _ => fadd f32 a b

/-! ### The own store -/

/-- Bytes an operand of a choir pass covers, from its first to its last. -/
def spanBytes (rows stride width : Nat) : Nat := (rows - 1) * stride + width

/-- A byte range meets A, B or C of a choir descriptor, row by row (R240, R244). -/
def choirTouches (d : List Byte) (off n : Nat) : Bool :=
  let k := fieldN d 2 2
  let rows := fun (count base stride width : Nat) =>
    (List.range count).any fun i => rangesMeet off n (base + i * stride) width
  rows 32 (fieldN d 4 4) (fieldN d 16 4) (k * choirSize false (fieldN d 0 1 % 16)) ||
    rows k (fieldN d 8 4) (fieldN d 20 4) (32 * choirSize false (fieldN d 0 1 / 16)) ||
    rows 32 (fieldN d 12 4) (fieldN d 24 4) (32 * choirSize true (fieldN d 1 1 % 16))

/-- A job whose operands a local store may have hit (R244). -/
def ChoirJob.hit (off n : Nat) (j : ChoirJob) : ChoirJob :=
  if choirTouches j.desc off n then { j with spoiled := true } else j

/-- A thread's store to its own cell. -/
def Cell.localStore (c : Cell) (off : Nat) (bs : List Byte) : Cell :=
  { c with store := c.store.writeBytes off bs,
           choir := { running := c.choir.running.map (ChoirJob.hit off bs.length),
                      queue := c.choir.queue.map (ChoirJob.hit off bs.length) } }

/-! ### Requests -/

/-- The controller that holds a package HBM address (R406). -/
def hbmStack (a : Nat) : Nat :=
  let g := a / 2048
  (bitsN g 2 0) ^^^ (bitsN g 5 3) ^^^ (bitsN g 12 10)

/-- Endpoint of an HBM controller (Table 13-4). -/
def epHbm (m : Nat) : Nat := 0xC00 + m
/-- Endpoint of a host port. -/
def epHost (p : HPort) : Nat := 0xC10 + portIx p
/-- Endpoint of a Transept port. -/
def epPort (t : Nat) : Nat := 0xC20 + t
/-- Endpoint of the sacristy. -/
def epSacristy : Nat := 0xC30

/-- SIZE of an access (Table 13-5). -/
def sizeCode (n : Nat) : Nat :=
  match n with
  | 1 => 0
  | 2 => 1
  | 4 => 2
  | 8 => 3
  | _ => 4

/-- Bytes of a SIZE. -/
def sizeBytes (code : Nat) : Nat := if code ≤ 3 then 2 ^ code else 64

/-- A request flit to a place outside the own store. A remote one gets its port when it is sent (R174). -/
def placeReq (place : Place) (f : AmbFlit) : AmbFlit :=
  match place with
  | .own off => { f with addr := off }
  | .cell g off => { f with dest := g, addr := off, win := 127 }
  | .hbm win a => { f with dest := epHbm (hbmStack a), addr := a, win := win }
  | .host p win off => { f with dest := epHost p, addr := off, win := win }
  | .remote slot off => { f with addr := off, win := 127, remote := true, span := slot }

/-- Data bytes of a WRITE: the store's bytes at ADDR mod 64 (Table 13-6). -/
def writeData (addr : Nat) (bs : List Byte) : List Byte := padTo 64 (zeros (addr % 64) ++ bs)

/-- Data bytes of an ATOMIC: operand and expected value (Table 13-6). -/
def atomicData (operand expected : Nat) : List Byte := padTo 64 (le 8 operand ++ le 8 expected)

/-- The lowest free tracker of `n`. -/
def freeTracker (ts : Tbl Tracker) (n : Nat) : Option Nat :=
  (List.range n).find? fun k => !(tget Tracker.fresh ts k).busy

/-- The up port of chapel `c` that carries a remote offset through span slot `n` (R174). -/
def remotePort (s : State) (c n off : Nat) : Option Nat :=
  let ups := (s.slotPorts c n).filter fun t => (s.link t).up
  ups[off / 4096 % ups.length]?

/-- A flit waits at the injection port of endpoint `ep`'s stop. -/
def inject (s : State) (ep : Nat) (f : AmbFlit) : State :=
  s.modEnd ep fun q => { q with inject := q.inject ++ [{ f with arrived := s.ts, via := 0 }] }

/-- Tracker `k` of a cell changed. -/
def Cell.modTracker (c : Cell) (k : Nat) (f : Tracker → Tracker) : Cell :=
  { c with trackers := tput Tracker.fresh c.trackers k (f (tget Tracker.fresh c.trackers k)) }

/-- A tracker freed; its EPOCH stays, or advances (R381). -/
def Tracker.freed (t : Tracker) (advance : Bool) : Tracker :=
  { epoch := if advance then (t.epoch + 1) % 64 else t.epoch }

/-! ### Completion -/

/-- A value of `width` bytes as it lands in a scalar register. -/
def landWord (width : Nat) (signed : Bool) (data : List Byte) : Word :=
  let v := fieldN data 0 width
  if signed then (BitVec.ofNat (8 * width) v).signExtend 64 else BitVec.ofNat 64 v

/-- Data of a response lands in the context (R379); after an error nothing lands (R177). -/
def Ctx.land (x : Ctx) (l : Landing) (ok : Bool) (data : List Byte) : Ctx :=
  match l with
  | .reg rd width signed =>
    let x := { x with awaits := x.awaits.erase rd }
    if ok then x.setS rd (landWord width signed data) else x
  | .vreg vd =>
    let x := { x with awaitsV := x.awaitsV.erase vd }
    if ok then x.setV vd (BitVec.ofNat 512 (fieldN data 0 64)) else x
  | _ => x

/-- A load or an atomic of the thread is outstanding. -/
def Cell.loadsOut (c : Cell) (t : Nat) : Bool :=
  c.trackers.any fun e => e.2.busy && e.2.isLoad && decide (e.2.tid = t)

/-- A wait that has passed its instruction ends. -/
def Ctx.goOn (x : Ctx) : Ctx := { x with waiting := .none, mode := if x.mode = .wait then .ready else x.mode }

/-- Waits of context `t` on its own accesses that have ended (R184-R187, R192). -/
def Cell.accessWaits (c : Cell) (t : Nat) : Cell :=
  match (c.ctx t).waiting with
  | .accesses => if c.outstanding t then c else c.modCtx t Ctx.goOn
  | .loads => if c.loadsOut t then c else c.modCtx t Ctx.goOn
  | .release => if c.outstanding t then c else c.modCtx t Ctx.retry
  | _ => c

/-- The tally is free: no thread reads what an owner leaves (R397). -/
def Tally.released (t : Tally) : Tally := { t with owner := none, releasing := false }

/-- What of context `t` outlives its thread loses its tie to it: the results of its choir passes, and its records. -/
def Cell.forget (c : Cell) (t : Nat) : Cell :=
  let job := fun (j : ChoirJob) => if j.tid = t then { j with rd := 0 } else j
  let rec_ := fun (r : Record) => if r.taken = some t then { r with taken := some 16 } else r
  { c with
    choir := { running := c.choir.running.map job, queue := c.choir.queue.map job }
    turns := c.turns.map fun e => (e.1, { e.2 with records := e.2.records.map rec_ })
    waiters := c.waiters.erase t
    tally := if c.tally.owner = some t then c.tally.released else c.tally }

/-- EXIT of context `t` may free it: no access is outstanding, and the tally it owns has an empty queue (R165, R398). -/
def Cell.exitReady (c : Cell) (t : Nat) : Bool :=
  !c.outstanding t && (decide (c.tally.owner ≠ some t) || c.tally.queue.isEmpty)

/-- A thread that waits in EXIT frees its context when it can; a barrier loses it, and its chapel may end
(R165, R166, R189). -/
def settleExit (s : State) (g t : Nat) : State :=
  let c := s.cell g
  if decide ((c.ctx t).waiting = .exit) && c.exitReady t then
    let s := s.modCell g fun c => ((c.forget t).barrierLoses t).modCtx t fun _ => Ctx.fresh
    settleChapel s (s.chapelIx g)
  else s

/-- A tracker of a cell is free again: threads that wait for one issue again (R379). -/
def Cell.trackerFreed (c : Cell) : Cell := c.retryWhere fun w => decide (w = Waiting.tracker)

/-- Tracker `k` of cell `g` completes with a STATUS (Table 13-7): the result lands or the error is kept for the
thread (R177, R231), an error while the thread exits is logged (R165), and the thread's waits are looked at. -/
def finishAccess (s : State) (g k status : Nat) (data : List Byte) (advance : Bool) : State :=
  let tr := tget Tracker.fresh (s.cell g).trackers k
  let t := tr.tid
  let ok := decide (status = 0)
  let s := s.modCell g fun c =>
    let c := c.modTracker k fun t => t.freed advance
    c.modCtx t fun x => (x.land tr.landing ok data)
  let exiting := decide ((s.ctx g t).waiting = .exit)
  let err := !ok && decide (status ≠ 0x30)
  let s := if err && exiting then
      logC s 0 0x0112 (locCell g) (s.chapelIx g) (threadDetail t 5 status tr.pc.toNat tr.addr)
    else if err then s.modCtx g t fun x =>
      { x with errors := x.errors ++ [⟨tr.pc, BitVec.ofNat 48 tr.addr, status⟩] }
    else s
  let s := s.modCell g fun c => (c.accessWaits t).trackerFreed
  settleStop (settleExit s g t) g t

/-- No earlier access of the same thread to the same 64-byte line is under way (R182). -/
def Cell.firstOfLine (c : Cell) (tr : Tracker) : Bool :=
  c.trackers.all fun e =>
    !(e.2.busy && decide (e.2.tid = tr.tid ∧ e.2.addr / 64 = tr.addr / 64 ∧ e.2.order < tr.order))

/-- The tracker of the oldest access that may be sent now (R182). -/
def Cell.sendable (c : Cell) : Option Nat :=
  (c.trackers.filter fun e => e.2.busy && !e.2.sent && c.firstOfLine e.2).foldl (fun best e => match best with
    | some b => if (tget Tracker.fresh c.trackers b).order ≤ e.2.order then best else some e.1
    | none => some e.1) none

/-- Accesses that may be sent are sent, oldest first; a remote one whose slot has no port up ends in LINK_DOWN (R174).
A bay that is not ON sends nothing (Table 13-13). -/
def pump : Nat → State → Nat → State
  | 0, s, _ => s
  | fuel + 1, s, g =>
    if (s.bay (bayOf g)).st ≠ .on then s
    else match (s.cell g).sendable with
      | none => s
      | some k =>
        let tr := tget Tracker.fresh (s.cell g).trackers k
        if tr.req.remote then
          match remotePort s tr.req.chapel tr.req.span tr.req.addr with
          | none => pump fuel (finishAccess s g k 0x08 [] false) g
          | some p =>
            let f := { tr.req with dest := epPort p }
            pump fuel (inject (s.modCell g (·.modTracker k fun t => { t with sent := true, req := f })) g f) g
        else pump fuel (inject (s.modCell g (·.modTracker k fun t => { t with sent := true })) g tr.req) g

/-- Everything of cell `g` that may be sent is sent. -/
def pumpCell (s : State) (g : Nat) : State := pump 129 s g

/-- A response, or what stands for one, completes tracker `k` of the threads of cell `g`. -/
def completeAccess (s : State) (g k status : Nat) (data : List Byte) (advance : Bool) : State :=
  pumpCell (finishAccess s g k status data advance) g

/-! ### Issue of an access -/

/-- The context passes its instruction, or raises PC_RANGE and nothing happens. -/
def passes (s : State) (g t : Nat) (k : State → State) : State :=
  if pcOk ((s.ctx g t).pc.toNat + 4) then k s else raise s g t 0x07 0

/-- An access of context `t` to a place outside its store takes a tracker and is sent when R182 allows; with none
free the thread waits (R379). -/
def issueAccess (s : State) (g t a : Nat) (place : Place) (f : AmbFlit) (landing : Landing) (isLoad : Bool) : State :=
  passes s g t fun s =>
    let c := s.cell g
    match freeTracker c.trackers 128 with
    | none => wait s g t .tracker
    | some k =>
      let old := tget Tracker.fresh c.trackers k
      let req := placeReq place { f with
        vnet := 0, prio := 2, chapel := s.chapelIx g, src := g, txn := k, epoch := old.epoch }
      let tr : Tracker := { old with
        busy := true, sent := false, tid := t, pc := (s.ctx g t).pc, addr := a, landing := landing, isLoad := isLoad,
        req := req, order := c.issued }
      let s := s.modCell g fun c => { (c.modTracker k fun _ => tr) with issued := c.issued + 1 }
      let s := s.modCtx g t fun x =>
        let x := { x with pc := x.pc + 4#19 }
        match landing with
        | .reg rd _ _ => if rd = 0 then x else { x with awaits := x.awaits ++ [rd] }
        | .vreg vd => { x with awaitsV := x.awaitsV ++ [vd] }
        | _ => x
      pumpCell s g

/-- An access to address `a` of `width` bytes: refused precisely (R176), served in the own store by `own`, or sent. -/
def access (s : State) (g t a width : Nat) (kind : Access) (f : AmbFlit) (landing : Landing)
    (own : State → Nat → State) : State :=
  match checkAddr s g kind width a with
  | .error code => raise s g t code a
  | .ok (.own off) => next s g t fun s => own s off
  | .ok place => issueAccess s g t a place { f with size := sizeCode width } landing (decide (kind ≠ .store))

/-- LOAD (R203, R212). -/
def execLoad (cell tid : Nat) (s : State) : Res :=
  issueIns .load cell tid s fun s i => match i with
    | .load width signed rd ra off =>
      access s cell tid (effAddr ((s.ctx cell tid).getS ra) off) width .load { op := .read } (.reg rd width signed)
        fun s o => s.modCtx cell tid fun x =>
          x.setS rd (landWord width signed (Memory.readBytes (s.cell cell).store o width))
    | _ => s

/-- STORE (R203, R212). -/
def execStore (cell tid : Nat) (s : State) : Res :=
  issueIns .store cell tid s fun s i => match i with
    | .store width rs ra off =>
      let x := s.ctx cell tid
      let a := effAddr (x.getS ra) off
      let bs := le width (x.getS rs).toNat
      access s cell tid a width .store { op := .write, data := writeData a bs } .store
        fun s o => s.modCell cell (·.localStore o bs)
    | _ => s

/-- VLD (R203, R212). -/
def execVld (cell tid : Nat) (s : State) : Res :=
  issueIns .vld cell tid s fun s i => match i with
    | .vld vd ra off =>
      access s cell tid (effAddr ((s.ctx cell tid).getS ra) off) 64 .load { op := .read } (.vreg vd)
        fun s o => s.modCtx cell tid fun x =>
          x.setV vd (BitVec.ofNat 512 (leNat (Memory.readBytes (s.cell cell).store o 64)))
    | _ => s

/-- VST (R203, R212). -/
def execVst (cell tid : Nat) (s : State) : Res :=
  issueIns .vst cell tid s fun s i => match i with
    | .vst vs ra off =>
      let x := s.ctx cell tid
      let bs := le 64 (x.getV vs).toNat
      access s cell tid (effAddr (x.getS ra) off) 64 .store { op := .write, data := bs } .store
        fun s o => s.modCell cell (·.localStore o bs)
    | _ => s

/-- A release before an operation: with an access outstanding the thread waits, and issues again (Table 06-5). -/
def released (s : State) (g t : Nat) (k : State → State) : State :=
  if (s.cell g).outstanding t then wait s g t .release else k s

/-- FENCE.ACQ after what has just issued (Table 06-5). -/
def acquire (s : State) (g t : Nat) : State := if (s.cell g).loadsOut t then wait s g t .loads else s

/-- An atomic on the own store (R185): the old value, and the new one written. -/
def ownAtomic (s : State) (g t off width aop rd : Nat) (operand expected : Word) : State :=
  let old := leNat (Memory.readBytes (s.cell g).store off width)
  let s := s.modCell g (·.localStore off (le width (atomicNew aop width old operand.toNat expected.toNat)))
  s.modCtx g t (·.setS rd (BitVec.ofNat 64 old))

/-- The atomic itself, between its fences. -/
def atomicBody (s : State) (g t rd ra rb width aop : Nat) : State :=
  let x := s.ctx g t
  let operand := x.getS rb
  let expected := x.getS rd
  access s g t (x.getS ra).toNat width .atomic
    { op := .atomic, aop := aop, data := atomicData operand.toNat expected.toNat } (.reg rd width false)
    fun s o => ownAtomic s g t o width aop rd operand expected

/-- The context is still READY past `pc`: its instruction has issued and nothing made it wait. -/
def passed (s : State) (g t : Nat) (pc : BitVec 19) : Bool :=
  decide ((s.ctx g t).mode = .ready ∧ (s.ctx g t).waiting = .none ∧ (s.ctx g t).pc = pc + 4#19)

/-- The address unit lets the atomic at `a` through, and its next PC is one. -/
def atomicAllowed (s : State) (g t a width : Nat) : Bool :=
  pcOk ((s.ctx g t).pc.toNat + 4) && match checkAddr s g .atomic width a with
    | .ok _ => true
    | .error _ => false

/-- ATOMIC (R185, R213, Tables 07-6, 07-7). -/
def execAtomic (cell tid : Nat) (s : State) : Res :=
  issueIns .atomic cell tid s fun s i => match i with
    | .atomic rd ra rb ord wide aop =>
      let pc := (s.ctx cell tid).pc
      let width := if wide then 8 else 4
      let body := fun (s : State) =>
        let s' := atomicBody s cell tid rd ra rb width aop
        let goes := atomicAllowed s cell tid ((s.ctx cell tid).getS ra).toNat width && passed s' cell tid pc
        if (ord = 1 ∨ ord = 3) ∧ goes = true then acquire s' cell tid else s'
      if 2 ≤ ord then released s cell tid body else body s
    | _ => s

/-! ### Fences, EXIT and the barrier -/

/-- FENCE_ACQ (R184). -/
def execFenceAcq (cell tid : Nat) (s : State) : Res :=
  issueIns .fenceAcq cell tid s fun s _ => next s cell tid fun s => acquire s cell tid

/-- A fence on every earlier access. -/
def fenceAll (s : State) (g t : Nat) : State :=
  next s g t fun s => if (s.cell g).outstanding t then wait s g t .accesses else s

/-- FENCE_REL (R184). -/
def execFenceRel (cell tid : Nat) (s : State) : Res :=
  issueIns .fenceRel cell tid s fun s _ => fenceAll s cell tid

/-- FENCE_FULL (R184). -/
def execFenceFull (cell tid : Nat) (s : State) : Res :=
  issueIns .fenceFull cell tid s fun s _ => fenceAll s cell tid

/-- The thread exits, now or when its accesses and its tally have ended (R165, R398). -/
def exitThread (s : State) (g t : Nat) : State := settleExit (wait s g t .exit) g t

/-- EXIT (R165). -/
def execExit (cell tid : Nat) (s : State) : Res :=
  issueIns .exit cell tid s fun s _ => exitThread s cell tid

/-- The TIDs a barrier mask names. -/
def maskTids (m : BitVec 16) : List Nat := tids.filter m.getLsbD

/-- A thread arrives at a barrier (R189). -/
def arriveBarrier (s : State) (g t rd : Nat) (mask : BitVec 16) : State :=
  let c := s.cell g
  let busy := match c.barrier with
    | some b => decide (b.mask ≠ mask)
    | none => false
  if busy then wait s g t .barrierTurn
  else
    let arrived := match c.barrier with
      | some b => b.arrived ++ [t]
      | none => [t]
    let gone := (maskTids mask).any fun u => decide (u ≠ t) &&
      decide ((c.ctx u).mode = .free ∨ (c.ctx u).mode = .stopped)
    let s := (wait s g t (.barrier mask rd)).modCell g fun c => { c with barrier := some ⟨mask, arrived⟩ }
    if gone then s.modCell g (·.endBarrier 1#64)
    else if (maskTids mask).all arrived.contains then s.modCell g (·.endBarrier 0#64)
    else s

/-- BAR_CELL (R189): a thread arrives once its earlier accesses are complete. -/
def execBarCell (cell tid : Nat) (s : State) : Res :=
  issueIns .barCell cell tid s fun s i => match i with
    | .barCell rd ra => released s cell tid fun s => passes s cell tid fun s =>
        arriveBarrier s cell tid rd (((s.ctx cell tid).getS ra).truncate 16)
    | _ => s

end Sys2Proof.Machine
end

