-- ==== Sys2Proof/Machine/Crc.lean ====
section
/-! DEFINITION. CRC-32C and the check value of aisle packets (R392, R400-R403), and the bytes of aisle packets and
chantry flits (Tables 10-2, 10-3, 12-1). -/

namespace Sys2Proof.Machine

/-- One bit of CRC-32C, reflected (Table 14-1). -/
def crcBit (c : BitVec 32) : BitVec 32 := if c.getLsbD 0 then (c >>> 1) ^^^ 0x82F63B78#32 else c >>> 1

/-- `n` bits. -/
def crcBits : Nat → BitVec 32 → BitVec 32
  | 0, c => c
  | n + 1, c => crcBits n (crcBit c)

/-- The running state after one byte. -/
def crcByte (c : BitVec 32) (b : Byte) : BitVec 32 := crcBits 8 (c ^^^ b.zeroExtend 32)

/-- The running state after some bytes. -/
def crcFeed (c : BitVec 32) (bs : List Byte) : BitVec 32 := bs.foldl crcByte c

/-- The initial running state, and the final exclusive or (Table 14-1). -/
def crcInit : BitVec 32 := 0xFFFFFFFF#32

/-- CRC-32C of some bytes. -/
def crc32c (bs : List Byte) : BitVec 32 := crcFeed crcInit bs ^^^ crcInit

/-- The 32 header bytes of an aisle packet (Table 10-2). -/
def AislePkt.header (p : AislePkt) : List Byte :=
  le 1 (p.cls % 4 + 4 * (p.route % 4) + 16 * (p.kind % 4)) ++ le 1 p.chapel ++ le 2 p.dest ++
    le 2 (p.src % 4096 + if p.engine then 4096 else 0) ++ le 2 p.seq ++ le 1 (p.units % 128) ++
    le 1 ((if p.resend then 1 else 0) + if p.remote then 2 else 0) ++ le 1 (p.span % 64) ++ le 1 p.srcSpan ++
    le 4 p.tag.toNat ++ le 8 p.routeInfo.toNat ++ padTo 8 p.kindBytes

/-- The fold word (Table 14-3), little-endian. -/
def foldBytes (chapel dest seq : Nat) : List Byte := le 4 (chapel % 256 + 256 * (dest % 4096) + 2 ^ 20 * (seq % 4096))

/-- The header bytes as the check takes them (Table 14-5): SRC_SPAN zero; POS zero in a source route; COPY_MASK zero
in a ring. -/
def AislePkt.checkHeader (p : AislePkt) : List Byte :=
  let info := if p.route = 1 then p.routeInfo &&& ~~~(0x1F#64 <<< 55) else if p.route = 2 then 0#64 else p.routeInfo
  AislePkt.header { p with srcSpan := 0, routeInfo := info }

/-- CHECK of a packet under a fold word's chapel and DEST (R402). -/
def AislePkt.checkValue (p : AislePkt) (chapel dest : Nat) : BitVec 32 :=
  crc32c (foldBytes chapel dest p.seq ++ p.checkHeader ++ p.payload)

/-- The packet with the trailer its sender computes (R401, R403). -/
def AislePkt.sealed (p : AislePkt) : AislePkt := { p with check := p.checkValue p.chapel p.dest }

/-- An aisle packet's bytes: header, payload, trailer. -/
def AislePkt.bytes (p : AislePkt) : List Byte := p.header ++ p.payload ++ le 4 p.check.toNat

/-- The aisle packet that header, payload and trailer bytes spell. -/
def aisleOfBytes (bs : List Byte) : AislePkt :=
  let units := (byteAt bs 8).toNat % 128
  let n := 64 * (units + 1)
  { cls := fieldN bs 0 1 % 4, route := bitsN (fieldN bs 0 1) 3 2, kind := bitsN (fieldN bs 0 1) 5 4
    chapel := fieldN bs 1 1, dest := fieldN bs 2 2 % 4096, src := fieldN bs 4 2 % 4096
    engine := bitN (fieldN bs 4 2) 12, seq := fieldN bs 6 2, units := units
    resend := bitN (fieldN bs 9 1) 0, remote := bitN (fieldN bs 9 1) 1, span := fieldN bs 10 1 % 64
    srcSpan := fieldN bs 11 1, tag := BitVec.ofNat 32 (fieldN bs 12 4), routeInfo := BitVec.ofNat 64 (fieldN bs 16 8)
    kindBytes := sliceB bs 24 8, payload := sliceB bs 32 n, check := BitVec.ofNat 32 (fieldN bs (32 + n) 4) }

/-- A chantry flit's 64 bytes (Table 12-1). -/
def ChFlit.bytes (f : ChFlit) : List Byte :=
  le 1 (f.kind % 8 + (if f.remote then 8 else 0) + if f.channel then 16 else 0) ++ le 1 f.chapel ++
    le 2 (f.dest % 4096 + 4096 * (f.tid % 16)) ++ le 2 (f.src % 4096 + 4096 * (f.turn % 8)) ++ le 1 f.age ++
    le 1 f.inj ++ le 1 (f.span % 64) ++ le 1 f.srcSpan ++ le 1 (f.len % 64) ++ le 1 f.handler ++
    le 4 f.tag.toNat ++ padTo 48 f.payload

/-- The chantry flit 64 bytes spell. -/
def chFlitOfBytes (bs : List Byte) : ChFlit :=
  let b0 := fieldN bs 0 1
  { kind := b0 % 8, remote := bitN b0 3, channel := bitN b0 4, chapel := fieldN bs 1 1
    dest := fieldN bs 2 2 % 4096, tid := fieldN bs 2 2 / 4096, src := fieldN bs 4 2 % 4096
    turn := bitsN (fieldN bs 4 2) 14 12, age := fieldN bs 6 1, inj := fieldN bs 7 1, span := fieldN bs 8 1 % 64
    srcSpan := fieldN bs 9 1, len := fieldN bs 10 1 % 64, handler := fieldN bs 11 1
    tag := BitVec.ofNat 32 (fieldN bs 12 4), payload := sliceB bs 16 48 }

end Sys2Proof.Machine
end

