-- ==== Sys2Proof/Machine/AisleCore.lean ====
section
/-! DEFINITION. The aisle's geometry, the routing of a packet at a router (R302-R305, R308, R309), the injection queue and
the assured buffer (R306, R307). -/

namespace Sys2Proof.Machine

/-! ### Geometry (R135, R136, R303) -/

/-- The chapel's row segments are folded: it is narrower than 64 cells. -/
def Chapel.foldRow (h : Chapel) : Bool := decide (h.width ≠ 16)
/-- The chapel's column segments are folded. -/
def Chapel.foldCol (h : Chapel) : Bool := decide (h.height ≠ 12)
/-- West and north edges of the rectangle, in cells. -/
def Chapel.x0 (h : Chapel) : Nat := 4 * (h.origin % 16)
/-- North edge. -/
def Chapel.y0 (h : Chapel) : Nat := 4 * (h.origin / 16)

/-- A direction along a row. -/
def dirRow : Dir → Bool
  | .e | .w => true
  | _ => false

/-- The opposite direction. -/
def dirOpp : Dir → Dir
  | .e => .w
  | .w => .e
  | .s => .n
  | .n => .s

/-- The four directions. -/
def dirs : List Dir := [.e, .w, .s, .n]

/-- The code of a direction in log entries (Table 17-8) and source routes (Table 10-4). -/
def dirCode : Dir → Nat
  | .e => 0
  | .w => 1
  | .s => 2
  | .n => 3

/-- The direction of a code. -/
def dirOfCode (n : Nat) : Dir := match n % 4 with | 0 => .e | 1 => .w | 2 => .s | _ => .n

/-- The neighbour of a cell on the torus. -/
def stepDir (g : Nat) : Dir → Nat
  | .e => cellAt ((cellX g + 1) % 64) (cellY g)
  | .w => cellAt ((cellX g + 63) % 64) (cellY g)
  | .s => cellAt (cellX g) ((cellY g + 1) % 48)
  | .n => cellAt (cellX g) ((cellY g + 47) % 48)

/-- Cell `g` lies at the edge of the rectangle that `d` leads to. -/
def Chapel.atEdge (h : Chapel) (g : Nat) : Dir → Bool
  | .e => decide (cellX g = h.x0 + 4 * h.width - 1)
  | .w => decide (cellX g = h.x0)
  | .s => decide (cellY g = h.y0 + 4 * h.height - 1)
  | .n => decide (cellY g = h.y0)

/-- Output `d` of cell `g` is a fold (R136). -/
def Chapel.folds (h : Chapel) (g : Nat) (d : Dir) : Bool :=
  (if dirRow d then h.foldRow else h.foldCol) && h.atEdge g d

/-- The input at the far end of an output: a router and a lane of travel (R303). -/
def Chapel.far (h : Chapel) (g : Nat) (d : Dir) : Nat × Dir := if h.folds g d then (g, dirOpp d) else (stepDir g d, d)

/-- The link of output `d` of cell `g` is owned by the chapel, and is not a fold (R135). -/
def Chapel.ownsLink (h : Chapel) (g : Nat) (d : Dir) : Bool := !h.folds g d && h.holds (stepDir g d)

/-- The packet stands at its input after a fold. -/
def Chapel.fromFold (h : Chapel) (g : Nat) (lane : Dir) : Bool := h.folds g (dirOpp lane)

/-! ### Routing -/

/-- The direction of travel from coordinate `a` to `b` in a dimension of `n` cells, `b ≠ a`: positive first on a tie;
directly where the dimension is folded (R302). -/
def dirAlong (folded : Bool) (n a b : Nat) : Bool :=
  if folded then decide (a < b) else decide ((b + n - a) % n ≤ n / 2)

/-- Dimension order (R302): the output towards a cell, none at that cell. -/
def Chapel.dor (h : Chapel) (g dest : Nat) : Option Dir :=
  if cellX g ≠ cellX dest then
    some (if dirAlong h.foldRow 64 (cellX g) (cellX dest) then .e else .w)
  else if cellY g ≠ cellY dest then
    some (if dirAlong h.foldCol 48 (cellY g) (cellY dest) then .s else .n)
  else none

/-- A turn of a source route relative to the direction of travel: code 1 left, 2 right (R304). -/
def dirTurn (d : Dir) (left : Bool) : Dir :=
  match d with
  | .e => if left then .n else .s
  | .w => if left then .s else .n
  | .s => if left then .e else .w
  | .n => if left then .w else .e

/-- What a router does with a packet: outputs, ejection, and the packet with its mutable fields. -/
structure Steer where
  pkt : AislePkt
  outs : List Dir := []
  eject : Bool := false
deriving DecidableEq, Repr

/-- The packet is bound for another package: REMOTE, and no gate has written SRC_SPAN (R304, R305). -/
def AislePkt.outbound (p : AislePkt) : Bool := p.remote && decide (p.srcSpan = 255)

/-- One router of a source route reached on `lane` (R304). -/
def steerRoute (h : Chapel) (g : Nat) (lane : Dir) (p : AislePkt) : Steer :=
  if h.fromFold g lane then ⟨p, [lane], false⟩
  else
    let info := p.routeInfo.toNat
    let pos := bitsN info 59 55
    let code := bitsN info (2 * pos + 1) (2 * pos)
    let p := { p with routeInfo := (p.routeInfo &&& ~~~(0x1F#64 <<< 55)) ||| (BitVec.ofNat 64 ((pos + 1) % 32) <<< 55) }
    match code with
    | 0 => ⟨p, [lane], false⟩
    | 1 => ⟨p, [dirTurn lane true], false⟩
    | 2 => ⟨p, [dirTurn lane false], false⟩
    | _ => ⟨p, [], true⟩

/-- One router of a ring broadcast on `lane` (R308). -/
def steerRing (h : Chapel) (g : Nat) (lane : Dir) (p : AislePkt) : Steer :=
  let i := if dirRow lane then cellX g - h.x0 else cellY g - h.y0
  let hit := p.routeInfo.getLsbD i
  let rest := p.routeInfo &&& ~~~(1#64 <<< i)
  ⟨{ p with routeInfo := rest }, if rest = 0#64 then [] else [lane], hit⟩

/-- The outputs a tree entry names (Table 10-6). -/
def treeOuts (e : Nat) : List Dir := dirs.filter fun d => bitN e ((dirCode d) + 1)

/-- One router of a tree (R309). -/
def steerTree (h : Chapel) (g : Nat) (p : AislePkt) : Steer :=
  let grp := tget McastGroup.fresh h.mcast (p.routeInfo.toNat % 1024)
  let e := tget 0 grp.entries (h.relOf g)
  if grp.kind = 1 then ⟨p, treeOuts e, bitN e 0⟩ else ⟨p, [], false⟩

/-- A packet routed at router `g`: `lane` is the lane it arrived on, none from the injection port or the gate (R302,
R304, R305, R308, R309). -/
def Chapel.steer (h : Chapel) (g : Nat) (lane : Option Dir) (p : AislePkt) : Steer :=
  let byDor := fun (dest : Nat) => match h.dor g dest with
    | some d => Steer.mk p [d] false
    | none => Steer.mk p [] true
  if p.outbound then byDor (h.globalOf 0)
  else match p.route with
    | 0 => byDor p.dest
    | 1 => match lane with
      | some d => steerRoute h g d p
      | none => ⟨p, [dirOfCode (bitsN p.routeInfo.toNat 54 53)], false⟩
    | 2 => match lane with
      | some d => steerRing h g d p
      | none => ⟨p, [], false⟩
    | _ => if p.remote && decide (g = h.globalOf 0) && lane.isNone then ⟨p, [], true⟩ else steerTree h g p

/-- DETAIL of an aisle, chantry or SUM fault (Table 17-8). -/
def fabricDetail (dir group src dest seq slice : Nat) : List Byte :=
  [BitVec.ofNat 8 dir, BitVec.ofNat 8 group] ++ le 2 src ++ le 2 dest ++ le 2 seq ++ [BitVec.ofNat 8 slice]

/-- A routed packet's outputs that its chapel owns; a packet with another next output is discarded and logged (R319). -/
def screenOuts (s : State) (g : Nat) (st : Steer) : State × Option Slot :=
  let c := st.pkt.chapel
  let h := s.chapel c
  match st.outs.find? (fun d => !(h.folds g d || h.holds (stepDir g d))) with
  | some d => (logC s 0 0x0120 (locAisle g) c (fabricDetail (dirCode d) 0 st.pkt.src st.pkt.dest st.pkt.seq 0), none)
  | none => (s, some ⟨st.pkt, st.outs, st.eject⟩)

/-! ### Injection (R306, R307, R317) -/

/-- The aisle side of a cell changed. -/
def Cell.modAisle (c : Cell) (f : AisleNode → AisleNode) : Cell := { c with aisle := f c.aisle }

/-- The UNI state of a cell changed. -/
def Cell.modUni (c : Cell) (f : UniState → UniState) : Cell := { c with uni := f c.uni }

/-- Threads that wait for the injection queue or the assured buffer issue again. -/
def Cell.aisleRetry (c : Cell) : Cell := c.retryWhere fun w => decide (w = Waiting.aisleQueue)

/-- Admission stops at 6 entries and resumes at 3 (R306). -/
def Cell.aisleHold (c : Cell) : Cell :=
  let n := c.aisle.injQ.length
  if 6 ≤ n then c.modAisle fun a => { a with injHold := true }
  else if n ≤ 3 then (c.modAisle fun a => { a with injHold := false }).aisleRetry
  else c

/-- The key of a UNI destination or source: span slot, or 64 for this package, and cell (R321). -/
def uniKey (remote : Bool) (span cell : Nat) : Nat := (if remote then span else 64) * 4096 + cell

/-- The destination key of a packet. -/
def AislePkt.destKey (p : AislePkt) : Nat := uniKey p.remote p.span p.dest

/-- The assured buffer takes a packet of `bytes` for a destination (R307). -/
def Cell.assuredRoom (c : Cell) (key bytes : Nat) : Bool :=
  let held := (c.uni.assured.map fun u => u.pkt.payload.length).sum
  decide (held + bytes ≤ 131072 ∧ (c.uni.assured.filter fun u => decide (u.pkt.destKey = key)).length < 64)

/-- A packet enters the injection queue of its cell, resends before the others (R306); it clears DRAINED (R317). The
first direction of a ring broadcast is its group's (R308). -/
def aislePush (s : State) (g : Nat) (first : Option Dir) (p : AislePkt) : State :=
  let h := s.chapel p.chapel
  let st := match first with
    | some d => Steer.mk p [d] false
    | none => h.steer g none p
  let r := screenOuts s g st
  let s := r.1.modChapel p.chapel fun h => { h with drained := false }
  match r.2 with
  | none => s
  | some slot => s.modCell g fun c => (c.modAisle fun a =>
      let n := (a.injQ.takeWhile fun q => q.pkt.resend).length
      { a with injQ := if p.resend then a.injQ.take n ++ [slot] ++ a.injQ.drop n else a.injQ ++ [slot] }).aisleHold

/-- A UNI-A packet is numbered, kept in the assured buffer and enters the injection queue (R307, R321). -/
def sendUniA (s : State) (g : Nat) (p : AislePkt) : State :=
  let key := p.destKey
  let seq := tget 0 (s.cell g).uni.txSeq key
  let p := AislePkt.sealed { p with seq := seq }
  let s := s.modCell g (·.modUni fun u => { u with
    txSeq := tput 0 u.txSeq key ((seq + 1) % 65536), assured := u.assured ++ [⟨p, 1⟩] })
  aislePush s g none p

/-- Bytes followed by free ones up to `n` (what the manual calls undefined padding). -/
def padFree (s : State) (n : Nat) (bs : List Byte) : List Byte × State :=
  let r := s.freeBytes (n - bs.length)
  (bs ++ r.1, r.2)

end Sys2Proof.Machine
end

