-- ==== Sys2Proof/Machine/Tally.lean ====
section
/-! DEFINITION. The tally: ownership, the queue of four instructions, and their performance (R224, R392-R399). -/

namespace Sys2Proof.Machine

/-- The cell's bay is ON and its clocks run: CCLK is gated in IDLE and at the service floor (R43, R52). -/
def State.cellClocked (s : State) (g : Nat) : Bool :=
  decide (g < 3072 ∧ (s.bay (bayOf g)).st = .on ∧ s.pw.state = .active ∧ s.heat.shed ≠ .floor)

/-- The tally of a cell changed. -/
def Cell.modTally (c : Cell) (f : Tally → Tally) : Cell := { c with tally := f c.tally }

/-- TALLY_CLAIM (R224, R397, R398): 0 to rd for the owner, old or new; 1 and no change while another thread holds the
tally. -/
def execTallyClaim (cell tid : Nat) (s : State) : Res :=
  issueIns .tallyClaim cell tid s fun s i => match i with
    | .tallyClaim rd => match (s.cell cell).tally.owner with
      | none => next s cell tid fun s => (s.modCell cell (·.modTally fun t =>
          { t with owner := some tid, crc := crcInit, releasing := false })).modCtx cell tid (·.setS rd 0#64)
      | some o =>
        if o = tid then next s cell tid fun s =>
          (s.modCell cell (·.modTally fun t => { t with releasing := false })).modCtx cell tid (·.setS rd 0#64)
        else setRd s cell tid rd 1#64
    | _ => s

/-- A tally instruction of its owner; TALLY_NOT_OWNED for any other thread (R224). -/
def owned (s : State) (g t : Nat) (k : State → State) : State :=
  if (s.cell g).tally.owner = some t then k s else raise s g t 0x0A 0

/-- TALLY_RELEASE (R398): when every queued instruction has been performed. -/
def execTallyRelease (cell tid : Nat) (s : State) : Res :=
  issueIns .tallyRelease cell tid s fun s _ => owned s cell tid fun s => next s cell tid fun s =>
    s.modCell cell (·.modTally fun t => if t.queue.isEmpty then t.released else { t with releasing := true })

/-- A tally instruction joins the queue of four, or its thread waits for a place (R395). -/
def tallyPush (s : State) (g t : Nat) (op : TallyOp) (k : State → State) : State :=
  owned s g t fun s =>
    if 4 ≤ (s.cell g).tally.queue.length then wait s g t .tallySlot
    else next s g t fun s => k (s.modCell g (·.modTally fun t => { t with queue := t.queue ++ [op] }))

/-- TALLY_INIT (R394). -/
def execTallyInit (cell tid : Nat) (s : State) : Res :=
  issueIns .tallyInit cell tid s fun s _ => tallyPush s cell tid .init id

/-- TALLY_FOLD (R393, R394). -/
def execTallyFold (cell tid : Nat) (s : State) : Res :=
  issueIns .tallyFold cell tid s fun s i => match i with
    | .tallyFold ra => tallyPush s cell tid (.fold (le 4 ((s.ctx cell tid).getS ra).toNat)) id
    | _ => s

/-- TALLY_FEED (R393): TALLY.B, TALLY.H, TALLY.W. -/
def execTallyFeed (cell tid : Nat) (s : State) : Res :=
  issueIns .tallyFeed cell tid s fun s i => match i with
    | .tallyFeed n ra => tallyPush s cell tid (.feed (le n ((s.ctx cell tid).getS ra).toNat)) id
    | _ => s

/-- TALLY_RD (R396): rd is awaited until the tally performs it. -/
def execTallyRd (cell tid : Nat) (s : State) : Res :=
  issueIns .tallyRd cell tid s fun s i => match i with
    | .tallyRd rd => tallyPush s cell tid (.rd tid rd) fun s =>
        if rd = 0 then s else s.modCtx cell tid fun x => { x with awaits := x.awaits ++ [rd] }
    | _ => s

/-- One queued instruction is performed (R394, R396). -/
def performTally (s : State) (g : Nat) (op : TallyOp) : State :=
  match op with
  | .init => s.modCell g (·.modTally fun t => { t with crc := crcInit })
  | .fold bs => s.modCell g (·.modTally fun t => { t with crc := crcFeed crcInit bs })
  | .feed bs => s.modCell g (·.modTally fun t => { t with crc := crcFeed t.crc bs })
  | .rd t rd =>
    let v := ((s.cell g).tally.crc ^^^ crcInit).zeroExtend 64
    s.modCtx g t fun x => { (x.setS rd v) with awaits := x.awaits.erase rd }

/-- What follows an instruction's performance: a thread that waits for a place tries again, a release or the owner's
EXIT takes effect once the queue is empty (R398). -/
def afterTally (s : State) (g : Nat) : State :=
  let s := s.modCell g fun c =>
    let c := c.retryWhere fun w => decide (w = Waiting.tallySlot)
    if c.tally.queue.isEmpty && c.tally.releasing then c.modTally Tally.released else c
  match (s.cell g).tally.owner with
  | some t => settleExit s g t
  | none => s

/-- TALLY_PERFORM (R395, R399): the oldest queued instruction; a STOPPED owner does not hold it back. -/
def execTallyPerform (cell : Nat) (s : State) : Res :=
  match (s.cell cell).tally.queue with
  | [] => .next s
  | op :: rest => possible (s.cellClocked cell) s fun s =>
    afterTally (performTally (s.modCell cell (·.modTally fun t => { t with queue := rest })) cell op) cell

end Sys2Proof.Machine
end

