-- ==== Sys2Proof/Machine/Messages.lean ====
section
/-! DEFINITION. Messages: the message word (R261, R262), SEND and its carriage (R222, R263), turns and their records
(R266-R274), dispatch and HRET (R275-R279), and channels (R281-R287). -/

namespace Sys2Proof.Machine

/-! ### The message word (Table 09-1) -/

/-- REMOTE. -/
def mwRemote (w : Word) : Bool := w.getLsbD 63
/-- SPAN. -/
def mwSpan (w : Word) : Nat := bitsN w.toNat 62 57
/-- DEST. -/
def mwDest (w : Word) : Nat := bitsN w.toNat 54 43
/-- TURN. -/
def mwTurn (w : Word) : Nat := bitsN w.toNat 42 40
/-- HANDLER. -/
def mwHandler (w : Word) : Nat := bitsN w.toNat 39 32
/-- TAG. -/
def mwTag (w : Word) : BitVec 32 := w.truncate 32

/-- The message word names a cell of the chapel on this package or behind an assigned span slot (R222, R262). -/
def wordOk (s : State) (c : Nat) (w : Word) : Bool :=
  decide (bitsN w.toNat 56 55 = 0) && (mwRemote w || decide (mwSpan w = 0)) &&
    decide (mwDest w < (s.chapel c).ncells) && (!mwRemote w || !(s.slotPorts c (mwSpan w)).isEmpty)

/-- A port of span slot `n` of chapel `c` is up. -/
def slotUp (s : State) (c n : Nat) : Bool := (s.slotPorts c n).any fun t => (s.link t).up

/-- DETAIL of a message fault (Table 17-8). -/
def messageDetail (turn handler src dest span tid : Nat) (tag : BitVec 32) : List Byte :=
  [BitVec.ofNat 8 turn, BitVec.ofNat 8 handler] ++ le 2 src ++ le 2 dest ++
    [BitVec.ofNat 8 span, BitVec.ofNat 8 tid] ++ le 4 tag.toNat

/-! ### The chantry injection queue (R356) -/

/-- The chantry side of a cell changed. -/
def Cell.modCh (c : Cell) (f : ChNode → ChNode) : Cell := { c with ch := f c.ch }

/-- The queue of four takes a SEND. -/
def Cell.chantryRoom (c : Cell) : Bool := decide (c.ch.injQ.length + c.ch.sysQ.length < 4)

/-- A system flit of a cell enters its queue (R356, R359). -/
def pushSystem (s : State) (g : Nat) (f : ChFlit) : State :=
  s.modCell g (·.modCh fun n => { n with sysQ := n.sysQ ++ [f] })

/-- A system flit from cell `g` to a cell of its chapel, here or behind a span slot. -/
def systemFlit (s : State) (g kind dest span : Nat) (tag : Nat) : ChFlit :=
  { kind := kind, remote := decide (span ≠ 255), chapel := s.chapelIx g, dest := dest, src := g,
    span := if span = 255 then 0 else span, tag := BitVec.ofNat 32 tag }

/-! ### SEND -/

/-- What a SEND carries: the message word of its destination, and CHAN and CHSEQ of a channel message. -/
structure SendReq where
  word : Word
  len : Nat
  off : Nat
  chan : Option (Nat × Nat)
deriving DecidableEq, Repr

/-- A chantry message flit (R263, Table 12-1). -/
def messageFlit (s : State) (g t : Nat) (r : SendReq) (payload : List Byte) : ChFlit :=
  let h := s.chapel (s.chapelIx g)
  { kind := 0, remote := mwRemote r.word, channel := r.chan.isSome, chapel := s.chapelIx g
    dest := h.globalOf (mwDest r.word), tid := t, src := g, turn := mwTurn r.word
    span := mwSpan r.word, len := r.len, handler := mwHandler r.word
    tag := match r.chan with
      | some (c, n) => BitVec.ofNat 32 (n % 65536 + 65536 * (c % 64))
      | none => mwTag r.word
    payload := payload }

/-- An aisle message packet (R263, Tables 10-2, 10-3). -/
def messagePacket (s : State) (g t : Nat) (r : SendReq) (payload : List Byte) : AislePkt :=
  let h := s.chapel (s.chapelIx g)
  let cn := r.chan.getD (0, 0)
  { cls := 0, route := 0, kind := 1, chapel := s.chapelIx g, dest := h.globalOf (mwDest r.word), src := g
    units := payload.length / 64 - 1, remote := mwRemote r.word, span := mwSpan r.word, tag := mwTag r.word
    kindBytes := [BitVec.ofNat 8 (mwHandler r.word),
      BitVec.ofNat 8 (mwTurn r.word + if r.chan.isSome then 8 else 0), BitVec.ofNat 8 cn.1, 0#8] ++
      le 2 cn.2 ++ le 2 r.len
    tid := t, payload := payload }

/-- A message that finds every port of its slot down ends at its source (R325). -/
def messageLinkDown (s : State) (g t : Nat) (r : SendReq) : State :=
  let h := s.chapel (s.chapelIx g)
  logC s 0 0x011B (locCell g) (s.chapelIx g) (messageDetail (mwTurn r.word) (mwHandler r.word) g
    (h.globalOf (mwDest r.word)) (mwSpan r.word) t (mwTag r.word))

/-- The message leaves its thread: on the chantry up to 48 bytes, else on the aisle (R263); the thread waits where the
queue takes none, and passes its instruction otherwise, with `k` done. -/
def carry (s : State) (g t : Nat) (r : SendReq) (k : State → State) : State :=
  let c := s.cell g
  let data := Memory.readBytes c.store r.off r.len
  if r.len ≤ 48 then
    if c.chantryRoom then next s g t fun s =>
      let p := padFree (k s) 48 data
      p.2.modCell g (·.modCh fun n => { n with injQ := n.injQ ++ [messageFlit s g t r p.1] })
    else wait s g t .chantryQueue
  else if mwRemote r.word && !slotUp s (s.chapelIx g) (mwSpan r.word) then
    next s g t fun s => messageLinkDown (k s) g t r
  else
    let n := (r.len + 63) / 64 * 64
    let key := uniKey (mwRemote r.word) (mwSpan r.word) ((s.chapel (s.chapelIx g)).globalOf (mwDest r.word))
    if c.aisle.injHold || !c.assuredRoom key n then wait s g t .aisleQueue
    else next s g t fun s =>
      let p := padFree (k s) n data
      sendUniA p.2 g (messagePacket s g t r p.1)

/-- The first two checks of R222. -/
def sendChecks (s : State) (g t : Nat) (rl rb : Word) (k : State → State) : State :=
  let len := rl.toNat
  let off := rb.toNat
  if off % 8 ≠ 0 then raise s g t 0x04 (ownAddr s g off)
  else if 524288 < off + len then raise s g t 0x02 (ownAddr s g off)
  else if 8192 < len ∨ len % 8 ≠ 0 then raise s g t 0x09 0
  else k s

/-- A connectionless send (R222, R263). -/
def sendWord (s : State) (g t rl ra rb : Nat) : State :=
  let x := s.ctx g t
  sendChecks s g t (x.getS rl) (x.getS rb) fun s =>
    let w := x.getS ra
    if !wordOk s (s.chapelIx g) w then raise s g t 0x08 0
    else carry s g t ⟨w, (x.getS rl).toNat, (x.getS rb).toNat, none⟩ id

/-! ### Channels, the sending end -/

/-- Channel `h` of a cell as its sender holds it. -/
def Cell.tx (c : Cell) (h : Nat) : ChanTx := tget ChanTx.fresh c.chanTx h

/-- The cell with sending channel `h` changed. -/
def Cell.modTx (c : Cell) (h : Nat) (f : ChanTx → ChanTx) : Cell :=
  { c with chanTx := tput ChanTx.fresh c.chanTx h (f (c.tx h)) }

/-- Channel `c` of a cell as its receiver holds it. -/
def Cell.rx (c : Cell) (n : Nat) : ChanRx := tget ChanRx.fresh c.chanRx n

/-- The cell with receiving channel `n` changed. -/
def Cell.modRx (c : Cell) (n : Nat) (f : ChanRx → ChanRx) : Cell :=
  { c with chanRx := tput ChanRx.fresh c.chanRx n (f (c.rx n)) }

/-- Threads in CHAN.CLOSE on handle `h` pass it. -/
def Cell.closeWaiters (c : Cell) (h : Nat) : Cell :=
  { c with ctxs := c.ctxs.map fun (e : Nat × Ctx) =>
    (e.1, if e.2.waiting = Waiting.chanClose h then e.2.leave 0 0#64 else e.2) }

/-- The handle is closed at the sender (R286, R287). -/
def Cell.closeTx (c : Cell) (h : Nat) : Cell :=
  ((c.modTx h fun _ => ChanTx.fresh).closeWaiters h).retryWhere fun w => decide (w = Waiting.chanCredit h)

/-- A channel send (R283, R284, R287). -/
def sendChan (s : State) (g t rl ra rb : Nat) : State :=
  let x := s.ctx g t
  sendChecks s g t (x.getS rl) (x.getS rb) fun s =>
    let h := (x.getS ra).toNat
    let ch := (s.cell g).tx h
    let len := (x.getS rl).toNat
    if 64 ≤ h ∨ ch.phase ≠ 1 then raise s g t 0x08 0
    else if ch.maxLen < len then raise s g t 0x09 0
    else if mwRemote ch.peer && !slotUp s (s.chapelIx g) (mwSpan ch.peer) then
      next s g t fun s =>
        let s := s.modCell g (·.closeTx h)
        if len ≤ 48 then s else messageLinkDown s g t ⟨ch.peer, len, 0, none⟩
    else if ch.credits = 0 then wait s g t (.chanCredit h)
    else carry s g t ⟨ch.peer, len, (x.getS rb).toNat, some (ch.chan, ch.nextSeq)⟩ fun s =>
      s.modCell g (·.modTx h fun y => { y with
        credits := y.credits - 1, nextSeq := (y.nextSeq + 1) % 65536, sent := (y.sent + 1) % 65536 })

/-- SEND (R222, R263-R265). -/
def execSend (cell tid : Nat) (s : State) : Res :=
  issueIns .send cell tid s fun s i => match i with
    | .send _ _ rl ra rb => sendWord s cell tid rl ra rb
    | _ => s

/-- SEND_REL (R186). -/
def execSendRel (cell tid : Nat) (s : State) : Res :=
  issueIns .sendRel cell tid s fun s i => match i with
    | .send _ _ rl ra rb => released s cell tid fun s => sendWord s cell tid rl ra rb
    | _ => s

/-- SEND_CH (R283). -/
def execSendCh (cell tid : Nat) (s : State) : Res :=
  issueIns .sendCh cell tid s fun s i => match i with
    | .send _ _ rl ra rb => sendChan s cell tid rl ra rb
    | _ => s

/-- SEND_CH_REL (R186, R283). -/
def execSendChRel (cell tid : Nat) (s : State) : Res :=
  issueIns .sendChRel cell tid s fun s i => match i with
    | .send _ _ rl ra rb => released s cell tid fun s => sendChan s cell tid rl ra rb
    | _ => s

/-- The open flit of a handle (R359, Table 12-2). The TAG of the message word, which the flit's own TAG has no room
for, travels in the first four payload bytes (log entry 20). -/
def openFlit (s : State) (g h : Nat) (x : ChanTx) : ChFlit :=
  let c := s.chapel (s.chapelIx g)
  { kind := 3, remote := mwRemote x.peer, chapel := s.chapelIx g, dest := c.globalOf (mwDest x.peer), tid := x.tid
    src := g, turn := mwTurn x.peer, span := mwSpan x.peer, handler := mwHandler x.peer
    tag := BitVec.ofNat 32 (x.total + 256 * x.maxLen + 2 ^ 22 * h)
    payload := padTo 48 (le 4 (mwTag x.peer).toNat) }

/-- CHAN_OPEN (R281, R282). -/
def execChanOpen (cell tid : Nat) (s : State) : Res :=
  issueIns .chanOpen cell tid s fun s i => match i with
    | .chanOpen rd ra rb =>
      let x := s.ctx cell tid
      let w := x.getS ra
      let v := (x.getS rb).toNat
      let credits := bitsN v 7 0
      let maxLen := bitsN v 29 16
      if v ≠ credits + 65536 * maxLen ∨ credits = 0 ∨ 64 < credits ∨ 8192 < maxLen ∨ maxLen % 8 ≠ 0 then
        raise s cell tid 0x09 0
      else if !wordOk s (s.chapelIx cell) w then raise s cell tid 0x08 0
      else match (List.range 64).find? fun h => decide (((s.cell cell).tx h).phase = 3) with
        | none => setRd s cell tid rd (BitVec.allOnes 64)
        | some h => passes s cell tid fun s =>
          let y : ChanTx := { phase := 0, peer := w, tid := tid, maxLen := maxLen, total := credits }
          let s := s.modCell cell (·.modTx h fun _ => y)
          wait (pushSystem s cell (openFlit s cell h y)) cell tid (.chanOpen h rd)
    | _ => s

/-- Every credit of a handle is back: the handle is freed, and the receiver's reservation where the receiver is a cell
of this package (R286, log entry 21). -/
def finishClose (s : State) (g h : Nat) : State :=
  let x := (s.cell g).tx h
  let dest := (s.chapel (s.chapelIx g)).globalOf (mwDest x.peer)
  let s := s.modCell g (·.closeTx h)
  if mwRemote x.peer then s else s.modCell dest (·.modRx x.chan fun _ => ChanRx.fresh)

/-- CHAN_CLOSE (R286). -/
def execChanClose (cell tid : Nat) (s : State) : Res :=
  issueIns .chanClose cell tid s fun s i => match i with
    | .chanClose ra =>
      let h := ((s.ctx cell tid).getS ra).toNat
      let x := (s.cell cell).tx h
      if 64 ≤ h ∨ x.phase ≠ 1 then raise s cell tid 0x08 0
      else passes s cell tid fun s =>
        let s := wait (s.modCell cell (·.modTx h fun y => { y with phase := 2 })) cell tid (.chanClose h)
        if x.credits = x.total then finishClose s cell h else s
    | _ => s

/-! ### Turns (Tables 09-2 to 09-6) -/

/-- Turn `t` of a cell. -/
def Cell.turn (c : Cell) (t : Nat) : Turn := tget Turn.fresh c.turns t

/-- The cell with turn `t` changed. -/
def Cell.modTurn (c : Cell) (t : Nat) (f : Turn → Turn) : Cell :=
  { c with turns := tput Turn.fresh c.turns t (f (c.turn t)) }

/-- A turn is enabled (Table 09-4). -/
def Turn.enabled (t : Turn) : Bool := decide (t.ringSize ≠ 0)

/-- Bytes of a record (R270). -/
def recordSize (len : Nat) : Nat := 64 * ((16 + len + 63) / 64)

/-- RING_USED: bytes of the ring's records not retired (Table 09-5). -/
def Turn.ringUsed (t : Turn) : Nat :=
  ((t.records.filter fun r => !r.spilled && r.chan.isNone && !r.retired).map Record.size).sum

/-- SPILL_USED: bytes of the records held in the spill region. -/
def Turn.spillUsed (t : Turn) : Nat := ((t.records.filter Record.spilled).map Record.size).sum

/-- The 16 bytes of a turn's status (Table 09-5). -/
def Turn.status (t : Turn) : List Byte :=
  le 4 t.ringUsed ++ le 4 t.spillUsed ++ le 4 t.spilledTotal ++
    [BitVec.ofNat 8 ((if t.overflowed then 1 else 0) + if t.spillActive then 2 else 0)] ++ zeros 3

/-- The cell writes a turn's status entry (R269). -/
def Cell.showTurn (c : Cell) (t : Nat) : Cell :=
  { c with store := c.store.writeBytes (0x7F500 + 16 * t) (c.turn t).status }

/-- Where `n` bytes go in a region of `size` bytes with `held` bytes in it between `head` and `tail`: the offset and the
bytes skipped before it (R272: no record wraps). -/
def regionPlace (size head tail held n : Nat) : Option (Nat × Nat) :=
  if size < held + n then none
  else if held = 0 then some (if size - tail < n then 0 else tail, 0)
  else if tail ≤ head then if n ≤ head - tail then some (tail, 0) else none
  else if n ≤ size - tail then some (tail, 0)
  else if n ≤ head then some (0, size - tail)
  else none

/-- The oldest entry of a region: where its bytes begin, the skipped ones before it included. -/
def Turn.regionHead (t : Turn) (spill : Bool) : Nat :=
  match t.records.find? (fun r => r.chan.isNone && decide (r.spilled = spill)) with
  | some r =>
    let base := if spill then t.spillBase else t.ringBase
    let size := if spill then t.spillSize else t.ringSize
    (r.offset - base + size - (r.span - r.size)) % max 1 size
  | none => if spill then t.spillTail else t.ringTail

/-- The 16 bytes of a record header (Table 09-6). `src` is chapel-relative. -/
def recordHeader (m : Message) (src : Nat) (spilled : Bool) : List Byte :=
  let flags := (if m.chan.isSome then 1 else 0) + (if spilled then 2 else 0) +
    (if m.srcSpan ≠ 255 then 4 else 0) + (if m.aisle then 8 else 0)
  let cn := m.chan.getD (65535, 0)
  le 2 m.len ++ le 1 m.handler ++ le 1 flags ++ le 2 src ++ le 1 m.srcSpan ++ le 1 (m.turn * 32 + m.tid % 16) ++
    le 4 m.tag.toNat ++ le 2 cn.2 ++ le 2 cn.1

/-- A record's bytes written at an offset of the own store, padded with free bytes (R270). -/
def writeRecord (s : State) (g off : Nat) (header payload : List Byte) (size : Nat) : State :=
  let p := padFree s size (header ++ payload)
  p.2.modCell g fun c => { c with store := c.store.writeBytes off p.1 }

/-- SRC of a message as a chapel-relative index. -/
def Message.rel (m : Message) (h : Chapel) : Nat := h.relOf m.src % 4096

/-- DETAIL of a message fault about an arriving message. -/
def Message.detail (m : Message) (g : Nat) : List Byte :=
  messageDetail m.turn m.handler m.src g m.srcSpan m.tid m.tag

/-- A record placed in the ring or the spill region. -/
def placeIn (s : State) (g : Nat) (m : Message) (spill : Bool) (off skipped : Nat) : State :=
  let size := recordSize m.len
  let tu := (s.cell g).turn m.turn
  let header := recordHeader m (m.rel (s.chapel (s.chapelIx g))) spill
  let base := if spill then tu.spillBase else tu.ringBase
  let r : Record := ⟨base + off, size, size + skipped, header, spill, none, none, false⟩
  let s := writeRecord s g (base + off) header m.payload size
  s.modCell g fun c => (c.modTurn m.turn fun t =>
    let t := { t with records := t.records ++ [r] }
    if spill then { t with
      spillTail := (off + size) % t.spillSize, spillHeld := t.spillHeld + size + skipped, spillActive := true,
      spilledTotal := satInc 0xFFFFFFFF t.spilledTotal }
    else { t with ringTail := (off + size) % t.ringSize, ringHeld := t.ringHeld + size + skipped }).showTurn m.turn

/-- A connectionless record is placed in its turn (R272, R273). -/
def placeRecord (s : State) (g : Nat) (m : Message) : State :=
  let tu := (s.cell g).turn m.turn
  let size := recordSize m.len
  let c := s.chapelIx g
  if !tu.enabled then logC s 0 0x0118 (locCell g) c (m.detail g)
  else
    let ring := if tu.spillActive then none
      else regionPlace tu.ringSize (tu.regionHead false) tu.ringTail tu.ringHeld size
    match ring with
    | some (off, skip) => placeIn s g m false off skip
    | none =>
      let spill := if tu.spillUsed + size ≤ tu.spillSize
        then regionPlace tu.spillSize (tu.regionHead true) tu.spillTail tu.spillHeld size else none
      match spill with
      | some (off, skip) => placeIn s g m true off skip
      | none =>
        let s := s.modCell g fun x => (x.modTurn m.turn fun t => { t with overflowed := true }).showTurn m.turn
        faultK s c 0x011A (locCell g) (m.detail g) false false

/-! ### Channels, the receiving end -/

/-- Bytes of one reserved slot (R282). -/
def slotBytes (maxLen : Nat) : Nat := recordSize maxLen

/-- The records of channel `n` that have become deliverable join their turn, in CHSEQ order (R284). -/
def releaseEarly : Nat → Cell → Nat → Cell
  | 0, c, _ => c
  | fuel + 1, c, n =>
    let x := c.rx n
    match x.early.find? (fun e => decide (e.1 = x.next)) with
    | none => c
    | some e =>
      let off := x.base + (x.next % max 1 x.credits) * x.slotSize
      let header := c.store.readBytes off 16
      let r : Record := ⟨off, x.slotSize, x.slotSize, header, false, some n, none, false⟩
      let c := (c.modTurn x.turn fun t => { t with records := t.records ++ [r] }).modRx n fun x =>
        { x with next := (x.next + 1) % 65536, early := x.early.filter fun y => decide (y.1 ≠ e.1) }
      releaseEarly fuel c n

/-- A channel message is written into its reserved slot (R284); one that names no reservation, or a slot not free, is
discarded. -/
def placeChannel (s : State) (g : Nat) (m : Message) (n seq : Nat) : State :=
  let x := (s.cell g).rx n
  let ahead := (seq + 65536 - x.next) % 65536
  if !x.used || decide (x.credits ≤ ahead) || x.early.any (fun e => decide (e.1 = seq)) then s
  else
    let m := { m with turn := x.turn, handler := x.handler, tag := x.tag, chan := some (n, seq) }
    let off := x.base + (seq % max 1 x.credits) * x.slotSize
    let header := recordHeader m (m.rel (s.chapel (s.chapelIx g))) false
    let s := writeRecord s g off header m.payload x.slotSize
    s.modCell g fun c => ((releaseEarly 64 (c.modRx n fun x =>
      { x with early := x.early ++ [(seq, m)], creditOut := false }) n).showTurn x.turn)

/-- A message at its destination cell (R272, R284); after an evict it is discarded (Table 09-9). -/
def placeMessage (s : State) (g : Nat) (m : Message) : State :=
  if (s.chapel (s.chapelIx g)).state = .evicting ∨ s.chapelOfCell g = none then s
  else match m.chan with
    | some (n, seq) => placeChannel s g m n seq
    | none => placeRecord s g m

/-- MESSAGE_ARRIVAL (R263, R272, R284, R288): the oldest message ejected at the cell is placed. -/
def execMessageArrival (cell : Nat) (s : State) : Res :=
  match (s.cell cell).arrivals with
  | [] => .next s
  | m :: rest => possible (s.cellClocked cell) s fun s =>
    placeMessage (s.modCell cell fun c => { c with arrivals := rest }) cell m

/-! ### Retiring (R274, R279, R285) -/

/-- Retired records at the head of a region give their space back (R274). -/
def reclaim (spill : Bool) : Nat → Turn → Turn
  | 0, t => t
  | fuel + 1, t =>
    match t.records.find? (fun r => r.chan.isNone && decide (r.spilled = spill)) with
    | some r =>
      if r.retired then
        let t := { t with records := t.records.erase r }
        reclaim spill fuel (if spill then { t with spillHeld := t.spillHeld - r.span }
          else { t with ringHeld := t.ringHeld - r.span })
      else t
    | none => t

/-- SPILL_ACTIVE clears when the spill region is empty (R273). -/
def Turn.settleSpill (t : Turn) : Turn := if t.spillHeld = 0 then { t with spillActive := false } else t

/-- Record `r` of a turn is retired. -/
def Turn.retire (t : Turn) (r : Record) : Turn :=
  if r.chan.isSome then { t with records := t.records.erase r }
  else
    let t := { t with records := t.records.map fun x => if x = r then { x with retired := true } else x }
    (reclaim true t.records.length (reclaim false t.records.length t)).settleSpill

/-- The latest credit of a receiving channel leaves (R285, R359). -/
def sendCredit (s : State) (g n : Nat) : State :=
  let x := (s.cell g).rx n
  let s := s.modCell g (·.modRx n fun x => { x with creditOut := true })
  pushSystem s g (systemFlit s g 2 x.src x.srcSpan (x.retired + 65536 * x.handle))

/-- A record of cell `g` is retired: its space is reclaimed, or its channel's credit returned. -/
def retireRecord (s : State) (g t : Nat) (r : Record) : State :=
  let s := s.modCell g fun c => (c.modTurn t (·.retire r)).showTurn t
  match r.chan with
  | some n => sendCredit (s.modCell g (·.modRx n fun x => { x with retired := (x.retired + 1) % 65536 })) g n
  | none => s

/-- The record dispatched to thread `t` whose payload is at `payload`, with its turn (R279). -/
def Cell.takenBy (c : Cell) (t payload : Nat) : Option (Nat × Record) :=
  (List.range 8).findSome? fun u => ((c.turn u).records.find? fun r =>
    decide (r.taken = some t ∧ r.offset + 16 = payload) && !r.retired).map fun r => (u, r)

/-- HRET (R279). -/
def execHret (cell tid : Nat) (s : State) : Res :=
  issueIns .hret cell tid s fun s _ =>
    let x := s.ctx cell tid
    let to_ := (x.getS 29).toNat
    match (s.cell cell).takenBy tid (x.getS 28).toNat with
    | none => raise s cell tid 0x08 0
    | some (u, r) =>
      if to_ = 0 then exitThread (retireRecord s cell u r) cell tid
      else goTo s cell tid to_ fun s => retireRecord s cell u r

/-! ### Dispatch (R275-R278) -/

/-- The oldest undispatched deliverable record of a turn (R273). -/
def Turn.oldest (t : Turn) : Option Record := t.records.find? fun r => r.taken.isNone && !r.retired

/-- The mask of a context that waits in TURN.WAIT. -/
def Waiting.turnMask : Waiting → BitVec 8
  | .turn m _ => m
  | _ => 0#8

/-- rd of a context that waits in TURN.WAIT. -/
def Waiting.turnRd : Waiting → Nat
  | .turn _ rd => rd
  | _ => 0

/-- Who takes a record of turn `t`: the longest waiting thread, or a FREE context to be started (R276, Table 09-9). -/
def State.taker (s : State) (g t : Nat) : Option (Nat × Bool) :=
  let c := s.cell g
  match c.waiters.find? (fun u => decide ((c.ctx u).mode = .wait) && (c.ctx u).waiting.turnMask.getLsbD t) with
  | some u => some (u, false)
  | none =>
    if (c.turn t).spawn && decide ((s.chapel (s.chapelIx g)).state = .running) then
      c.freeCtx.map fun u => (u, true)
    else none

/-- The dispatch registers s26-s29 (Table 09-7). -/
def Ctx.dispatched (x : Ctx) (r : Record) (s29 : Word) : Ctx :=
  (((x.setS 26 (BitVec.ofNat 64 (fieldN r.header 0 8))).setS 27 (BitVec.ofNat 64 (fieldN r.header 8 4))).setS 28
    (BitVec.ofNat 64 (r.offset + 16))).setS 29 s29

/-- The record is dispatched to context `u`, which goes on at `pc` (R278). -/
def dispatchTo (s : State) (g t u : Nat) (started : Bool) (r : Record) (pc : Nat) : State :=
  let mark := fun (s : State) => s.modCell g (·.modTurn t fun x => { x with
    records := x.records.map fun y => if y = r then { y with taken := some u } else y })
  if started then
    let s := (mark (startThread s g u pc 0#64)).modCtx g u fun x => x.dispatched r 0#64
    if pcOk pc then s else raise s g u 0x07 0
  else
    let x := s.ctx g u
    let rd := x.waiting.turnRd
    let s := (s.modCell g fun c => { c with waiters := c.waiters.erase u }).modCtx g u Ctx.goOn
    goTo s g u pc fun s => (mark s).modCtx g u fun y =>
      (y.setS rd (BitVec.ofNat 64 t)).dispatched r (BitVec.ofNat 64 (x.pc.toNat + 4))

/-- A turn's oldest record is dispatched, or retired where its handler entry is not VALID (R268, R276, R277). -/
def dispatchTurn (s : State) (g t : Nat) : State :=
  match ((s.cell g).turn t).oldest, s.taker g t with
  | some r, some (u, started) =>
    let h := (byteAt r.header 2).toNat
    let e := leNat (Memory.readBytes (s.cell g).store (0x7F000 + 4 * h) 4)
    if e < 2 ^ 31 then
      let m : Message := ⟨0, h, false, (s.chapel (s.chapelIx g)).globalOf (fieldN r.header 4 2 % 4096),
        fieldN r.header 6 1, t, fieldN r.header 7 1 % 16, BitVec.ofNat 32 (fieldN r.header 8 4), none, []⟩
      logC (retireRecord s g t r) 0 0x0119 (locCell g) (s.chapelIx g) (m.detail g)
    else dispatchTo s g t u started r (e % 524288)
  | _, _ => s

/-- RECORD_DISPATCH (R276-R278): a turn's oldest record, while the chapel is RUNNING or RETIRING. -/
def execRecordDispatch (cell turn : Nat) (s : State) : Res :=
  possible (decide (cell < 3072 ∧ turn < 8) && s.cellRuns cell && ((s.cell cell).turn turn).oldest.isSome &&
    (s.taker cell turn).isSome) s fun s => dispatchTurn s cell turn

/-- TURN_WAIT (R275): the thread waits, and takes a record at once where a named turn has one, lowest T-index first. -/
def execTurnWait (cell tid : Nat) (s : State) : Res :=
  issueIns .turnWait cell tid s fun s i => match i with
    | .turnWait rd ra =>
      let mask : BitVec 8 := ((s.ctx cell tid).getS ra).truncate 8
      let named := (List.range 8).filter fun t => mask.getLsbD t && ((s.cell cell).turn t).enabled
      if named.isEmpty then raise s cell tid 0x08 0
      else passes s cell tid fun s =>
        let s := (wait s cell tid (.turn mask rd)).modCell cell fun c =>
          { c with waiters := c.waiters ++ [tid] }
        match named.find? fun t => ((s.cell cell).turn t).oldest.isSome with
        | some t => dispatchTurn s cell t
        | none => s
    | _ => s

/-! ### Channel system flits (R282, R359, R360) -/

/-- The system flit of kind `kind` that the cell consumes next. -/
def Cell.systemHead (c : Cell) (kind : Nat) : Option ChFlit :=
  match c.sysIn with
  | f :: _ => if f.kind = kind then some f else none
  | [] => none

/-- A system flit of a kind is consumed by the cell's own logic (R358). -/
def consumeSystem (g kind : Nat) (s : State) (k : State → ChFlit → State) : Res :=
  match (s.cell g).systemHead kind with
  | none => .next s
  | some f => possible (s.cellClocked g) s fun s => k (s.modCell g fun c => { c with sysIn := c.sysIn.drop 1 }) f

/-- The lowest base in a pool at which `n` bytes meet no reservation (R282); `used` is rising by base. -/
def firstFit (base end_ n : Nat) : List (Nat × Nat) → Option Nat
  | [] => if base + n ≤ end_ then some base else none
  | (b, m) :: rest => if base + n ≤ b then some base else firstFit (b + m) end_ n rest

/-- Insertion by first component. -/
def insertByFst (e : Nat × Nat) : List (Nat × Nat) → List (Nat × Nat)
  | [] => [e]
  | x :: xs => if e.1 ≤ x.1 then e :: x :: xs else x :: insertByFst e xs

/-- The reservations of a turn's pool, rising by base. -/
def Cell.poolUsed (c : Cell) (t : Nat) : List (Nat × Nat) :=
  (c.chanRx.filter fun e => e.2.used && decide (e.2.turn = t)).foldl
    (fun l e => insertByFst (e.2.base, e.2.credits * e.2.slotSize) l) []

/-- The reservation an open asks for: its channel number and base, where it can be made (R282). -/
def Cell.reserve (c : Cell) (t bytes : Nat) : Option (Nat × Nat) :=
  let tu := c.turn t
  match (List.range 64).find? fun n => !(c.rx n).used with
  | none => none
  | some n =>
    if tu.enabled then (firstFit tu.chanBase (tu.chanBase + tu.chanSize) bytes (c.poolUsed t)).map fun b => (n, b)
    else none

/-- CHANNEL_OPEN (R282, R359, R360): a repeated open gets its first reply. -/
def execChannelOpen (cell : Nat) (s : State) : Res :=
  consumeSystem cell 3 s fun s f =>
    let tag := f.tag.toNat
    let credits := bitsN tag 7 0
    let maxLen := bitsN tag 21 8
    let handle := bitsN tag 27 22
    let c := s.cell cell
    let reply := fun (s : State) (n : Nat) =>
      pushSystem s cell (systemFlit s cell 4 f.src f.srcSpan (n + 64 * handle))
    let old := c.chanRx.find? fun e =>
      e.2.used && decide (e.2.src = f.src ∧ e.2.srcSpan = f.srcSpan ∧ e.2.handle = handle)
    match old with
    | some e => reply s e.1
    | none => match c.reserve f.turn (credits * slotBytes maxLen) with
      | none => reply s 63
      | some (n, base) =>
        let x : ChanRx :=
          { used := true, src := f.src, srcSpan := f.srcSpan, handle := handle, turn := f.turn,
            handler := f.handler, tag := BitVec.ofNat 32 (fieldN f.payload 0 4), base := base,
            slotSize := slotBytes maxLen, credits := credits }
        reply (s.modCell cell (·.modRx n fun _ => x)) n

/-- The thread in CHAN.OPEN on handle `h` gets its answer. -/
def Cell.openAnswer (c : Cell) (h : Nat) (v : Word) : Cell :=
  { c with ctxs := c.ctxs.map fun (e : Nat × Ctx) => (e.1, match e.2.waiting with
    | .chanOpen h' rd => if h' = h then e.2.leave rd v else e.2
    | _ => e.2) }

/-- CHANNEL_OPEN_REPLY (R282, R359). -/
def execChannelOpenReply (cell : Nat) (s : State) : Res :=
  consumeSystem cell 4 s fun s f =>
    let chan := bitsN f.tag.toNat 5 0
    let h := bitsN f.tag.toNat 11 6
    if ((s.cell cell).tx h).phase ≠ 0 then s
    else if chan = 63 then s.modCell cell fun c => (c.modTx h fun _ => ChanTx.fresh).openAnswer h (BitVec.allOnes 64)
    else s.modCell cell fun c =>
      (c.modTx h fun x => { x with phase := 1, chan := chan, credits := x.total }).openAnswer h (BitVec.ofNat 64 h)

/-- CHANNEL_CREDIT (R285, R286, R359). -/
def execChannelCredit (cell : Nat) (s : State) : Res :=
  consumeSystem cell 2 s fun s f =>
    let count := bitsN f.tag.toNat 15 0
    let h := bitsN f.tag.toNat 21 16
    let x := (s.cell cell).tx h
    if x.phase ≠ 1 ∧ x.phase ≠ 2 then s
    else
      let credits := x.total - (x.sent + 65536 - count) % 65536
      let s := s.modCell cell fun c =>
        (c.modTx h fun x => { x with retired := count, credits := credits }).retryWhere
          fun w => decide (w = Waiting.chanCredit h ∧ credits ≠ 0)
      if x.phase = 2 ∧ credits = x.total then finishClose s cell h else s

/-- CREDIT_REPEAT (R360). -/
def execCreditRepeat (cell chan : Nat) (s : State) : Res :=
  let x := (s.cell cell).rx chan
  possible (s.cellClocked cell && decide (chan < 64) && x.used && x.creditOut) s fun s => sendCredit s cell chan

/-- OPEN_REPEAT (R360): up to 8 times. -/
def execOpenRepeat (cell handle : Nat) (s : State) : Res :=
  let x := (s.cell cell).tx handle
  possible (s.cellClocked cell && decide (handle < 64 ∧ x.phase = 0 ∧ x.repeats < 8)) s fun s =>
    let s := s.modCell cell (·.modTx handle fun x => { x with repeats := x.repeats + 1 })
    pushSystem s cell (openFlit s cell handle x)

/-- CHANNEL_OPEN_GIVE_UP (R360). -/
def execChannelOpenGiveUp (cell handle : Nat) (s : State) : Res :=
  let x := (s.cell cell).tx handle
  possible (s.cellClocked cell && decide (handle < 64 ∧ x.phase = 0 ∧ x.repeats = 8)) s fun s =>
    s.modCell cell fun c => (c.modTx handle fun _ => ChanTx.fresh).openAnswer handle (BitVec.allOnes 64)

/-! ### HANDLER_LOAD (R267, Table 04-10) -/

/-- The turn a descriptor of a HANDLER_LOAD image gives; what was spilled before stays counted. -/
def turnOf (img : List Byte) (t : Nat) (old : Turn) : Turn :=
  let f := fun i => fieldN img (1024 + 32 * t + 4 * i) 4
  { ringBase := f 0, ringSize := f 1, spillBase := f 2, spillSize := f 3, chanBase := f 4, chanSize := f 5,
    spawn := bitN (fieldN img (1024 + 32 * t + 24) 1) 0,
    spilledTotal := old.spilledTotal, overflowed := old.overflowed }

/-- A cell's control block loaded (R267, R268). -/
def Cell.loadHandlers (c : Cell) (img : List Byte) : Cell :=
  let c := { c with store := c.store.writeBytes 0x7F000 (sliceB img 0 1280) }
  (List.range 8).foldl (fun c t => (c.modTurn t (turnOf img t)).showTurn t) c

/-- A cell has a record in a turn or a channel open (R267). -/
def Cell.turnBusy (c : Cell) : Bool :=
  c.turns.any (fun e => !e.2.records.isEmpty) || c.chanRx.any (fun e => e.2.used) ||
    c.chanTx.any (fun e => decide (e.2.phase ≠ 3))

end Sys2Proof.Machine
end

