-- ==== Sys2Proof/Machine/Slype.lean ====
section
/-! DEFINITION. Slype engines and the sacristy's mover: SLYPE.GO and SLYPE.WAIT, the units of a copy, their packets and
requests, and how a copy ends (R190-R194, R312-R314, R413, Table 04-12). -/

namespace Sys2Proof.Machine

/-! ### The end of units and copies -/

/-- Units of 64 bytes of a copy. -/
def Slype.total (x : Slype) : Nat := x.len / 64

/-- MODE of the destination register; a SLYPE_COPY always uses MODE 0 (R312). -/
def Slype.dstMode (x : Slype) : Nat := if x.host.isSome then 0 else x.dst / 2 ^ 62 % 4

/-- BYTES_MOVED moves past every complete unit at its head (R193). -/
def Slype.advance : Nat → Slype → Slype
  | 0, x => x
  | fuel + 1, x =>
    let k := x.moved / 64
    if x.ended.contains k then Slype.advance fuel { x with moved := x.moved + 64, ended := x.ended.erase k } else x

/-- Units `first` to `first + n - 1` are complete. -/
def Slype.unitsDone (x : Slype) (first n : Nat) : Slype :=
  let us := (List.range n).map (· + first)
  let x := { x with units := x.units.filter fun u => !us.contains u.index, ended := x.ended ++ us }
  x.advance x.ended.length

/-- A unit or packet ended in an error: the first stops the copy (R192). -/
def Slype.fail (x : Slype) (status addr : Nat) : Slype := { x with failed := x.failed.orElse fun _ => some (status, addr) }

/-- STATUS for the STATUS of a response (Table 06-6): TIMEOUT, ABORTED and LINK_DOWN as they are, every other error
ABORTED. -/
def copyStatus (status : Nat) : Nat := if status = 6 ∨ status = 8 then status else 7

/-- Nothing of the copy is in flight or still to be issued. -/
def Slype.over (x : Slype) : Bool :=
  decide (x.mode ≠ 0) && x.units.isEmpty && x.unacked.isEmpty && (x.failed.isSome || decide (x.nextUnit = x.total))

/-- A SLYPE_COPY completes with STATUS, DETAIL and the bytes moved (Table 04-12). -/
def endCopyCmd (s : State) (n status detail moved : Nat) : State :=
  match s.cmd n with
  | some k => if status = 0 then doneCmd s k (le 8 moved) else completeCmd s k status detail (le 8 moved) false .nothing
  | none => s

/-- Threads in SLYPE.WAIT on engine `e` issue again. -/
def Cell.slypeRetry (c : Cell) (e : Nat) : Cell := c.retryWhere fun w => decide (w = Waiting.slype e)

/-- The engine goes IDLE with its last STATUS and address (R192-R194). -/
def Slype.idle (x : Slype) (status addr : Nat) : Slype :=
  { x with
    mode := 0, status := status, err := addr, host := none, units := [], ended := [], unacked := [], failed := none,
    copySeq := if x.dstMode = 2 ∧ 0 < x.moved then (x.copySeq + 1) % 65536 else x.copySeq }

/-- A copy that is over ends: its engine is IDLE, its waiters and its SLYPE_COPY go on, its chapel may end. -/
def settleEngine (s : State) (g e : Nat) : State :=
  let x := (s.cell g).eng e
  if x.over then
    let f := x.failed.getD (0, 0)
    let s := s.modCell g fun c => (c.modEng e fun x => x.idle f.1 f.2).slypeRetry e
    let s := match x.host with
      | some n => endCopyCmd s n f.1 0 x.moved
      | none => s
    settleChapel s (s.chapelIx g)
  else s

/-- A unit of an engine is complete. -/
def unitDone (s : State) (g e k : Nat) : State := settleEngine (s.modEng g e (·.unitsDone k 1)) g e

/-- A unit of an engine ends in an error. -/
def unitFail (s : State) (g e k status addr : Nat) : State :=
  settleEngine (s.modEng g e fun x =>
    { (x.fail (copyStatus status) addr) with
      units := x.units.filter fun u => u.tracker.isSome && decide (u.index ≠ k) }) g e

/-- An issue that fails before anything of its unit is under way (R192): units gathered for a packet are dropped. -/
def refuseUnit (s : State) (g e status addr : Nat) : State :=
  settleEngine (s.modEng g e fun x =>
    { (x.fail status addr) with units := x.units.filter fun u => u.tracker.isSome }) g e

/-- A UNI-A packet of engine `e` is acknowledged (R321, R322). -/
def uniUnitsDone (s : State) (g e key : Nat) : State :=
  settleEngine (s.modEng g e fun x => match x.unacked.lookup key with
    | some (k, n) => ({ x with unacked := tdel x.unacked key }).unitsDone k n
    | none => x) g e

/-- A UNI-A packet of engine `e` ends without an acknowledgement (R324, R325). -/
def uniUnitsFail (s : State) (g e key status : Nat) : State :=
  settleEngine (s.modEng g e fun x => match x.unacked.lookup key with
    | some (k, _) => { (x.fail status ((x.dst + 64 * k) % 2 ^ 48)) with unacked := tdel x.unacked key }
    | none => x) g e

/-! ### Requests of an engine on the ambulatory -/

/-- TXN of an engine's tracker `k`. -/
def engTxn (e k : Nat) : Nat := 128 + 192 * e + k

/-- Tracker `k` of an engine changed. -/
def Slype.modTracker (x : Slype) (k : Nat) (f : Tracker → Tracker) : Slype :=
  { x with trackers := tput Tracker.fresh x.trackers k (f (tget Tracker.fresh x.trackers k)) }

/-- Unit `i` changed. -/
def Slype.modUnit (x : Slype) (i : Nat) (f : CopyUnit → CopyUnit) : Slype :=
  { x with units := x.units.map fun u => if u.index = i then f u else u }

/-- An engine sends the request of unit `i`, at chapel address `a`, under its tracker `k`; a remote one whose slot has
no port up ends in LINK_DOWN (R174). -/
def engSend (s : State) (g e k i a : Nat) (place : Place) (f : AmbFlit) : State :=
  let old := tget Tracker.fresh ((s.cell g).eng e).trackers k
  let req := placeReq place { f with
    vnet := 0, prio := 1, chapel := s.chapelIx g, src := g, txn := engTxn e k, epoch := old.epoch, size := 4 }
  let out := if req.remote then (remotePort s req.chapel req.span req.addr).map fun p => { req with dest := epPort p }
    else some req
  match out with
  | none => unitFail (s.modEng g e (·.modTracker k fun t => t.freed false)) g e i 8 a
  | some req =>
    let t : Tracker := { old with busy := true, sent := true, addr := a, landing := .unit i, req := req }
    inject (s.modEng g e (·.modTracker k fun _ => t)) g req

/-! ### Classification of a unit (R192, R312) -/

/-- A place on the aisle: a cell's store of this package or, behind a span slot, of the chapel's package there. -/
structure CellPlace where
  dest : Nat
  remote : Bool
  span : Nat
  off : Nat
deriving DecidableEq, Repr

/-- The cell store a place names; a remote offset in the cell-store range names a cell of the peer (R174). -/
def cellPlace (h : Chapel) (g : Nat) : Place → Option CellPlace
  | .own off => some ⟨g, false, 0, off⟩
  | .cell d off => some ⟨d, false, 0, off⟩
  | .remote n off =>
    if off < 0x60000000 ∧ off / 524288 < h.ncells then some ⟨h.globalOf (off / 524288), true, n, off % 524288⟩ else none
  | _ => none

/-- A slype read or write of the 64 bytes at a chapel address (R169-R175). -/
def unitPlace (s : State) (g : Nat) (kind : Access) (a : Nat) : Option Place :=
  match checkAddr s g kind 64 a with
  | .ok p => some p
  | .error _ => none

/-- Where a unit goes. -/
inductive UnitDst where
  /-- a UNI-A packet, on a source route or not; or a UNI-P packet -/
  | uni (assured : Bool) (p : CellPlace) (route : Option Word)
  /-- a cast to a group, at an offset of every member -/
  | cast (grp off : Nat)
  /-- a request, or the own store -/
  | amb (p : Place)
deriving DecidableEq, Repr

/-- The cell at the end of a source route, from `g` on lane `d` (R304). -/
def routeEnd (h : Chapel) (info : Nat) : Nat → Nat → Nat → Dir → Option Nat
  | 0, _, _, _ => none
  | fuel + 1, pos, g, d =>
    let n := h.far g d
    if h.folds g d then routeEnd h info fuel pos n.1 n.2
    else match bitsN info (2 * pos + 1) (2 * pos) with
      | 0 => routeEnd h info fuel (pos + 1) n.1 n.2
      | 1 => routeEnd h info fuel (pos + 1) n.1 (dirTurn n.2 true)
      | 2 => routeEnd h info fuel (pos + 1) n.1 (dirTurn n.2 false)
      | _ => some n.1

/-- The endpoint of a route entry of cell `g` (Table 10-4). -/
def routeTarget (h : Chapel) (g info : Nat) : Option Nat := routeEnd h info 64 0 g (dirOfCode (bitsN info 54 53))

/-- Group `n` of a chapel. -/
def Chapel.group (h : Chapel) (n : Nat) : McastGroup := tget McastGroup.fresh h.mcast n

/-- The register of a cast keeps Table 10-8 and R313. -/
def castOk (h : Chapel) (g : Nat) (x : Slype) : Bool :=
  let grp := h.group (bitsN x.dst 57 48)
  decide (bitsN x.dst 47 27 = 0) && decide (x.len ≤ 536870912 ∧ bitsN x.dst 18 0 + x.len ≤ 0x7F000) &&
    (decide (grp.kind = 2) || (decide (grp.kind = 1) && decide (h.globalOf grp.root = g)))

/-- Where unit `k` of a copy goes; none where the register or the address is refused, at which address (R192, R312). -/
def unitDst (s : State) (g : Nat) (x : Slype) (k : Nat) (srcCell : Bool) : Except Nat UnitDst :=
  let h := s.chapel (s.chapelIx g)
  let a := x.dst % 2 ^ 48 + 64 * k
  let bad := Except.error (a % 2 ^ 48)
  match x.dstMode with
  | 0 =>
    if 2 ^ 48 ≤ x.dst then bad
    else match unitPlace s g .store a with
      | none => bad
      | some p => match cellPlace h g p with
        | some c => if srcCell then .ok (.uni true c none) else .ok (.amb p)
        | none => .ok (.amb p)
  | 1 =>
    let grp := h.group (bitsN x.dst 57 48)
    let e := tget 0 grp.entries (h.relOf g)
    let c := (unitPlace s g .store a).bind (cellPlace h g)
    match c with
    | some c =>
      if decide (bitsN x.dst 61 58 = 0 ∧ grp.kind = 3 ∧ e ≠ 0 ∧ c.remote = false) &&
          decide (routeTarget h g e = some c.dest) then .ok (.uni true c (some (BitVec.ofNat 64 e)))
      else bad
    | none => bad
  | 2 => if castOk h g x then .ok (.cast (bitsN x.dst 57 48) (bitsN x.dst 18 0 + 64 * k)) else .error 0
  | _ =>
    match (unitPlace s g .store a).bind (cellPlace h g) with
    | some c => if bitsN x.dst 61 48 = 0 ∧ c.remote = false ∧ c.dest ≠ g then .ok (.uni false c none) else bad
    | none => bad

/-- The units of the packet that starts with unit `k`: at most 8,192 bytes, within one cell of the destination and,
but for a cast, of the source. -/
def Slype.packetUnits (x : Slype) (k : Nat) : Nat :=
  let room := fun (a : Nat) => (524288 - a % 524288) / 64
  let n := min 128 (x.total - k)
  if x.dstMode = 2 then n else min n (min (room (x.src + 64 * k)) (room (x.dst + 64 * k)))

/-! ### Packets of a copy -/

/-- A data packet of an engine (Tables 10-2, 10-3). -/
def dataPacket (s : State) (g e : Nat) (off : Nat) (data : List Byte) : AislePkt :=
  { kind := 0, chapel := s.chapelIx g, src := g, engine := decide (e = 1), units := data.length / 64 - 1
    kindBytes := le 4 off ++ zeros 4, payload := data }

/-- The engine has injected units `k` on without being answered (R314). -/
def Slype.injected (x : Slype) (k n : Nat) : Slype :=
  { x with units := x.units.filter fun u => decide (u.index < k ∨ k + n ≤ u.index), moved := x.moved + 64 * n }

/-- A cast packet leaves, by the group's ring or tree; one that has no link to leave by is not sent (R308, R309). -/
def sendCast (s : State) (g e grp off k n : Nat) (data : List Byte) : State :=
  let h := s.chapel (s.chapelIx g)
  let x := (s.cell g).eng e
  let gr := h.group grp
  let p := dataPacket s g e off data
  let last := (x.total + 127) / 128 - 1
  let tag := BitVec.ofNat 32 (k / 128 % 65536 + 65536 * (last % 65536))
  let bytes := le 4 off ++
    [BitVec.ofNat 8 (bitsN x.dst 26 19), BitVec.ofNat 8 (bitsN x.dst 60 58 + if bitN x.dst 61 then 8 else 0)] ++ zeros 2
  let p := { p with cls := 2, dest := 0xFFF, seq := x.copySeq, tag := tag, kindBytes := bytes }
  let s := s.modEng g e (·.injected k n)
  if gr.kind = 2 then
    let own := if gr.dim = 0 then cellX g - h.x0 else cellY g - h.y0
    let mask : BitVec 64 := BitVec.ofNat 64 gr.copyMask &&& ~~~(1#64 <<< own)
    let d := if gr.dim = 0 then (if gr.dir = 0 then Dir.e else Dir.w) else if gr.dir = 0 then Dir.s else Dir.n
    if mask = 0#64 then s
    else aislePush s g (some d) (AislePkt.sealed { p with route := 2, routeInfo := mask })
  else if (treeOuts (tget 0 gr.entries (h.relOf g))).isEmpty then s
  else aislePush s g none (AislePkt.sealed { p with route := 3, routeInfo := BitVec.ofNat 64 grp })

/-- The gathered packet of units `k` to `k + n - 1` leaves for its destination, none where it has to wait (R306, R307). -/
def sendPacket (s : State) (g e k n : Nat) (d : UnitDst) (data : List Byte) : Option State :=
  let c := s.cell g
  if c.aisle.injHold then none
  else match d with
    | .uni assured p route =>
      let pkt := { dataPacket s g e p.off data with
        dest := p.dest, remote := p.remote, span := p.span, route := if route.isSome then 1 else 0,
        routeInfo := route.getD 0#64 }
      let key := pkt.destKey
      if assured then
        if p.remote && !slotUp s (s.chapelIx g) p.span then
          some (refuseUnit s g e 8 ((((s.cell g).eng e).dst + 64 * k) % 2 ^ 48))
        else if c.assuredRoom key data.length then
          let id := key * 65536 + tget 0 c.uni.txSeq key
          let s := s.modEng g e fun x => { x with
            units := x.units.filter fun u => decide (u.index < k ∨ k + n ≤ u.index), unacked := tins x.unacked id (k, n) }
          some (sendUniA s g pkt)
        else none
      else
        let seq := tget 0 c.uni.pTx key
        let s := s.modCell g (·.modUni fun u => { u with pTx := tput 0 u.pTx key ((seq + 1) % 65536) })
        let s := aislePush s g none (AislePkt.sealed { pkt with cls := 1, seq := seq })
        some (settleEngine (s.modEng g e (·.injected k n)) g e)
    | .cast grp off => some (settleEngine (sendCast s g e grp off k n data) g e)
    | .amb _ => none

/-- The packet that starts at unit `k` is sent if all its units are read and its queue takes it. -/
def trySend (s : State) (g e k n : Nat) (d : UnitDst) : Option State :=
  let x := (s.cell g).eng e
  let us := (List.range n).map fun j => (x.units.find? fun u => decide (u.index = k + j)).bind CopyUnit.data
  if us.all Option.isSome then sendPacket s g e k n d (us.flatMap fun u => u.getD []) else none

/-! ### Issue of a unit -/

/-- A write unit whose data is at hand: to the own store at once, else a WRITE under tracker `k`. -/
def writeUnit (s : State) (g e k i a : Nat) (p : Place) (data : List Byte) : State :=
  match p with
  | .own off => unitDone (s.modCell g fun c => { c with store := c.store.writeBytes off data }) g e i
  | _ => engSend s g e k i a p { op := .write, data := data }

/-- The next unit is issued towards the ambulatory or the own store. -/
def issueAmb (s : State) (g e i : Nat) (x : Slype) (src dst : Place) : Option State :=
  (freeTracker x.trackers 192).map fun k =>
    let s := s.modEng g e fun x => { x with nextUnit := i + 1, units := x.units ++ [⟨i, none, some k⟩] }
    match src with
    | .own off => writeUnit s g e k i ((x.dst + 64 * i) % 2 ^ 48) dst (Memory.readBytes (s.cell g).store off 64)
    | _ => engSend s g e k i ((x.src + 64 * i) % 2 ^ 48) src { op := .read }

/-- The next unit of a packet is read: from the own store every unit of the packet that lies there, else one by a
READ. -/
def gather (s : State) (g e i stop : Nat) (x : Slype) (src : Place) : Option State :=
  match src with
  | .own off =>
    let n := min (stop - i) ((524288 - off) / 64)
    let us := (List.range n).map fun j =>
      CopyUnit.mk (i + j) (some (Memory.readBytes (s.cell g).store (off + 64 * j) 64)) none
    some (s.modEng g e fun x => { x with nextUnit := i + n, units := x.units ++ us })
  | _ => (freeTracker x.trackers 192).map fun k =>
    engSend (s.modEng g e fun x => { x with nextUnit := i + 1, units := x.units ++ [⟨i, none, some k⟩] }) g e k i
      ((x.src + 64 * i) % 2 ^ 48) src { op := .read }

/-- Unit `i` of a copy classified: its source and destination, or STATUS MALFORMED and the refused address (R192). -/
def unitPlaces (s : State) (g : Nat) (x : Slype) (i : Nat) : Except Nat (Place × UnitDst) :=
  let a := x.src + 64 * i
  match unitPlace s g .load a with
  | none => .error (a % 2 ^ 48)
  | some p => match unitDst s g x i (cellPlace (s.chapel (s.chapelIx g)) g p).isSome with
    | .error b => .error b
    | .ok d => .ok (p, d)

/-- The index of an engine's oldest unit under way, or of the next one. -/
def Slype.firstUnit (x : Slype) : Nat :=
  match x.units with
  | u :: _ => u.index
  | [] => x.nextUnit

/-- Unit `i` is issued: to the ambulatory, or gathered for the packet that starts at unit `first`. -/
def issueUnit (s : State) (g e first i : Nat) : Option State :=
  let x := (s.cell g).eng e
  match unitPlaces s g x i with
  | .error a => some (refuseUnit s g e 1 a)
  | .ok (p, .amb d) => issueAmb s g e i x p d
  | .ok (p, d) =>
    let n := x.packetUnits first
    (gather s g e i (first + n) x p).map fun s => (trySend s g e first n d).getD s

/-- What an engine does next: it completes a packet that is gathered, or issues its next unit; none where it has to
wait. -/
def engineStep (s : State) (g e : Nat) : Option State :=
  let x := (s.cell g).eng e
  let first := x.firstUnit
  match unitPlaces s g x first with
  | .ok (_, .amb _) => if x.nextUnit < x.total then issueUnit s g e first x.nextUnit else none
  | .ok (_, d) =>
    let n := x.packetUnits first
    if first < x.nextUnit ∧ x.nextUnit = first + n then trySend s g e first n d
    else if x.nextUnit < x.total then issueUnit s g e first x.nextUnit else none
  | .error a => if first < x.total then some (refuseUnit s g e 1 a) else none

/-- A response to an engine's tracker `k` (R379, R413): a unit read goes on to its destination, but not out of a FAULTED
chapel (Table 17-2); a unit written is complete; an error stops the copy. -/
def engineResponse (s : State) (g e k status : Nat) (data : List Byte) (advance : Bool) : State :=
  let x := (s.cell g).eng e
  let t := tget Tracker.fresh x.trackers k
  let free := fun (s : State) => s.modEng g e (·.modTracker k fun t => t.freed advance)
  match t.landing with
  | .unit i =>
    if status ≠ 0 then unitFail (free s) g e i status t.addr
    else if t.req.op = .write then unitDone (free s) g e i
    else match unitPlaces s g x i with
      | .ok (_, .amb d) =>
        if (s.chapel (s.chapelIx g)).state = .faulted then free s
        else writeUnit (free s) g e k i ((x.dst + 64 * i) % 2 ^ 48) d (padTo 64 data)
      | .ok _ =>
        if x.failed.isSome then
          settleEngine ((free s).modEng g e fun x => { x with units := x.units.filter fun u => decide (u.index ≠ i) }) g e
        else (free s).modEng g e (·.modUnit i fun u => { u with data := some (padTo 64 data), tracker := none })
      | .error a => unitFail (free s) g e i 1 a
  | _ => free s

/-! ### SLYPE.GO and SLYPE.WAIT -/

/-- An engine starts a copy. -/
def Slype.begin_ (x : Slype) (src dst len tid : Nat) (host : Option Nat) : Slype :=
  { x with
    mode := 1, moved := 0, err := 0, src := src, dst := dst, len := len, tid := tid, host := host, nextUnit := 0,
    units := [], ended := [], unacked := [], failed := none }

/-- SLYPE_GO (R190-R192, R226): the thread waits for its earlier accesses; a start returns 0, a busy engine 1. -/
def execSlypeGo (cell tid : Nat) (s : State) : Res :=
  issueIns .slypeGo cell tid s fun s i => match i with
    | .slypeGo rd ra rb rc eng =>
      let x := s.ctx cell tid
      let src := (x.getS ra).toNat
      let dst := (x.getS rb).toNat
      let len := (x.getS rc).toNat
      if src % 64 ≠ 0 ∨ dst % 64 ≠ 0 ∨ len = 0 ∨ len % 64 ≠ 0 ∨ 2 ^ 40 < len then
        raise s cell tid 0x04 (if src % 64 = 0 ∧ dst % 64 ≠ 0 then dst else src)
      else released s cell tid fun s =>
        if ((s.cell cell).eng eng).mode ≠ 0 then setRd s cell tid rd 1#64
        else next s cell tid fun s =>
          (s.modEng cell eng fun e => e.begin_ src dst len tid none).modCtx cell tid (·.setS rd 0#64)
    | _ => s

/-- SLYPE_WAIT (R194, R226). -/
def execSlypeWait (cell tid : Nat) (s : State) : Res :=
  issueIns .slypeWait cell tid s fun s i => match i with
    | .slypeWait rd eng =>
      let e := (s.cell cell).eng eng
      if e.mode = 0 then setRd s cell tid rd e.stat else wait s cell tid (.slype eng)
    | _ => s

/-! ### The sacristy's mover (Table 04-12) -/

/-- The mover changed. -/
def State.modMover (s : State) (f : Slype → Slype) : State := { s with amb := { s.amb with mover := f s.amb.mover } }

/-- The mover's copy ends where it is over: its SLYPE_COPY completes, ABORTED with the cause kept as the address. -/
def settleMover (s : State) : State :=
  let x := s.amb.mover
  if x.over then
    let f := x.failed.getD (0, 0)
    let s := s.modMover fun x => x.idle f.1 0
    match x.host with
    | some n => endCopyCmd s n f.1 f.2 x.moved
    | none => s
  else s

/-- A unit of the mover is complete. -/
def moverDone (s : State) (i : Nat) : State := settleMover (s.modMover (·.unitsDone i 1))

/-- A unit of the mover fails: STATUS and DETAIL. -/
def moverFail (s : State) (i status detail : Nat) : State :=
  settleMover (s.modMover fun x =>
    { (x.fail status detail) with units := x.units.filter fun u => decide (u.index ≠ i) })

/-- The mover's request to HBM for unit `i`. -/
def moverSend (s : State) (k i a : Nat) (f : AmbFlit) : State :=
  let old := tget Tracker.fresh s.amb.mover.trackers k
  let req := { f with
    vnet := 0, prio := 0, chapel := 0xFE, src := epSacristy, dest := epHbm (hbmStack a), txn := k, epoch := old.epoch,
    addr := a, win := 127, size := 4 }
  let t : Tracker := { old with busy := true, sent := true, addr := a, landing := .unit i, req := req }
  inject (s.modMover (·.modTracker k fun _ => t)) epSacristy req

/-- A PCIe tag no request of the port holds (Table 03-1: at most 512 outstanding). -/
def freeTag (s : State) (p : HPort) : Option Nat :=
  (List.range 512).find? fun t => decide (tget noRead (s.hp p).reads t = noRead)

/-- The mover issues its next unit: a read of host memory, or of HBM. -/
def moverStep (s : State) : Option State :=
  let x := s.amb.mover
  let i := x.nextUnit
  if x.total ≤ i then none
  else match freeTracker x.trackers 256 with
    | none => none
    | some k =>
      let issued := fun (s : State) => s.modMover fun x =>
        { x with nextUnit := i + 1, units := x.units ++ [⟨i, none, some k⟩] }
      if s.amb.moverOut then some (moverSend (issued s) k i (x.src + 64 * i) { op := .read })
      else
        let p := portOf s.amb.moverPort
        (freeTag s p).map fun tag =>
          let r : AmbFlit := { chapel := 0xFE, src := epSacristy, txn := k, addr := i, size := 4 }
          let t : Tracker := { busy := true, sent := false, landing := .unit i,
                               epoch := (tget Tracker.fresh x.trackers k).epoch }
          let s := (issued s).modMover (·.modTracker k fun _ => t)
          let s := s.modHp p fun h => { h with reads := tput noRead h.reads tag r }
          (wakeLink s p).emit (.memRead p 0 (x.src + 64 * i) 64 tag)

/-- DETAIL of a SLYPE_COPY that an HBM response stops: HBM_POISON, HBM_DOWN (R413, R594). -/
def moverDetail (status : Nat) : Nat := if status = 0x22 then 0x80 else if status = 7 then 0x81 else 0

/-- A response to the mover's tracker `k`. -/
def moverResponse (s : State) (k status : Nat) (data : List Byte) (advance : Bool) : State :=
  let t := tget Tracker.fresh s.amb.mover.trackers k
  let free := fun (s : State) => s.modMover (·.modTracker k fun t => t.freed advance)
  match t.landing with
  | .unit i =>
    if status ≠ 0 then moverFail (free s) i (copyStatus status) (moverDetail status)
    else if t.req.op = .write then moverDone (free s) i
    else
      let p := portOf s.amb.moverPort
      moverDone ((wakeLink (free s) p).emit (.memWrite p 0 (s.amb.mover.dst + 64 * i) (padTo 64 data))) i
  | _ => free s

/-- Host data for unit `i` of the mover, which holds tracker `k`. -/
def moverHostData (s : State) (k i : Nat) (data : List Byte) : State :=
  moverSend s k i (s.amb.mover.dst + 64 * i) { op := .write, data := padTo 64 data }

/-- SLYPE_UNIT_ISSUE (R192): a BUSY engine, or the mover, issues its next unit. -/
def execSlypeUnitIssue (mover : Mover) (s : State) : Res :=
  match mover with
  | .engine cell eng =>
    let x := (s.cell cell).eng eng
    if s.cellClocked cell && decide (eng < 2 ∧ x.mode = 1 ∧ x.failed = none) then
      match engineStep { s with emitted := [] } cell eng with
      | some s' => .next s'
      | none => .next s
    else .next s
  | .sacristy =>
    let x := s.amb.mover
    if s.mainOn && decide (x.mode = 1 ∧ x.failed = none ∧ s.pw.state = .active) then
      match moverStep { s with emitted := [] } with
      | some s' => .next s'
      | none => .next s
    else .next s

end Sys2Proof.Machine
end

