-- ==== Sys2Proof/Machine/Aisle.lean ====
section
/-! DEFINITION. The aisle's events: arrival at a ring input, grants and claims of outputs, ejection, UNI-A and cast
trackers (R289-R301, R315, R318-R329). -/

namespace Sys2Proof.Machine

/-! ### Inputs and ports of a router -/

/-- The slots of a ring input. -/
def AisleNode.lane (a : AisleNode) : Dir → List Slot
  | .e => a.inE
  | .w => a.inW
  | .s => a.inS
  | .n => a.inN

/-- The node with the slots of a ring input changed. -/
def AisleNode.modLane (a : AisleNode) (d : Dir) (f : List Slot → List Slot) : AisleNode :=
  match d with
  | .e => { a with inE := f a.inE }
  | .w => { a with inW := f a.inW }
  | .s => { a with inS := f a.inS }
  | .n => { a with inN := f a.inN }

/-- The packets on the link into a ring input. -/
def AisleNode.wire (a : AisleNode) : Dir → List AislePkt
  | .e => a.linkE
  | .w => a.linkW
  | .s => a.linkS
  | .n => a.linkN

/-- The node with the link into a ring input changed. -/
def AisleNode.modWire (a : AisleNode) (d : Dir) (f : List AislePkt → List AislePkt) : AisleNode :=
  match d with
  | .e => { a with linkE := f a.linkE }
  | .w => { a with linkW := f a.linkW }
  | .s => { a with linkS := f a.linkS }
  | .n => { a with linkN := f a.linkN }

/-- Free slots of a ring input: a granted packet holds its slot from the grant on (R298). -/
def AisleNode.free (a : AisleNode) (d : Dir) : Nat := 4 - (a.lane d).length - (a.wire d).length

/-- What competes for a router's outputs: a ring input, the sum slots' packets, the injection port, the gate. -/
inductive PortSrc where
  | ring (d : Dir)
  | sum
  | injection
  | gate
deriving DecidableEq, Repr

/-- The packets of a port, oldest first. -/
def AisleNode.port (a : AisleNode) : PortSrc → List Slot
  | .ring d => a.lane d
  | .sum => a.sumOut
  | .injection => a.injQ
  | .gate => a.gateIn

/-- The node with the packets of a port changed. -/
def AisleNode.modPort (a : AisleNode) (p : PortSrc) (f : List Slot → List Slot) : AisleNode :=
  match p with
  | .ring d => a.modLane d f
  | .sum => { a with sumOut := f a.sumOut }
  | .injection => { a with injQ := f a.injQ }
  | .gate => { a with gateIn := f a.gateIn }

/-- A slot whose every copy has been sent is free (R291). -/
def Slot.gone (x : Slot) : Bool := x.outs.isEmpty && !x.eject

/-- The head packet of a port changed, and gone when nothing of it is left to do. -/
def serveHead (f : Slot → Slot) : List Slot → List Slot
  | [] => []
  | x :: xs => if (f x).gone then xs else f x :: xs

/-- A port's head packet has been served by `f`; the injection queue may admit again (R306). -/
def Cell.serve (c : Cell) (p : PortSrc) (f : Slot → Slot) : Cell :=
  let c := c.modAisle fun a => a.modPort p (serveHead f)
  if p = .injection then c.aisleHold else c

/-! ### Arrival (R295, R319) -/

/-- Payload byte `i` of a packet changed on a link. -/
def AislePkt.damaged (p : AislePkt) (i : Nat) (flip : Byte) : AislePkt :=
  { p with payload := p.payload.set i (byteAt p.payload i ^^^ flip) }

/-- The sending cell of the link into a ring input. -/
def Chapel.linkFrom (h : Chapel) (g : Nat) (d : Dir) : Nat := if h.fromFold g d then g else stepDir g (dirOpp d)

/-- Packets of chapel `c` are discarded at their next hop (R320). -/
def State.dropping (s : State) (c : Nat) : Bool := decide ((s.chapel c).state = .evicting)

/-- A packet arrives at a ring input: the sideband check, the link's owner, and the route. -/
def aisleArrive (s : State) (g : Nat) (d : Dir) (p : AislePkt) (damage : Damage) : State :=
  let owner := s.chapelOfCell g
  match damage with
  | .header => s
  | _ =>
    let p := match damage with
      | .payload i b => p.damaged i b
      | _ => p
    if s.dropping p.chapel then s
    else
      let h := s.chapel p.chapel
      if owner ≠ some p.chapel then
        let from_ := (s.chapel (s.chapelIx g)).linkFrom g d
        logC s 0 0x0120 (locAisle from_) p.chapel (fabricDetail (dirCode d) 0 p.src p.dest p.seq 0)
      else
        let r := screenOuts s g (h.steer g (some d) p)
        match r.2 with
        | none => r.1
        | some x => if x.gone then r.1 else r.1.modCell g (·.modAisle fun a => a.modLane d fun l => l ++ [x])

/-- AISLE_PACKET_ARRIVAL (R289, R295, R302-R304, R308, R309, R319, R320). -/
def execAislePacketArrival (cell : Nat) (dir : Dir) (damage : Damage) (s : State) : Res :=
  match (s.cell cell).aisle.wire dir with
  | [] => .next s
  | p :: rest => possible (s.cellClocked cell) s fun s =>
    aisleArrive (s.modCell cell (·.modAisle fun a => a.modWire dir fun _ => rest)) cell dir p damage

/-! ### Grants (R297-R300) -/

/-- The head packet of a port has a copy to send by `out`. -/
def AisleNode.wants (a : AisleNode) (p : PortSrc) (out : Dir) : Bool :=
  match a.port p with
  | x :: _ => x.outs.contains out
  | [] => false

/-- The two lanes of the other dimension, the one to be served first in front (R299). -/
def turnOrder (out : Dir) (lastSecond : Bool) : List Dir :=
  let l := if dirRow out then [Dir.s, Dir.n] else [Dir.e, Dir.w]
  if lastSecond then l else l.reverse

/-- The ports that may be granted output `out` of router `g`, best first (R297, R299, R300). -/
def AisleNode.order (a : AisleNode) (out : Dir) (free : Nat) (mayInject : Bool) : List PortSrc :=
  let claimed := a.claimInj.contains out || a.claimGate.contains out
  let turning := if claimed then [] else (turnOrder out (a.lastTurn.contains out)).map PortSrc.ring
  let local_ :=
    if a.claimInj.contains out && !a.claimGate.contains out then [PortSrc.injection, .gate]
    else if a.claimGate.contains out && !a.claimInj.contains out then [.gate, .injection]
    else if a.lastGate.contains out then [.injection, .gate] else [.gate, .injection]
  let local_ := if mayInject then (if claimed then local_ ++ [.sum] else .sum :: local_)
    else local_.filter fun p => decide (p = .gate)
  let joins := if 2 ≤ free then turning ++ local_ else []
  ((if 1 ≤ free then [PortSrc.ring out] else []) ++ joins).filter fun p => a.wants p out

/-- `d` in or out of a set of directions. -/
def dirSet (l : List Dir) (d : Dir) (b : Bool) : List Dir :=
  let r := l.filter fun x => decide (x ≠ d)
  if b then dirs.filter fun x => decide (x = d) || r.contains x else r

/-- What the router remembers of a grant (R299, R300). -/
def AisleNode.granted (a : AisleNode) (p : PortSrc) (out : Dir) : AisleNode :=
  match p with
  | .ring d => if d = out then a else { a with lastTurn := dirSet a.lastTurn out (decide (d = .w ∨ d = .n)) }
  | .injection => { a with lastGate := dirSet a.lastGate out false, claimInj := dirSet a.claimInj out false }
  | .gate => { a with lastGate := dirSet a.lastGate out true, claimGate := dirSet a.claimGate out false }
  | .sum => a

/-- The head packet of port `p` is granted output `out`: a copy goes on its link, to the input at its far end. A packet of
an EVICTING chapel goes nowhere (R320). -/
def grant (s : State) (g : Nat) (out : Dir) (p : PortSrc) : State :=
  match (s.cell g).aisle.port p with
  | [] => s
  | x :: _ =>
    let far := (s.chapel x.pkt.chapel).far g out
    let s := s.modCell g fun c =>
      (c.serve p fun y => { y with outs := y.outs.filter fun d => decide (d ≠ out) }).modAisle fun a => a.granted p out
    if s.dropping x.pkt.chapel then s
    else s.modCell far.1 (·.modAisle fun a => a.modWire far.2 fun l => l ++ [x.pkt])

/-- A FAULTED chapel injects nothing further (Table 17-2). -/
def State.mayInject (s : State) (g : Nat) : Bool := decide ((s.chapel (s.chapelIx g)).state ≠ .faulted)

/-- The ports that may be granted output `out` of router `g` now. -/
def grantOrder (s : State) (g : Nat) (out : Dir) : List PortSrc :=
  let far := (s.chapel (s.chapelIx g)).far g out
  (s.cell g).aisle.order out ((s.cell far.1).aisle.free far.2) (s.mayInject g)

/-- OUTPUT_GRANT (R297-R300). -/
def execOutputGrant (cell : Nat) (out : Dir) (s : State) : Res :=
  match grantOrder s cell out with
  | [] => .next s
  | p :: _ => possible (s.cellClocked cell) s fun s => grant s cell out p

/-- INJECTION_CLAIM (R300): the injection port or the gate has been refused the output for 1,024 cycles. -/
def execInjectionClaim (cell : Nat) (out : Dir) (gate : Bool) (s : State) : Res :=
  let a := (s.cell cell).aisle
  possible (s.cellClocked cell && a.wants (if gate then .gate else .injection) out) s fun s =>
    s.modCell cell (·.modAisle fun a =>
      if gate then { a with claimGate := dirSet a.claimGate out true }
      else { a with claimInj := dirSet a.claimInj out true })

/-! ### Bay records (R318, R328, R329) -/

/-- The aisle record of bay `b`. -/
def State.bayAisle (s : State) (b : Nat) : BayAisle := tget BayAisle.fresh s.aisleBays b

/-- The aisle record of a cell's bay changed. -/
def State.modBayAisle (s : State) (g : Nat) (f : BayAisle → BayAisle) : State :=
  { s with aisleBays := tput BayAisle.fresh s.aisleBays (bayOf g) (f (s.bayAisle (bayOf g))) }

/-- One more, saturating at 0xFFFF_FFFF. -/
def sat32 (n : Nat) : Nat := satInc 0xFFFFFFFF n

/-- A trailer failed at cell `g` (R318, R329). -/
def checkFailed (s : State) (g : Nat) (p : AislePkt) : State :=
  let s := s.modBayAisle g fun b => { b with
    chkFail := sat32 b.chkFail, lastChkSrc := p.src, lastChkDest := g, lastChkRoute := p.route,
    lastChkTstamp := s.pw.tstamp }
  logC s oneMs 0x0121 (locBay (bayOf g)) (s.chapelIx g) (fabricDetail 0 0 p.src g p.seq 0)

/-! ### Ejection (R301, R318, R322, R326) -/

/-- CHAPEL and DEST of the fold word where the packet is checked (Table 14-4). -/
def trailerGood (s : State) (g : Nat) (p : AislePkt) : Bool :=
  decide (p.check = p.checkValue (s.chapelIx g) (if p.cls = 2 then 0xFFF else g))

/-- OFFSET of a data packet. -/
def AislePkt.offset (p : AislePkt) : Nat := fieldN p.kindBytes 0 4 % 524288

/-- The message a packet carries; the sending thread is free where the packet does not tell (log entry 22). -/
def packetMessage (s : State) (p : AislePkt) : Message × State :=
  let b := fun (i : Nat) => (byteAt p.kindBytes i).toNat
  let r := s.freeNat
  let t := if p.tid < 16 then (p.tid, s) else (r.1 % 16, r.2)
  let len := fieldN p.kindBytes 6 2
  (⟨len, b 0, true, p.src, p.srcSpan, b 1 % 8, t.1, p.tag,
    if bitN (b 1) 3 then some (b 2 % 64, fieldN p.kindBytes 4 2) else none, p.payload.take len⟩, t.2)

/-- The payload of a data packet written at its OFFSET, or its message handed to placement. -/
def deliver (s : State) (g : Nat) (p : AislePkt) : State :=
  if p.kind = 1 then
    let r := packetMessage s p
    r.2.modCell g fun c => { c with arrivals := c.arrivals ++ [r.1] }
  else s.modCell g fun c => { c with store := c.store.writeBytes p.offset p.payload }

/-- The key of a packet's source (R321). -/
def AislePkt.srcKey (p : AislePkt) : Nat := uniKey p.remote p.srcSpan p.src

/-- NE moves past every contiguous set bit (R322). -/
def RxWin.slide : Nat → RxWin → RxWin
  | 0, w => w
  | fuel + 1, w => if w.bitmap.getLsbD 0 then RxWin.slide fuel ⟨(w.ne + 1) % 65536, w.bitmap >>> 1⟩ else w

/-- The acknowledgement of a packet (R322, Table 12-2). -/
def acknowledge (s : State) (g : Nat) (p : AislePkt) : State :=
  pushSystem s g (systemFlit s g 1 p.src p.srcSpan (p.seq + if p.engine then 65536 else 0))

/-- A UNI-A packet with a good trailer (R322). -/
def receiveUniA (s : State) (g : Nat) (p : AislePkt) : State :=
  let w := tget RxWin.fresh (s.cell g).uni.rx p.srcKey
  let d := (p.seq + 65536 - w.ne) % 65536
  if d < 64 ∧ w.bitmap.getLsbD d = false then
    let w := RxWin.slide 64 { w with bitmap := w.bitmap ||| (1#64 <<< d) }
    acknowledge ((deliver s g p).modCell g (·.modUni fun u => { u with rx := tput RxWin.fresh u.rx p.srcKey w })) g p
  else if d < 64 ∨ 32768 ≤ d then
    acknowledge (s.modBayAisle g fun b => { b with duplicates := sat32 b.duplicates }) g p
  else logC s 0 0x0122 (locCell g) (s.chapelIx g) (fabricDetail 0 0 p.src g p.seq 0)

/-- A UNI-P packet with a good trailer (R326). -/
def receiveUniP (s : State) (g : Nat) (p : AislePkt) : State :=
  let s := if tget 0 (s.cell g).uni.pRx p.srcKey = p.seq then s
    else logC s 0 0x0123 (locCell g) (s.chapelIx g) (fabricDetail 0 0 p.src g p.seq 0)
  deliver (s.modCell g (·.modUni fun u => { u with pRx := tput 0 u.pRx p.srcKey ((p.seq + 1) % 65536) })) g p

/-! ### Cast trackers (R315) -/

/-- The tracker a packet belongs to. -/
def CastTrk.is (t : CastTrk) (p : AislePkt) : Bool :=
  decide (t.src = p.src ∧ t.srcSpan = p.srcSpan ∧ t.engine = p.engine ∧ t.copySeq = p.seq)

/-- A cast tracker closes: its record is posted where NOTIFY is set. -/
def closeCast (s : State) (g : Nat) (t : CastTrk) (byTime : Bool) : State :=
  let s := s.modCell g (·.modUni fun u => { u with casts := u.casts.erase t })
  if t.notify then
    let tag := t.copySeq + (if t.engine then 65536 else 0) + if byTime then 131072 else 0
    let m : Message := ⟨8, t.handler, true, t.src, t.srcSpan, t.turn, 0, BitVec.ofNat 32 tag, none,
      le 4 (t.lastIndex + 1) ++ le 4 t.count⟩
    s.modCell g fun c => { c with arrivals := c.arrivals ++ [m] }
  else s

/-- A cast data packet is counted by its tracker, which its last packet closes; one with a bad trailer opens none and is
not counted. -/
def countCast (s : State) (g : Nat) (p : AislePkt) (good : Bool) : State :=
  let idx := p.tag.toNat % 65536
  let last := p.tag.toNat / 65536
  let u := (s.cell g).uni
  let turn := (byteAt p.kindBytes 5).toNat
  let open_ := match u.casts.find? (·.is p) with
    | some t => some { t with count := if good then t.count + 1 else t.count }
    | none => if good && decide (u.casts.length < 8) then
        some (CastTrk.mk p.src p.srcSpan p.engine p.seq last 1 (bitN turn 3) (turn % 8) (byteAt p.kindBytes 4).toNat)
      else none
  match open_ with
  | none => s
  | some t =>
    let s := s.modCell g (·.modUni fun u => { u with
      casts := if u.casts.any (·.is p) then u.casts.map (fun x => if x.is p then t else x) else u.casts ++ [t] })
    if idx = t.lastIndex then closeCast s g t false else s

/-! ### Sum packets leave the aisle (R335, R341, R342) -/

/-- The fields of a reduction packet (Table 11-5). -/
def AislePkt.sumGroup (p : AislePkt) : Nat := (byteAt p.kindBytes 0).toNat % 64
/-- SLICE. -/
def AislePkt.sumSlice (p : AislePkt) : Nat := (byteAt p.kindBytes 1).toNat
/-- FAILED. -/
def AislePkt.sumFailed (p : AislePkt) : Bool := bitN (byteAt p.kindBytes 3).toNat 1
/-- COUNT. -/
def AislePkt.sumCount (p : AislePkt) : Nat := fieldN p.kindBytes 4 2
/-- CAUSE. -/
def AislePkt.sumCause (p : AislePkt) : Nat := fieldN p.kindBytes 6 2

/-- The result a packet with DOWN set carries. -/
def AislePkt.result (p : AislePkt) : SumResult :=
  ⟨p.sumGroup, p.seq, p.sumSlice, p.sumFailed, p.sumCause, p.sumCount, p.payload⟩

/-- A result packet for `r` (R335). -/
def resultPacket (s : State) (g : Nat) (r : SumResult) : AislePkt :=
  let op := (tget SumGroup.fresh (s.chapel (s.chapelIx g)).sums r.group).op
  let flags := 1 + (if r.failed then 2 else 0) + if op = 1 ∧ r.failed = false then 4 else 0
  { cls := 2, route := 3, kind := 2, chapel := s.chapelIx g, dest := 0xFFF, src := g, seq := r.round,
    units := r.bytes.length / 64 - 1,
    kindBytes := [BitVec.ofNat 8 r.group, BitVec.ofNat 8 r.slice, BitVec.ofNat 8 op, BitVec.ofNat 8 flags] ++
      le 2 r.count ++ le 2 r.cause
    payload := r.bytes }

/-- A packet the router itself has formed is routed and waits among its sum slots' packets; one for the gate of this
very cell leaves at once (R299, R305). It clears DRAINED (R317). -/
def sumPush (s : State) (g : Nat) (p : AislePkt) : State :=
  let p := p.sealed
  let h := s.chapel p.chapel
  let r := screenOuts (s.modChapel p.chapel fun h => { h with drained := false }) g (h.steer g none p)
  match r.2 with
  | none => r.1
  | some x =>
    if x.gone then r.1
    else if p.outbound && x.eject then r.1.modCell g (·.modAisle fun a => { a with gateOut := a.gateOut ++ [p] })
    else r.1.modCell g (·.modAisle fun a => { a with sumOut := a.sumOut ++ [{ x with eject := false }] })

/-- DOWN_GROUP of a sum group is a tree rooted at the group's ROOT (R333, R348). -/
def Chapel.downOk (h : Chapel) (sg : SumGroup) : Bool :=
  let gr := h.group sg.downGroup
  decide (gr.kind = 1 ∧ gr.root = sg.root)

/-- One class C entry about a failed instance, at most one per group and router per 1 ms (R349). -/
def logSum (s : State) (g grp round slice cause : Nat) : State :=
  logKeyed s (2 ^ 40 + grp * 4096 + g) oneMs cause (locCell g) (s.chapelIx g) (fabricDetail 0 grp 0 0 round slice)

/-- A result goes out on DOWN_GROUP from its root; SUM_DOWN_BAD where that is no longer a tree of its own (R348). -/
def sendDown (s : State) (g : Nat) (r : SumResult) : State :=
  let h := s.chapel (s.chapelIx g)
  let sg := tget SumGroup.fresh h.sums r.group
  if h.downOk sg then sumPush s g { resultPacket s g r with routeInfo := BitVec.ofNat 64 sg.downGroup }
  else logSum s g r.group r.round r.slice 0x0073

/-- Chapel-relative cell 0 sends a result it holds through the gate to every child package (R342). -/
def sendGates (s : State) (g : Nat) (r : SumResult) : State :=
  let h := s.chapel (s.chapelIx g)
  let sg := tget SumGroup.fresh h.sums r.group
  if h.globalOf 0 = g ∧ sg.kind = 2 then
    ((List.range 64).filter sg.gateChildren.getLsbD).foldl (fun s n =>
      sumPush s g { resultPacket s g r with remote := true, span := n, routeInfo := BitVec.ofNat 64 sg.downGroup }) s
  else s

/-- A result reaches a cell: on to the gate children and, where it came through the gate, to the package's DOWN_GROUP
(R342); the cell itself takes it at SUM_RESULT_ARRIVAL. -/
def holdResult (s : State) (g : Nat) (r : SumResult) (down : Bool) : State :=
  let s := s.modCell g fun c => { c with sum := { c.sum with results := c.sum.results ++ [r] } }
  sendGates (if down then sendDown s g r else s) g r

/-- The sum input a reduction packet comes by: 0 CONTRIB, 1-4 the neighbours E, W, S, N, 5 + n gate child n (R336). -/
def AislePkt.sumInput (p : AislePkt) (g : Nat) : Option Nat :=
  if p.remote then some (5 + p.srcSpan)
  else if p.src = g then some 0
  else (dirs.find? fun d => decide (stepDir g d = p.src)).map fun d => dirCode d + 1

/-- The release toggle of an input flips (R340). -/
def SumInst.flip (x : SumInst) (i : Nat) : SumInst :=
  { x with toggles := if x.toggles.contains i then setErase i x.toggles else setInsert i x.toggles }

/-- Sum instance state of a group at a cell changed. -/
def Cell.modSum (c : Cell) (grp : Nat) (f : SumInst → SumInst) : Cell :=
  { c with sum := { c.sum with insts := tput SumInst.fresh c.sum.insts grp (f (tget SumInst.fresh c.sum.insts grp)) } }

/-- A damaged reduction operand releases its slot (chapter 11, When an instance fails). -/
def releaseDamaged (s : State) (g : Nat) (p : AislePkt) : State :=
  match p.sumInput g with
  | some i => s.modCell g (·.modSum p.sumGroup (·.flip i))
  | none => s

/-- A packet leaves by the ejection port of router `g`: through the gate, or into the cell. -/
def ejectPkt (s : State) (g : Nat) (p : AislePkt) : State :=
  if s.dropping p.chapel then s
  else if p.outbound then
    if slotUp s p.chapel p.span then s.modCell g (·.modAisle fun a => { a with gateOut := a.gateOut ++ [p] }) else s
  else
    let good := trailerGood s g p
    let s := if good then s else checkFailed s g p
    match p.cls with
    | 0 => if good then receiveUniA s g p else s
    | 1 => if good then receiveUniP s g p else s
    | 2 =>
      if p.kind = 2 then if good then holdResult s g p.result p.remote else s
      else countCast (if good then deliver s g p else s) g p good
    | _ =>
      if good then s.modCell g fun c => { c with sum := { c.sum with inbox := c.sum.inbox ++ [p] } }
      else releaseDamaged s g p

/-- The port of an ejection. -/
def ejectPort : AisleSrc → PortSrc
  | .ring d => .ring d
  | .injection => .injection
  | .gate => .gate

/-- A contribution waits in the injection queue while its CONTRIB slot holds an operand (R340). -/
def contribWaits (c : Cell) (p : AislePkt) (src : AisleSrc) : Bool :=
  decide (src = .injection ∧ p.cls = 3) &&
    ((tget SumInst.fresh c.sum.insts p.sumGroup).operands.any (fun o => decide (o.input = 0)) ||
      c.sum.inbox.any fun q => decide (q.sumGroup = p.sumGroup ∧ q.sumInput p.src = some 0))

/-- AISLE_EJECTION (R301, R318, R320, R322, R326, R343): the head packet of a port is ejected. -/
def execAisleEjection (cell : Nat) (src : AisleSrc) (s : State) : Res :=
  let c := s.cell cell
  match c.aisle.port (ejectPort src) with
  | [] => .next s
  | x :: _ =>
    possible (s.cellClocked cell && x.eject && !contribWaits c x.pkt src &&
        (s.mayInject cell || decide (src ≠ .injection))) s fun s =>
      ejectPkt (s.modCell cell fun c => c.serve (ejectPort src) fun y => { y with eject := false }) cell x.pkt

/-- Aisle and sum timers of a cell's chapel run: not while it is FAULTED or EVICTING (Table 17-2, R320). -/
def State.fabricRuns (s : State) (g : Nat) : Bool :=
  s.cellClocked g && match s.chapelOfCell g with
    | some c => decide ((s.chapel c).state ≠ .faulted ∧ (s.chapel c).state ≠ .evicting)
    | none => false

/-- CAST_TRACKER_TIMEOUT (R315): 1 ms after the copy's latest arrival. -/
def execCastTrackerTimeout (cell index : Nat) (s : State) : Res :=
  match (s.cell cell).uni.casts[index]? with
  | none => .next s
  | some t => possible (s.fabricRuns cell) s fun s => closeCast s cell t true

/-! ### UNI-A at its source (R321-R325) -/

/-- Copy `u` leaves the assured buffer; senders that waited for room issue again. -/
def dropCopy (s : State) (g : Nat) (u : UniCopy) : State :=
  s.modCell g fun c => (c.modUni fun x => { x with assured := x.assured.erase u }).aisleHold

/-- The engine of a data packet. -/
def AislePkt.eng (p : AislePkt) : Nat := if p.engine then 1 else 0

/-- A copy's number in its engine. -/
def AislePkt.copyKey (p : AislePkt) : Nat := p.destKey * 65536 + p.seq

/-- A copy is acknowledged. -/
def ackCopy (s : State) (g : Nat) (u : UniCopy) : State :=
  let s := dropCopy s g u
  if u.pkt.kind = 0 then uniUnitsDone s g u.pkt.eng u.pkt.copyKey else s

/-- UNI_A_ACK (R321, R322, R359). -/
def execUniAAck (cell : Nat) (s : State) : Res :=
  consumeSystem cell 1 s fun s f =>
    let seq := f.tag.toNat % 65536
    let eng := bitN f.tag.toNat 16
    let key := uniKey (decide (f.srcSpan ≠ 255)) f.srcSpan f.src
    match (s.cell cell).uni.assured.find? fun u =>
      decide (u.pkt.seq = seq ∧ u.pkt.engine = eng ∧ u.pkt.destKey = key) with
    | some u => ackCopy s cell u
    | none => s

/-- UNI_A_RETRANSMIT (R321): 20 µs after a transmission, up to 8 in all. -/
def execUniARetransmit (cell index : Nat) (s : State) : Res :=
  match (s.cell cell).uni.assured[index]? with
  | none => .next s
  | some u => possible (s.fabricRuns cell && decide (u.sends < 8)) s fun s =>
    let p := AislePkt.sealed { u.pkt with resend := true }
    let s := s.modCell cell (·.modUni fun x => { x with assured := x.assured.set index ⟨p, u.sends + 1⟩ })
    let s := s.modBayAisle cell fun b => { b with resends := sat32 b.resends, lastResendDest := p.dest }
    aislePush s cell none p

/-- DETAIL of a fault about a UNI-A packet. -/
def AislePkt.detail (p : AislePkt) : List Byte := fabricDetail 0 0 p.src p.dest p.seq 0

/-- UNI_A_EXHAUSTED (R324): the 8th transmission has gone unacknowledged for 20 µs. -/
def execUniAExhausted (cell index : Nat) (s : State) : Res :=
  match (s.cell cell).uni.assured[index]? with
  | none => .next s
  | some u => possible (s.fabricRuns cell && decide (u.sends = 8)) s fun s =>
    let s := (dropCopy s cell u).modBayAisle cell fun b => { b with exhausted := sat32 b.exhausted }
    if u.pkt.kind = 0 then uniUnitsFail s cell u.pkt.eng u.pkt.copyKey 6
    else faultK s (s.chapelIx cell) 0x0124 (locCell cell) u.pkt.detail true false

/-- A UNI-A copy bound for a span slot with no port up completes LINK_DOWN at its source (R325, R287). -/
def copyLinkDown (s : State) (g : Nat) (u : UniCopy) : State :=
  let p := u.pkt
  let s := dropCopy s g u
  if p.kind = 0 then uniUnitsFail s g p.eng p.copyKey 8
  else
    let b := fun (i : Nat) => (byteAt p.kindBytes i).toNat
    let s := logC s 0 0x011B (locCell g) (s.chapelIx g)
      (messageDetail (b 1 % 8) (b 0) g p.dest p.span (p.tid % 16) p.tag)
    if bitN (b 1) 3 then
      s.modCell g fun c => match c.chanTx.find? fun e => decide (e.2.phase = 1 ∧ e.2.chan = b 2 % 64 ∧
          mwSpan e.2.peer = p.span) && mwRemote e.2.peer &&
          decide ((s.chapel (s.chapelIx g)).globalOf (mwDest e.2.peer) = p.dest) with
        | some e => c.closeTx e.1
        | none => c
    else s

/-- Every port of span slot `n` of chapel `c` is down: its UNI-A packets end (R325). -/
def slotLinkDown (s : State) (c n : Nat) : State :=
  (s.chapel c).cells.foldl (fun s g =>
    ((s.cell g).uni.assured.filter fun u => u.pkt.remote && decide (u.pkt.span = n)).foldl
      (fun s u => copyLinkDown s g u) s) s

end Sys2Proof.Machine
end

