-- ==== Sys2Proof/Machine/Sums.lean ====
section
/-! DEFINITION. Reductions: SUM.C and SUM.W, sum slots and their instances, results and waits (R223, R330-R349). -/

namespace Sys2Proof.Machine

/-! ### Sum words and the checks at issue (R223, R330, R331) -/

/-- ROUND, SLICE and GROUP of a sum word. -/
def swRound (w : Word) : Nat := bitsN w.toNat 31 16
/-- SLICE. -/
def swSlice (w : Word) : Nat := bitsN w.toNat 15 8
/-- GROUP. -/
def swGroup (w : Word) : Nat := bitsN w.toNat 7 0

/-- Sum group `n` of a chapel. -/
def Chapel.sum (h : Chapel) (n : Nat) : SumGroup := tget SumGroup.fresh h.sums n

/-- The entry of cell `g` in a sum group. -/
def Chapel.sumEntry (h : Chapel) (sg : SumGroup) (g : Nat) : Nat := tget 0 sg.entries (h.relOf g)

/-- Bytes of a delivered result (Table 11-6). -/
def SumGroup.resultBytes (sg : SumGroup) : Nat := if sg.op = 1 then 2 * sg.sliceBytes else sg.sliceBytes

/-- The exception a SUM instruction raises at issue, and its address; `len` is rl of SUM.C, none for SUM.W. -/
def sumCheck (s : State) (g : Nat) (w : Word) (off : Nat) (len : Option Nat) : Option (Nat × Nat) :=
  let h := s.chapel (s.chapelIx g)
  let sg := h.sum (swGroup w)
  let bytes := len.getD sg.resultBytes
  if off % 64 ≠ 0 then some (0x04, ownAddr s g off)
  else if len.any fun n => decide (n = 0 ∨ n % 64 ≠ 0 ∨ 8192 < n) then some (0x09, 0)
  else if 2 ^ 32 ≤ w.toNat ∨ 63 < swGroup w ∨ sg.kind = 0 ∨ sg.slices ≤ swSlice w then some (0x08, 0)
  else if len.isSome && !bitN (h.sumEntry sg g) 0 then some (0x08, 0)
  else if len.isNone && decide (sg.kind = 1) &&
      !(decide (h.globalOf sg.root = g) && decide (sg.gateParent = 255)) then some (0x08, 0)
  else if len.any fun n => decide (n ≠ sg.sliceBytes) then some (0x09, 0)
  else if 0x7F000 < off + bytes then some (0x02, ownAddr s g off)
  else none

/-- KIND fields of a reduction packet (Table 11-5). -/
def sumFields (grp slice op flags count cause : Nat) : List Byte :=
  [BitVec.ofNat 8 grp, BitVec.ofNat 8 slice, BitVec.ofNat 8 op, BitVec.ofNat 8 flags] ++ le 2 count ++ le 2 cause

/-- SUM_C (R187, R223, R306, R331, R340): the contribution enters the injection queue. -/
def execSumC (cell tid : Nat) (s : State) : Res :=
  issueIns .sumC cell tid s fun s i => match i with
    | .sumC rl ra rb =>
      let x := s.ctx cell tid
      let w := x.getS ra
      let off := (x.getS rb).toNat
      let len := (x.getS rl).toNat
      match sumCheck s cell w off (some len) with
      | some (code, a) => raise s cell tid code a
      | none => released s cell tid fun s =>
        if (s.cell cell).aisle.injHold then wait s cell tid .aisleQueue
        else next s cell tid fun s =>
          let sg := (s.chapel (s.chapelIx cell)).sum (swGroup w)
          let p : AislePkt :=
            { cls := 3, kind := 2, chapel := s.chapelIx cell, dest := cell, src := cell, seq := swRound w,
              units := len / 64 - 1, kindBytes := sumFields (swGroup w) (swSlice w) sg.op 0 1 0,
              payload := Memory.readBytes (s.cell cell).store off len }
          aislePush s cell none p.sealed
    | _ => s

/-- A result fits a wait. -/
def SumResult.fits (r : SumResult) (grp round slice : Nat) : Bool :=
  decide (r.group = grp ∧ r.round = round ∧ r.slice = slice)

/-- The sum side of a cell changed. -/
def Cell.modSumNode (c : Cell) (f : SumNode → SumNode) : Cell := { c with sum := f c.sum }

/-- A result is written at an offset of the own store, unless it FAILED. -/
def writeResult (s : State) (g off : Nat) (r : SumResult) : State :=
  if r.failed then s else s.modCell g fun c => { c with store := c.store.writeBytes off r.bytes }

/-- The status of a result (R343, R344). -/
def SumResult.status (r : SumResult) : Word := if r.failed then 1#64 else 0#64

/-- SUM_W (R223, R331, R343-R345): a landed result is taken at once, else the wait is posted. -/
def execSumW (cell tid : Nat) (s : State) : Res :=
  issueIns .sumW cell tid s fun s i => match i with
    | .sumW rd ra rb =>
      let x := s.ctx cell tid
      let w := x.getS ra
      let off := (x.getS rb).toNat
      match sumCheck s cell w off none with
      | some (code, a) => raise s cell tid code a
      | none =>
        match (s.cell cell).sum.landing.find? (·.fits (swGroup w) (swRound w) (swSlice w)) with
        | some r => next s cell tid fun s =>
          let s := s.modCell cell (·.modSumNode fun n => { n with landing := n.landing.erase r })
          (writeResult s cell off r).modCtx cell tid (·.setS rd r.status)
        | none => passes s cell tid fun s =>
          let p : SumWait := ⟨swGroup w, swRound w, swSlice w, off, tid⟩
          wait (s.modCell cell (·.modSumNode fun n => { n with posted := n.posted ++ [p] })) cell tid (.sum rd)
    | _ => s

/-- rd of a context in a SUM wait. -/
def Waiting.sumRd : Waiting → Nat
  | .sum rd => rd
  | _ => 0

/-- A posted wait ends with a status. -/
def endSumWait (s : State) (g : Nat) (p : SumWait) (v : Word) : State :=
  let s := s.modCell g (·.modSumNode fun n => { n with posted := n.posted.erase p })
  s.modCtx g p.tid fun x => x.leave x.waiting.sumRd v

/-- A result is delivered to every posted wait it fits, else it takes a landing buffer, else it is discarded
(R343, R345). -/
def takeResult (s : State) (g : Nat) (r : SumResult) : State :=
  let hits := (s.cell g).sum.posted.filter fun p => r.fits p.group p.round p.slice
  if !hits.isEmpty then hits.foldl (fun s p => endSumWait (writeResult s g p.offset r) g p r.status) s
  else if (s.cell g).sum.landing.length < 2 then
    s.modCell g (·.modSumNode fun n => { n with landing := n.landing ++ [r] })
  else logC s 0 0x0075 (locCell g) (s.chapelIx g) (fabricDetail 0 r.group 0 g r.round r.slice)

/-- SUM_RESULT_ARRIVAL (R343, R345): the oldest result is taken by the cell. -/
def execSumResultArrival (cell : Nat) (s : State) : Res :=
  match (s.cell cell).sum.results with
  | [] => .next s
  | r :: rest => possible (s.fabricRuns cell) s fun s =>
    takeResult (s.modCell cell (·.modSumNode fun n => { n with results := rest })) cell r

/-- SUM_WAIT_TIMEOUT (R344). -/
def execSumWaitTimeout (cell tid : Nat) (s : State) : Res :=
  match (s.cell cell).sum.posted.find? fun p => decide (p.tid = tid) with
  | none => .next s
  | some p => possible (s.fabricRuns cell) s fun s => endSumWait s cell p 1#64

/-! ### Slots and instances (R334-R340, R346-R349) -/

/-- The inputs an entry names (R334, R336), in the fold order. -/
def sumInputs (h : Chapel) (sg : SumGroup) (g : Nat) : List Nat :=
  let e := h.sumEntry sg g
  (List.range 5).filter (bitN e) ++
    if h.globalOf 0 = g then ((List.range 64).filter sg.gateChildren.getLsbD).map (5 + ·) else []

/-- Sum instance state of a group at a cell. -/
def Cell.sumInst (c : Cell) (grp : Nat) : SumInst := tget SumInst.fresh c.sum.insts grp

/-- Operand elements of a payload: 4-byte ones, or the widened bf16 of a contribution (R337, Table 11-6). -/
def sumElems (sg : SumGroup) (input : Nat) (payload : List Byte) : List (BitVec 32) :=
  if input = 0 ∧ sg.op = 1 then
    (List.range (sg.sliceBytes / 2)).map fun i => BitVec.ofNat 32 (fconv bf16 f32 (fieldN payload (2 * i) 2))
  else (List.range (sg.resultBytes / 4)).map fun i => BitVec.ofNat 32 (fieldN payload (4 * i) 4)

/-- One combine step (Table 11-6). -/
def sumStep (op : Nat) (a b : BitVec 32) : BitVec 32 :=
  match op with
  | 0 | 1 => BitVec.ofNat 32 (fadd f32 a.toNat b.toNat)
  | 2 => a + b
  | _ => BitVec.ofNat 32 (fminmax f32 true a.toNat b.toNat)

/-- The operand of an input. -/
def SumInst.operand (x : SumInst) (i : Nat) : Option SumOperand := x.operands.find? fun o => decide (o.input = i)

/-- The operands folded in the fixed port order (R336). -/
def sumFold (op : Nat) : List SumOperand → List (BitVec 32)
  | [] => []
  | o :: os => os.foldl (fun acc y => List.zipWith (sumStep op) acc y.elems) o.elems

/-- Every input of the entry has supplied an operand (R336). -/
def SumInst.complete (x : SumInst) (inputs : List Nat) : Bool :=
  !inputs.isEmpty && inputs.all fun i => (x.operand i).isSome

/-- NEXT after an instance (chapter 11, When an instance fails). -/
def nextInst (sg : SumGroup) (i : Nat × Nat) : Nat × Nat :=
  if i.2 + 1 < sg.slices then (i.1, i.2 + 1) else ((i.1 + 1) % 65536, 0)

/-- (round, slice) `a` is older than `b`. -/
def olderInst (a b : Nat × Nat) : Bool :=
  let d := (b.1 + 65536 - a.1) % 65536
  decide (0 < d ∧ d ≤ 32767) || (decide (d = 0) && decide (a.2 < b.2))

/-- Every slot of the instance is released: the toggles of the inputs that held an operand flip (R340). -/
def SumInst.release (x : SumInst) : SumInst :=
  { (x.operands.foldl (fun y o => y.flip o.input) x) with operands := [] }

/-- A packet for the parent of cell `g`: a partial sum, or FAILED with its cause (R335, R349). -/
def parentPacket (s : State) (g grp : Nat) (inst : Nat × Nat) (flags count cause : Nat) (payload : List Byte) : AislePkt :=
  let h := s.chapel (s.chapelIx g)
  let sg := h.sum grp
  let parent := bitsN (h.sumEntry sg g) 8 6
  let p : AislePkt :=
    { cls := 3, kind := 2, chapel := s.chapelIx g, src := g, seq := inst.1, units := payload.length / 64 - 1,
      kindBytes := sumFields grp inst.2 sg.op flags count cause, payload := payload }
  if parent = 5 then { p with dest := h.globalOf 0, remote := true, span := sg.gateParent }
  else { p with dest := stepDir g (dirOfCode (parent - 1)) }

/-- A packet goes to the parent, or waits until the parent's slot is released (R340). -/
def sendParent (s : State) (g grp : Nat) (p : AislePkt) : State :=
  if ((s.cell g).sumInst grp).sentWaits then s.modCell g (·.modSum grp fun x => { x with ready := x.ready ++ [p] })
  else sumPush (s.modCell g (·.modSum grp fun x => { x with sentWaits := true })) g p

/-- The root's result (R341, R342, R348): to its own SUM.W and, under all-reduce, down its tree and through the gate. -/
def rootResult (s : State) (g : Nat) (r : SumResult) : State :=
  let h := s.chapel (s.chapelIx g)
  let sg := h.sum r.group
  if sg.kind = 2 ∧ h.downOk sg = false then
    if r.failed then holdResult s g r false
    else
      let r := { r with failed := true, cause := 0x0073, count := 0, bytes := zeros 64 }
      holdResult (logSum s g r.group r.round r.slice 0x0073) g r false
  else holdResult s g r (decide (sg.kind = 2))

/-- What a router does with the outcome of an instance: on to its parent, or the root's result. -/
def sumOutcome (s : State) (g grp : Nat) (inst : Nat × Nat) (failed : Bool) (count cause : Nat) (payload : List Byte) :
    State :=
  let h := s.chapel (s.chapelIx g)
  let sg := h.sum grp
  if bitsN (h.sumEntry sg g) 8 6 = 0 then rootResult s g ⟨grp, inst.1, inst.2, failed, cause, count, payload⟩
  else
    let flags := (if failed then 2 else 0) + if sg.op = 1 ∧ failed = false then 4 else 0
    sendParent s g grp (parentPacket s g grp inst flags count cause payload)

/-- An instance fails (R349): slots released, NEXT set, one entry, FAILED onward. -/
def failInst (s : State) (g grp : Nat) (inst : Nat × Nat) (cause : Nat) (next_ : Nat × Nat) : State :=
  let s := s.modCell g (·.modSum grp fun x => { x.release with next := some next_ })
  sumOutcome (logSum s g grp inst.1 inst.2 cause) g grp inst true 0 cause (zeros 64)

/-- The failure causes a FAILED operand may name (Table 11-7); any other is taken as SUM_MISMATCH. -/
def failCause (c : Nat) : Nat := if 0x71 ≤ c ∧ c ≤ 0x73 then c else 0x72

/-- An operand that the router's entry names enters its slot (R346, R348). -/
def enterSlot (s : State) (g grp input : Nat) (sg : SumGroup) (p : AislePkt) : State :=
  let inst := (p.seq, p.sumSlice)
  let x := (s.cell g).sumInst grp
  let flip := fun (s : State) => s.modCell g (·.modSum grp (·.flip input))
  if x.next.any fun n => olderInst inst n then
    if p.sumFailed then flip s
    else logC (flip s) 0 0x0074 (locCell g) (s.chapelIx g) (fabricDetail 0 grp p.src g p.seq p.sumSlice)
  else
    let s := match x.next, x.operands with
      | some n, _ :: _ => if n = inst then s else failInst s g grp n 0x72 inst
      | _, _ => s.modCell g (·.modSum grp fun x => { x with next := some inst })
    if p.sumFailed then failInst (flip s) g grp inst (failCause p.sumCause) (nextInst sg inst)
    else
      let o : SumOperand := ⟨input, p.seq, p.sumSlice, p.sumCount, sumElems sg input p.payload⟩
      s.modCell g (·.modSum grp fun x => { x with operands := x.operands ++ [o] })

/-- SUM_OPERAND_ARRIVAL (R334, R340, R346, R348): one for a slot that the entry does not name, or that holds an operand, is
discarded. -/
def execSumOperandArrival (cell : Nat) (s : State) : Res :=
  match (s.cell cell).sum.inbox with
  | [] => .next s
  | p :: rest => possible (s.fabricRuns cell) s fun s =>
    let s := s.modCell cell (·.modSumNode fun n => { n with inbox := rest })
    let h := s.chapel (s.chapelIx cell)
    let sg := h.sum p.sumGroup
    match p.sumInput cell with
    | none => s
    | some i =>
      if sg.kind = 0 ∨ (sumInputs h sg cell).contains i = false ∨
          (((s.cell cell).sumInst p.sumGroup).operand i).isSome then s
      else enterSlot s cell p.sumGroup i sg p

/-- SUM_COMBINE_DONE (R336-R338): the instance is combined, its slots are released, NEXT advances. -/
def execSumCombineDone (cell group : Nat) (s : State) : Res :=
  let h := s.chapel (s.chapelIx cell)
  let sg := h.sum group
  let x := (s.cell cell).sumInst group
  let inputs := sumInputs h sg cell
  possible (s.fabricRuns cell && decide (sg.kind ≠ 0) && x.complete inputs) s fun s =>
    let os := inputs.filterMap x.operand
    let inst := x.next.getD (0, 0)
    let bytes := (sumFold sg.op os).flatMap fun v => le 4 v.toNat
    let count := (os.map SumOperand.count).sum % 65536
    let s := s.modCell cell (·.modSum group fun x => { x.release with next := some (nextInst sg inst) })
    sumOutcome s cell group inst false count 0 bytes

/-- SUM_SLOT_TIMEOUT (R347): the instance's first operand arrived SLOT_TIMEOUT_US ago and another is still missing. -/
def execSumSlotTimeout (cell group : Nat) (s : State) : Res :=
  let h := s.chapel (s.chapelIx cell)
  let sg := h.sum group
  let x := (s.cell cell).sumInst group
  possible (s.fabricRuns cell && !x.operands.isEmpty && !x.complete (sumInputs h sg cell)) s fun s =>
    let inst := x.next.getD (0, 0)
    failInst s cell group inst 0x71 (nextInst sg inst)

/-- The parent's slot is released for a child: its oldest waiting packet goes (R340). -/
def parentReleased (s : State) (g grp : Nat) : State :=
  match ((s.cell g).sumInst grp).ready with
  | [] => s.modCell g (·.modSum grp fun x => { x with sentWaits := false })
  | p :: rest => sumPush (s.modCell g (·.modSum grp fun x => { x with sentWaits := true, ready := rest })) g p

/-- The release toggle of the parent's slot for cell `g`, none where the parent is behind the gate or there is none. -/
def parentToggle (s : State) (g grp : Nat) : Option Bool :=
  let h := s.chapel (s.chapelIx g)
  let parent := bitsN (h.sumEntry (h.sum grp) g) 8 6
  if 1 ≤ parent ∧ parent ≤ 4 then
    let d := dirOfCode (parent - 1)
    some (((s.cell (stepDir g d)).sumInst grp).toggles.contains (dirCode (dirOpp d) + 1))
  else none

/-- SUM_RELEASE_TOGGLE (R340): the child sees the toggle flip. -/
def execSumReleaseToggle (cell group : Nat) (s : State) : Res :=
  match parentToggle s cell group with
  | none => .next s
  | some b => possible (s.fabricRuns cell && decide (((s.cell cell).sumInst group).seen ≠ b)) s fun s =>
    parentReleased (s.modCell cell (·.modSum group fun x => { x with seen := b })) cell group

/-- SUM_RELEASE_WAIT_TIMEOUT (R340): 2 × SLOT_TIMEOUT_US without a flip. -/
def execSumReleaseWaitTimeout (cell group : Nat) (s : State) : Res :=
  possible (s.fabricRuns cell && ((s.cell cell).sumInst group).sentWaits) s fun s => parentReleased s cell group

end Sys2Proof.Machine
end

