-- ==== Sys2Proof/Machine/Chantry.lean ====
section
/-! DEFINITION. The chantry's routers: ranking, deflection, ejection, injection and HOLD (R350-R358, R361). -/

namespace Sys2Proof.Machine

/-- The flits on the link into a router on a lane of travel. -/
def ChNode.wire (n : ChNode) : Dir → List ChFlit
  | .e => n.linkE
  | .w => n.linkW
  | .s => n.linkS
  | .n => n.linkN

/-- The node with the link into a lane changed. -/
def ChNode.modWire (n : ChNode) (d : Dir) (f : List ChFlit → List ChFlit) : ChNode :=
  match d with
  | .e => { n with linkE := f n.linkE }
  | .w => { n with linkW := f n.linkW }
  | .s => { n with linkS := f n.linkS }
  | .n => { n with linkN := f n.linkN }

/-- The flit is bound for another package: REMOTE, and no gate has written SRC_SPAN. -/
def ChFlit.outbound (f : ChFlit) : Bool := f.remote && decide (f.srcSpan = 255)

/-- The cell of this package a flit makes for: its DEST, or the gate cell (R353, R357). -/
def ChFlit.target (h : Chapel) (f : ChFlit) : Nat := if f.outbound then h.globalOf 0 else f.dest

/-- Distance between two coordinates of a dimension of `n` cells, the long way round only where the chapel spans it. -/
def dimDist (folded : Bool) (n a b : Nat) : Nat :=
  let d := if a ≤ b then b - a else a - b
  if folded then d else min d (n - d)

/-- Hops from a cell to another inside the chapel (R353). -/
def Chapel.dist (h : Chapel) (a b : Nat) : Nat :=
  dimDist h.foldRow 64 (cellX a) (cellX b) + dimDist h.foldCol 48 (cellY a) (cellY b)

/-- Outputs of router `g` that shorten the way to a cell, row before column. -/
def Chapel.productive (h : Chapel) (g dest : Nat) : List Dir :=
  dirs.filter fun d => h.ownsLink g d && decide (h.dist (stepDir g d) dest < h.dist g dest)

/-- The first free output of a list. -/
def ChNode.freeOut (n : ChNode) (l : List Dir) : Option Dir := l.find? fun d => !n.taken.contains d

/-- The output a flit gets: productive first, else any in-chapel one, east, south, west, north (R353). -/
def ChNode.output (n : ChNode) (h : Chapel) (g dest : Nat) : Option Dir :=
  (n.freeOut (h.productive g dest)).orElse fun _ => n.freeOut ([Dir.e, .s, .w, .n].filter (h.ownsLink g))

/-! ### Ejection (R358) -/

/-- The message of a message flit (R263). -/
def ChFlit.message (f : ChFlit) : Message :=
  ⟨f.len, f.handler, false, f.src, f.srcSpan, f.turn, f.tid, f.tag,
    if f.channel then some (bitsN f.tag.toNat 21 16, f.tag.toNat % 65536) else none, f.payload.take f.len⟩

/-- A flit leaves the plane at its destination: to placement, or to the cell's own logic. -/
def ejectFlit (s : State) (g : Nat) (f : ChFlit) : State :=
  if f.kind = 0 then s.modCell g fun c => { c with arrivals := c.arrivals ++ [f.message] }
  else if f.kind ≤ 4 then s.modCell g fun c => { c with sysIn := c.sysIn ++ [f] }
  else s

/-- The flit may eject at `g` now. -/
def ChNode.mayEject (n : ChNode) (g : Nat) (f : ChFlit) : Bool := !f.outbound && decide (f.dest = g) && !n.ejTaken

/-- The flit may take the gate exit of `g` now (R357). -/
def ChNode.mayExit (n : ChNode) (h : Chapel) (g : Nat) (f : ChFlit) : Bool :=
  f.outbound && decide (h.globalOf 0 = g) && !n.exitTaken && decide (n.gateOut.length < 16)

/-- One hop older (R351). -/
def ChFlit.older (f : ChFlit) : ChFlit := { f with age := satInc 255 f.age }

/-- A flit placed by router `g`: ejected, through the gate exit, or on an output (R353); none where nothing is free. A
router that passes on a flit of AGE 255 passes HOLD on with it (R361). -/
def placeFlit (s : State) (g : Nat) (f : ChFlit) : Option State :=
  let h := s.chapel f.chapel
  let n := (s.cell g).ch
  if n.mayEject g f then
    some (ejectFlit (s.modCell g (·.modCh fun n => { n with ejTaken := true })) g f)
  else if n.mayExit h g f then
    let up := slotUp s f.chapel f.span
    some (s.modCell g (·.modCh fun n =>
      { n with exitTaken := true, gateOut := if up then n.gateOut ++ [f] else n.gateOut }))
  else (n.output h g (f.target h)).map fun d =>
    let s := s.modCell g (·.modCh fun n => { n with taken := n.taken ++ [d] })
    s.modCell (stepDir g d) (·.modCh fun m =>
      { (m.modWire d fun l => l ++ [f.older]) with holdAge := m.holdAge || (n.holdAge && decide (f.age = 255)) })

/-! ### Arrival (R352, R353, R355) -/

/-- Rank of an arriving flit: higher AGE, lower SRC, lower INJ, lanes east, west, south, north. -/
def flitRank (d : Dir) (f : ChFlit) : Nat := (255 - f.age) * 2 ^ 32 + f.src * 2 ^ 16 + f.inj * 16 + dirCode d

/-- Insertion by rank. -/
def insertFlit (e : Dir × ChFlit) : List (Dir × ChFlit) → List (Dir × ChFlit)
  | [] => [e]
  | x :: xs => if flitRank e.1 e.2 ≤ flitRank x.1 x.2 then e :: x :: xs else x :: insertFlit e xs

/-- The flit leaves the link into lane `d`. -/
def takeFlit (s : State) (g : Nat) (d : Dir) : State := s.modCell g (·.modCh fun n => n.modWire d fun l => l.drop 1)

/-- A flit that fails the hop check, or whose chapel does not own its link, is discarded and logged (R352, R355). -/
def refuseFlit (s : State) (g : Nat) (d : Dir) (f : ChFlit) (bad : Bool) : State :=
  let from_ := stepDir g (dirOpp d)
  let detail := fabricDetail (dirCode d) 0 f.src f.dest 0 0
  let s := takeFlit s g d
  if bad then logKeyed s (2 ^ 41 + bayOf g) oneMs 0x0128 (locChantry from_) (s.chapelIx g) detail
  else logC s 0 0x0129 (locChantry from_) f.chapel detail

/-- The ranked flits are placed one after the other. -/
def placeAll (g : Nat) : List (Dir × ChFlit) → State → State
  | [], s => s
  | (d, f) :: rest, s => placeAll g rest ((placeFlit (takeFlit s g d) g f).getD s)

/-- A router's HOLD for a flit of AGE 255 ends when none is left at it. -/
def settleHold (s : State) (g : Nat) : State :=
  s.modCell g (·.modCh fun n =>
    { n with holdAge := n.holdAge && dirs.any fun d => (n.wire d).any fun f => decide (f.age = 255) })

/-- CHANTRY_FLIT_ARRIVAL (R352, R353, R355, R357, R358): one cycle of a router: the flits at the head of the named
links, which may be none, are checked, ranked and placed. -/
def execChantryFlitArrival (cell : Nat) (ins bad : List Dir) (s : State) : Res :=
  possible (s.cellClocked cell) s fun s =>
    let s := s.modCell cell (·.modCh fun n => { n with taken := [], ejTaken := false, exitTaken := false })
    let heads := (dirs.filter ins.contains).filterMap fun d => ((s.cell cell).ch.wire d).head?.map fun f => (d, f)
    let ok := fun (e : Dir × ChFlit) => !bad.contains e.1 && decide (s.chapelOfCell cell = some e.2.chapel)
    let s' := (heads.filter fun e => !ok e).foldl (fun s e => refuseFlit s cell e.1 e.2 (bad.contains e.1)) s
    let ranked := (heads.filter ok).foldl (fun l e => insertFlit e l) []
    settleHold (placeAll cell ranked s') cell

/-! ### Injection (R354, R356, R361) -/

/-- Some router of the chapel asserts HOLD, which reaches every router of it (R361). -/
def State.held (s : State) (c : Nat) : Bool :=
  (s.chapel c).cells.any fun g => (s.cell g).ch.holdAge || (s.cell g).ch.holdOwn

/-- The flit the injection port offers: system flits first (R356). -/
def ChNode.offer (n : ChNode) : Option ChFlit := n.sysQ.head?.orElse fun _ => n.injQ.head?

/-- The head of the injection queue is gone; a thread that waited for room issues again. -/
def Cell.chantryPop (c : Cell) : Cell :=
  let c := c.modCh fun n => match n.sysQ with
    | _ :: rest => { n with sysQ := rest, injCount := (n.injCount + 1) % 256, holdOwn := false, lastGate := false }
    | [] => { n with injQ := n.injQ.drop 1, injCount := (n.injCount + 1) % 256, holdOwn := false, lastGate := false }
  if c.chantryRoom then c.retryWhere fun w => decide (w = Waiting.chantryQueue) else c

/-- A flit of the injection port enters, numbered (R354, Table 12-1). -/
def injectFlit (s : State) (g : Nat) : Option State :=
  let n := (s.cell g).ch
  if !s.mayInject g || (s.held (s.chapelIx g) && !n.holdOwn) then none
  else n.offer.bind fun f => placeFlit (s.modCell g Cell.chantryPop) g { f with inj := n.injCount }

/-- A flit of the gate entry enters. -/
def enterFlit (s : State) (g : Nat) : Option State :=
  if s.held (s.chapelIx g) then none
  else match (s.cell g).ch.gateIn with
    | f :: rest => placeFlit (s.modCell g (·.modCh fun n => { n with gateIn := rest, lastGate := true })) g f
    | [] => none

/-- Gate entry and injection port, alternating (R354). -/
def chantryInject (s : State) (g : Nat) : Option State :=
  if (s.cell g).ch.lastGate then (injectFlit s g).orElse fun _ => enterFlit s g
  else (enterFlit s g).orElse fun _ => injectFlit s g

/-- CHANTRY_INJECTION (R354, R356, R357): an output the ring flits of the router's cycle left free is taken. -/
def execChantryInjection (cell : Nat) (s : State) : Res :=
  if s.cellClocked cell then
    match chantryInject { s with emitted := [] } cell with
    | some s' => .next s'
    | none => .next s
  else .next s

/-- CHANTRY_HOLD (R361): a flit of AGE 255 stands at the router, or its injection port has been refused for 512
cycles. -/
def execChantryHold (cell : Nat) (starved : Bool) (s : State) : Res :=
  let n := (s.cell cell).ch
  let due := if starved then n.offer.isSome else dirs.any fun d => (n.wire d).any fun f => decide (f.age = 255)
  possible (s.cellClocked cell && due) s fun s =>
    s.modCell cell (·.modCh fun n => if starved then { n with holdOwn := true } else { n with holdAge := true })

end Sys2Proof.Machine
end

