-- ==== Sys2Proof/Machine/Rings.lean ====
section
/-! DEFINITION. Doorbells, ring configuration and the interrupts' gates (R78-R87, R96-R101, R125-R127). -/

namespace Sys2Proof.Machine

/-- A host port whose link carries register accesses and whose PF memory space is enabled (R74). -/
def State.barOn (s : State) (p : HPort) : Bool := decide ((s.hp p).link ≠ .down) && (s.hp p).mse

/-- DOORBELL_BAD on the port's event ring (R78, R79). -/
def doorbellBad (s : State) (p : HPort) (offset : Nat) (value : BitVec 64) : State :=
  postPort s p 0x0002 255 (le 4 offset ++ le 4 value.toNat)

/-- RSV_WRITE, a class C entry at the port that carried the write (R5). -/
def rsvWrite (s : State) (p : HPort) : State := logC s 0 0x0004 (locHost p) 255 []

/-- A doorbell's width and place are right (R78). -/
def doorbellForm (offset size : Nat) : Bool := decide ((size = 4 ∨ size = 8) ∧ offset % 8 = 0)

/-- INDEX of a doorbell value (Table 03-3). -/
def bellIndex (value : BitVec 64) : Nat := value.toNat % 65536

/-- A reserved bit of the written doorbell is set. -/
def bellReserved (size : Nat) (value : BitVec 64) : Bool :=
  decide ((if size = 4 then value.toNat % 2 ^ 32 else value.toNat) ≥ 65536)

/-- The fetch of an entry is issued, while the PF masters the bus (R593). -/
def fetchCmd (s : State) (c : Cmd) : State :=
  if (s.hp c.port).bme && decide (c.stage = .accepted) && !c.fetching && !s.flt.halted then
    let r := s.ring c.port c.ring
    ((wakeLink s c.port).emit (.memRead c.port 0 (r.sqBase + 64 * c.slot) 64 c.n)).modCmd c.n
      fun c => { c with fetching := true }
  else s

/-- Entries `slot`, `slot + 1`, … of a ring join the command sequence (R81). -/
def exposeEntries (p : HPort) (ring : Nat) : Nat → Nat → State → State
  | 0, _, s => s
  | k + 1, slot, s =>
    let c : Cmd := { n := s.feb.nextCmd, port := p, ring := ring, slot := slot, accepted := s.pw.tstamp }
    let s := { s with feb := { s.feb with nextCmd := s.feb.nextCmd + 1, cmds := s.feb.cmds ++ [c] } }
    exposeEntries p ring k ((slot + 1) % 2 ^ (s.ring p ring).log2) (fetchCmd s c)

/-- A submission doorbell is accepted or refused (R79-R81). -/
def acceptTail (s : State) (p : HPort) (offset : Nat) (value : BitVec 64) : State :=
  let i := (offset - 0x1000) / 8
  let r := s.ring p i
  let idx := bellIndex value
  if !r.enable || decide (2 ^ r.log2 ≤ idx) then doorbellBad s p offset value
  else if idx = r.sqTail then s
  else
    let n := (idx + 2 ^ r.log2 - r.sqTail) % 2 ^ r.log2
    (exposeEntries p i n r.sqTail s).modRing p i fun r => { r with sqTail := idx }

/-- A completion head doorbell frees slots, re-arms the vector, signals it again if entries lie before the tail, and
posts what waits (R86, R100). -/
def acceptCplHead (s : State) (p : HPort) (offset : Nat) (value : BitVec 64) : State :=
  let i := (offset - 0x1200) / 8
  let r := s.ring p i
  let idx := bellIndex value
  if !r.enable || decide (2 ^ r.log2 ≤ idx) then doorbellBad s p offset value
  else if idx = r.cqHead then s
  else
    let freed := (idx + 2 ^ r.log2 - r.cqHead) % 2 ^ r.log2
    let left := r.cqUsed - freed
    let s := s.modRing p i fun r => { r with cqHead := idx, cqUsed := left, armed := left = 0 }
    flushRing (s.when (decide (0 < left)) fun s => signal s p 0 (i + 1)) p i

/-- The event ring's head doorbell (R86, R125). -/
def acceptEvHead (s : State) (p : HPort) (offset : Nat) (value : BitVec 64) : State :=
  let r := (s.hp p).er
  let idx := bellIndex value
  if !r.enable || decide (2 ^ r.log2 ≤ idx) then doorbellBad s p offset value
  else if idx = r.head then s
  else
    let freed := (idx + 2 ^ r.log2 - r.head) % 2 ^ r.log2
    let left := r.used - freed
    let s := s.modHp p fun h => { h with er := { h.er with head := idx, used := left, armed := left = 0 } }
    flushEvents (s.when (decide (0 < left)) fun s => signal s p 0 0) p

/-- A doorbell takes effect: by its offset, a submission tail, a completion head or the event head (Table 03-2). -/
def acceptBell (s : State) (b : HeldDoorbell) : State :=
  if b.offset < 0x1200 then acceptTail s b.port b.offset b.value
  else if b.offset < 0x1400 then acceptCplHead s b.port b.offset b.value
  else acceptEvHead s b.port b.offset b.value

/-- A doorbell write (R78-R80, R84): a wrong form is refused; before package-ready it is held; a doorbell takes the
package out of IDLE (R47). -/
def ringBell (s : State) (p : HPort) (offset size : Nat) (value : BitVec 64) : State :=
  let s := leaveIdle s
  if !doorbellForm offset size then doorbellBad s p offset value
  else
    let s := s.when (bellReserved size value) fun s => rsvWrite s p
    if s.pw.phase = .ready then acceptBell s ⟨p, offset, size, value⟩
    else { s with feb := { s.feb with heldBells := s.feb.heldBells ++ [⟨p, offset, size, value⟩] } }

/-- DOORBELL_WRITE (R80, R81). -/
def execDoorbellWrite (p : HPort) (offset size : Nat) (value : BitVec 64) (s : State) : Res :=
  possible (s.barOn p && decide (0x1000 ≤ offset ∧ offset < 0x1200)) s fun s => ringBell s p offset size value

/-- COMPLETION_HEAD_DOORBELL (R86, R100). -/
def execCompletionHeadDoorbell (p : HPort) (offset size : Nat) (value : BitVec 64) (s : State) : Res :=
  possible (s.barOn p && decide (0x1200 ≤ offset ∧ offset < 0x1400)) s fun s => ringBell s p offset size value

/-- EVENT_HEAD_DOORBELL (R125). -/
def execEventHeadDoorbell (p : HPort) (offset size : Nat) (value : BitVec 64) (s : State) : Res :=
  possible (s.barOn p && decide (0x1400 ≤ offset ∧ offset < 0x1408)) s fun s => ringBell s p offset size value

/-- The doorbells held before package-ready are accepted in their order (R84). -/
def releaseBells (s : State) : State :=
  s.feb.heldBells.foldl acceptBell { s with feb := { s.feb with heldBells := [] } }

/-! ### Ring configuration (R96-R99) -/

/-- A naturally aligned register access of 1, 2, 4 or 8 bytes. -/
def accessForm (offset size : Nat) : Bool :=
  decide ((size = 1 ∨ size = 2 ∨ size = 4 ∨ size = 8) ∧ offset % size = 0)

/-- Entries of the port's enabled rings. -/
def HostPort.ringEntries (h : HostPort) : Nat :=
  (h.rings.filter (fun e => e.2.enable)).foldl (fun n e => n + 2 ^ e.2.log2) 0

/-- The configuration fields of a ring as the 20 bytes from offset 0 of its block. -/
def cfgBytes (base1 base2 : Nat) (enable : Bool) (log2 : Nat) : List Byte :=
  le 8 base1 ++ le 8 base2 ++ le 4 ((if enable then 2 ^ 31 else 0) + log2)

/-- The bytes of a block's first 20 after a write of `size` bytes of `value` at `off`. -/
def cfgWritten (cur : List Byte) (off size : Nat) (value : BitVec 64) : List Byte :=
  (patch (cur ++ zeros 108) off (le size value.toNat)).take 20

/-- The write sets a reserved bit: below a base, beside LOG2_ENTRIES, or beyond the block's fields. -/
def cfgReserved (new : List Byte) (event : Bool) (off size : Nat) (value : BitVec 64) : Bool :=
  decide (fieldN new 0 8 % 4096 ≠ 0) ||
    (if event then decide (fieldN new 8 8 ≠ 0) else decide (fieldN new 8 8 % 4096 ≠ 0)) ||
    decide (bitsN (fieldN new 16 4) 30 4 ≠ 0) ||
    (decide (0x20 ≤ off) && decide (value.toNat % 2 ^ (8 * size) ≠ 0))

/-- The Table 04-2 cause of a write that would leave the block with these fields, 0 for none. -/
def cfgCause (was : Bool) (same : Bool) (enable : Bool) (log2 : Nat) (roomy zeroBase : Bool) : Nat :=
  if enable && !was then
    if log2 < 4 ∨ 12 < log2 then 1
    else if !roomy then 2
    else if zeroBase then 4
    else 0
  else if enable && was && !same then 3
  else 0

/-- RING_ERR is set and posted (R97). -/
def ringErrPost (s : State) (p : HPort) (ring cause : Nat) : State :=
  postPort s p 0x000D 255 [BitVec.ofNat 8 ring, BitVec.ofNat 8 cause]

/-- The commands of a ring when it stops: those not started are removed, the completions of the others will be
dropped (R92, R99). -/
def stopRingCmds (s : State) (gone : Cmd → Bool) : State :=
  let left := s.feb.cmds.filter fun c => !(gone c && decide (c.stage ≠ .running))
  let cmds := left.map fun c => if gone c then { c with dropped := true } else c
  { s with feb := { s.feb with cmds := cmds } }

/-- Completions that waited for a slot of a stopped ring are dropped and logged (R99). -/
def dropWaiting (s : State) (p : HPort) (cs : List Completion) : State :=
  cs.foldl (fun s c => c.after.run (logC s 0 0x0003 (locHost p) 255 [])) s

/-- Clearing ENABLE of ring `i` (R99). -/
def disableRing (s : State) (p : HPort) (i : Nat) : State :=
  let waiting := (s.ring p i).waiting
  let s := s.modRing p i fun r => { r with enable := false, waiting := [], armed := false }
  dropWaiting (stopRingCmds s fun c => decide (c.port = p ∧ c.ring = i)) p waiting

/-- A write inside the configuration block of ring `i` (R97-R99). -/
def ringBlockWrite (s : State) (p : HPort) (i off size : Nat) (value : BitVec 64) : State :=
  let r := s.ring p i
  let new := cfgWritten (cfgBytes r.sqBase r.cqBase r.enable r.log2) off size value
  let sq := fieldN new 0 8 / 4096 * 4096
  let cq := fieldN new 8 8 / 4096 * 4096
  let en := bitN (fieldN new 16 4) 31
  let lg := fieldN new 16 4 % 16
  let same := decide (sq = r.sqBase ∧ cq = r.cqBase ∧ lg = r.log2)
  let roomy := decide ((s.hp p).ringEntries + 2 ^ lg ≤ 4096)
  let cause := cfgCause r.enable same en lg roomy (decide (sq = 0 ∨ cq = 0))
  let s := s.when (cfgReserved new false off size value) fun s => rsvWrite s p
  if cause ≠ 0 then
    ringErrPost (s.modRing p i fun r => { r with ringErr := BitVec.ofNat 8 cause }) p i cause
  else if en && !r.enable then
    s.modRing p i fun r => { Ring.fresh with sqBase := sq, cqBase := cq, enable := true, log2 := lg,
                                             ringErr := r.ringErr, armed := true }
  else if r.enable && !en then
    (disableRing s p i).modRing p i fun r => { r with sqBase := sq, cqBase := cq, log2 := lg }
  else s.modRing p i fun r => { r with sqBase := sq, cqBase := cq, log2 := lg }

/-- What of a disabled event ring still waits: WAKE_REASON events (R127). -/
def keepWakes (es : List Event) : List Event := es.filter fun e => decide (e.code = wakeCode)

/-- A write inside the event ring's configuration block (R97, R98, R127). -/
def eventBlockWrite (s : State) (p : HPort) (off size : Nat) (value : BitVec 64) : State :=
  let r := (s.hp p).er
  let new := cfgWritten (cfgBytes r.base 0 r.enable r.log2) off size value
  let base := fieldN new 0 8 / 4096 * 4096
  let en := bitN (fieldN new 16 4) 31
  let lg := fieldN new 16 4 % 16
  let cause := cfgCause r.enable (decide (base = r.base ∧ lg = r.log2)) en lg true (decide (base = 0))
  let s := s.when (cfgReserved new true off size value) fun s => rsvWrite s p
  let setEr := fun (f : EventRing → EventRing) => s.modHp p fun h => { h with er := f h.er }
  if cause ≠ 0 then ringErrPost (setEr fun r => { r with ringErr := BitVec.ofNat 8 cause }) p 64 cause
  else if en && !r.enable then
    let s := setEr fun r => { base := base, enable := true, log2 := lg, ringErr := r.ringErr, armed := true,
                              waiting := r.waiting, pPosted := r.pPosted }
    let s := match r.degraded with
      | some e => postOn s p e false
      | none => s
    flushEvents s p
  else if r.enable && !en then
    setEr fun r => { r with base := base, enable := false, log2 := lg, waiting := keepWakes r.waiting }
  else setEr fun r => { r with base := base, log2 := lg }

/-- RING_CONFIG_WRITE (R97): any write into a configuration block of the port. -/
def execRingConfigWrite (p : HPort) (offset size : Nat) (value : BitVec 64) (s : State) : Res :=
  possible (s.barOn p && accessForm offset size &&
      decide ((0x2000 ≤ offset ∧ offset < 0x4000) ∨ (0x4000 ≤ offset ∧ offset < 0x4080))) s fun s =>
    if offset < 0x4000 then ringBlockWrite s p ((offset - 0x2000) / 128) (offset % 128) size value
    else eventBlockWrite s p (offset - 0x4000) size value

/-- RING_ENABLE (R97, R98): the word at +0x10 is written with ENABLE set while it was clear. -/
def execRingEnable (p : HPort) (ring : Nat) (value : BitVec 32) (s : State) : Res :=
  possible (s.barOn p && decide (ring < 64) && !(s.ring p ring).enable && value.getLsbD 31) s fun s =>
    ringBlockWrite s p ring 0x10 4 (value.zeroExtend 64)

/-- RING_DISABLE (R99): the word at +0x10 is written with ENABLE clear while it was set. -/
def execRingDisable (p : HPort) (ring : Nat) (value : BitVec 32) (s : State) : Res :=
  possible (s.barOn p && decide (ring < 64) && (s.ring p ring).enable && !value.getLsbD 31) s fun s =>
    ringBlockWrite s p ring 0x10 4 (value.zeroExtend 64)

/-- EVENT_RING_ENABLE (R98, R127). -/
def execEventRingEnable (p : HPort) (value : BitVec 32) (s : State) : Res :=
  possible (s.barOn p && !(s.hp p).er.enable && value.getLsbD 31) s fun s =>
    eventBlockWrite s p 0x10 4 (value.zeroExtend 64)

/-- EVENT_RING_DISABLE (R127). -/
def execEventRingDisable (p : HPort) (value : BitVec 32) (s : State) : Res :=
  possible (s.barOn p && (s.hp p).er.enable && !value.getLsbD 31) s fun s =>
    eventBlockWrite s p 0x10 4 (value.zeroExtend 64)

/-! ### Masks and Bus Master Enable (R87, R593) -/

/-- A pending vector that may now be sent is sent once, and its bit cleared (R87). -/
def deliverPending (s : State) (p : HPort) (fn v : Nat) : State :=
  let h := s.hp p
  let key := msixKey fn v
  if h.msixPend.contains key && !(tget MsixEntry.fresh h.msix key).mask && h.busMaster fn then
    (s.modHp p fun h => { h with msixPend := setErase key h.msixPend }).emit (.msix p fn v)
  else s

/-- The vectors of a function: 80 of the PF, 2 of a VF (R85, R89). -/
def vectorsOf (fn : Nat) : List Nat := if fn = 0 then List.range 80 else [0, 1]

/-- A function of the port: the PF, or an enabled VF. -/
def HostPort.hasFn (h : HostPort) (fn : Nat) : Bool := decide (fn = 0 ∨ fn ≤ h.vfs)

/-- MSIX_UNMASK (R87). -/
def execMsixUnmask (p : HPort) (fn vector : Nat) (s : State) : Res :=
  possible (decide ((s.hp p).link ≠ .down) && (s.hp p).hasFn fn && (s.hp p).memSpace fn &&
      (vectorsOf fn).contains vector) s fun s =>
    let key := msixKey fn vector
    let s := s.modHp p fun h => { h with
      msix := tput MsixEntry.fresh h.msix key { tget MsixEntry.fresh h.msix key with mask := false } }
    deliverPending s p fn vector

/-- What the PF's Bus Master Enable held back is released: fetches, completions, events (R593). -/
def releasePf (s : State) (p : HPort) : State :=
  let s := (s.feb.cmds.filter fun c => decide (c.port = p)).foldl fetchCmd s
  let s := (List.range 64).foldl (fun s i => flushRing s p i) s
  flushEvents s p

/-- BUS_MASTER_ENABLE_SET (R87, R593). -/
def execBusMasterEnableSet (p : HPort) (fn : Nat) (s : State) : Res :=
  possible (decide ((s.hp p).link ≠ .down) && (s.hp p).hasFn fn) s fun s =>
    let s := s.modHp p fun h => if fn = 0 then { h with bme := true } else { h with vfBme := setInsert fn h.vfBme }
    let s := (vectorsOf fn).foldl (fun s v => deliverPending s p fn v) s
    if fn = 0 then releasePf s p else s

/-- LINK_DEGRADED (Table 03-1): a rate or width below those listed. -/
def degradedLink (rate width : Nat) : Bool := !decide ((rate = 64 ∨ rate = 32) ∧ (width = 16 ∨ width = 8))

/-- LINK_L0_REACHED (R70, R72, R95, R127): the port's link reaches L0. -/
def execLinkL0Reached (p : HPort) (rate width : Nat) (s : State) : Res :=
  let perst := match p with
    | .h0 => s.pw.perst0
    | .h1 => s.pw.perst1
  possible (s.mainOn && perst) s fun s =>
    let s := match p with
      | .h0 => { s with pw := { s.pw with wake0 := false } }
      | .h1 => { s with pw := { s.pw with wake1 := false } }
    let s := s.modHp p fun h => { h with link := .l0, rate := rate, width := width,
                                         er := { h.er with degraded := none } }
    let e : Event := ⟨0x0003, 255, s.pw.tstamp, padTo 16 [BitVec.ofNat 8 rate, BitVec.ofNat 8 width]⟩
    let s :=
      if !degradedLink rate width then s
      else if (s.hp p).er.enable then postOn s p e false
      else s.modHp p fun h => { h with er := { h.er with degraded := some e } }
    flushEvents s p

end Sys2Proof.Machine
end

