-- ==== Sys2Proof/Machine/Febupor.lean ====
section
/-! DEFINITION. A Febupor command from its fetch to its turn: the duplicate window (R110-R114), the checks of
Table 04-5, the objects it names and holds (Table 04-7), and the start of its execution (R82, R83, R106-R108, R469). -/

namespace Sys2Proof.Machine

/-! ### Objects -/

/-- The chapels and ports whose record differs between the current screen and an image (R147, R152). -/
def State.altered (s : State) (img : List Byte) : List Obj :=
  ((chapelIds.filter fun c => imgChapel img c ≠ s.chapelRec c).map Obj.chapel) ++
    (((List.range 12).filter fun p => imgPort img p ≠ s.portRec p).map Obj.port)

/-- What an approval holds besides the screen: the reader for a badge, and what its pending change alters. -/
def approvalObjs (s : State) (c : Cmd) : List Obj :=
  (if c.dataLen = 0 then [Obj.reader] else []) ++
    match s.feb.pending with
    | some p =>
      match p.kind with
      | .screen => s.altered p.image
      | .synthetic => [Obj.belfry]
      | .enrol => []
    | none => []

/-- The chapel object `x` names, if `x` is a chapel ID. -/
def chapelObj (x : Nat) : List Obj := if x < 192 then [Obj.chapel x] else []

/-- The objects a command names (Table 04-7). -/
def Cmd.names (s : State) (c : Cmd) : List Obj :=
  let ch := chapelObj (c.byte 24)
  match c.opcode with
  | 0x0002 | 0x0003 => [.package]
  | 0x0004 | 0x0005 => [.powerLimit]
  | 0x0101 => ch ++ (rectBays (fieldN c.entry 26 2) (c.byte 28) (c.byte 29)).map Obj.bay
  | 0x0105 | 0x0106 => ch ++
      (if (s.chapel (c.byte 24)).state = .empty then [] else (s.chapel (c.byte 24)).bays.map Obj.bay)
  | 0x0102 | 0x0103 | 0x0104 | 0x0107 | 0x0108 | 0x0201 | 0x0202 | 0x0203 | 0x0301 | 0x0303 => ch
  | 0x0302 => [.lectern (c.byte 24)]
  | 0x0401 | 0x0402 => [.port (c.byte 24)]
  | 0x0403 => .port (c.byte 24) :: chapelObj (c.byte 25) ++ chapelObj (s.link (c.byte 24)).owner
  | 0x0501 | 0x0503 | 0x0505 | 0x0604 => [.screen]
  | 0x0502 => .screen :: approvalObjs s c
  | 0x0601 => [.reader]
  | 0x0602 | 0x0603 => [.belfry]
  | 0x0605 => [.tag]
  | 0x0606 => [.calStore]
  | 0x0703 => if c.byte 24 = 0 then [.bay (fieldN c.entry 26 2)] else [.port (fieldN c.entry 26 2)]
  | _ => []

/-- The objects a command holds: the read-only opcodes hold nothing (chapter 04, Per-object serialisation). -/
def Cmd.holds (s : State) (c : Cmd) : List Obj :=
  if c.stage = .running then c.objs
  else if c.opcode = 0x0107 ∨ c.opcode = 0x0402 then []
  else c.names s

/-- Two object lists share an object; the package shares one with every object. -/
def objsMeet (a b : List Obj) : Bool :=
  a.any fun x => b.any fun y => decide (x = y ∨ x = .package ∨ y = .package)

/-- An earlier command stands in the way of `c`: it holds an object that `c` names, or its entry has not been
fetched, so that its objects are not yet known (R82, R115). -/
def blocksCmd (s : State) (c d : Cmd) : Bool :=
  decide (d.n < c.n) && (if d.stage = .accepted then !(c.names s).isEmpty else objsMeet (d.holds s) (c.names s))

/-- The sacristy executes commands: the package is ready, not halted and not on its way into CRYPT (R84, R471, R45). -/
def State.executes (s : State) : Bool :=
  decide (s.pw.phase = .ready) && !s.flt.halted && !s.pw.entering

/-- The turn of `c` has come (R115). -/
def turnCame (s : State) (c : Cmd) : Bool :=
  decide (c.stage = .ready) && s.executes && !s.feb.cmds.any (blocksCmd s c)

/-- NOT_PERMITTED at step 9, or SUPERSEDED where an earlier command changed one of the objects after this entry was
accepted (R83, R107). -/
def refuse (s : State) (c : Cmd) (detail : Nat) : State :=
  if objsMeet c.changed (c.names s) then failCmd s c 0x09 0 else failCmd s c 0x03 detail

/-- The command executes although the package is PKG_FAULTED (R469). -/
def Cmd.allowedFaulted (c : Cmd) : Bool :=
  [0x0001, 0x0002, 0x0107, 0x0106, 0x0402, 0x0504, 0x0701, 0x0702, 0x0703].contains c.opcode ||
    decide (c.opcode = 0x0401 ∧ c.byte 25 = 2)

/-- The chapel a command names, for R108: CHAPEL_QUERY, CHAPEL_EVICT and the diagnostics opcodes are exempt. -/
def Cmd.faultChapel (c : Cmd) : Option Nat :=
  let group := c.opcode / 256
  if c.opcode = 0x0106 ∨ c.opcode = 0x0107 then none
  else if group = 1 ∨ group = 2 ∨ c.opcode = 0x0301 ∨ c.opcode = 0x0303 then some (c.byte 24)
  else if c.opcode = 0x0403 then some (c.byte 25)
  else none

/-- Step 9 for every command: PKG_FAULTED and a FAULTED chapel; else the opcode's own part (R108, R469). -/
def gated (s : State) (c : Cmd) (k : State → Cmd → State) : State :=
  if s.flt.pkgFaulted && !c.allowedFaulted then refuse s c 0x90
  else match c.faultChapel with
    | some x =>
      if x < 192 ∧ (s.chapel x).state = .faulted then failCmd s c 0x0C (s.chapel x).firstK else k s c
    | none => k s c

/-- Command `n`, of opcode `op`, starts when its turn has come: first what earlier commands could change of steps 5
and 6 (`pre`: a status and DETAIL), then step 9, then its effect (R106, R115). -/
def runCmdPre (n op : Nat) (s : State) (pre : State → Cmd → Option (Nat × Nat)) (k : State → Cmd → State) : Res :=
  match s.cmd n with
  | none => .next s
  | some c => possible (decide (c.opcode = op) && turnCame s c) s fun s =>
    let c := { c with objs := c.holds s, stage := .running, started := s.pw.tstamp }
    let s := s.modCmd n fun _ => c
    match pre s c with
    | some (status, detail) => failCmd s c status detail
    | none => gated s c k

/-- Command `n` starts when its turn has come. -/
def runCmd (n op : Nat) (s : State) (k : State → Cmd → State) : Res := runCmdPre n op s (fun _ _ => none) k

/-- An event of a command that runs. -/
def runningCmd (n op : Nat) (s : State) (c? : State → Cmd → Bool) (k : State → Cmd → State) : Res :=
  match s.cmd n with
  | none => .next s
  | some c => possible (decide (c.opcode = op ∧ c.stage = .running) && c? s c && !s.flt.halted) s fun s => k s c

/-! ### Fetch and checks -/

/-- COMMAND_ID of an entry. -/
def entryId (e : List Byte) : Nat := fieldN e 4 4

/-- An entry is refused before it joins the duplicate window's commands, with REPLAYED set (R112). -/
def replayMismatch (s : State) (c : Cmd) (e : List Byte) (off : Nat) : State :=
  postCompletion (s.dropCmd c.n) c.port c.ring
    ⟨c.slot, BitVec.ofNat 32 (entryId e), fieldN e 0 2, 0x01, true, false, off, [], .nothing⟩

/-- An entry whose COMMAND_ID is in the window (R111-R113). -/
def repeatEntry (s : State) (c : Cmd) (e : List Byte) (d : DupEntry) : State :=
  match firstDiff 0 d.bytes e with
  | some off => replayMismatch s c e off
  | none =>
    let s := s.dropCmd c.n
    match d.answer with
    | some a => postCompletion s c.port c.ring { a with slot := c.slot, replayed := true }
    | none => s.modCmd d.n fun x => { x with repeats := x.repeats ++ [c.slot] }

/-- The key and the last accepted nonce of a port (R498). -/
def Flash.key (f : Flash) : HPort → Option (List Byte)
  | .h0 => f.keyH0
  | .h1 => f.keyH1

/-- The last accepted nonce of a port. -/
def Flash.nonce (f : Flash) : HPort → Nat
  | .h0 => f.nonceH0
  | .h1 => f.nonceH1

/-- The nonce of a port is accepted and written to CF (R500). -/
def setNonce (s : State) (p : HPort) (v : Nat) : State :=
  match p with
  | .h0 => { s with flash := { s.flash with nonceH0 := v } }
  | .h1 => { s with flash := { s.flash with nonceH1 := v } }

/-- A refused envelope is logged class C (R119). -/
def secFail (s : State) (c : Cmd) (detail : Nat) : State :=
  failCmd (logC s 0 detail locCloister 255 []) c 0x03 detail

/-- Step 7 and the rules of the plaintext: the envelope opens under the port's key with the entry as additional data,
its nonce has bit 95 clear and is above the last one accepted (R118, R119, R500). -/
def openSecured (s : State) (c : Cmd) : State :=
  let plain := match s.flash.key c.port with
    | some key => openEnvelope key c.entry c.buf
    | none => none
  match plain with
  | none => secFail s c 0x10
  | some text =>
    let nonce := leNat (sliceB c.buf 0 12)
    if 2 ^ 95 ≤ nonce ∨ nonce ≤ s.flash.nonce c.port then secFail s c 0x11
    else
      let s := setNonce s c.port nonce
      match plainBad c.opcode c.entry text with
      | some d => failCmd s c 0x01 d
      | none => s.modCmd c.n fun x => { x with stage := .ready, plain := text }

/-- Steps 5 to 7 of Table 04-5, once the buffer is there. -/
def checkParams (s : State) (c : Cmd) : State :=
  match step5Bad c.opcode c.entry c.buf with
  | some d => failCmd s c 0x01 d
  | none =>
    if indexMissing c.opcode c.entry then failCmd s c 0x05 0
    else if geometryBad c.opcode c.entry then failCmd s c 0x01 26
    else if opSecured c.opcode then openSecured s c
    else s.modCmd c.n fun x => { x with stage := .ready }

/-- HOST_DATA_FAIL is logged by the port (R109, R589). -/
def dataFail (s : State) (p : HPort) : State := logC s 0 0x0002 (locHost p) 255 []

/-- Step 4 fails: ABORTED, HOST_READ_FAIL (Table 04-5, R109). -/
def readFail (s : State) (c : Cmd) : State := failCmd (dataFail s c.port) c 0x07 1

/-- Steps 2 to 4: the opcode, the header, and the read of the buffer, which fails at once while the PF may not master
the bus (R593). -/
def checkHeader (s : State) (c : Cmd) : State :=
  if !opcodes.contains c.opcode then failCmd s c 0x02 0
  else match lowest (headerBad c.opcode c.entry) with
    | some o => failCmd s c 0x01 o
    | none =>
      if opReads c.opcode c.entry && decide (c.dataLen ≠ 0) then
        if (s.hp c.port).bme then
          ((wakeLink s c.port).emit (.memRead c.port 0 c.dataAddr c.dataLen c.n)).modCmd c.n
            fun x => { x with stage := .reading }
        else readFail s c
      else checkParams s c

/-- A fetched entry enters the duplicate window of its ring, which keeps the last 256 (R110). -/
def recordEntry (s : State) (c : Cmd) (e : List Byte) : State :=
  s.modRing c.port c.ring fun r =>
    { r with dup := (r.dup ++ [DupEntry.mk c.n e none]).drop (r.dup.length + 1 - 256) }

/-- The fetch of an entry fails (R589). -/
def fetchFail (s : State) (c : Cmd) : State :=
  let s := (dataFail s c.port).dropCmd c.n
  postCompletion s c.port c.ring ⟨c.slot, 0#32, 0, 0x07, false, false, 2, le 2 c.slot, .nothing⟩

/-- A fetched entry meets step 1, and the following steps where it is new. -/
def entryFetched (s : State) (c : Cmd) (e : List Byte) : State :=
  match (s.ring c.port c.ring).dup.find? (fun d => decide (entryId d.bytes = entryId e)) with
  | some d => repeatEntry s c e d
  | none =>
    let c := { c with entry := e }
    checkHeader ((recordEntry s c e).modCmd c.n fun _ => c) c

/-- ENTRY_FETCH (R106, R110, R589): the 64 bytes of the entry arrive, or its fetch ends in a PCIe error. -/
def execEntryFetch (n : Nat) (data : Option (List Byte)) (s : State) : Res :=
  match s.cmd n with
  | none => .next s
  | some c =>
    let whole := match data with
      | some e => decide (e.length = 64)
      | none => true
    possible (decide (c.stage = .accepted) && c.fetching && whole && !s.flt.halted) s fun s => match data with
      | some e => entryFetched s c e
      | none => fetchFail s c

/-- ENTRY_FETCH_TIMEOUT (R589). -/
def execEntryFetchTimeout (n : Nat) (s : State) : Res :=
  match s.cmd n with
  | none => .next s
  | some c => possible (decide (c.stage = .accepted) && c.fetching && !s.flt.halted) s fun s => fetchFail s c

/-- DATA_BUFFER_READ_COMPLETION (R106, R109): the buffer arrives whole, or its read ends in a PCIe error. -/
def execDataBufferReadCompletion (n : Nat) (data : Option (List Byte)) (s : State) : Res :=
  match s.cmd n with
  | none => .next s
  | some c =>
    let whole := match data with
      | some b => decide (b.length = c.dataLen)
      | none => true
    possible (decide (c.stage = .reading) && whole && !s.flt.halted) s fun s => match data with
      | some b =>
        let c := { c with buf := b }
        checkParams (s.modCmd n fun _ => c) c
      | none => readFail s c

/-- DATA_BUFFER_READ_TIMEOUT (R106, R109). -/
def execDataBufferReadTimeout (n : Nat) (s : State) : Res :=
  match s.cmd n with
  | none => .next s
  | some c => possible (decide (c.stage = .reading) && !s.flt.halted) s fun s => readFail s c

/-- A command that writes its buffer completes OK with RESULT (R105, R109). -/
def okWrite (s : State) (c : Cmd) (data result : List Byte) (wrOk : Bool) : State :=
  let r := writeBuffer s c data wrOk
  completeCmd r.1 c 0 0 result r.2 .nothing

/-- A secured reply: the request nonce with bit 95 set, the same key (R120). The additional data is that of the
request, the entry's 64 bytes (R118). -/
def sealReply (s : State) (c : Cmd) (text : List Byte) : List Byte :=
  let nonce := le 12 (leNat (sliceB c.buf 0 12) + 2 ^ 95)
  sealEnvelope ((s.flash.key c.port).getD []) nonce c.entry text

end Sys2Proof.Machine
end

