-- ==== Sys2Proof/Machine/AmbCore.lean ====
section
/-! DEFINITION. The ambulatory as a network: the flit header (R368, R369), rings, stops and bridges (R363-R367), routing and
arbitration (R370-R374, R376-R378), and the answers of its targets. -/

namespace Sys2Proof.Machine

/-! ### The header (Table 13-5) -/

/-- OP of an operation (Table 13-6). -/
def AmbOp.code : AmbOp → Nat
  | .read => 0
  | .write => 1
  | .atomic => 2
  | .data => 4
  | .done => 5
  | .cfgWrite => 8
  | .cfgRead => 9
  | .cfgReply => 10
  | .fence => 11
  | .fenceAck => 12
  | .notice => 13

/-- The operation of an OP value that belongs to its VNET (Table 13-6). -/
def ambOpOf (vnet code : Nat) : Option AmbOp :=
  match vnet, code with
  | 0, 0 => some .read
  | 0, 1 => some .write
  | 0, 2 => some .atomic
  | 1, 4 => some .data
  | 1, 5 => some .done
  | 2, 8 => some .cfgWrite
  | 2, 9 => some .cfgRead
  | 2, 10 => some .cfgReply
  | 2, 11 => some .fence
  | 2, 12 => some .fenceAck
  | 2, 13 => some .notice
  | _, _ => none

/-- The operation carries data (Table 13-6). -/
def AmbOp.hasData : AmbOp → Bool
  | .write | .atomic | .data | .cfgWrite | .cfgReply => true
  | _ => false

/-- The 16 header bytes of a flit. -/
def AmbFlit.header (f : AmbFlit) : List Byte :=
  [BitVec.ofNat 8 (f.vnet + 4 * f.prio + 16 * f.op.code), BitVec.ofNat 8 f.chapel] ++
    le 2 (f.src + 4096 * f.size) ++ le 2 (f.dest + 4096 * f.aop) ++ le 2 (f.txn + 1024 * f.epoch) ++ le 5 f.addr ++
    [BitVec.ofNat 8 (f.win + if f.remote then 128 else 0),
     BitVec.ofNat 8 (f.span + (if f.synth then 64 else 0) + if f.poison then 128 else 0), BitVec.ofNat 8 f.status]

/-- An endpoint of Table 13-4. -/
def ambEndpoint (e : Nat) : Bool :=
  decide (e < 0xC00 ∨ (0xC00 ≤ e ∧ e < 0xC08) ∨ e = 0xC10 ∨ e = 0xC11 ∨ (0xC20 ≤ e ∧ e < 0xC2C) ∨ e = 0xC30)

/-- A WIN value of Table 13-5. -/
def winGood (w : Nat) : Bool := decide (w < 72 ∨ w = 127)

/-- The flit 16 header bytes spell; none for a reserved value, an OP of another VNET (R369) or a DEST that names no
endpoint. -/
def flitOf (h : List Byte) (f : AmbFlit) : Option AmbFlit :=
  let b := fun (o : Nat) => (byteAt h o).toNat
  let w2 := fieldN h 2 2
  let w4 := fieldN h 4 2
  let w6 := fieldN h 6 2
  match ambOpOf (b 0 % 4) (b 0 / 16) with
  | none => none
  | some op =>
    if bitsN w2 14 12 ≤ 4 && winGood (b 13 % 128) && ambEndpoint (w4 % 4096) then
      some { f with
        vnet := b 0 % 4, prio := b 0 / 4 % 4, op := op, chapel := b 1, src := w2 % 4096, size := bitsN w2 14 12,
        dest := w4 % 4096, aop := w4 / 4096, txn := w6 % 1024, epoch := w6 / 1024, addr := fieldN h 8 5,
        win := b 13 % 128, remote := bitN (b 13) 7, span := b 14 % 64, synth := bitN (b 14) 6, poison := bitN (b 14) 7,
        status := b 15 }
    else none

/-- DETAIL of an ambulatory fault (Table 17-8). -/
def ambDetail (f : AmbFlit) (status : Nat) : List Byte :=
  le 2 f.src ++ le 2 f.dest ++ [BitVec.ofNat 8 f.win, BitVec.ofNat 8 status] ++ le 5 f.addr

/-! ### Rings, stops and bridges (R363-R367) -/

/-- Position of a bay's stop on its nave ring (Table 13-1). -/
def bayPos (b : Nat) : Nat :=
  let c := b % 16 % 4
  match b / 16 % 4 with
  | 0 => 1 + c
  | 1 => if c = 0 then 17 else 8 - c
  | 2 => if c = 0 then 16 else 7 + c
  | _ => 14 - c

/-- The spine stop of a nave (Table 13-2). -/
def stopOfNave (d : Nat) : Nat := if 4 ≤ d ∧ d < 8 then 12 - d else d + 1

/-- The nave at spine stop 1-12 (Table 13-2). -/
def naveAtStop (i : Nat) : Nat := if 5 ≤ i ∧ i < 9 then 12 - i else i - 1

/-- The bay whose stop is at a position of a nave ring. -/
def bayAtPos (d pos : Nat) : Option Nat :=
  (List.range 192).find? fun b => decide (naveOfBay b = d ∧ bayPos b = pos)

/-- A stop: a bay's on its nave ring, or a chancel's (true: chancel S) on both spines. -/
inductive AmbStop where
  | nave (d pos : Nat)
  | chancel (south : Bool)
deriving DecidableEq, Repr

/-- The stops of an endpoint: the sacristy has one at each chancel (R367). -/
def epStops (e : Nat) : List AmbStop :=
  if e < 0xC00 then [.nave (naveOf e) (bayPos (bayOf e))]
  else if e < 0xC08 then [.chancel (decide (4 ≤ e - 0xC00))]
  else if e < 0xC12 then [.chancel (decide (e = 0xC11))]
  else if e < 0xC2C then [.chancel (decide (6 ≤ e - 0xC20))]
  else [.chancel false, .chancel true]

/-- Hops between two places of a ring of `n`. -/
def ringHops (n a b : Nat) : Nat := min ((b + n - a) % n) ((a + n - b) % n)

/-- The shorter direction from `a` to `b ≠ a` is the increasing one; increasing wins a tie (R370, R371). -/
def goesUp (n a b : Nat) : Bool := decide ((b + n - a) % n ≤ (a + n - b) % n)

/-- Position of a bridge on its nave ring: BN 0, BS 15. -/
def bridgePos (north : Bool) : Nat := if north then 0 else 15

/-- The spine stop a stop's die has. -/
def AmbStop.spineStop : AmbStop → Nat
  | .nave d _ => stopOfNave d
  | .chancel south => if south then 13 else 0

/-- Nave ring hops of a stop to a bridge of its nave. -/
def AmbStop.legHops (north : Bool) : AmbStop → Nat
  | .nave _ pos => ringHops 18 pos (bridgePos north)
  | .chancel _ => 0

/-- Nave ring hops and spine hops from one stop to another by one spine. -/
def pathHops (north : Bool) (a b : AmbStop) : Nat :=
  a.legHops north + ringHops 14 a.spineStop b.spineStop + b.legHops north

/-- The nearer of an endpoint's stops as seen from spine stop `i`; the first wins a tie. -/
def nearStop (i : Nat) (e : Nat) : AmbStop :=
  match epStops e with
  | a :: b :: _ => if ringHops 14 i b.spineStop < ringHops 14 i a.spineStop then b else a
  | a :: _ => a
  | [] => .chancel false

/-! ### Inputs -/

/-- Inputs of a lane: 18 stops of a nave ring; 14 stops and 71 relay stations of a spine (R363-R365). -/
def laneSize : AmbLane → Nat
  | .nave _ _ => 18
  | .spine _ _ _ => 85

/-- The lane runs in increasing order. -/
def laneUp : AmbLane → Bool
  | .nave _ u => u
  | .spine _ _ u => u

/-- A lane of the package. -/
def laneValid : AmbLane → Bool
  | .nave d _ => decide (d < 12)
  | .spine _ t _ => decide (t < 4)

/-- The number of a lane. -/
def laneNum : AmbLane → Nat
  | .nave d u => 2 * d + if u then 0 else 1
  | .spine n t u => 24 + (if n then 0 else 8) + 2 * t + if u then 0 else 1

/-- The key of a lane's input at a position. -/
def laneKey (l : AmbLane) (pos : Nat) : Nat := laneNum l * 128 + pos

/-- The input at a position of a lane. -/
def State.laneIn (s : State) (l : AmbLane) (pos : Nat) : LaneIn := tget LaneIn.fresh s.amb.lanes (laneKey l pos)

/-- The state with a lane's input changed by `f`. -/
def State.modLane (s : State) (l : AmbLane) (pos : Nat) (f : LaneIn → LaneIn) : State :=
  { s with amb := { s.amb with lanes := tput LaneIn.fresh s.amb.lanes (laneKey l pos) (f (s.laneIn l pos)) } }

/-- A virtual channel of an input. -/
def LaneIn.vc (i : LaneIn) (v : Nat) : List AmbFlit := tget [] i.vcs v

/-- A virtual channel of an input changed. -/
def LaneIn.modVc (i : LaneIn) (v : Nat) (f : List AmbFlit → List AmbFlit) : LaneIn :=
  { i with vcs := tput [] i.vcs v (f (i.vc v)) }

/-- Free credits of a channel at an input: of its eight slots, those no flit holds or is on its way to (R374). -/
def LaneIn.free (i : LaneIn) (v : Nat) : Nat := 8 - ((i.vc v).length + (i.link.filter fun e => decide (e.1 = v)).length)

/-- The position a lane leads to from `pos`. -/
def laneNext (l : AmbLane) (pos : Nat) : Nat :=
  if laneUp l then (pos + 1) % laneSize l else (pos + laneSize l - 1) % laneSize l

/-- The hop out of `pos` crosses the ring's dateline (R373): between position 17 and 0, between stop 13 and stop 0. -/
def laneDateline (l : AmbLane) (pos : Nat) : Bool :=
  match l with
  | .nave _ u => decide (pos = if u then 17 else 0)
  | .spine _ _ u => decide (pos = if u then 78 else 0)

/-! ### Nodes and their candidates -/

/-- A point of the network at which flits change lanes: a bay stop, a bridge, a relay station, a chancel. -/
inductive AmbNode where
  | bay (d pos : Nat)
  | bridge (north : Bool) (d : Nat)
  | relay (north : Bool) (pos : Nat)
  | chancel (south : Bool)
deriving DecidableEq, Repr

/-- The node of a lane's position. -/
def nodeOf (l : AmbLane) (pos : Nat) : AmbNode :=
  match l with
  | .nave d _ => if pos = 0 then .bridge true d else if pos = 15 then .bridge false d else .bay d pos
  | .spine n _ _ =>
    if pos = 0 then .chancel false
    else if pos = 78 then .chancel true
    else if pos % 6 = 0 ∧ pos < 78 then .bridge n (naveAtStop (pos / 6))
    else .relay n pos

/-- The node of a stop. -/
def AmbStop.node : AmbStop → AmbNode
  | .nave d pos => .bay d pos
  | .chancel south => .chancel south

/-- The two lanes of a nave ring. -/
def naveLanes (d : Nat) : List AmbLane := [.nave d true, .nave d false]

/-- The eight lanes of a spine. -/
def spineLanes (north : Bool) : List AmbLane :=
  (List.range 4).flatMap fun t => [AmbLane.spine north t true, AmbLane.spine north t false]

/-- The lane inputs of a node. -/
def AmbNode.lanes : AmbNode → List (AmbLane × Nat)
  | .bay d pos => (naveLanes d).map fun l => (l, pos)
  | .bridge n d => (naveLanes d).map (fun l => (l, bridgePos n)) ++ (spineLanes n).map fun l => (l, 6 * stopOfNave d)
  | .relay n pos => (spineLanes n).map fun l => (l, pos)
  | .chancel south => (spineLanes true ++ spineLanes false).map fun l => (l, if south then 78 else 0)

/-- The endpoints at a node's stop. -/
def AmbNode.ends : AmbNode → List Nat
  | .bay d pos => match bayAtPos d pos with
    | some b => (List.range 3072).filter fun g => decide (bayOf g = b)
    | none => []
  | .chancel south =>
    let k := if south then 1 else 0
    (List.range 4).map (fun i => 0xC00 + 4 * k + i) ++ [0xC10 + k] ++ (List.range 6).map (fun i => 0xC20 + 6 * k + i) ++
      [0xC30]
  | _ => []

/-- Where a flit goes from a node: it is ejected, or takes the next hop of a lane. -/
inductive AmbOut where
  | eject (ep : Nat)
  | lane (l : AmbLane) (pos : Nat)
deriving DecidableEq, Repr

/-- A head flit that may be sent: where it stands, its channel there, where it goes and on which channel, the flit as
it goes on, and its place in the input order (R378). -/
structure AmbCand where
  src : AmbInput
  vc : Nat
  out : AmbOut
  outVc : Nat
  flit : AmbFlit
  order : Nat
deriving DecidableEq, Repr

/-- The channel on a hop of lane `l` out of `pos`, from channel bit `vc` (R373). -/
def hopVc (f : AmbFlit) (l : AmbLane) (pos vc : Nat) : Nat := 2 * f.vnet + if laneDateline l pos then 1 else vc

/-- Free credits on the hop of lane `l` out of `pos`. -/
def hopFree (s : State) (f : AmbFlit) (l : AmbLane) (pos vc : Nat) : Nat :=
  (s.laneIn l (laneNext l pos)).free (hopVc f l pos vc)

/-- A candidate for the hop of lane `l` out of `pos`. -/
def hopCand (src : AmbInput) (srcVc : Nat) (f : AmbFlit) (l : AmbLane) (pos vc order : Nat) : AmbCand :=
  ⟨src, srcVc, .lane l (laneNext l pos), hopVc f l pos vc, f, order⟩

/-- The track with the most free credits on the first hop of a spine, the lowest on a tie (R371). -/
def bestTrack (s : State) (f : AmbFlit) (north up : Bool) (pos : Nat) : AmbLane :=
  (List.range 4).foldl (fun best t =>
    let l := AmbLane.spine north t up
    if hopFree s f best pos 0 < hopFree s f l pos 0 then l else best) (AmbLane.spine north 0 up)

/-- The lane by which a flit enters a spine at stop `i`. -/
def spineEntry (s : State) (f : AmbFlit) (north : Bool) (i : Nat) : AmbLane :=
  bestTrack s f north (goesUp 14 i (nearStop i f.dest).spineStop) (6 * i)

/-- The first nave ring lane of a flit that leaves by a bridge from `pos`. -/
def bridgeLane (d pos : Nat) (north : Bool) : AmbLane := .nave d (goesUp 18 pos (bridgePos north))

/-- The spine a flit takes from a stop: fewer nave ring and spine hops; on a tie the one whose first hop has more free
credits; then the north one (R371). -/
def takesNorth (s : State) (f : AmbFlit) (at_ : AmbStop) : Bool :=
  let dst := nearStop at_.spineStop f.dest
  let n := pathHops true at_ dst
  let m := pathHops false at_ dst
  let first : Bool → Nat := fun north => match at_ with
    | .nave d pos => hopFree s f (bridgeLane d pos north) pos 0
    | .chancel _ => hopFree s f (spineEntry s f north at_.spineStop) (6 * at_.spineStop) 0
  if n ≠ m then decide (n < m) else decide ((first false : Nat) ≤ first true)

/-- The candidate of a flit at an endpoint's injection port (R370-R372). -/
def injectCand (s : State) (ep : Nat) (at_ : AmbStop) (f : AmbFlit) : AmbCand :=
  let src := AmbInput.inject ep
  if (epStops f.dest).contains at_ then ⟨src, 2 * f.vnet, .eject f.dest, 0, f, 2⟩
  else match at_ with
    | .nave d pos =>
      match epStops f.dest with
      | [.nave d' pos'] =>
        if d' = d then hopCand src (2 * f.vnet) f (.nave d (goesUp 18 pos pos')) pos 0 2
        else
          let north := takesNorth s f at_
          hopCand src (2 * f.vnet) { f with via := if north then 1 else 2 } (bridgeLane d pos north) pos 0 2
      | _ =>
        let north := takesNorth s f at_
        hopCand src (2 * f.vnet) { f with via := if north then 1 else 2 } (bridgeLane d pos north) pos 0 2
    | .chancel _ =>
      let i := at_.spineStop
      hopCand src (2 * f.vnet) f (spineEntry s f (takesNorth s f at_) i) (6 * i) 0 1

/-- The candidate of the head of channel `v` at a lane's input (R370-R373). -/
def laneCand (s : State) (l : AmbLane) (pos v : Nat) (f : AmbFlit) : AmbCand :=
  let src := AmbInput.lane l pos
  let onward := hopCand src v f l pos (v % 2) 0
  let eject := AmbCand.mk src v (.eject f.dest) 0 f 0
  match nodeOf l pos, l with
  | .bay d p, _ => if f.via = 0 ∧ (epStops f.dest).contains (.nave d p) then eject else onward
  | .bridge north d, .nave _ _ =>
    if f.via = (if north then 1 else 2) then
      let i := stopOfNave d
      let lane := spineEntry s f north i
      hopCand src v { f with via := 0 } lane (6 * i) 0 1
    else onward
  | .bridge north d, .spine _ _ _ =>
    match epStops f.dest with
    | [.nave d' pos'] =>
      if d' = d then hopCand src v f (.nave d (goesUp 18 (bridgePos north) pos')) (bridgePos north) 0 1 else onward
    | _ => onward
  | .chancel south, _ => if (epStops f.dest).contains (.chancel south) then eject else onward
  | .relay _ _, _ => onward

/-- The stop at which an endpoint injects a flit: the sacristy at the one nearer to the target (R367). -/
def injectStop (ep : Nat) (f : AmbFlit) : AmbStop :=
  match epStops ep with
  | a :: b :: _ =>
    let dst := nearStop a.spineStop f.dest
    let hops := fun (x : AmbStop) => min (pathHops true x dst) (pathHops false x dst)
    if hops b < hops a then b else a
  | a :: _ => a
  | [] => .chancel false

/-- A target takes a flit from its ejection port: a REQ while its queue has room (R375); every RSP and EVT. -/
def endTakes (s : State) (f : AmbFlit) : Bool := decide (f.vnet ≠ 0) || decide ((s.endq f.dest).reqs.length < 16)

/-- A candidate holds the credit it needs (R374, R375). -/
def AmbCand.credit (s : State) (c : AmbCand) : Bool :=
  match c.out with
  | .eject _ => endTakes s c.flit
  | .lane l pos => decide (0 < (s.laneIn l pos).free c.outVc)

/-- The head flits of a node's injection ports, one to each network. -/
def injectHeads (s : State) (n : AmbNode) (ep : Nat) : List AmbCand :=
  [0, 1, 2].filterMap fun v => match (s.endq ep).inject.find? fun f => decide (f.vnet = v) with
    | some f =>
      let at_ := injectStop ep f
      if at_.node = n then some (injectCand s ep at_ f) else none
    | none => none

/-- Every head flit of a node that holds a credit. -/
def AmbNode.cands (s : State) (n : AmbNode) : List AmbCand :=
  let lanes := n.lanes.flatMap fun e => (List.range 6).filterMap fun v =>
    ((s.laneIn e.1 e.2).vc v).head?.map fun f => laneCand s e.1 e.2 v f
  (lanes ++ n.ends.flatMap (injectHeads s n)).filter (·.credit s)

/-- Effective priority of a flit (R377): eight HCLK cycles to a TSCLK cycle. -/
def effPrio (s : State) (f : AmbFlit) : Nat := min 3 (f.prio + 8 * (s.ts - f.arrived) / 4096)

/-- The order RSP, EVT, REQ (R378). -/
def vnetOrder (v : Nat) : Nat := if v = 1 then 0 else if v = 2 then 1 else 2

/-- `a` goes before `b` at an output (R378). -/
def ambBefore (s : State) (a b : AmbCand) : Bool :=
  let p := effPrio s a.flit
  let q := effPrio s b.flit
  if p ≠ q then decide (q < p)
  else if a.flit.arrived ≠ b.flit.arrived then decide (a.flit.arrived < b.flit.arrived)
  else if a.flit.vnet ≠ b.flit.vnet then decide (vnetOrder a.flit.vnet < vnetOrder b.flit.vnet)
  else decide (a.order < b.order)

/-- The flit an output sends. -/
def ambBest (s : State) : List AmbCand → Option AmbCand
  | [] => none
  | c :: cs => match ambBest s cs with
    | some d => if ambBefore s d c then some d else some c
    | none => some c

/-- A flit leaves the input that holds it. -/
def ambTake (s : State) (c : AmbCand) : State :=
  match c.src with
  | .lane l pos => s.modLane l pos (·.modVc c.vc (·.drop 1))
  | .inject ep => s.modEnd ep fun q =>
    let n := (q.inject.takeWhile fun f => decide (f.vnet ≠ c.flit.vnet)).length
    { q with inject := q.inject.eraseIdx n }

/-- A flit is ejected to its endpoint; an EVT flit is consumed (R375). -/
def ambEject (s : State) (ep : Nat) (f : AmbFlit) : State :=
  match f.vnet with
  | 0 => s.modEnd ep fun q => { q with reqs := q.reqs ++ [f] }
  | 1 => s.modEnd ep fun q => { q with rsps := q.rsps ++ [f] }
  | _ => s

/-- An output sends the flit it has chosen. -/
def ambSend (s : State) (c : AmbCand) : State :=
  let s := ambTake s c
  match c.out with
  | .eject ep => ambEject s ep c.flit
  | .lane l pos => s.modLane l pos fun i => { i with link := i.link ++ [(c.outVc, c.flit)] }

/-- One HCLK cycle of a node: every output sends one flit (R378). -/
def AmbNode.cycle (s : State) (n : AmbNode) : State :=
  let cs := n.cands s
  let outs := (cs.map (·.out)).eraseDups
  (outs.filterMap fun o => ambBest s (cs.filter fun c => decide (c.out = o))).foldl ambSend s

/-! ### AMB_FLIT_ARRIVAL -/

/-- A flit as an input reads it: as it was sent, or with other header bytes; none where it is discarded (R369). -/
def readFlit (s : State) (f : AmbFlit) : Option (List Byte) → Option AmbFlit × State
  | none => (some f, s)
  | some h => match flitOf h f with
    | none => (none, s)
    | some f' =>
      if f'.op.hasData && f.data.isEmpty then
        let r := s.freeBytes 64
        (some { f' with data := r.1 }, r.2)
      else (some (if f'.op.hasData then f' else { f' with data := [] }), s)

/-- LOC of an input in the fault log: the bay of a bay's stop, else the package (Table 17-7). -/
def nodeLoc : AmbNode → Nat
  | .bay d pos => match bayAtPos d pos with
    | some b => locBay b
    | none => locPackage
  | _ => locPackage

/-- AMB_MALFORMED (R369), with the SRC and DEST as read. -/
def ambMalformed (s : State) (n : AmbNode) (h : List Byte) : State :=
  logC s 0 0x0130 (nodeLoc n) 255 (ambDetail
    { src := fieldN h 2 2 % 4096, dest := fieldN h 4 2 % 4096, win := fieldN h 13 1 % 128, addr := fieldN h 8 5 } 0)

/-- The flit at the head of an input's link enters its channel. -/
def laneArrive (s : State) (l : AmbLane) (pos : Nat) (corrupt : Option (List Byte)) : State :=
  match (s.laneIn l pos).link with
  | [] => s
  | (v, f) :: rest =>
    let s := s.modLane l pos fun i => { i with link := rest }
    let r := readFlit s f corrupt
    match r.1 with
    | some f' => r.2.modLane l pos (·.modVc v (· ++ [{ f' with arrived := s.ts }]))
    | none => ambMalformed r.2 (nodeOf l pos) (corrupt.getD [])

/-- The oldest flit at an endpoint's injection port as its stop reads it. -/
def injectArrive (s : State) (ep : Nat) (corrupt : Option (List Byte)) : State :=
  match (s.endq ep).inject with
  | [] => s
  | f :: rest =>
    let r := readFlit s f corrupt
    match r.1 with
    | some f' => r.2.modEnd ep fun q => { q with inject := f' :: rest }
    | none => ambMalformed (r.2.modEnd ep fun q => { q with inject := rest }) (injectStop ep f).node (corrupt.getD [])

/-- The header a corrupted flit is read with is 16 bytes. -/
def headerForm (corrupt : Option (List Byte)) : Bool :=
  match corrupt with
  | some h => decide (h.length = 16)
  | none => true

/-- AMB_FLIT_ARRIVAL (R369-R378): the flit on the link into an input arrives, and its node's outputs send for one
HCLK cycle; at an injection port, the stop of the endpoint does. -/
def execAmbFlitArrival (at_ : AmbInput) (corrupt : Option (List Byte)) (s : State) : Res :=
  match at_ with
  | .lane l pos =>
    let i := s.laneIn l pos
    possible (s.mainOn && laneValid l && decide (pos < laneSize l) && headerForm corrupt &&
        !(i.link.isEmpty && i.vcs.isEmpty)) s fun s =>
      (nodeOf l pos).cycle (laneArrive s l pos corrupt)
  | .inject ep =>
    match (s.endq ep).inject with
    | [] => .next s
    | f :: _ => possible (s.mainOn && ambEndpoint ep && headerForm corrupt) s fun s =>
      (injectStop ep f).node.cycle (injectArrive s ep corrupt)

/-! ### Answers (R368, R376, R385) -/

/-- The response to a request, from the endpoint that answers it. -/
def respFlit (f : AmbFlit) (op : AmbOp) (status : Nat) (data : List Byte) : AmbFlit :=
  { f with
    vnet := 1, op := op, src := f.dest, dest := f.src, aop := 0, status := status, synth := false, poison := false,
    data := data, via := 0 }

/-- The operation that answers a request (Table 13-6). -/
def answerOp (f : AmbFlit) : AmbOp := if f.op = .write then .done else .data

/-- A target answers a request. -/
def respond (s : State) (f : AmbFlit) (status : Nat) (data : List Byte) : State :=
  inject s f.dest (respFlit f (answerOp f) status (if f.op = .write then [] else padTo 64 data))

/-- A target answers a request with an error; the data bytes of the answer are not stated. -/
def respondErr (s : State) (f : AmbFlit) (status : Nat) (poison : Bool) : State :=
  let r := s.freeBytes (if f.op = .write then 0 else 64)
  inject r.2 f.dest { respFlit f (answerOp f) status r.1 with poison := poison }

/-- LOC of an endpoint. -/
def epLoc (e : Nat) : Nat :=
  if e < 0xC00 then locCell e
  else if e < 0xC08 then locHbm (e - 0xC00)
  else if e < 0xC12 then locHost (portOf (e - 0xC10))
  else if e < 0xC2C then locPort (e - 0xC20)
  else locSacristy

/-- A target refuses a request (R385): STATUS TAG_REFUSED, AMB_REFUSED, and class K AMB_TAG for a chapel. -/
def refuseReq (s : State) (f : AmbFlit) : State :=
  let loc := epLoc f.dest
  let s := logC (respondErr s f 0x30 false) 0 0x0133 loc f.chapel (ambDetail f 0x30)
  if f.chapel < 192 then faultK s f.chapel 0x0134 loc (ambDetail f 0x30) true false else s

end Sys2Proof.Machine
end

