-- ==== Sys2Proof/Machine/Power.lean ====
section
/-! DEFINITION. The commands of clocks, rails, power states, limiter and heat (chapter 02) that no Febupor entry
carries. -/

namespace Sys2Proof.Machine

/-- The cloister alone reports CLK_LOSS and RAIL_LOSS, and main reset is held until PWRGD_MAIN falls (R585). -/
def mainLoss (s : State) (cause : Nat) : State :=
  let s := cloisterCapsule (latchP s cause) cause
  let s := unrequestedCrypt s
  { s with pw := { s.pw with lossHeld := true } }

/-- CLK_LOSS (R31, R585): while the main domains are powered. -/
def execClkLoss (s : State) : Res :=
  possible (decide (s.pw.phase ≠ .held)) s fun s => mainLoss s 0x0100

/-- RAIL_LOSS (R59, R585): PWRGD_MAIN is high and the power switches are closed. -/
def execRailLoss (s : State) : Res :=
  possible (s.pw.mainPg && decide (s.pw.phase ≠ .held)) s fun s => mainLoss s 0x0101

/-- PWRGD_MAIN_FALL (R40): main reset at once; in a CRYPT already reached nothing more is lost. A wake recorded while
entering CRYPT is held (R49). -/
def execPwrgdMainFall (s : State) : Res :=
  possible s.pw.mainPg s fun s =>
    let inCrypt := decide (s.pw.state = .crypt ∧ s.pw.phase = .held)
    let entering := s.pw.entering
    let kept := s.pw.wakes
    let s := { s with pw := { s.pw with mainPg := false, lossHeld := false } }
    if inCrypt || !s.pw.porDone then s
    else
      let s := unrequestedCrypt s
      if entering && !kept.isEmpty then wakeBringUp { s with pw := { s.pw with wakes := kept } } else s

/-- PWRGD_MAIN_RISE (R587, R577). -/
def execPwrgdMainRise (s : State) : Res :=
  possible (!s.pw.mainPg) s fun s =>
    let s := { s with pw := { s.pw with mainPg := true } }
    if s.pw.porDone ∧ s.pw.state = .crypt ∧ s.pw.phase = .held ∧ (s.pw.requested = false ∨ s.pw.wakeHeld) then
      startBringUp s
    else s

/-- MAIN_DOMAINS_STABLE (R42, cycle 10,000): the main PLL is released. -/
def execMainDomainsStable (s : State) : Res :=
  possible (decide (s.pw.phase = .switches)) s fun s => { s with pw := { s.pw with phase := .pllReleased } }

/-- PLL_LOCK (R30, R32, R42, cycle 12,000): the clocks start together and TSTAMP advances by the time the PLL
stood. -/
def execPllLock (s : State) : Res :=
  possible (decide (s.pw.phase = .pllReleased)) s fun s =>
    { s with pw := { s.pw with phase := .locked, pll := true, k := 0,
                               tstamp := s.pw.tstamp + BitVec.ofNat 64 (s.pw.k * 2500 / 678) } }

/-- CHANCEL_RESET_RELEASE (R42, cycle 12,100): main power-on has cleared the fault log, FAULT_STATUS and the screen
(R39, R140, R474, R475). -/
def execChancelResetRelease (s : State) : Res :=
  possible (decide (s.pw.phase = .locked)) s fun s =>
    newEpoch { s with pw := { s.pw with phase := .chancels }, flt := {} }

/-- CRYPT_REACHED (R45, R49): the last main domain is off; a wake that arrived meanwhile starts bring-up. -/
def execCryptReached (s : State) : Res :=
  possible (s.pw.entering && s.amb.bays.all (fun e => decide (e.2.st = .off))) s fun s =>
    let s := mainReset s s.pw.hbmKeep
    let s := { s with pw := { s.pw with requested := true } }
    if s.pw.wakes.isEmpty then s
    else wakeBringUp (s.when (s.pw.wakes.any fun w => wakeDevice w.source) assertWakePins)

/-- The state of a port whose lanes carry frames: OWNER_MISMATCH while both sides announce different owners (R446). -/
def TPort.upState (l : TPort) : Nat :=
  if l.owner ≠ 255 ∧ l.peerOwner ≠ 255 ∧ l.owner ≠ l.peerOwner then 4 else 2

/-- TRANSEPT_HELD_RETRAIN_DONE (R47): a port that was held in IDLE carries frames again. -/
def execTranseptHeldRetrainDone (port : Nat) (s : State) : Res :=
  possible (decide (port < 12) && (s.link port).heldState && decide ((s.link port).state = 1)) s fun s =>
    let s := s.modLink port fun l => { l with heldState := false }
    setLinkState s port (s.link port).upState

/-- The limiter's target: 300 W in a shed (R53), 80 % of the limit while a chancel sensor throttles (R61), in tenths
of a watt. -/
def State.limitTenths (s : State) : Nat :=
  if s.heat.shed ≠ .none then 3000
  else if (List.range 8).any fun i => decide (2 ≤ (s.sensor (192 + i)).state) then 8 * s.pw.limitW
  else 10 * s.pw.limitW

/-- The issue rate after a sample: one step of 1/16 down above the limit, up below 97 % of it (R51). -/
def limiterStep (rate sum count tenths : Nat) : Nat :=
  if sum * 10 > tenths * count then max 1 (rate - 1)
  else if sum * 1000 < 97 * tenths * count then min 16 (rate + 1)
  else rate

/-- LIMITER_SAMPLE (R51): the average over the last ten samples steps the issue rate; a shed forces 1/16 (R53). -/
def execLimiterSample (watts : Nat) (s : State) : Res :=
  possible (s.mainOn && decide (s.pw.state = .active)) s fun s =>
    let w := (watts :: s.heat.watts).take 10
    let rate := if s.heat.shed ≠ .none then 1 else limiterStep s.heat.rate w.sum w.length s.limitTenths
    { s with heat := { s.heat with watts := w, rate := rate } }

/-- SENSOR_SAMPLE (R586): the temperature rounded to the nearest quarter degree, halves up, joins the run of R62. -/
def execSensorSample (sensor : Nat) (milliC : Int) (s : State) : Res :=
  possible (s.mainOn && decide (sensor < 200)) s fun s =>
    s.modSensor sensor fun x => { x with samples := ((milliC + 125) / 250 :: x.samples).take 20 }

/-- Entry thresholds in quarter degrees, by state (Tables 02-7, 15-3). -/
structure ThermalTable where
  enter1 : Int
  enter2 : Int
  enter3 : Int
  leave1 : Int
  leave2 : Int

/-- Table 02-7. -/
def junctionTable : ThermalTable := ⟨380, 420, 460, 368, 408⟩

/-- Table 15-3. -/
def stackTable : ThermalTable := ⟨340, 380, 420, 328, 368⟩

/-- The highest state whose entry threshold every sample meets. -/
def ThermalTable.highest (t : ThermalTable) (xs : List Int) : Nat :=
  if xs.all fun x => decide (t.enter3 ≤ x) then 3
  else if xs.all fun x => decide (t.enter2 ≤ x) then 2
  else if xs.all fun x => decide (t.enter1 ≤ x) then 1
  else 0

/-- The leaving value of state 1 or 2. -/
def ThermalTable.leave (t : ThermalTable) (st : Nat) : Int := if st = 1 then t.leave1 else t.leave2

/-- The state 20 consecutive samples put a sensor in (R62); TRIP latches. -/
def ThermalTable.next (t : ThermalTable) (st : Nat) (xs : List Int) : Nat :=
  let h := t.highest xs
  if xs.length < 20 ∨ st = 3 then st
  else if st < h then h
  else if st ≠ 0 ∧ xs.all (fun x => decide (x ≤ t.leave st)) then h
  else st

/-- A sensor takes state `n`; its run of samples starts anew. -/
def Sensor.move (x : Sensor) (n : Nat) : Sensor := { x with state := n, samples := [], moved := true }

/-- THERMTRIP_N goes low (R61, R65). -/
def thermtripLow (s : State) : State :=
  { s with pw := { s.pw with thermtrip := true },
           clo := { s.clo with alertCause := s.clo.alertCause ||| 32#32 } }

/-- A bay enters TRIP (R61, R64): its chapel raises class K THERM_TRIP, and the bay is drained, fenced and powered
off. A bay of no chapel is logged alone. -/
def bayTrip (s : State) (b : Nat) : State :=
  let s := match s.chapelOfBay b with
    | some c =>
      let formed := decide ((s.chapel c).state = .formed)
      (faultK s c 0x0102 (locSensor b) [] true false).modChapel c fun h => { h with tripped := h.tripped || formed }
    | none => logEntry s ⟨s.pw.tstamp, 1, 255, 0x0102, locSensor b, 0, zeros 16⟩
  wantOff s [b]

/-- THERMAL_STATE_CHANGE (R61, R62). -/
def execThermalStateChange (sensor : Nat) (s : State) : Res :=
  let x := s.sensor sensor
  let n := junctionTable.next x.state x.samples
  possible (s.mainOn && decide (sensor < 200 ∧ n ≠ x.state)) s fun s =>
    let s := s.modSensor sensor fun x => x.move n
    if n = 3 then
      if sensor < 192 then bayTrip s sensor else thermtripLow (faultP s 0x0102 (locSensor sensor) [])
    else s

/-- THERMTRIP_COMPARATOR (R65): independent of clocks and logic. -/
def execThermtripComparator (sensor : Nat) (s : State) : Res :=
  possible (s.pw.aonPg && decide (sensor < 200)) s thermtripLow

/-- The sensors that changed state since the last THERMAL event, in ascending index. -/
def State.movedSensors (s : State) : List Nat := (List.range 208).filter fun i => (s.sensor i).moved

/-- THERMAL_EVENT_POST (R67): at most once per 10 ms; more than seven changes are all logged. -/
def execThermalEventPost (s : State) : Res :=
  let due := match s.heat.lastEvent with
    | some t => decide (1000000 ≤ s.ts - t.toNat)
    | none => true
  possible (s.mainOn && due && !s.movedSensors.isEmpty) s fun s =>
    let xs := s.movedSensors
    let s := post s 0x0004 255 (BitVec.ofNat 8 xs.length ::
      (xs.take 7).flatMap fun i => [BitVec.ofNat 8 i, BitVec.ofNat 8 (s.sensor i).state])
    let s := if 7 < xs.length then xs.foldl (fun s i => logC s 0 0x0107 (locSensor i) 255
        [BitVec.ofNat 8 (s.sensor i).state, BitVec.ofNat 8 (s.sensor i).reported]) s
      else s
    let s := xs.foldl (fun s i => s.modSensor i fun x => { x with moved := false, reported := x.state }) s
    { s with heat := { s.heat with lastEvent := some s.pw.tstamp } }

/-- PERST_RELEASE (R68, R69): a host resume, and a wake source. -/
def execPerstRelease (p : HPort) (s : State) : Res :=
  match p with
  | .h0 => possible (!s.pw.perst0) s fun s => wakeSource { s with pw := { s.pw with perst0 := true } } 1
  | .h1 => possible (!s.pw.perst1) s fun s => wakeSource { s with pw := { s.pw with perst1 := true } } 2

/-- HOST_L1_EXIT (R486, R587): a host brings its link out of L1, in CRYPT too. -/
def execHostL1Exit (p : HPort) (s : State) : Res :=
  possible (decide ((s.hp p).link = .l1 ∨ s.pw.state = .crypt)) s fun s =>
    wakeSource (s.modHp p fun h => if h.link = .l1 then { h with link := .l0 } else h) (3 + portIx p)

/-- RAIL_LEAVES_TOLERANCE_IN_CRYPT (R59): nothing is recorded; groups 2 and 3 lose kept HBM contents. -/
def execRailLeavesToleranceInCrypt (group : Nat) (s : State) : Res :=
  possible (decide (s.pw.state = .crypt ∧ s.pw.phase = .held)) s fun s =>
    if s.pw.requested && s.pw.hbmKeep && decide (group = 2 ∨ group = 3) then
      { s with pw := { s.pw with hbmLost := true }, hbm := {} }
    else s

end Sys2Proof.Machine
end

