-- ==== Sys2Proof/Machine/Hbm.lean ====
section
/-! DEFINITION. The HBM controllers (chapter 15) and lectern coalescing (R252-R260): accesses in arrival order, ECC
outcomes, poison, repair candidates, the scrub and the stacks' temperature. -/

namespace Sys2Proof.Machine

/-! ### Sectors -/

/-- The 64-byte sector of a package HBM address. -/
def sectorOf (a : Nat) : Nat := a / 64 * 64

/-- The row of a package HBM address, told apart by its stack (R417). -/
def rowKey (a : Nat) : Nat := 8 * Config.hbmRow a + hbmStack a

/-- The sector has been written since main power-on, or soft repair has filled its row with zeros (R408, R418). -/
def Hbm.known (h : Hbm) (a : Nat) : Bool := (h.mem.read? a).isSome || h.zeroRows.contains (rowKey a)

/-- The 64 bytes of a sector that is known. -/
def Hbm.sector (h : Hbm) (a : Nat) : List Byte := (List.range 64).map fun i => (h.mem.read? (a + i)).getD 0#8

/-- The sector carries the POISON mark (R410). -/
def Hbm.marked (h : Hbm) (a : Nat) : Bool := h.poison.contains a

/-- A sector written whole: its POISON mark is cleared (R412). -/
def Hbm.writeSector (h : Hbm) (a : Nat) (bs : List Byte) : Hbm :=
  { h with mem := WrittenMemory.writeBytes h.mem a bs, poison := setErase a h.poison }

/-- A sector's POISON mark is written, with its data bits zero (R414). -/
def Hbm.markSector (h : Hbm) (a : Nat) : Hbm :=
  { h with mem := WrittenMemory.writeBytes h.mem a (zeros 64), poison := setInsert a h.poison }

/-- What a read of a sector finds: its bytes, or none where it is poisoned. A sector not written since power-on returns
arbitrary data or POISON (R408). -/
def readSector (s : State) (a : Nat) : Option (List Byte) × State :=
  if s.hbm.marked a then (none, s)
  else if s.hbm.known a then (some (s.hbm.sector a), s)
  else
    let r := s.freeNat
    if r.1 % 2 = 0 then (none, r.2)
    else
      let b := r.2.freeBytes 64
      (some b.1, b.2)

/-! ### Outcomes (R411) and repair candidates (R417) -/

/-- DETAIL of an HBM fault (Table 17-8). -/
def hbmDetail (a : Nat) : List Byte := le 8 a ++ [BitVec.ofNat 8 (bitsN a 10 6)]

/-- Row `row` of stack `m` is a repair candidate: it joins the 64 pending rows, or HBM_REPAIR_FULL is logged. -/
def addCandidate (s : State) (m a : Nat) : State :=
  let row := Config.hbmRow a
  let rows := tget [] s.flash.rowsPending m
  if rows.contains row then s
  else if 64 ≤ rows.length then logC s 0 0x0143 (locHbm m) 255 (hbmDetail a)
  else { s with flash := { s.flash with rowsPending := tput [] s.flash.rowsPending m (rows ++ [row]) } }

/-- A sector of a row has been corrected: the fourth makes the row a candidate. -/
def noteCorrected (s : State) (m a : Nat) : State :=
  let row := Config.hbmRow a
  let n := tget 0 (s.stack m).corrected row + 1
  let s := s.modStack m fun x => { x with corrected := tput 0 x.corrected row n }
  if n = 4 then addCandidate s m a else s

/-- The counts and log entries of a stack read of address `a` (Table 15-2); `marked`: a POISON mark was already set. -/
def noteRead (s : State) (m a : Nat) (onDie : OnDie) (dec : EccDecode) (marked : Bool) : State :=
  let bad := decide (dec = .uncorrectable) || marked
  let s := s.when (bad) fun s =>
    let s := s.when (!marked) fun s => addCandidate (s.modStack m fun x => { x with ue := (x.ue + 1) % 2 ^ 64 }) m a
    logC s oneMs 0x0142 (locHbm m) 255 (hbmDetail a)
  let s := s.when (decide (dec = .singleBit) && !bad) fun s =>
    logC (noteCorrected (s.modStack m fun x => { x with ce := (x.ce + 1) % 2 ^ 64 }) m a) oneMs 0x0140 (locHbm m) 255
      (hbmDetail a)
  if dec = .clean ∧ marked = false ∧ onDie ≠ .clean then
    let s := s.modStack m fun x => { x with odeCorr := satInc 0xFFFFFFFF x.odeCorr }
    if onDie = .uncorrected then logC (addCandidate s m a) 0 0x0141 (locHbm m) 255 (hbmDetail a) else s
  else s

/-- A stack read of one sector: its bytes, or none where they are poisoned. -/
def stackRead (s : State) (m a : Nat) (onDie : OnDie) (dec : EccDecode) : Option (List Byte) × State :=
  let marked := s.hbm.marked a
  let r := readSector s a
  let s := noteRead r.2 m a onDie dec marked
  (if dec = .uncorrectable then none else r.1, s)

/-! ### Requests at a controller -/

/-- The controller performs no stack access: its stack is in TRIP or failed training (R594). -/
def State.hbmDead (s : State) (m : Nat) : Bool :=
  decide ((s.sensor (200 + m)).state = 3 ∨ (s.stack m).train = 3)

/-- The answer of a controller that performs nothing (R594). -/
def respondDown (s : State) (f : AmbFlit) : State := respond s f 0x07 []

/-- Bytes a request covers within its sector, as the offset in it and the count. -/
def reqBytes (f : AmbFlit) : Nat × Nat := (f.addr % 64, sizeBytes f.size)

/-- A request served from the bytes of its sector, none where they are poisoned (R409, R411, R412). -/
def serveSector (s : State) (f : AmbFlit) (bytes : Option (List Byte)) : State :=
  let a := sectorOf f.addr
  let o := (reqBytes f).1
  let n := (reqBytes f).2
  match bytes with
  | none => respondErr s f 0x22 true
  | some bs => match f.op with
    | .write =>
      respond { s with hbm := s.hbm.writeSector a (patch bs o (sliceB f.data o n)) } f 0 []
    | .atomic =>
      let old := leNat (sliceB bs o n)
      let new := atomicNew f.aop n old (fieldN f.data 0 8) (fieldN f.data 8 8)
      respond { s with hbm := s.hbm.writeSector a (patch bs o (le n new)) } f 0 (le n old)
    | _ => respond s f 0 (sliceB bs o n)

/-- A request is performed at the stack (R409). -/
def performReq (s : State) (m : Nat) (f : AmbFlit) (onDie : OnDie) (dec : EccDecode) : State :=
  if f.op = .write ∧ f.size = 4 then
    respond { s with hbm := s.hbm.writeSector (sectorOf f.addr) (padTo 64 f.data) } f 0 []
  else
    let r := stackRead s m (sectorOf f.addr) onDie dec
    serveSector r.2 f r.1

/-! ### Coalescing (R254-R258) -/

/-- An entry of the block is open at this moment (R255): 3,200 HCLK cycles are 400 TSCLK cycles. -/
def Coalesce.takes (s : State) (b : Nat) (e : Coalesce) : Bool :=
  decide (e.block = b) && !e.shut && decide (s.ts - e.opened.toNat < 400)

/-- A joined request answered from its entry's data, or poisoned; the counters of R260. -/
def serveJoined (m : Nat) (data : Option (List Byte)) (s : State) (j : Joined) : State :=
  let f := j.req
  let s := s.modStack m fun x => { x with
    reqServed := (x.reqServed + 1) % 2 ^ 64, reqCoalesced := (x.reqCoalesced + if j.first then 0 else 1) % 2 ^ 64 }
  match data with
  | some bs => respond s f 0 (sliceB bs (f.addr % 2048) (sizeBytes f.size))
  | none => respondErr s f 0x22 true

/-- A qualifying read joins the open entry of its block, or opens one and starts its stack read (R255, R257). -/
def coalesce (s : State) (m : Nat) (f : AmbFlit) : State :=
  let b := f.addr / 2048
  match (s.stack m).entries.find? (·.takes s b) with
  | some e => match e.data with
    | some bs => serveJoined m (some bs) s ⟨f, false⟩
    | none => s.modStack m fun x => { x with
        entries := x.entries.map fun y =>
          if y.block = b ∧ y.opened = e.opened then { y with waiting := y.waiting ++ [⟨f, false⟩] } else y }
  | none => s.modStack m fun x => { x with
      entries := x.entries.map (fun y => if y.block = b then { y with shut := true } else y) ++
        [{ block := b, opened := s.pw.tstamp, waiting := [⟨f, true⟩] }]
      queue := x.queue ++ [.block b s.pw.tstamp]
      blockReads := (x.blockReads + 1) % 2 ^ 64 }

/-- An entry that serves nobody any more is gone. -/
def Coalesce.spent (e : Coalesce) : Bool := e.shut && e.data.isSome

/-- Spent entries leave the controller. -/
def Stack.prune (x : Stack) : Stack := { x with entries := x.entries.filter fun e => !e.spent }

/-- The 2,048 bytes of a block, none where a sector of it is poisoned (R253, R258). -/
def readBlock (b : Nat) : Nat → State → Option (List Byte) × State
  | 0, s => (some [], s)
  | n + 1, s =>
    let r := readBlock b n s
    let q := readSector r.2 (2048 * b + 64 * n)
    (match r.1, q.1 with
      | some xs, some ys => some (xs ++ ys)
      | _, _ => none, q.2)

/-- The stack read of an entry completes: every request of the entry is served from one decode (R258, R422). -/
def performBlock (s : State) (m b : Nat) (opened : BitVec 64) (onDie : OnDie) (dec : EccDecode) : State :=
  let marked := (List.range 32).any fun i => s.hbm.marked (2048 * b + 64 * i)
  let r := readBlock b 32 s
  let s := noteRead r.2 m (2048 * b) onDie dec marked
  let data := if dec = .uncorrectable then none else r.1
  let mine := fun (e : Coalesce) => decide (e.block = b ∧ e.opened = opened)
  let waiting := ((s.stack m).entries.filter mine).flatMap (·.waiting)
  let s := waiting.foldl (serveJoined m data) s
  s.modStack m fun x =>
    let x := { x with
      blockErrors := (x.blockErrors + if data.isSome then 0 else 1) % 2 ^ 64
      entries := match data with
        | some bs => x.entries.map fun e => if mine e then { e with data := some bs, waiting := [] } else e
        | none => x.entries.filter fun e => !mine e }
    x.prune

/-- A request that has passed R385 enters the controller. -/
def hbmAccept (s : State) (m : Nat) (f : AmbFlit) : State :=
  if s.hbmDead m then respondDown s f
  else if 64 ≤ f.win ∧ f.win < 72 then coalesce s m f
  else s.modStack m fun x => { x with queue := x.queue ++ [.req f] }

/-- Every entry of a lectern's range takes no more requests (R259); what waits is still served. -/
def closeEntries (s : State) (base size : Nat) : State :=
  let shutIn := fun (e : Coalesce) =>
    if base ≤ 2048 * e.block ∧ 2048 * e.block < base + size then { e with shut := true } else e
  (List.range 8).foldl (fun s m => s.modStack m fun x => Stack.prune { x with entries := x.entries.map shutIn }) s

/-- A controller that has lost its stack answers everything it holds, in arrival order (R594). -/
def hbmFail (s : State) (m : Nat) : State :=
  let x := s.stack m
  let held := x.queue.flatMap fun q => match q with
    | .req f => [f]
    | .block b o => (x.entries.filter fun e => decide (e.block = b ∧ e.opened = o)).flatMap
        fun e => e.waiting.map (·.req)
  held.foldl respondDown (s.modStack m fun x => { x with queue := [], entries := [] })

/-! ### The commands -/

/-- HBM_ACCESS_DONE (R409-R412, R258): the oldest access of the controller completes. -/
def execHbmAccessDone (m : Nat) (onDie : OnDie) (dec : EccDecode) (s : State) : Res :=
  match (s.stack m).queue with
  | [] => .next s
  | q :: rest => possible (decide (m < 8) && s.mainOn && !s.hbmDead m) s fun s =>
    let s := s.modStack m fun x => { x with queue := rest }
    match q with
    | .req f => performReq s m f onDie dec
    | .block b o => performBlock s m b o onDie dec

/-- Sectors of a stack (R406). -/
def stackSectors : Nat := 18874368 * 32

/-- The package HBM address of sector `k` of stack `m` (R406, R407). -/
def scrubAddr (m k : Nat) : Nat :=
  let l := k / 32
  let x := m ^^^ bitsN l 2 0 ^^^ bitsN l 9 7
  (8 * l + x) * 2048 + 64 * (k % 32)

/-- The address lies in a defined lectern. -/
def State.inLectern (s : State) (a : Nat) : Bool :=
  s.feb.lecterns.any fun e => e.2.defined && decide (e.2.base ≤ a ∧ a < e.2.base + e.2.size)

/-- HBM_SCRUB (R414): the next sector is read; one found uncorrectable gets its POISON mark, unless it lies in a
lectern. A corrected sector is rewritten with the data it holds. -/
def execHbmScrub (m : Nat) (onDie : OnDie) (dec : EccDecode) (s : State) : Res :=
  possible (decide (m < 8) && decide (6 ≤ s.pw.phase.rank) && s.awake && !s.hbmDead m) s fun s =>
    let k := (s.stack m).scrub
    let a := scrubAddr m k
    let s := noteRead s m a onDie dec (s.hbm.marked a)
    let s := s.modStack m fun x => { x with scrub := (k + 1) % stackSectors }
    if dec = .uncorrectable ∧ s.inLectern a = false then { s with hbm := s.hbm.markSector a } else s

/-- STACK_TEMP_SAMPLE (R416): not in self-refresh. -/
def execStackTempSample (m : Nat) (milliC : Int) (s : State) : Res :=
  possible (decide (m < 8) && s.mainOn && s.awake) s fun s =>
    let q := (milliC + 125) / 250
    (s.modSensor (200 + m) fun x => { x with samples := (q :: x.samples).take 20 }).modStack m
      fun x => { x with temp := (q / 4).toNat % 256 }

/-- STACK_THERMAL_CHANGE (R416, R594): in TRIP the package raises HBM_TRIP and the controller answers what it holds. -/
def execStackThermalChange (m : Nat) (s : State) : Res :=
  let x := s.sensor (200 + m)
  let n := stackTable.next x.state x.samples
  possible (decide (m < 8) && s.mainOn && decide (n ≠ x.state)) s fun s =>
    let s := s.modSensor (200 + m) fun x => x.move n
    if n = 3 then hbmFail (faultP s 0x0145 (locSensor (200 + m)) []) m else s

/-- COALESCE_ENTRY_EXPIRY (R255): the window of the block's entry ends. -/
def execCoalesceEntryExpiry (m block : Nat) (s : State) : Res :=
  let mine := fun (e : Coalesce) => decide (e.block = block) && !e.shut
  possible (decide (m < 8) && (s.stack m).entries.any mine) s fun s =>
    let shut := fun (e : Coalesce) => if mine e then { e with shut := true } else e
    s.modStack m fun x => Stack.prune { x with entries := x.entries.map shut }

end Sys2Proof.Machine
end

