-- ==== Sys2Proof/Machine/TranseptCore.lean ====
section
/-! DEFINITION. Transept ports (chapter 16): the classes and their credits, control operations, forward records and relays,
the end of a link, restripes, and a peer's departure (R463-R466). -/

namespace Sys2Proof.Machine

/-! ### Classes (Tables 16-3, 16-4) -/

/-- The class streams of a port by their code: 1 A, 2 C, 3 Q, 4 S, 5 E. -/
def TPort.stream (l : TPort) : Nat → Stream
  | 1 => l.a
  | 2 => l.c
  | 3 => l.q
  | 4 => l.s
  | _ => l.e

/-- The port with a class's stream changed. -/
def TPort.modStream (l : TPort) (k : Nat) (f : Stream → Stream) : TPort :=
  match k with
  | 1 => { l with a := f l.a }
  | 2 => { l with c := f l.c }
  | 3 => { l with q := f l.q }
  | 4 => { l with s := f l.s }
  | _ => { l with e := f l.e }

/-- Credits of a class's pool. -/
def pool : Nat → Nat
  | 1 => 128
  | 2 => 64
  | 5 => 32
  | _ => 128

/-- Credits a unit of `n` bytes takes. -/
def unitCredits (k n : Nat) : Nat := if k = 1 then (n + 255) / 256 else 1

/-- Credits the sender holds of a class (R429). -/
def Stream.holds (x : Stream) (k : Nat) : Nat := pool k - (x.used + 256 - x.recv) % 256

/-- The bytes of an ambulatory flit on the link; bytes the header's operation does not define are free. -/
def flitUnit (s : State) (f : AmbFlit) : List Byte × State :=
  let r := s.freeBytes (if f.op.hasData then 0 else 64)
  (f.header ++ (if f.op.hasData then padTo 64 f.data else r.1), r.2)

/-- A unit joins a class's queue. -/
def queueUnit (s : State) (t k : Nat) (unit : List Byte) : State :=
  s.modLink t (·.modStream k fun x => { x with queue := x.queue ++ [unit] })

/-- The port carries units: UP, owned, and the peer announces the same owner (R446). -/
def TPort.flows (l : TPort) : Bool := decide (l.state = 2 ∧ l.owner ≠ 255 ∧ l.peerOwner = l.owner)

/-- Lanes of a mask. -/
def laneCount (m : BitVec 8) : Nat := ((List.range 8).filter m.getLsbD).length

/-- The lanes of a mask in ascending number. -/
def lanesOf (m : BitVec 8) : List Nat := (List.range 8).filter m.getLsbD

/-- A mask without a lane. -/
def maskWithout (m : BitVec 8) (lane : Nat) : BitVec 8 := m &&& ~~~(1#8 <<< lane)

/-- The counters of a port changed. -/
def State.countLink (s : State) (t : Nat) (f : LinkCounters → LinkCounters) : State :=
  s.modLink t fun l => { l with counters := f l.counters }

/-- One more, saturating (R453). -/
def cnt32 (n : Nat) : Nat := satInc 0xFFFFFFFF n

/-- DETAIL of a Transept fault (Table 17-8). -/
def TPort.detail (l : TPort) (cause lane : Nat) : List Byte :=
  [BitVec.ofNat 8 cause, BitVec.ofNat 8 lane] ++ le 8 l.peerAsset

/-- A class C entry about a port. -/
def logLink (s : State) (t period cause sub lane : Nat) : State :=
  logC s period cause (locPort t) (s.link t).owner ((s.link t).detail sub lane)

/-! ### Control operations (R439) -/

/-- The operation that is repeated has been seen by the peer, or 200 ns have passed: the next one follows. -/
def TPort.ctrlDone (l : TPort) : TPort :=
  match l.ctrlQueue with
  | [] => { l with ctrl := none }
  | c :: rest => { l with ctrl := some c, ctrlQueue := rest }

/-- The operation has a body and travels in idle frames (Table 16-8). -/
def ctrlHasBody (op : Nat) : Bool := decide (op = 1 ∨ op = 6)

/-! ### Forward records and relays (R383, R384) -/

/-- The record of a request that a response answers. -/
def TPort.forwardOf (l : TPort) (dest txn epoch : Nat) : Option Nat :=
  (l.forwards.find? fun e => e.2.used && decide (e.2.req.src = dest ∧ e.2.req.txn = txn ∧ e.2.req.epoch = epoch)).map
    Prod.fst

/-- A free place of the record, of 1,024. -/
def TPort.freeForward (l : TPort) : Option Nat :=
  (List.range 1024).find? fun k => !(tget Forward.fresh l.forwards k).used

/-- LINK_DOWN for a request at a port (R383, R446). -/
def answerLinkDown (s : State) (t : Nat) (f : AmbFlit) : State :=
  let r := s.freeBytes (if f.op = .write then 0 else 64)
  inject r.2 (epPort t) { respFlit f (answerOp f) 8 r.1 with synth := true }

/-- Every recorded request of a port is answered LINK_DOWN (R383). -/
def answerForwards (s : State) (t : Nat) : State :=
  let fs := (s.link t).forwards.map fun e => e.2.req
  fs.foldl (fun s f => answerLinkDown s t f) (s.modLink t fun l => { l with forwards := [] })

/-- The egress acts as down: recorded requests are answered LINK_DOWN, and those not yet on the link are not sent. -/
def dropRequests (s : State) (t : Nat) : State :=
  (answerForwards s t).modLink t (·.modStream 3 fun x => { x with queue := [] })

/-- Where the offset of a peer's request lies in its chapel's addresses here (R174, R170-R172); none where the rules
give no place. -/
def relayPlace (s : State) (c : Nat) (f : AmbFlit) : Option Place :=
  let h := s.chapel c
  let kind := match f.op with
    | .read => Access.load
    | .write => Access.store
    | _ => Access.atomic
  if f.addr % sizeBytes f.size ≠ 0 then none
  else if f.addr < 0x60000000 then
    let ix := f.addr / 524288
    if ix < h.ncells then some (.cell (h.globalOf ix) (f.addr % 524288)) else none
  else if 0x000100000000 ≤ f.addr ∧ f.addr < 0x004900000000 then
    match h.cellWindows.find? fun e => decide (e.2.addr ≤ f.addr ∧ f.addr < e.2.addr + e.2.size) with
    | some e => (windowPlace kind e.1 e.2 f.addr).toOption
    | none => none
  else none

/-- The response to a peer's request joins class S, while the link carries units; else it is dropped (R384). -/
def relayAnswer (s : State) (t : Nat) (f : AmbFlit) (status : Nat) (synth poison : Bool) (data : List Byte) : State :=
  if (s.link t).up then
    let rsp := { respFlit f (answerOp f) status data with synth := synth, poison := poison, remote := true }
    let r := flitUnit s rsp
    queueUnit r.2 t 4 r.1
  else s

/-- Tracker `k` of a port changed. -/
def TPort.modTracker (l : TPort) (k : Nat) (f : Tracker → Tracker) : TPort :=
  { l with trackers := tput Tracker.fresh l.trackers k (f (tget Tracker.fresh l.trackers k)) }

/-- A peer's request is relayed under a tracker of the port: SRC is the port, CHAPEL unchanged (R384). -/
def relayReq (s : State) (t k : Nat) (f : AmbFlit) (place : Place) : State :=
  let old := tget Tracker.fresh (s.link t).trackers k
  let req := placeReq place { f with src := epPort t, txn := k, epoch := old.epoch, remote := false, span := 0 }
  let tr : Tracker := { old with
    busy := true, sent := true, addr := f.addr, landing := .relay f.src f.txn f.epoch f.span, req := req }
  inject (s.modLink t (·.modTracker k fun _ => tr)) (epPort t) req

/-- The peer's request a relay tracker stands for. -/
def Tracker.relayed (tr : Tracker) (t : Nat) : AmbFlit :=
  match tr.landing with
  | .relay src txn epoch span =>
    { tr.req with src := src, txn := txn, epoch := epoch, span := span, dest := epPort t, addr := tr.addr, win := 127 }
  | _ => tr.req

/-- Trackers of a Transept port that relays requests from its peer (Table 13-10). Irreducible, so that no proof unfolds the
search through them. -/
@[irreducible] def relayTrackers : Nat := 1024

/-- Peer requests that wait take the trackers that are free. -/
def relayMore : Nat → State → Nat → State
  | 0, s, _ => s
  | fuel + 1, s, t =>
    match (s.link t).relayWait with
    | [] => s
    | f :: rest =>
      match relayPlace s f.chapel f with
      | none => relayMore fuel (relayAnswer (s.modLink t fun l => { l with relayWait := rest }) t f 7 true false []) t
      | some place => match freeTracker (s.link t).trackers relayTrackers with
        | none => s
        | some k => relayMore fuel (relayReq (s.modLink t fun l => { l with relayWait := rest }) t k f place) t

/-- A peer's request arrives. -/
def relayIn (s : State) (t : Nat) (f : AmbFlit) : State :=
  relayMore ((s.link t).relayWait.length + 1) (s.modLink t fun l => { l with relayWait := l.relayWait ++ [f] }) t

/-- A response, or what stands for one, ends relay tracker `k`; a link that has gone down since drops it. -/
def relayDone (s : State) (t k status : Nat) (synth poison : Bool) (data : List Byte) (advance : Bool) : State :=
  let tr := tget Tracker.fresh (s.link t).trackers k
  let s := s.modLink t (·.modTracker k fun x => x.freed advance)
  let s := match tr.landing with
    | .relay _ _ _ _ => relayAnswer s t (tr.relayed t) status synth poison data
    | _ => s
  relayMore ((s.link t).relayWait.length + 1) s t

/-! ### The end of a link (R450) -/

/-- The package's UNI-A packets of a span slot end when its last port is gone, and what the gate of cell 0 still
holds for the slot is discarded (R325, R450). -/
def settleSlot (s : State) (c n : Nat) : State :=
  if c = 255 ∨ slotUp s c n = true then s
  else
    let s := slotLinkDown s c n
    s.modCell ((s.chapel c).globalOf 0) fun x =>
      let x := x.modAisle fun a => { a with gateOut := a.gateOut.filter fun p => !decide (p.chapel = c ∧ p.span = n) }
      x.modCh fun m => { m with gateOut := m.gateOut.filter fun f => !decide (f.chapel = c ∧ f.span = n) }

/-- Relays still due have nobody to answer (R384). -/
def TPort.dropRelays (l : TPort) : TPort :=
  { l with trackers := l.trackers.map fun e => (e.1, { e.2 with landing := .none }), relayWait := [] }

/-- The streams, frames and lanes of a port are gone. -/
def TPort.cleared (l : TPort) : TPort :=
  { l with
    mask := 0#8, good := 0#8, peerMask := none, peerOwner := 255, lost := [], retraining := [], restorable := [],
    restoreMask := none, txSeq := 0, rxSeq := 0, ackValid := false, nakDue := false, nakAt := none, replay := [],
    resend := 0, replays := 0, a := {}, c := {}, q := {}, s := {}, e := {}, rot := 0, badRuns := [],
    waitingLosses := [], lastRestripe := none, heldState := false }

/-- What Table 16-11 does to the traffic of port `t`, which goes to state `st`. -/
def stopTraffic (s : State) (t st : Nat) : State :=
  let l := s.link t
  let s := answerForwards s t
  let s := setLinkState (s.modLink t fun l => l.dropRelays.cleared) t st
  settleSlot s l.owner l.span

/-- The running LINK_TRAIN of port `t`. -/
def trainCmd (s : State) (t : Nat) : Option Cmd :=
  s.feb.cmds.find? fun c => decide (c.stage = .running ∧ c.opcode = 0x0401 ∧ c.byte 24 = t)

/-- RESULT of LINK_TRAIN (Table 04-13). -/
def trainResult (l : TPort) (micros : Nat) : List Byte :=
  [BitVec.ofNat 8 l.mask.toNat, BitVec.ofNat 8 l.lossClass, BitVec.ofNat 8 (laneCount l.mask), 0#8] ++
    le 8 l.peerAsset ++ le 4 micros

/-- PEER_DEPARTED, class C (Table 17-4). -/
def logDeparted (s : State) (t cause : Nat) : State := logLink s t 0 0x0161 cause 0xFF

/-- The owner chapel of a port whose peer has departed (Table 17-4). -/
def departOwner (s : State) (t cause : Nat) : State :=
  let c := (s.link t).owner
  let h := s.chapel c
  if c = 255 then logDeparted s t cause
  else if h.state.active then
    if h.policy = 1 then
      let s := logDeparted s t cause
      match h.state with
      | .running => (askStopChapel s c).modChapel c fun h => { h with departing := true }
      | _ => s.modChapel c fun h => { h with departed := true }
    else faultK s c 0x0161 (locPort t) ((s.link t).detail cause 0xFF) false false
  else logDeparted s t cause

/-- The reaction to a departure behind port `t` (R465, R466). -/
def peerDeparted (s : State) (t cause : Nat) : State :=
  let s := departOwner s t cause
  if (s.link t).state = 5 then s else stopTraffic s t 5

/-- The causes that answer a peer's violation by taking the link down (R452). -/
def protoCause (cause : Nat) : Bool := decide (cause = 4 ∨ cause = 5 ∨ cause = 6)

/-- A link goes down (R450): Table 16-11, DOWN to the peer while a lane works, TRANSEPT_DOWN, and R463 where it was the
last up port of its span slot and the cause is not HOST. A LINK_TRAIN that runs completes LINK_DOWN. -/
def linkDown (s : State) (t cause : Nat) : State :=
  let l := s.link t
  let s := s.countLink t fun k => if protoCause cause then { k with protoDowns := cnt32 k.protoDowns } else k
  let s := logLink s t 0 0x0150 cause 0xFF
  let lanes := decide (l.mask ≠ 0#8 ∨ l.good ≠ 0#8)
  let s := stopTraffic (s.modLink t fun l => { l with downCause := cause }) t 0
  let s := if lanes then sendCtrl s t 7 cause [] else s
  let s := match trainCmd s t with
    | some c => failCmd s c 8 (if cause = 6 then 0x50 else 0)
    | none => s
  if l.up ∧ l.owner ≠ 255 ∧ cause ≠ 1 ∧ slotUp s l.owner l.span = false then peerDeparted s t cause else s

/-- A port's announced owners decide between UP and OWNER_MISMATCH (R446); its egress then acts as down. -/
def settleOwner (s : State) (t : Nat) : State :=
  let l := s.link t
  if l.state = 2 ∨ l.state = 4 then
    let st := l.upState
    if st = l.state then s
    else
      let s := setLinkState s t st
      if st = 4 then settleSlot (dropRequests s t) l.owner l.span else s
  else s

/-! ### Restripes (R440-R444) -/

/-- A restripe starts on a new lane set; with fewer than two lanes the link goes down (R441, R442). -/
def startRestripe (s : State) (t : Nat) (m : BitVec 8) : State :=
  if laneCount m < 2 then linkDown s t 2
  else setLinkState (s.modLink t fun l => { l with mask := m, restorable := [], restoreMask := none }) t 3

/-- Lane `x` is lost: counted, retired at the eighth time (R444). -/
def loseLane (s : State) (t x : Nat) : State :=
  let n := tget 0 (s.link t).losses x + 1
  let s := s.modLink t fun l => { l with
    losses := tput 0 l.losses x n, lost := setInsert x l.lost, restorable := l.restorable.erase x
    retired := if 8 ≤ n then setInsert x l.retired else l.retired
    counters := { l.counters with laneDrops := cnt32 l.counters.laneDrops } }
  if n = 8 then logLink s t 0 0x0154 0 x else s

/-- The lane set shrinks to `m`: the lanes that leave it are lost, and a restripe runs or goes on. -/
def dropLanes (s : State) (t : Nat) (m : BitVec 8) : State :=
  let gone := (lanesOf (s.link t).mask).filter fun x => !m.getLsbD x
  startRestripe (gone.foldl (fun s x => loseLane s t x) s) t m

/-- This side sees the loss of a lane and starts a restripe with LANE_DROP (R440). -/
def ownLoss (s : State) (t x : Nat) : State :=
  let m := maskWithout (s.link t).mask x
  dropLanes (sendCtrl s t 3 m.toNat []) t m

/-- R444's moment: no replay in progress, no restripe under way nor in the last 1 ms. -/
def TPort.mayRestore (s : State) (l : TPort) : Bool :=
  decide (l.state = 2 ∧ l.resend = 0) &&
    match l.lastRestripe with
    | some x => decide (oneMs ≤ s.ts - x.toNat)
    | none => true

/-- A LANE_RESTORE restripe runs on a wider lane set (R444). -/
def restoreLanes (s : State) (t : Nat) (m : BitVec 8) : State :=
  let new := (lanesOf m).filter fun x => !(s.link t).mask.getLsbD x
  let s := s.modLink t fun l => { l with
    lost := l.lost.filter fun x => !new.contains x
    counters := { l.counters with laneRestores := new.foldl (fun n _ => cnt32 n) l.counters.laneRestores } }
  startRestripe s t m

/-- The lanes this side can restore: its own set and those retrained. -/
def TPort.ownRestore (l : TPort) : BitVec 8 := l.restorable.foldl (fun m x => m ||| (1#8 <<< x)) l.mask

/-- A restore starts that waits for R444's moment: this side's, or the peer's. -/
def startRestore (s : State) (t : Nat) : State :=
  let l := s.link t
  let m := match l.restoreMask with
    | some p => l.ownRestore ||| (p &&& l.trained)
    | none => l.ownRestore
  let s := if l.restorable.isEmpty then s else sendCtrl s t 4 m.toNat []
  restoreLanes s t m

/-- Something waits to be restored. -/
def TPort.wantsRestore (l : TPort) : Bool := !l.restorable.isEmpty || l.restoreMask.isSome

/-- The restore runs now if it may. -/
def settleRestore (s : State) (t : Nat) : State :=
  if (s.link t).wantsRestore && (s.link t).mayRestore s then startRestore s t else s

end Sys2Proof.Machine
end

