-- ==== Sys2Proof/Machine/Transept.lean ====
section
/-! DEFINITION. The commands of the Transept ports (chapter 16): frames sent and received, replay, training, lanes, control
operations, and LINK_TRAIN, LINK_STATUS and LINK_ASSIGN. -/

namespace Sys2Proof.Machine

/-! ### Sending (R426-R431, R448) -/

/-- Port `t` carries the units of span slot `n` of chapel `c` for this DEST (R448). -/
def portFor (s : State) (c n dest t : Nat) : Bool :=
  let ups := (s.slotPorts c n).filter fun p => (s.link p).up
  decide (ups[dest % ups.length]? = some t)

/-- The oldest aisle packet the gate holds for a port. -/
def gatePacket (s : State) (t : Nat) : Option AislePkt :=
  let l := s.link t
  (s.cell ((s.chapel l.owner).globalOf 0)).aisle.gateOut.find? fun p =>
    decide (p.chapel = l.owner ∧ p.span = l.span) && portFor s l.owner p.span p.dest t

/-- The oldest chantry flit the gate holds for a port. -/
def gateFlit (s : State) (t : Nat) : Option ChFlit :=
  let l := s.link t
  (s.cell ((s.chapel l.owner).globalOf 0)).ch.gateOut.find? fun f =>
    decide (f.chapel = l.owner ∧ f.span = l.span) && portFor s l.owner f.span f.dest t

/-- The next unit that waits in a class of a port. -/
def waitingUnit (s : State) (t k : Nat) : Option (List Byte) :=
  if (s.link t).flows then
    match k with
    | 1 => (gatePacket s t).map (·.bytes)
    | 2 => (gateFlit s t).map (·.bytes)
    | _ => ((s.link t).stream k).queue.head?
  else none

/-- The unit that waits has its credits (R429). -/
def unitReady (s : State) (t k : Nat) : Option (List Byte) :=
  (waitingUnit s t k).filter fun u => decide (unitCredits k u.length ≤ ((s.link t).stream k).holds k)

/-- The waiting unit of a class leaves its place. -/
def popUnit (s : State) (t k : Nat) : State :=
  let g := (s.chapel (s.link t).owner).globalOf 0
  match k with
  | 1 => match gatePacket s t with
    | some p => s.modCell g (·.modAisle fun a => { a with gateOut := a.gateOut.erase p })
    | none => s
  | 2 => match gateFlit s t with
    | some f => s.modCell g (·.modCh fun m => { m with gateOut := m.gateOut.erase f })
    | none => s
  | _ => s.modLink t (·.modStream k fun x => { x with queue := x.queue.drop 1 })

/-- The bytes of a block of class `k` with `room` bytes left (R427, R430). -/
def fillBlock : Nat → State → Nat → Nat → Nat → List Byte × State
  | 0, s, _, _, room => (List.replicate room 0xFF#8, s)
  | fuel + 1, s, t, k, room =>
    let x := (s.link t).stream k
    if room = 0 then ([], s)
    else if !x.sending.isEmpty then
      let bs := x.sending.take room
      let r := fillBlock fuel (s.modLink t (·.modStream k fun x => { x with sending := x.sending.drop room })) t k
        (room - bs.length)
      (bs ++ r.1, r.2)
    else match unitReady s t k with
      | some u =>
        fillBlock fuel ((popUnit s t k).modLink t (·.modStream k fun x =>
          { x with sending := u, used := (x.used + unitCredits k u.length) % 256 })) t k room
      | none => (List.replicate room 0xFF#8, s)

/-- The rotation C, S, E, Q, A (R430). -/
def rotation : List Nat := [2, 4, 5, 3, 1]

/-- A class has a unit in progress or ready. -/
def classEligible (s : State) (t k : Nat) : Bool :=
  !((s.link t).stream k).sending.isEmpty || (unitReady s t k).isSome

/-- One block: its class, its 88 bytes. -/
def nextBlock (s : State) (t : Nat) : (Nat × List Byte) × State :=
  let r := (s.link t).rot
  let order := (rotation.drop r) ++ rotation.take r
  match order.find? (classEligible s t) with
  | none => ((0, zeros 88), s)
  | some k =>
    let b := fillBlock 180 s t k 88
    ((k, b.1), b.2.modLink t fun l => { l with rot := (rotation.idxOf k + 1) % 5 })

/-- The blocks of a frame. -/
def nextBlocks : Nat → State → Nat → List (Nat × List Byte) × State
  | 0, s, _ => ([], s)
  | n + 1, s, t =>
    let b := nextBlock s t
    let r := nextBlocks n b.2 t
    (b.1 :: r.1, r.2)

/-- A frame with the control field a port sends now (Table 16-2). -/
def TPort.control (l : TPort) (f : Frame) : Frame :=
  { f with
    ack := (l.rxSeq + 4095) % 4096, ackValid := l.ackValid, nak := l.nakDue
    credit := [l.a.got, l.c.got, l.q.got, l.s.got, l.e.got], lanes := l.mask
    ctrlOp := match l.ctrl with | some c => c.op | none => 0
    ctrlArg := match l.ctrl with | some c => BitVec.ofNat 24 c.arg | none => 0#24
    echoOp := l.echo, reserved := false }

/-- A frame with no content. -/
def emptyFrame (l : TPort) : Frame :=
  ⟨true, l.txSeq % 4096, 0, false, false, List.replicate 7 0, [], 0#8, 0, 0#24, 0, false, zeros 616⟩

/-- An idle frame: the body of a control operation travels in it (R439). -/
def idleFrame (l : TPort) : Frame :=
  let body := match l.ctrl with
    | some c => if ctrlHasBody c.op then padTo 616 c.body else zeros 616
    | none => zeros 616
  l.control { emptyFrame l with body := body }

/-- A frame leaves: the credits it carries are granted, and NAK is not set again for a while (R429, R432). -/
def sendFrame (s : State) (t : Nat) (f : Frame) : State :=
  let s := s.emit (.frame t f)
  s.modLink t fun l =>
    let rel := fun (x : Stream) => { x with released := x.got }
    { l with
      a := rel l.a, c := rel l.c, q := rel l.q, s := rel l.s, e := rel l.e, nakDue := false
      nakAt := if f.nak then some s.pw.tstamp else l.nakAt
      counters := if f.nak then { l.counters with nakSent := cnt32 l.counters.nakSent } else l.counters }

/-- The port sends frames: training lanes, up, or with something left to tell. -/
def TPort.sends (l : TPort) : Bool := decide (l.state ≠ 0 ∧ (l.state ≠ 1 ∨ l.good ≠ 0#8)) || l.ctrl.isSome

/-- A control operation with a body is being repeated: every frame is idle (R439). -/
def TPort.bodyOp (l : TPort) : Bool := match l.ctrl with | some c => ctrlHasBody c.op | none => false

/-- New traffic, or an idle frame where there is none (R430, R431). -/
def sendNew (s : State) (t : Nat) : State :=
  let bs := nextBlocks 7 s t
  if bs.1.all fun b => decide (b.1 = 0) then sendFrame s t (idleFrame (s.link t))
  else
    let s := bs.2
    let l := s.link t
    let f := l.control { emptyFrame l with
      idle := false, classes := bs.1.map Prod.fst, body := bs.1.flatMap Prod.snd }
    sendFrame (s.modLink t fun l => { l with txSeq := l.txSeq + 1, replay := l.replay ++ [f] }) t f

/-- TRANSEPT_FRAME_SEND (R426-R433, R439, R441, R448). -/
def execTranseptFrameSend (port : Nat) (s : State) : Res :=
  let l := s.link port
  possible (decide (port < 12) && s.mainOn && s.awake && l.sends) s fun s =>
    if l.state = 2 ∧ l.bodyOp = false then
      if 0 < l.resend then
        let f := l.replay.getD (l.replay.length - l.resend) (emptyFrame l)
        sendFrame (s.modLink port fun l => { l with resend := l.resend - 1 }) port (l.control f)
      else if l.replay.length < 96 then sendNew s port
      else sendFrame s port (idleFrame l)
    else sendFrame s port (idleFrame l)

/-! ### Control operations received (R438-R446, R461, R465) -/

/-- HELLO (R438): the peer's asset and lane mask. -/
def helloIn (s : State) (t : Nat) (asset : Nat) (m : BitVec 8) : State :=
  let want := (s.portRec t).peer
  let s := s.modLink t fun l => { l with peerAsset := asset }
  if want ≠ 0 ∧ want ≠ asset then if (s.link t).state = 0 then s else linkDown s t 6
  else if (s.link t).state = 1 then
    let s := s.modLink t fun l => { l with peerMask := some m }
    if (s.link t).good ≠ 0#8 ∧ laneCount ((s.link t).good &&& m) < 2 then linkDown s t 8 else s
  else s

/-- OWNER (R446). -/
def ownerIn (s : State) (t c : Nat) : State := settleOwner (s.modLink t fun l => { l with peerOwner := c }) t

/-- LANE_DROP from the peer (R440, R452): the AND of the masks; this side answers with its own. -/
def laneDropIn (s : State) (t : Nat) (m : BitVec 8) : State :=
  let l := s.link t
  let new := l.mask &&& m
  if l.state = 3 then if new = l.mask then s else dropLanes s t new
  else if l.state = 2 ∨ l.state = 4 then dropLanes (sendCtrl s t 3 new.toNat []) t new
  else s

/-- LANE_RESTORE from the peer (R444, R452): at once, or at the first moment R444 allows. -/
def laneRestoreIn (s : State) (t : Nat) (m : BitVec 8) : State :=
  if (s.link t).up then settleRestore (s.modLink t fun l => { l with restoreMask := some m }) t else s

/-- LANE_RETRAIN from the peer (R444). -/
def laneRetrainIn (s : State) (t x : Nat) : State :=
  let l := s.link t
  if l.lost.contains x && !l.retraining.contains x then
    s.modLink t fun l => { l with retraining := l.retraining ++ [x] }
  else s

/-- DEPART (R461, R464-R466): a malformed one is a violation. -/
def departIn (s : State) (t : Nat) (body : List Byte) : State :=
  let b := fun (i : Nat) => (byteAt body i).toNat
  let bad := decide (1 < b 8) || [11, 14, 15, 28, 29, 30, 31].any fun i => decide (b i ≠ 0)
  if bad then linkDown s t 5
  else if b 8 = 1 then peerDeparted s t 0
  else if b 9 = (s.link t).owner ∧ b 9 < 192 then
    faultK s (b 9) 0x0160 (locPort t) ((s.link t).detail 0 0xFF) false true
  else s

/-- UNKNOWN: the peer has refused an operation, which is not repeated any more. -/
def unknownIn (s : State) (t op : Nat) : State :=
  match (s.link t).ctrl with
  | some c => if c.op = op then s.modLink t TPort.ctrlDone else s
  | none => s

/-- A reserved CTRL_OP is answered with UNKNOWN and logged (R439). -/
def reservedOp (s : State) (t op : Nat) : State := logLink (sendCtrl s t 0xF op []) t 0 0x0151 0 0xFF

/-- A control operation takes effect. -/
def ctrlIn (s : State) (t op arg : Nat) (body : List Byte) : State :=
  match op with
  | 1 => helloIn s t (fieldN body 0 8) (byteAt body 9)
  | 2 => ownerIn s t (arg % 256)
  | 3 => laneDropIn s t (BitVec.ofNat 8 arg)
  | 4 => laneRestoreIn s t (BitVec.ofNat 8 arg)
  | 5 => laneRetrainIn s t (arg % 8)
  | 6 => departIn s t body
  | 7 => linkDown s t 7
  | 0xF => unknownIn s t (arg % 256)
  | _ => reservedOp s t op

/-- A control operation is received: it is echoed, and a repeat of the one before has no further effect. -/
def ctrlReceived (s : State) (t op arg : Nat) (body : List Byte) : State :=
  let l := s.link t
  let again := decide (l.echo = op ∧ l.lastCtrl = some (arg, body))
  let s := s.modLink t fun l => { l with echo := op, lastCtrl := if op = 0 then none else some (arg, body) }
  if op = 0 ∨ again = true ∨ l.state = 0 ∨ (l.state = 5 ∧ op ≠ 0xF) then s else ctrlIn s t op arg body

/-- A port with a link to a peer that is not down or fenced. -/
def linkLive (s : State) (t : Nat) : Bool :=
  decide (t < 12) && s.mainOn && s.awake &&
    decide (1 ≤ (s.link t).state ∧ (s.link t).state ≤ 4)

/-- A control operation of its own row. -/
def ctrlRow (s : State) (t op arg : Nat) (body : List Byte) : Res :=
  possible (linkLive s t) s fun s => ctrlReceived s t op arg body

/-- HELLO (R438). -/
def execHello (port : Nat) (asset : BitVec 64) (peerPort : Nat) (mask : BitVec 8) (s : State) : Res :=
  ctrlRow s port 1 0 (padTo 32 (le 8 asset.toNat ++ [BitVec.ofNat 8 peerPort, mask]))

/-- OWNER (R446). -/
def execOwner (port chapel : Nat) (s : State) : Res := ctrlRow s port 2 (chapel % 256) []

/-- LANE_DROP (R440, R452). -/
def execLaneDrop (port : Nat) (mask : BitVec 8) (s : State) : Res := ctrlRow s port 3 mask.toNat []

/-- LANE_RESTORE (R444, R452). -/
def execLaneRestore (port : Nat) (mask : BitVec 8) (s : State) : Res := ctrlRow s port 4 mask.toNat []

/-- LANE_RETRAIN (R444). -/
def execLaneRetrain (port lane : Nat) (s : State) : Res := ctrlRow s port 5 (lane % 8) []

/-- DEPART (R461, R464-R466). -/
def execDepart (port : Nat) (body : List Byte) (s : State) : Res :=
  possible (linkLive s port && decide (body.length = 32)) s fun s => ctrlReceived s port 6 0 body

/-- DOWN (R450). -/
def execDown (port cause : Nat) (s : State) : Res := ctrlRow s port 7 (cause % 256) []

/-- UNKNOWN (R439). -/
def execUnknown (port op : Nat) (s : State) : Res := ctrlRow s port 0xF (op % 256) []

/-- CTRL_OP_REPEAT_EXPIRY (R439). -/
def execCtrlOpRepeatExpiry (port : Nat) (s : State) : Res :=
  possible (decide (port < 12) && (s.link port).ctrl.isSome) s fun s => s.modLink port TPort.ctrlDone

/-! ### Units received (R427-R429, R447) -/

/-- The first byte of a unit is a valid header's (R427). -/
def startGood (k : Nat) (b : Byte) : Bool :=
  let n := b.toNat
  match k with
  | 1 => decide (n < 64 ∧ n / 16 ≠ 3)
  | 2 => decide (n < 32 ∧ n % 8 < 5)
  | 3 => decide (n % 4 = 0) && (ambOpOf 0 (n / 16)).isSome
  | 4 => decide (n % 4 = 1) && (ambOpOf 1 (n / 16)).isSome
  | _ => decide (n % 4 = 2) && (ambOpOf 2 (n / 16)).isSome

/-- Bytes still missing of a unit received in part: for an aisle packet UNITS says (Table 16-3). -/
def unitMissing (k : Nat) (part : List Byte) : Nat :=
  match k with
  | 1 => if part.length < 9 then 9 - part.length else 36 + 64 * ((byteAt part 8).toNat % 128 + 1) - part.length
  | 2 => 64 - part.length
  | _ => 80 - part.length

/-- The unit is whole. -/
def unitWhole (k : Nat) (part : List Byte) : Bool := (decide (k ≠ 1) || decide (9 ≤ part.length)) &&
  decide (unitMissing k part = 0)

/-- An aisle packet enters the gate of cell 0 with SRC_SPAN written (R305); it clears DRAINED. -/
def gateEnterPacket (s : State) (c n : Nat) (p : AislePkt) : State :=
  let h := s.chapel c
  let g := h.globalOf 0
  let p := { p with srcSpan := n }
  let r := screenOuts s g (h.steer g none p)
  match r.2 with
  | none => r.1
  | some x => (r.1.modChapel c fun h => { h with drained := false }).modCell g (·.modAisle fun a =>
      { a with gateIn := a.gateIn ++ [x] })

/-- A chantry flit enters the gate of cell 0 with SRC_SPAN written (R357). -/
def gateEnterFlit (s : State) (c n : Nat) (f : ChFlit) : State :=
  (s.modChapel c fun h => { h with drained := false }).modCell ((s.chapel c).globalOf 0) (·.modCh fun m =>
    { m with gateIn := m.gateIn ++ [{ f with srcSpan := n }] })

/-- A response of the peer goes on to its initiator; the forward record ends (R383). -/
def forwardAnswered (s : State) (t : Nat) (f : AmbFlit) : State :=
  let s := match (s.link t).forwardOf f.dest f.txn f.epoch with
    | some k => s.modLink t fun l => { l with forwards := tput Forward.fresh l.forwards k {} }
    | none => s
  inject s (epPort t) f

/-- An ambulatory unit whose chapel is the owner's. -/
def flitIn (s : State) (t k : Nat) (unit : List Byte) : State :=
  match flitOf unit { data := unit.drop 16 } with
  | none => logC s 0 0x0130 (locPort t) 255 (le 2 (fieldN unit 2 2 % 4096) ++ le 2 (fieldN unit 4 2 % 4096))
  | some f => match k with
    | 3 => relayIn s t f
    | 4 => forwardAnswered s t f
    | _ => inject s (epPort t) f

/-- A whole unit: its credits, the owner check, and delivery. None where it breaks the credits the port granted
(R429, R447, R452). -/
def unitIn (s : State) (t k : Nat) (unit : List Byte) : Option State :=
  let x := (s.link t).stream k
  let n := unitCredits k unit.length
  if pool k < (x.got + n + 256 - x.released) % 256 then none
  else
    let s := s.modLink t (·.modStream k fun x => { x with got := (x.got + n) % 256 })
    let c := fieldN unit 1 1
    let l := s.link t
    if l.owner = 255 ∨ c ≠ l.owner then
      some (logLink (s.countLink t fun k => { k with screenDiscards := cnt32 k.screenDiscards }) t oneMs 0x0152 0 0xFF)
    else match k with
      | 1 => some (if (s.chapel c).state = .empty then s else gateEnterPacket s c l.span (aisleOfBytes unit))
      | 2 => some (if (s.chapel c).state = .empty then s else gateEnterFlit s c l.span (chFlitOfBytes unit))
      | _ => some (flitIn s t k unit)

/-- The bytes of a block of class `k` join its stream; none at a violation (R427, R452). -/
def feedBlock : Nat → State → Nat → Nat → List Byte → Option State
  | 0, s, _, _, _ => some s
  | _ + 1, s, _, _, [] => some s
  | fuel + 1, s, t, k, b :: bs =>
    let part := ((s.link t).stream k).part
    if part.isEmpty ∧ b = 0xFF#8 then some s
    else if part.isEmpty ∧ startGood k b = false then none
    else
      let n := unitMissing k part
      let part := part ++ (b :: bs).take n
      let rest := (b :: bs).drop n
      let setPart := fun (p : List Byte) => s.modLink t (·.modStream k fun x => { x with part := p })
      if unitWhole k part then
        match unitIn (setPart []) t k part with
        | none => none
        | some s => feedBlock fuel s t k rest
      else feedBlock fuel (setPart part) t k rest

/-- The blocks of an accepted frame pass to their streams. -/
def feedBlocks : List (Nat × List Byte) → State → Nat → Option State
  | [], s, _ => some s
  | (k, bs) :: rest, s, t =>
    if k = 0 then feedBlocks rest s t
    else if 5 < k then none
    else match feedBlock 180 s t k bs with
      | none => none
      | some s => feedBlocks rest s t

/-! ### Frames received (R429, R432, R433, R440, R452) -/

/-- The blocks of a frame: class and 88 bytes. -/
def frameBlocks (f : Frame) : List (Nat × List Byte) :=
  (List.range 7).map fun b => (f.classes.getD b 0, sliceB f.body (88 * b) 88)

/-- A failure: NAK in the next frame, but not again before an acceptance or 2 µs (R432). -/
def frameFails (s : State) (t : Nat) : State :=
  s.modLink t fun l =>
    let may := match l.nakAt with
      | some x => decide (200 ≤ s.ts - x.toNat)
      | none => true
    { l with nakDue := l.nakDue || may }

/-- Symbol errors are counted by lane, and the runs of R440. -/
def countErrors (s : State) (t : Nat) (errs : List Nat) : State :=
  s.modLink t fun l =>
    let k := l.counters
    let sym := (List.range 8).foldl (fun m i => tput 0 m i (min 0xFFFFFFFF (tget 0 m i + errs.getD i 0))) k.symbolErrors
    let runs := (List.range 8).foldl (fun m i =>
      tput 0 m i (if 8 ≤ errs.getD i 0 then tget 0 m i + 1 else 0)) l.badRuns
    { l with
      badRuns := runs
      counters := { k with
        symbolErrors := sym, cwCorrected := if 0 < errs.sum then cnt32 k.cwCorrected else k.cwCorrected } }

/-- ACK of a frame: frames it covers leave the replay buffer; none where it names an FSEQ never sent (R431, R452). -/
def takeAck (l : TPort) (f : Frame) : Option TPort :=
  if !f.ackValid then some l
  else
    let d := (l.txSeq + 4095 - f.ack) % 4096
    if l.txSeq ≤ d ∨ 2048 ≤ d then none
    else if l.replay.length ≤ d then some l
    else
      let n := l.replay.length - d
      some { l with replay := l.replay.drop n, resend := min l.resend d, replays := 0 }

/-- CREDIT of a frame; none where it implies more credits than a pool (R429, R452). -/
def takeCredit (l : TPort) (f : Frame) : Option TPort :=
  (List.range 5).foldl (fun r i => r.bind fun l =>
    let v := f.credit.getD i 0 % 256
    if pool (i + 1) < ((l.stream (i + 1)).used + 256 - v) % 256 then none
    else some (l.modStream (i + 1) fun x => { x with recv := v })) (some l)

/-- A replay of every unacknowledged frame begins (R433). -/
def TPort.replayAll (l : TPort) : TPort :=
  if l.replay.isEmpty then l else { l with resend := l.replay.length, replays := l.replays + 1 }

/-- The control field of a good frame: reserved bits, ACK, CREDIT, NAK, echo; none at a violation. -/
def takeControl (s : State) (t : Nat) (f : Frame) : Option State :=
  let s := s.when f.reserved fun s => logLink s t oneMs 0x0151 0 0xFF
  ((takeAck (s.link t) f).bind fun l => takeCredit l f).map fun l =>
    let l := if f.nak then
        let c := l.counters
        { l.replayAll with counters := { c with nakReceived := cnt32 c.nakReceived } }
      else l
    let l := match l.ctrl with
      | some c => if f.echoOp = c.op then l.ctrlDone else l
      | none => l
    s.modLink t fun _ => l

/-- A traffic frame: accepted in order, a duplicate, or a failure (R432). -/
def takeTraffic (s : State) (t : Nat) (f : Frame) : State :=
  let l := s.link t
  if f.fseq % 4096 = l.rxSeq then
    let s := s.modLink t fun l => { l with rxSeq := (l.rxSeq + 1) % 4096, ackValid := true, nakAt := none }
    match feedBlocks (frameBlocks f) s t with
    | some s => s
    | none => linkDown s t 5
  else if (l.rxSeq + 4096 - f.fseq % 4096) % 4096 ≤ 2048 then s
  else frameFails s t

/-- A frame that passes decode, FMARK and FCRC. -/
def frameGood (s : State) (t : Nat) (f : Frame) : State :=
  let st := (s.link t).state
  if st = 0 then
    s.modLink t fun l => match l.ctrl with
      | some c => if f.echoOp = c.op then l.ctrlDone else l
      | none => l
  else match takeControl s t f with
    | none => linkDown s t 5
    | some s =>
      let s := ctrlReceived s t f.ctrlOp f.ctrlArg.toNat (if ctrlHasBody f.ctrlOp then f.body.take 32 else [])
      if f.idle ∨ (s.link t).state < 2 ∨ (s.link t).state = 5 then s else takeTraffic s t f

/-- TRANSEPT_FRAME_RECEIVED (R427-R433, R439, R440, R447, R452). -/
def execTranseptFrameReceived (port : Nat) (rx : FrameRx) (s : State) : Res :=
  let ok := match rx with
    | .decoded errs _ _ f => decide (errs.length = 8 ∧ f.body.length = 616 ∧ f.classes.length = 7 ∧ f.credit.length = 5)
    | .uncorrectable => true
  possible (decide (port < 12) && s.mainOn && s.awake && ok) s fun s =>
    match rx with
    | .uncorrectable =>
      frameFails (s.countLink port fun k => { k with cwUncorrectable := cnt32 k.cwUncorrectable }) port
    | .decoded errs fmark fcrc f =>
      let s := countErrors s port errs
      if !fcrc then frameFails (s.countLink port fun k => { k with fcrcFail := cnt32 k.fcrcFail }) port
      else if !fmark then frameFails s port
      else frameGood s port f

/-- REPLAY_TIMER (R433): the oldest unacknowledged frame is 2 µs old. -/
def execReplayTimer (port : Nat) (s : State) : Res :=
  let l := s.link port
  possible (linkLive s port && decide (l.state = 2) && !l.replay.isEmpty && decide (l.replays < 16)) s fun s =>
    (s.countLink port fun k => { k with replayTimeouts := cnt32 k.replayTimeouts }).modLink port TPort.replayAll

/-- REPLAY_EXHAUSTED (R433): after 16 replays of the same oldest frame. -/
def execReplayExhausted (port : Nat) (s : State) : Res :=
  let l := s.link port
  possible (linkLive s port && !l.replay.isEmpty && decide (16 ≤ l.replays)) s fun s => linkDown s port 3

/-- PEER_SILENT (R445, R452): no frame decoded for 100 µs. -/
def execPeerSilent (port : Nat) (s : State) : Res :=
  possible (linkLive s port && decide (2 ≤ (s.link port).state)) s fun s => linkDown s port 4

/-! ### Lanes -/

/-- LANE_LOSS (R440, R443): during a restripe it waits. -/
def execLaneLoss (port lane : Nat) (s : State) : Res :=
  let l := s.link port
  possible (linkLive s port && decide (2 ≤ l.state ∧ lane < 8) && l.mask.getLsbD lane) s fun s =>
    if l.state = 3 then s.modLink port fun l => { l with waitingLosses := setInsert lane l.waitingLosses }
    else ownLoss s port lane

/-- RESTRIPE_COMPLETE (R441, R443): every unacknowledged frame is replayed; a loss that waited runs its own restripe. -/
def execRestripeComplete (port : Nat) (s : State) : Res :=
  possible (linkLive s port && decide ((s.link port).state = 3)) s fun s =>
    let s := s.modLink port fun l => { l.replayAll with lastRestripe := some s.pw.tstamp }
    let s := setLinkState s port (s.link port).upState
    let waits := (s.link port).waitingLosses.filter fun x => (s.link port).mask.getLsbD x
    let s := s.modLink port fun l => { l with waitingLosses := waits.drop 1 }
    match waits with
    | x :: _ => ownLoss s port x
    | [] => settleRestore s port

/-- LANE_RETRAIN_TIMER (R444): each lost lane that is not retired is to be retrained alone. -/
def execLaneRetrainTimer (port : Nat) (s : State) : Res :=
  let l := s.link port
  let xs := l.lost.filter fun x => !l.retired.contains x && !l.restorable.contains x
  possible (linkLive s port && l.up && l.retraining.isEmpty) s fun s =>
    match xs with
    | [] => s
    | x :: _ => sendCtrl (s.modLink port fun l => { l with retraining := xs }) port 5 x []

/-- LANE_RETRAIN_DONE (R444): on success a LANE_RESTORE restripe runs as soon as it may. -/
def execLaneRetrainDone (port lane : Nat) (ok : Bool) (s : State) : Res :=
  possible (linkLive s port && decide ((s.link port).retraining.head? = some lane)) s fun s =>
    let s := s.modLink port fun l => { l with
      retraining := l.retraining.drop 1, restorable := if ok then setInsert lane l.restorable else l.restorable }
    let s := match (s.link port).retraining with
      | x :: _ => sendCtrl s port 5 x []
      | [] => s
    settleRestore s port

/-- LANE_RESTORE_START (R444). -/
def execLaneRestoreStart (port : Nat) (s : State) : Res :=
  possible (linkLive s port && (s.link port).wantsRestore && (s.link port).mayRestore s) s fun s => startRestore s port

/-! ### Training and the link commands (R434-R438, R446, R453, R467, Table 04-13) -/

/-- The tags of a port's bank that bind it (R434, R435); none on a faulted bank (R515), nor one with blocks above 32
bytes (R527). -/
def boundTags (s : State) (t : Nat) : List BankTag :=
  let bank := if t < 6 then 1 else 2
  if s.gate.antFault.getLsbD bank then []
  else (tget [] s.gate.banks bank).filter fun g =>
    decide (g.blockSize ≤ 32 ∧ fieldN g.bytes 0 2 = 0x5458 ∧ fieldN g.bytes 2 1 = 1 ∧ fieldN g.bytes 6 1 = t ∧
      sliceB g.bytes 8 8 = s.assetLow)

/-- Training starts: the loss class by the cable tag (R435, R436). -/
def beginTrain (s : State) (t : Nat) : State :=
  let tags := boundTags s t
  let cls := match tags with
    | [g] => if fieldN g.bytes 3 1 ≤ 5 then fieldN g.bytes 3 1 else 255
    | _ => 255
  let serial := match tags with
    | [g] => some (fieldN g.bytes 16 4)
    | _ => none
  let s := if 1 < tags.length then logLink s t 0 0x0155 0 0xFF else s
  setLinkState (s.modLink t fun l => { l.cleared with
    trained := 0#8, losses := [], retired := [], lossClass := cls, serial := serial, peerAsset := 0, ctrl := none,
    ctrlQueue := [], echo := 0, lastCtrl := none }) t 1

/-- What LINK_TRAIN with OP 2 resets when it releases a FENCED port (R467). -/
def resetSlot (s : State) (c n : Nat) : State :=
  if c = 255 then s
  else
    let h := s.chapel c
    let mine := fun (e : Nat × Nat) => decide (e.1 / 4096 ≠ n)
    let s := h.cells.foldl (fun s g => s.modCell g fun x =>
      let x := x.modUni fun u => { u with
        txSeq := u.txSeq.filter mine, pTx := u.pTx.filter mine, pRx := u.pRx.filter mine
        rx := u.rx.filter fun e => decide (e.1 / 4096 ≠ n) }
      (x.chanTx.filter fun e => mwRemote e.2.peer && decide (mwSpan e.2.peer = n)).foldl (fun x e => x.closeTx e.1) x) s
    (h.sums.filter fun e => e.2.gateChildren.getLsbD n).foldl (fun s e =>
      let g := h.globalOf 0
      let x := (s.cell g).sumInst e.1
      let waits := !x.operands.isEmpty && !x.operands.any fun o => decide (o.input = 5 + n)
      if waits then
        let inst := x.next.getD (0, 0)
        failInst s g e.1 inst 0x71 (nextInst e.2 inst)
      else s) s

/-- LINK_TRAIN in its turn (R436, R467). -/
def linkTrain (s : State) (c : Cmd) : State :=
  let t := c.byte 24
  let op := c.byte 25
  let l := s.link t
  if op = 2 then
    let s := if l.state = 5 then setLinkState (resetSlot s l.owner l.span) t 0
      else if l.state = 0 then s else linkDown s t 1
    doneCmd s c (trainResult (s.link t) 0)
  else if l.state = 5 then failCmd s c 0x0F 0
  else if op = 0 ∧ l.state ≠ 0 then doneCmd s c (trainResult l 0)
  else beginTrain (if l.state = 0 then s else linkDown s t 1) t

/-- A transition of the port that a later command waits for (R116). -/
def portMoves (s : State) (n : Nat) : Bool :=
  match s.cmd n with
  | some c => decide ((s.link (c.byte 24)).state = 1 ∨ (s.link (c.byte 24)).state = 3)
  | none => false

/-- LINK_TRAIN (R116, R436, R467). -/
def execLinkTrain (n : Nat) (s : State) : Res := if portMoves s n then .next s else runCmd n 0x0401 s linkTrain

/-- LANE_TRAINING_DONE (R437). -/
def execLaneTrainingDone (port : Nat) (good wrong : BitVec 8) (s : State) : Res :=
  let l := s.link port
  possible (linkLive s port && decide (l.state = 1 ∧ l.good = 0#8) && !l.heldState) s fun s =>
    let s := (lanesOf wrong).foldl (fun s x => logLink s port 0 0x0153 0 x) s
    let m := good &&& ~~~wrong
    if laneCount m < 2 then linkDown s port 8
    else
      let s := s.modLink port fun l => { l with good := m }
      let low := match l.peerMask with
        | some p => decide (laneCount (m &&& p) < 2)
        | none => false
      if low then linkDown s port 8
      else sendCtrl s port 1 0 (padTo 32 (s.assetLow ++ [BitVec.ofNat 8 port, m]))

/-- The lane set both sides have (R438). -/
def TPort.laneSet (l : TPort) : BitVec 8 := match l.peerMask with | some p => l.good &&& p | none => 0#8

/-- LINK_TRAIN_COMPLETE (R436-R438, R446): the link is up, and the owner announced. -/
def execLinkTrainComplete (n micros : Nat) (s : State) : Res :=
  runningCmd n 0x0401 s (fun s c => decide ((s.link (c.byte 24)).state = 1 ∧ 2 ≤ laneCount (s.link (c.byte 24)).laneSet))
    fun s c =>
      let t := c.byte 24
      let s := s.modLink t fun l => { l with mask := l.laneSet, trained := l.laneSet }
      let s := setLinkState s t (s.link t).upState
      let s := sendCtrl s t 2 (s.link t).owner []
      doneCmd s c (trainResult (s.link t) micros)

/-- LINK_TRAIN_TIMEOUT: the limit runs out; the port is DOWN with TRAIN_FAIL (Table 04-13). -/
def execLinkTrainTimeout (n : Nat) (s : State) : Res :=
  runningCmd n 0x0401 s (fun _ _ => true) fun s c => linkDown s (c.byte 24) 8

/-- The 128-byte record of LINK_STATUS (Table 16-14). -/
def TPort.record (l : TPort) : List Byte :=
  let k := l.counters
  le 4 k.cwCorrected ++ le 4 k.cwUncorrectable ++ le 4 k.fcrcFail ++ le 4 k.nakSent ++ le 4 k.nakReceived ++
    le 4 k.replayTimeouts ++ le 4 k.laneDrops ++ le 4 k.laneRestores ++
    (List.range 8).flatMap (fun i => le 4 (tget 0 k.symbolErrors i)) ++ le 4 k.screenDiscards ++ le 4 k.protoDowns ++
    [BitVec.ofNat 8 l.downCause, BitVec.ofNat 8 l.lossClass, l.mask, l.trained] ++ le 8 l.peerAsset ++ le 8 l.changedAt.toNat ++ zeros 36

/-- LINK_STATUS (R453, Table 04-13). -/
def execLinkStatus (n : Nat) (wrOk : Bool) (s : State) : Res :=
  runCmd n 0x0402 s fun s c =>
    let l := s.link (c.byte 24)
    okWrite s c (if c.dataLen = 0 then [] else l.record)
      [BitVec.ofNat 8 l.state, l.mask, BitVec.ofNat 8 l.owner, BitVec.ofNat 8 l.span] wrOk

/-- LINK_ASSIGN in its turn (R138, R446, R467). -/
def linkAssign (s : State) (c : Cmd) : State :=
  let t := c.byte 24
  let x := c.byte 25
  let n := c.byte 26
  let l := s.link t
  let r := s.portRec t
  if l.state = 5 then failCmd s c 0x0F 0
  else if x ≠ 255 ∧ ¬(r.owner = x ∧ r.span = n) then refuse s c 0
  else
    let same := decide (l.owner = x ∧ l.span = n)
    let s := if same then s else dropRequests s t
    let s := s.modLink t fun l => { l with owner := x, span := if x = 255 then 0 else n }
    let s := if same then s else settleSlot s l.owner l.span
    let s := if 1 ≤ l.state ∧ l.state ≤ 4 then sendCtrl s t 2 x [] else s
    doneCmd (settleOwner s t) c [BitVec.ofNat 8 l.owner]

/-- LINK_ASSIGN (R446, Table 04-13). -/
def execLinkAssign (n : Nat) (s : State) : Res := runCmd n 0x0403 s linkAssign

end Sys2Proof.Machine
end

