-- ==== Sys2Proof/Machine/Amb.lean ====
section
/-! DEFINITION. The ambulatory's ends (chapter 13): requests at their targets (R383, R385), responses at their initiators
(R380, R387), timeouts (R381), and the drain and fence of a bay (R389-R391). -/

namespace Sys2Proof.Machine

/-! ### The target checks (Table 13-12) -/

/-- ACCESS bits permit an operation: bit 0 reads, bit 1 writes and atomics (R172). -/
def accessAllows (access : Nat) (op : AmbOp) : Bool := if op = .read then bitN access 0 else bitN access 1

/-- The request's bytes end at or below `n`. -/
def reqEnds (f : AmbFlit) (n : Nat) : Bool := decide (f.addr + sizeBytes f.size ≤ n)

/-- A cell serves a chapel in one of these states; EVICTING requests that have reached a target are performed (R388). -/
def ChState.serves : ChState → Bool
  | .formed | .running | .paused | .retiring | .evicting => true
  | _ => false

/-- The check at a cell store. -/
def cellCheck (s : State) (f : AmbFlit) : Bool :=
  decide (f.win = 127 ∧ f.chapel < 192) && decide (s.chapelOfCell f.dest = some f.chapel) && (s.chapel f.chapel).state.serves

/-- Window `w` of chapel `c` in the target tables. -/
def State.targetWindow (s : State) (c w : Nat) : Window := tget Window.fresh s.amb.targets.windows (c * 64 + w)

/-- An HBM address lies in no window and no lectern of the target tables. -/
def hbmFree (s : State) (a : Nat) : Bool :=
  !(s.amb.targets.windows.any fun e => decide (e.2.kind = 1 ∧ e.2.base ≤ a ∧ a < e.2.base + e.2.size)) &&
    !(s.amb.targets.lecterns.any fun e => e.2.defined && decide (e.2.base ≤ a ∧ a < e.2.base + e.2.size))

/-- The check at an HBM controller. -/
def hbmCheck (s : State) (f : AmbFlit) : Bool :=
  if f.win < 64 then
    let w := s.targetWindow f.chapel f.win
    decide (f.chapel < 192 ∧ w.kind = 1 ∧ w.base ≤ f.addr) && reqEnds f (w.base + w.size) && accessAllows w.access f.op
  else if f.win < 72 then
    let l := tget Lectern.fresh s.amb.targets.lecterns (f.win - 64)
    decide (f.chapel < 192) && l.defined && bitN (tget 0 s.amb.targets.grants f.chapel) (f.win - 64) &&
      decide (f.op = .read ∧ l.base ≤ f.addr) && reqEnds f (l.base + l.size)
  else decide (f.win = 127 ∧ f.chapel = 0xFE) && hbmFree s f.addr

/-- The check at a host port. -/
def hostCheck (s : State) (p : HPort) (f : AmbFlit) : Bool :=
  let w := s.targetWindow f.chapel f.win
  decide (f.chapel < 192 ∧ f.win < 64 ∧ w.kind = 2 + portIx p ∧ f.op ≠ .atomic) && reqEnds f w.size &&
    accessAllows w.access f.op

/-- The check at a Transept port's egress. -/
def portCheck (s : State) (t : Nat) (f : AmbFlit) : Bool :=
  decide (f.chapel < 192 ∧ (s.link t).owner = f.chapel ∧ (s.link t).span = f.span)

/-- The target's check passes (R385). -/
def targetCheck (s : State) (f : AmbFlit) : Bool :=
  if f.dest < 0xC00 then cellCheck s f
  else if f.dest < 0xC08 then hbmCheck s f
  else if f.dest < 0xC12 then hostCheck s (portOf (f.dest - 0xC10)) f
  else if f.dest < 0xC2C then portCheck s (f.dest - 0xC20) f
  else false

/-! ### Requests performed -/

/-- A cell performs a request on its store and answers. -/
def performCell (s : State) (f : AmbFlit) : State :=
  let g := f.dest
  let off := f.addr % 524288
  let n := sizeBytes f.size
  let old := Memory.readBytes (s.cell g).store off n
  let put := fun (bs : List Byte) =>
    s.modCell g fun c => { c with store := c.store.writeBytes off (bs.take (524288 - off)) }
  match f.op with
  | .write => respond (put (sliceB f.data (off % 64) n)) f 0 []
  | .atomic =>
    respond (put (le n (atomicNew f.aop n (leNat old) (fieldN f.data 0 8) (fieldN f.data 8 8)))) f 0 old
  | _ => respond s f 0 old

/-- A port forwards a request to its peer under a forward record (R383); while its egress acts as down it answers
LINK_DOWN. -/
def forwardReq (s : State) (t : Nat) (f : AmbFlit) : State :=
  if !(s.link t).up then answerLinkDown s t f
  else match (s.link t).freeForward with
    | some k =>
      let r := flitUnit s f
      queueUnit (r.2.modLink t fun l => { l with forwards := tput Forward.fresh l.forwards k ⟨true, f⟩ }) t 3 r.1
    | none => s

/-- A request that has passed its check is performed, or accepted by what will perform it. -/
def acceptReq (s : State) (f : AmbFlit) : State :=
  if f.dest < 0xC00 then performCell s f
  else if f.dest < 0xC08 then hbmAccept s (f.dest - 0xC00) f
  else if f.dest < 0xC12 then s.modHp (portOf (f.dest - 0xC10)) fun h => { h with reqs := h.reqs ++ [f] }
  else forwardReq s (f.dest - 0xC20) f

/-- The target can take a request now; else it withholds credits (R375, R383). -/
def targetTakes (s : State) (ep : Nat) : Bool :=
  if 0xC10 ≤ ep ∧ ep < 0xC12 then decide ((s.hp (portOf (ep - 0xC10))).reqs.length < 16)
  else if 0xC20 ≤ ep ∧ ep < 0xC2C then !(s.link (ep - 0xC20)).up || (s.link (ep - 0xC20)).freeForward.isSome
  else true

/-- AMB_REQUEST_AT_TARGET (R375, R383, R385, R389): the oldest request ejected to an endpoint. A bay that is not ON
answers ABORTED. -/
def execAmbRequestAtTarget (ep : Nat) (s : State) : Res :=
  match (s.endq ep).reqs with
  | [] => .next s
  | f :: rest => possible (s.mainOn && targetTakes s ep) s fun s =>
    let s := s.modEnd ep fun q => { q with reqs := rest }
    if ep < 0xC00 ∧ (s.bay (bayOf ep)).st ≠ .on then respondErr s f 7 false
    else if targetCheck s f then acceptReq s f
    else refuseReq s f

/-! ### Responses and timeouts -/

/-- AMB_LATE_RSP (R380): at most once per 1 ms. -/
def lateRsp (s : State) (f : AmbFlit) : State :=
  logC s oneMs 0x0131 (epLoc f.dest) f.chapel (ambDetail f f.status)

/-- A tracker waits for this response (R380, R387). -/
def Tracker.matches (t : Tracker) (f : AmbFlit) : Bool :=
  t.busy && t.sent && decide (t.epoch = f.epoch ∧ t.req.chapel = f.chapel)

/-- A response at a cell: of its threads' trackers or of an engine's. -/
def cellResponse (s : State) (g : Nat) (f : AmbFlit) : State :=
  if f.txn < 128 then
    if (tget Tracker.fresh (s.cell g).trackers f.txn).matches f then completeAccess s g f.txn f.status f.data false
    else lateRsp s f
  else if f.txn < 512 then
    let e := (f.txn - 128) / 192
    let k := (f.txn - 128) % 192
    if (tget Tracker.fresh ((s.cell g).eng e).trackers k).matches f then engineResponse s g e k f.status f.data false
    else lateRsp s f
  else lateRsp s f

/-- A response at its initiator. -/
def responseAt (s : State) (ep : Nat) (f : AmbFlit) : State :=
  if ep < 0xC00 then cellResponse s ep f
  else if 0xC20 ≤ ep ∧ ep < 0xC2C then
    if (tget Tracker.fresh (s.link (ep - 0xC20)).trackers f.txn).matches f then
      relayDone s (ep - 0xC20) f.txn f.status f.synth f.poison f.data false
    else lateRsp s f
  else if ep = 0xC30 then
    if (tget Tracker.fresh s.amb.mover.trackers f.txn).matches f then moverResponse s f.txn f.status f.data false
    else lateRsp s f
  else lateRsp s f

/-- AMB_RESPONSE (R379, R380, R384, R387): the oldest response ejected to an endpoint. -/
def execAmbResponse (ep : Nat) (s : State) : Res :=
  match (s.endq ep).rsps with
  | [] => .next s
  | f :: rest => possible s.mainOn s fun s => responseAt (s.modEnd ep fun q => { q with rsps := rest }) ep f

/-- The trackers of a holder. -/
def ownerTrackers (s : State) : TrackerOwner → Tbl Tracker
  | .threads g => (s.cell g).trackers
  | .engine g e => ((s.cell g).eng e).trackers
  | .mover => s.amb.mover.trackers
  | .relay t => (s.link t).trackers

/-- TRACKER_TIMEOUT (R381, R384): a request that was sent is completed by a synthesised TIMEOUT with zero data. -/
def execTrackerTimeout (owner : TrackerOwner) (txn : Nat) (s : State) : Res :=
  let t := tget Tracker.fresh (ownerTrackers s owner) txn
  possible (s.mainOn && t.busy && t.sent) s fun s =>
    match owner with
    | .threads g => completeAccess s g txn 6 (zeros 64) true
    | .engine g e => engineResponse s g e txn 6 (zeros 64) true
    | .mover => moverResponse s txn 6 (zeros 64) true
    | .relay p => relayDone s p txn 6 true false (zeros 64) true

/-! ### Drain and fence (R389-R391) -/

/-- The cells of a bay. -/
def bayCells (b : Nat) : List Nat :=
  (List.range 16).map fun i => cellAt (4 * (b % 16) + i % 4) (4 * (b / 16) + i / 4)

/-- A cell has no tracker outstanding. -/
def Cell.noTrackers (c : Cell) : Bool :=
  !(c.trackers.any fun e => e.2.busy) && !(c.eng0.trackers.any fun e => e.2.busy) && !(c.eng1.trackers.any fun e => e.2.busy)

/-- No flit for the bay is queued at its stop. -/
def stopEmpty (s : State) (b : Nat) : Bool :=
  let d := naveOfBay b
  (naveLanes d).all fun l =>
    let i := s.laneIn l (bayPos b)
    !(i.vcs.any fun e => e.2.any fun f => decide (f.dest < 0xC00 ∧ bayOf f.dest = b)) &&
      !(i.link.any fun e => decide (e.2.dest < 0xC00 ∧ bayOf e.2.dest = b))

/-- Nothing of a bay is left: no tracker, no flit queued, every accepted request answered (Table 13-13). -/
def bayQuiet (s : State) (b : Nat) : Bool :=
  stopEmpty s b && (bayCells b).all fun g =>
    let q := s.endq g
    (s.cell g).noTrackers && q.inject.isEmpty && q.reqs.isEmpty && q.rsps.isEmpty

/-- BAY_FENCE (R389, R391): the stop receives FENCE; while the bay is WAKING the request waits. -/
def execBayFence (bay : Nat) (s : State) : Res :=
  possible (decide (bay < 192) && s.mainOn && (s.bay bay).offWanted && decide ((s.bay bay).st = .on)) s fun s =>
    s.modBay bay fun b => { b with st := .draining }

/-- BAY_DRAINED (R389). -/
def execBayDrained (bay : Nat) (s : State) : Res :=
  possible (decide (bay < 192) && decide ((s.bay bay).st = .draining) && bayQuiet s bay) s fun s =>
    s.modBay bay fun b => { b with st := .fenced }

/-- The busy trackers of a table. -/
def busyKeys (ts : Tbl Tracker) : List Nat := (ts.filter fun e => e.2.busy).map Prod.fst

/-- Every tracker of a cell ends at once with a synthesised ABORTED and a new EPOCH, and its requests that wait at the
stop are not sent (R388, R390). -/
def abortTrackers (s : State) (g : Nat) : State :=
  let s := s.modEnd g fun q => { q with inject := q.inject.filter fun f => decide (f.vnet ≠ 0) }
  let s := (busyKeys (s.cell g).trackers).foldl (fun s k => finishAccess s g k 7 (zeros 64) true) s
  let s := (busyKeys (s.cell g).eng0.trackers).foldl (fun s k => engineResponse s g 0 k 7 (zeros 64) true) s
  (busyKeys (s.cell g).eng1.trackers).foldl (fun s k => engineResponse s g 1 k 7 (zeros 64) true) s

/-- BAY_DRAIN_FORCED (R390). -/
def execBayDrainForced (bay : Nat) (s : State) : Res :=
  possible (decide (bay < 192) && decide ((s.bay bay).st = .draining)) s fun s =>
    let s := (bayCells bay).foldl abortTrackers s
    logC (s.modBay bay fun b => { b with st := .fenced }) 0 0x0135 (locBay bay) 255 []

/-- FENCE_ACK (R389, R391): the power switch opens, and what the bay's cells hold is lost; a power-on request that
waited then runs. -/
def execFenceAck (bay : Nat) (s : State) : Res :=
  possible (decide (bay < 192) && decide ((s.bay bay).st = .fenced)) s fun s =>
    let s := { s with cells := s.cells.filter fun e => decide (bayOf e.1 ≠ bay) }
    s.modBay bay fun b => { st := if b.onWanted then .waking else .off, offWanted := false, onWanted := false }

/-- BAY_POWER_ON_REQUEST (R389, R391): while the bay is DRAINING or FENCED it waits. -/
def execBayPowerOnRequest (bay : Nat) (s : State) : Res :=
  let st := (s.bay bay).st
  possible (decide (bay < 192) && s.mainOn && decide (st = .off ∨ st = .draining ∨ st = .fenced)) s fun s =>
    s.modBay bay fun b => if b.st = .off then { b with st := .waking } else { b with onWanted := true }

/-- BAY_POWER_GOOD (R389): power good, reset released, and the sacristy's unfence. -/
def execBayPowerGood (bay : Nat) (s : State) : Res :=
  possible (decide (bay < 192) && decide ((s.bay bay).st = .waking)) s fun s =>
    s.modBay bay fun b => { b with st := .on }

end Sys2Proof.Machine
end

