-- ==== Sys2Proof/Machine/Belfry.lean ====
section
/-! DEFINITION. The belfry (chapter 20): decimation, the wake detector, wakes, the carafe and its readings. The IMA
ADPCM coder and the CIC structure are published standards (log entry 5). -/

namespace Sys2Proof.Machine

/-! ### Configuration -/

/-- ENABLE[0]: the belfry is enabled (Table 20-3). -/
def cfgOn (cfg : List Byte) : Bool := (byteAt cfg 0).getLsbD 0

/-- The belfry is enabled with channel `c` enabled. -/
def cfgChannel (cfg : List Byte) (c : Nat) : Bool := cfgOn cfg && (byteAt cfg 0).getLsbD (c + 1)

/-- A pattern record (Table 20-4). -/
structure Pattern where
  enabled : Bool
  absent : Bool
  channels : List Nat
  k0 : Nat
  h : Nat
  hrMin : Nat
  prMin : Nat
  levelMin : Int
  levelMax : Int
  hit : Nat
  win : Nat
  rearm : Nat

/-- The record of pattern `i`; disabled with the belfry. -/
def cfgPattern (cfg : List Byte) (i : Nat) : Pattern :=
  let o := patternOff i
  let b := fun k => (byteAt cfg (o + k)).toNat
  { enabled := cfgOn cfg && bitN (b 0) 0, absent := bitN (b 0) 1
    channels := (List.range 3).filter fun c => bitN (b 0) (c + 2)
    k0 := b 1, h := b 2, hrMin := b 3, prMin := b 4
    levelMin := sbyte (byteAt cfg (o + 5)), levelMax := sbyte (byteAt cfg (o + 6))
    hit := b 7, win := b 8, rearm := b 9 }

/-- MICBIAS is driven: the belfry is enabled with a microphone channel enabled (R540). -/
def Belfry.micBias (b : Belfry) : Bool := cfgChannel b.cfg 0 || cfgChannel b.cfg 1

/-! ### Decimation (R542) -/

/-- The integrators take one input: each adds the new value of the one before it. -/
def integrate : BitVec 64 → List (BitVec 64) → List (BitVec 64)
  | _, [] => []
  | x, y :: ys => (x + y) :: integrate (x + y) ys

/-- The comb sections take one input: the delays that remain, and the output. -/
def combs : BitVec 64 → List (BitVec 64) → List (BitVec 64) × BitVec 64
  | x, [] => ([], x)
  | x, y :: ys =>
    let r := combs (x - y) ys
    (x :: r.1, r.2)

/-- A modulator bit as a sample: +1 or −1. -/
def modSample (b : Bool) : BitVec 64 := if b then 1#64 else -1#64

/-- A decimator takes modulator bits. -/
def Cic.feed (c : Cic) (bits : List Bool) : Cic :=
  { c with integ := bits.foldl (fun ys b => integrate (modSample b) ys) c.integ }

/-- The output of a decimator at its lower rate. -/
def Cic.read (c : Cic) : Cic × BitVec 64 :=
  let r := combs (c.integ.getD 4 0#64) c.comb
  ({ c with comb := r.1 }, r.2)

/-- The drip sample of a decimator output: accumulator × 32,767 ÷ 384^5, truncated toward zero (Table 20-2). -/
def dripSample (y : BitVec 64) : Int := Int.tdiv (y.toInt * 32767) (384 ^ 5)

/-- The brew sample of the last 31 decimator outputs; a modulator held at +1 gives +32,767 (R542), all else is the
filter's, whose coefficients the manual does not give. -/
def brewSample (taps : List (BitVec 64)) : BitVec 16 :=
  if taps = List.replicate 31 (BitVec.ofNat 64 (48 ^ 5)) then 0x7FFF#16 else Config.brewFir taps

/-- A channel's brew path takes half a period: 48 modulator bits, one output of the decimator. -/
def Channel.brewHalf (c : Channel) (bits : List Bool) : Channel :=
  let r := (c.brew.feed bits).read
  { c with brew := r.1, taps := (r.2 :: c.taps ++ List.replicate 31 0#64).take 31 }

/-- A channel takes the 96 modulator bits of one brew period, bit 0 first: its state with a drip sample added where the
period's INDEX is a multiple of 4 (R543), and its brew sample. -/
def Channel.period (c : Channel) (index : Nat) (bits : BitVec 96) : Channel × BitVec 16 :=
  let bs := (List.range 96).map fun i => bits.getLsbD i
  let c := (c.brewHalf (bs.take 48)).brewHalf (bs.drop 48)
  let d := c.drip.feed bs
  let c :=
    if index % 4 = 0 then
      let r := d.read
      { c with drip := r.1, frame := c.frame ++ [dripSample r.2] }
    else { c with drip := d }
  (c, brewSample c.taps)

/-! ### IMA ADPCM (R554) -/

/-- The standard step table. -/
def imaSteps : List Nat :=
  [7, 8, 9, 10, 11, 12, 13, 14, 16, 17, 19, 21, 23, 25, 28, 31, 34, 37, 41, 45, 50, 55, 60, 66, 73, 80, 88, 97, 107,
    118] ++
  [130, 143, 157, 173, 190, 209, 230, 253, 279, 307, 337, 371, 408, 449, 494, 544, 598, 658, 724, 796, 876, 963, 1060,
    1166] ++
  [1282, 1411, 1552, 1707, 1878, 2066, 2272, 2499, 2749, 3024, 3327, 3660, 4026, 4428, 4871, 5358, 5894, 6484, 7132,
    7845] ++
  [8630, 9493, 10442, 11487, 12635, 13899, 15289, 16818, 18500, 20350, 22385, 24623, 27086, 29794, 32767]

/-- The standard index table, by the three magnitude bits of a code. -/
def imaIndex (mag : Nat) : Int := [(-1 : Int), -1, -1, -1, 2, 4, 6, 8].getD mag 0

/-- One sample encoded: its code, the predictor and the step index behind it. -/
def imaEncode (pred : Int) (ix : Nat) (x : Int) : Nat × Int × Nat :=
  let st : Int := imaSteps.getD ix 0
  let d0 := (x - pred).natAbs
  let b2 := decide (st ≤ d0)
  let d1 : Int := if b2 then d0 - st else d0
  let b1 := decide (st / 2 ≤ d1)
  let d2 : Int := if b1 then d1 - st / 2 else d1
  let b0 := decide (st / 4 ≤ d2)
  let mag := (if b2 then 4 else 0) + (if b1 then 2 else 0) + (if b0 then 1 else 0)
  let dv : Int := st / 8 + (if b2 then st else 0) + (if b1 then st / 2 else 0) + (if b0 then st / 4 else 0)
  let neg := decide (x < pred)
  let pred := max (-32768) (min 32767 (if neg then pred - dv else pred + dv))
  ((if neg then 8 else 0) + mag, pred, (max 0 (min 88 ((ix : Int) + imaIndex mag))).toNat)

/-- The bytes of nibbles, the first of a pair low. -/
def nibbles : List Nat → List Byte
  | a :: b :: r => BitVec.ofNat 8 (a + 16 * b) :: nibbles r
  | [a] => [BitVec.ofNat 8 a]
  | [] => []

/-- The encoder takes one sample. -/
def Adpcm.push (a : Adpcm) (x : BitVec 16) : Adpcm :=
  let a := if a.codes.isEmpty then { a with headPred := a.pred, headStep := a.step } else a
  let r := imaEncode a.pred a.step x.toInt
  { a with pred := r.2.1, step := r.2.2, codes := a.codes ++ [r.1] }

/-- The 132 bytes of a block (R554). -/
def Adpcm.block (a : Adpcm) : List Byte :=
  le 2 (a.headPred % 65536).toNat ++ [BitVec.ofNat 8 a.headStep, 0#8] ++ nibbles a.codes

/-! ### The wake detector (R547, R548) -/

/-- cos(2π·k/256) for k from 0 to 64, each correctly rounded to binary32. -/
def cosQuarter : List Nat :=
  [0x3F800000, 0x3F7FEC43, 0x3F7FB10F, 0x3F7F4E6D, 0x3F7EC46D, 0x3F7E1324, 0x3F7D3AAC, 0x3F7C3B28, 0x3F7B14BE, 0x3F79C79D, 0x3F7853F8, 0x3F76BA07, 0x3F74FA0B] ++
  [0x3F731447, 0x3F710908, 0x3F6ED89E, 0x3F6C835E, 0x3F6A09A7, 0x3F676BD8, 0x3F64AA59, 0x3F61C598, 0x3F5EBE05, 0x3F5B941A, 0x3F584853, 0x3F54DB31, 0x3F514D3D] ++
  [0x3F4D9F02, 0x3F49D112, 0x3F45E403, 0x3F41D870, 0x3F3DAEF9, 0x3F396842, 0x3F3504F3, 0x3F3085BB, 0x3F2BEB4A, 0x3F273656, 0x3F226799, 0x3F1D7FD1, 0x3F187FC0] ++
  [0x3F13682A, 0x3F0E39DA, 0x3F08F59B, 0x3F039C3D, 0x3EFC5D27, 0x3EF15AEA, 0x3EE63375, 0x3EDAE880, 0x3ECF7BCA, 0x3EC3EF15, 0x3EB8442A, 0x3EAC7CD4, 0x3EA09AE5] ++
  [0x3E94A031, 0x3E888E93, 0x3E78CFCC, 0x3E605C13, 0x3E47C5C2, 0x3E2F10A2, 0x3E164083, 0x3DFAB273, 0x3DC8BD36, 0x3D96A905, 0x3D48FB30, 0x3CC90AB0, 0x00000000]

/-- The negation of a binary32 value. -/
def fneg32 (x : Nat) : Nat := if bitN x 31 then x - 2 ^ 31 else x + 2 ^ 31

/-- cos(2π·k/256), correctly rounded. -/
def cos256 (k : Nat) : Nat :=
  let j := k % 256
  let h := if j ≤ 128 then j else 256 - j
  if h ≤ 64 then cosQuarter.getD h 0 else fneg32 (cosQuarter.getD (128 - h) 0)

/-- sin(2π·k/256), correctly rounded. -/
def sin256 (k : Nat) : Nat := cos256 (k + 192)

/-- An integer as a binary32 value. -/
def intToF32 (x : Int) : Nat := fenc f32 (fvOfInt x)

/-- The sum of binary32 values, in order, each rounded. -/
def fsum (xs : List Nat) : Nat := xs.foldl (fadd f32) 0

/-- The windowed samples x[n]·w[n]. -/
def windowed (xs : List Nat) : List Nat :=
  let half := 0x3F000000
  xs.zipIdx.map fun e => fmul f32 e.1 (fsub f32 half (fmul f32 half (cos256 e.2)))

/-- |X[m]|² of windowed samples. -/
def spectrumAt (ys : List Nat) (m : Nat) : Nat :=
  let re := fsum (ys.zipIdx.map fun e => fmul f32 e.1 (cos256 (m * e.2)))
  let im := fneg32 (fsum (ys.zipIdx.map fun e => fmul f32 e.1 (sin256 (m * e.2))))
  fadd f32 (fmul f32 re re) (fmul f32 im im)

/-- |X[m]|² for m from 0 to 127. -/
def spectrum (xs : List Nat) : List Nat :=
  let ys := windowed xs
  (List.range 128).map (spectrumAt ys)

/-- HR of a spectrum (R547). -/
def harmonicRatio (sp : List Nat) (k0 h : Nat) : Nat :=
  let t := fsum (sp.drop 1)
  let at' := fun m => sp.getD m 0
  let b := (List.range h).map fun i =>
    let m := (i + 1) * k0
    fminmax f32 true (fminmax f32 true (at' (m - 1)) (at' m)) (at' (m + 1))
  if feq f32 t 0 then 0 else fdiv f32 (fsum b) t

/-- P of a fundamental bin: 256 ÷ K0 to the nearest, halves up (R547). -/
def periodOf (k0 : Nat) : Nat := (512 + k0) / (2 * k0)

/-- The sum of squares of the samples. -/
def energy (xs : List Nat) : Nat := fsum (xs.map fun x => fmul f32 x x)

/-- PR of the samples (R547). -/
def periodicity (xs : List Nat) (k0 : Nat) : Nat :=
  let e := energy xs
  if feq f32 e 0 then 0
  else fdiv f32 (fsum ((xs.zip (xs.drop (periodOf k0))).map fun p => fmul f32 p.1 p.2)) e

/-- LEVEL of the samples (R547); minus infinity for silence. -/
def levelOf (xs : List Nat) : Nat :=
  let e := energy xs
  let full := fmul f32 (intToF32 256) (fmul f32 (intToF32 32767) (intToF32 32767))
  if feq f32 e 0 then 0xFF800000
  else fmul f32 (intToF32 10) (Config.log10 (BitVec.ofNat 32 (fdiv f32 e full))).toNat

/-- A threshold of x/256. -/
def per256 (x : Nat) : Nat := fdiv f32 (intToF32 x) (intToF32 256)

/-- Samples of one channel meet a pattern (R548). -/
def Pattern.met (p : Pattern) (samples : List Int) : Bool :=
  let xs := samples.map intToF32
  fle f32 (per256 p.hrMin) (harmonicRatio (spectrum xs) p.k0 p.h) &&
    (decide (p.prMin = 0) || fle f32 (per256 p.prMin) (periodicity xs p.k0)) &&
    fle f32 (intToF32 p.levelMin) (levelOf xs) && fle f32 (levelOf xs) (intToF32 p.levelMax)

/-- A frame matches a pattern (R548). -/
def Pattern.matched (p : Pattern) (samples : List (List Int)) : Bool :=
  p.channels.any (fun c => p.met (samples.getD c [])) != p.absent

/-- The detector of a pattern takes one frame's outcome: its new state, and whether it wakes (R549). -/
def PatState.next (d : PatState) (p : Pattern) (m : Bool) : PatState × Bool :=
  let hist := (m :: d.hist).take p.win
  if d.armed && decide (p.hit ≤ (hist.filter id).length) then (⟨false, [], 0⟩, true)
  else if d.armed then ({ d with hist := hist }, false)
  else
    let quiet := if m then 0 else d.quiet + 1
    if p.rearm ≤ quiet then (⟨true, hist, 0⟩, false) else (⟨false, hist, quiet⟩, false)

/-! ### Wakes (R551, R552, R562) -/

/-- The carafe is unsealed by a wake, where it is sealed (R552). -/
def Belfry.unsealed (b : Belfry) (index : Nat) (synthetic : Bool) : Belfry :=
  if b.sealed then { b with sealed := false, wakeIndex := index, synthetic := synthetic } else b

/-- A pattern wakes, or a synthetic wake acts as one (R551, R552, R562, R563). -/
def patternWake (s : State) (i index : Nat) (synthetic : Bool) : State :=
  let b := { s.bel.unsealed index synthetic with
    wakes := satInc 0xFFFFFFFF s.bel.wakes, lastPattern := i, lastSynthetic := synthetic }
  let s := { s with bel := b }
  if s.pw.recording then wakeSource s 0x13
  else
    let t := s.tsNow
    post s wakeCode 255 ([0x13#8, 0#8] ++ zeros 6 ++ le 8 t.toNat)

/-- The detector decides pattern `i` of a frame (R547-R550). -/
def decidePattern (f : FrameDue) (s : State) (i : Nat) : State :=
  let p := cfgPattern s.bel.cfg i
  if !p.enabled then s
  else
    let r := (tget PatState.fresh s.bel.patterns i).next p (p.matched f.samples)
    let s := { s with bel := { s.bel with patterns := tput PatState.fresh s.bel.patterns i r.1 } }
    if r.2 then patternWake s i (4 * (256 * f.number + 256)) false else s

/-- A configuration takes effect (R546): both histories zero, detectors armed anew, two frames excluded. -/
def applyCfg (b : Belfry) (cfg : List Byte) : Belfry :=
  { b with cfg := cfg, brew := [], blocks := [], excluded := 2
           patterns := ((List.range 4).filter fun i => (cfgPattern cfg i).enabled).map fun i => (i, ⟨true, [], 0⟩) }

/-- The frame that waits is decided, and the configuration behind it takes effect (R546, R550). -/
def decideFrame (s : State) : State :=
  match s.bel.due with
  | none => s
  | some f =>
    let s := { s with bel := { s.bel with due := none } }
    let s :=
      if s.bel.excluded ≠ 0 then { s with bel := { s.bel with excluded := s.bel.excluded - 1 } }
      else (List.range 4).foldl (decidePattern f) s
    match f.cfg with
    | some c => { s with bel := applyCfg s.bel c }
    | none => s

/-- DRIP_FRAME_END (R546-R552): a drip frame has ended and is decided. -/
def execDripFrameEnd (s : State) : Res := possible s.bel.due.isSome s decideFrame

/-! ### The carafe (R543, R553, R554) -/

/-- Entries the brew ring and the ADPCM ring hold. -/
def brewSize : Nat := 26484
/-- Blocks the ADPCM ring holds. -/
def blockCount : Nat := 414

/-- A brew entry no sample stands in. -/
def noSamples : List (BitVec 16) := List.replicate 3 0#16
/-- An ADPCM entry of zeros. -/
def noBlock : List Byte := zeros 396

/-- Channel `c` takes its bits of a period; a disabled one yields zero samples and keeps nothing (R542). -/
def Belfry.channelPeriod (b : Belfry) (c : Nat) (bits : BitVec 96) : Belfry × BitVec 16 :=
  let ch := tget Channel.fresh b.channels c
  let r :=
    if cfgChannel b.cfg c then ch.period b.live bits
    else (Channel.mk {} {} [] (if b.live % 4 = 0 then ch.frame ++ [0] else ch.frame) ch.adpcm, 0#16)
  let enc := if cfgOn b.cfg then r.1.adpcm.push r.2 else {}
  ({ b with channels := tput Channel.fresh b.channels c { r.1 with adpcm := enc } }, r.2)

/-- A block of the three encoders, and the encoders ready for the next. -/
def Belfry.takeBlock (b : Belfry) : Belfry × List Byte :=
  let chan := fun c => tget Channel.fresh b.channels c
  let bytes := (List.range 3).flatMap fun c => (chan c).adpcm.block
  let next := fun (t : Tbl Channel) c =>
    tput Channel.fresh t c { chan c with adpcm := { (chan c).adpcm with codes := [] } }
  let b' := { b with channels := (List.range 3).foldl next b.channels }
  (b', if cfgOn b.cfg then bytes else noBlock)

/-- A drip frame is over: its samples wait for the detector, with the configuration that now takes effect. -/
def Belfry.takeFrame (b : Belfry) : Belfry :=
  let chan := fun c => tget Channel.fresh b.channels c
  let due := FrameDue.mk (b.live / 1024 - 1) ((List.range 3).map fun c => (chan c).frame) b.next
  let next := fun (t : Tbl Channel) c => tput Channel.fresh t c { chan c with frame := [] }
  { b with channels := (List.range 3).foldl next b.channels, due := some due, next := none }

/-- Brew and ADPCM entries of INDEX `live`: the oldest make room. -/
def Belfry.store (b : Belfry) (samples : List (BitVec 16)) : Belfry :=
  let ring := tput noSamples b.brew b.live samples
  { b with live := (b.live + 1) % 2 ^ 64, brew := if brewSize ≤ b.live then tdel ring (b.live - brewSize) else ring }

/-- Block `live / 256 - 1` is complete. -/
def Belfry.closeBlock (b : Belfry) : Belfry :=
  if b.live % 256 ≠ 0 then b
  else
    let k := b.live / 256 - 1
    let r := b.takeBlock
    let ring := tput noBlock r.1.blocks k r.2
    { r.1 with blocks := if blockCount ≤ k then tdel ring (k - blockCount) else ring }

/-- One brew sample period (R543). -/
def Belfry.period (b : Belfry) (b0 b1 b2 : BitVec 96) : Belfry :=
  let r0 := b.channelPeriod 0 b0
  let r1 := r0.1.channelPeriod 1 b1
  let r2 := r1.1.channelPeriod 2 b2
  let b := (r2.1.store [r0.2, r1.2, r2.2]).closeBlock
  if b.live % 1024 = 0 then b.takeFrame else b

/-- BREW_SAMPLE_PERIOD (R542, R543, R553, R554): 1,536 KCLK cycles pass. A frame not yet decided is decided before a new
configuration's first period, and before the next frame ends (R546, R550). -/
def execBrewSamplePeriod (b0 b1 b2 : BitVec 96) (s : State) : Res :=
  possible s.pw.porDone s fun s =>
    let late := match s.bel.due with
      | some f => f.cfg.isSome || decide (s.bel.live % 1024 = 1023)
      | none => false
    let s := s.when late decideFrame
    { s with bel := s.bel.period b0 b1 b2 }

/-! ### Service commands -/

/-- SVC_BELFRY_CFG (R544-R546). -/
def execSvcBelfryCfg (n : Nat) (s : State) : Res :=
  runCmd n 0x0602 s fun s c =>
    if !s.bel.sealed then refuse s c 0x31
    else
      let s := { s with bel := { s.bel with next := some c.plain }, flash := { s.flash with belfry := some c.plain } }
      doneCmd s c []

/-- The range a read delivers: its first INDEX, its count, and whether START was older than the oldest held (R560). -/
def readRange (start want oldest limit : Nat) : Nat × Nat × Bool :=
  let first := if start = 2 ^ 64 - 1 then oldest else max start oldest
  (first, min want (limit - first), decide (start < oldest))

/-- The range of a read of a ring (R560): WHICH 0 brew, 1 ADPCM. -/
def Belfry.range (b : Belfry) (which start want : Nat) : Nat × Nat × Bool :=
  if which = 0 then readRange start want (b.live - brewSize) b.live
  else readRange start want (256 * (b.live / 256 - blockCount)) (256 * (b.live / 256))

/-- The samples of a range (Table 20-9). -/
def Belfry.samples (b : Belfry) (which first count : Nat) : List Byte :=
  if which = 0 then
    (List.range count).flatMap fun i => (tget noSamples b.brew (first + i)).flatMap fun x => le 2 x.toNat
  else (List.range (count / 256)).flatMap fun i => tget noBlock b.blocks (first / 256 + i)

/-- The reply plaintext (Table 20-8) before it is padded, and its sample bytes. -/
def Belfry.reply (b : Belfry) (which start want : Nat) (reseals : Bool) : List Byte × Nat :=
  let r := b.range which start want
  let data := b.samples which r.1 r.2.1
  let flags := (if r.2.2 then 1 else 0) + (if b.synthetic then 2 else 0) + (if reseals then 4 else 0)
  (le 8 r.1 ++ le 4 r.2.1 ++ [BitVec.ofNat 8 flags, BitVec.ofNat 8 (bitsN (byteAt b.cfg 0).toNat 3 1)] ++ zeros 2 ++
    le 8 b.live ++ le 8 b.wakeIndex ++ data, data.length)

/-- SVC_BELFRY_READ (R555-R560): a read is one step. -/
def execSvcBelfryRead (n : Nat) (wrOk : Bool) (s : State) : Res :=
  runCmd n 0x0603 s fun s c =>
    if s.bel.sealed then refuse s c 0x30
    else
      let reseals := bitN (byteAt c.plain 12).toNat 0
      let r := s.bel.reply (c.byte 24) (fieldN c.plain 0 8) (fieldN c.plain 8 4) reseals
      let s := okWrite s c (sealReply s c (padTo c.plain.length r.1)) (le 4 (32 + r.2)) wrOk
      if reseals then reseal s else s

/-- RESEAL_TIMEOUT (R556): the 30 s or the 120 s timer runs out. -/
def execResealTimeout (_total : Bool) (s : State) : Res :=
  possible (s.pw.porDone && !s.bel.sealed) s reseal

end Sys2Proof.Machine
end

