-- ==== Sys2Proof/Machine/Reset.lean ====
section
/-! DEFINITION. The package reset (R39, R41, R42, R140, R470, R474). -/

namespace Sys2Proof.Machine

/-- What a package reset leaves of a host port: its link, its configuration space and its rings, by which the PKG_RESET
completes (Tables 02-2, 04-9). -/
def HostPort.afterReset (h : HostPort) : HostPort :=
  { h with reads := [], reqs := [], writes := [], latch := none, er := { h.er with pPosted := 0 } }

/-- What a package reset leaves of an HBM controller: that its stack failed training, which only a main power-on ends
(R421). -/
def Stack.afterReset (x : Stack) : Stack := if x.train = 3 then { train := 3 } else {}

/-- FAULT_STATUS and PKG_FAULTED after a package reset: K_FAULTS and the logs stay (R470, R474, R475). -/
def Faults.afterReset (f : Faults) : Faults :=
  { f with pkgFaulted := false, pLatched := false, pCause := 0, pTstamp := 0#64, departing := none }

/-- The package reset: its capsule is made, every main domain but the host links is reset, and the bring-up goes on from
cycle 12,100 (R42, R479). HBM contents stay. -/
def packageReset (s : State) : State :=
  let s := makeCapsule s 4 0
  newEpoch { s with
    pw := { s.pw with phase := .chancels }
    heat := {}
    flt := s.flt.afterReset
    h0 := s.h0.afterReset, h1 := s.h1.afterReset
    feb := { s.feb with lecterns := [] }
    chapels := [], cells := [], amb := {}, aisleBays := [], links := []
    hbmStacks := (s.hbmStacks.map fun e => (e.1, e.2.afterReset)).filter fun e => decide (e.2 ≠ Stack.fresh) }

/-- Every chapel is EMPTY. -/
def State.allEmpty (s : State) : Bool := chapelIds.all fun c => decide ((s.chapel c).state = .empty)

/-- A PKG_RESET that waited for its evicts runs the reset. -/
def settleReset (s : State) : State :=
  if s.allEmpty && decide (s.pw.phase = .ready) &&
      s.feb.cmds.any (fun k => decide (k.stage = .running ∧ k.opcode = 0x0002)) then packageReset s
  else s

end Sys2Proof.Machine
end

