-- ==== Sys2Proof/Machine/Chapels.lean ====
section
/-! DEFINITION. The chapel opcodes of Table 04-10 and the transitions of Table 05-2. -/

namespace Sys2Proof.Machine

/-- The chapel a command names at [24]. -/
def Cmd.ch (c : Cmd) : Nat := c.byte 24

/-- INTERLOCK_OPEN: the package sheds, is at the service floor or awaits PKG_INTERLOCK_ACK (R55). -/
def State.interlockBlocks (s : State) : Bool := decide (s.heat.shed ≠ .none) || s.heat.ackNeeded

/-- Command `n` waits for a transition of what it names (R116). -/
def cmdWaits (s : State) (n : Nat) (moves : State → Cmd → Bool) : Bool :=
  match s.cmd n with
  | some c => moves s c
  | none => false

/-- Its chapel is on its way to PAUSED. -/
def pausingFor (s : State) (c : Cmd) : Bool :=
  decide ((s.chapel c.ch).state = .running) && (s.chapel c.ch).pausing

/-! ### CHAPEL_CREATE -/

/-- Some stack failed training (R421). -/
def State.hbmDown (s : State) : Bool := (List.range 8).any fun m => decide ((s.stack m).train = 3)

/-- The bays CHAPEL_CREATE names. -/
def Cmd.createBays (c : Cmd) : List Nat := rectBays (fieldN c.entry 26 2) (c.byte 28) (c.byte 29)

/-- A bay is on its way off or on (R116, R391). -/
def Bay.moves (b : Bay) : Bool := !decide (b.st = .off ∨ (b.st = .on ∧ b.offWanted = false))

/-- Some bay of the rectangle, not in TRIP, is on its way off or on. -/
def createWaits (s : State) (c : Cmd) : Bool :=
  !(c.createBays.any fun b => decide ((s.sensor b).state = 3)) && c.createBays.any fun b => (s.bay b).moves

/-- The rectangle equals the chapel's in the current screen. -/
def ChapelRec.rect (r : ChapelRec) (origin width height : Nat) : Bool :=
  r.valid && decide (r.origin = origin ∧ r.width = width ∧ r.height = height)

/-- The chapel's tables, its bays' power, and its cells all zero (R178, R328, R386). -/
def formChapel (s : State) (c : Nat) (h : Chapel) (grant : Nat) : State :=
  let s := { s with
    cells := s.cells.filter fun e => !h.holds e.1
    aisleBays := s.aisleBays.filter fun e => !h.bays.contains e.1
    amb := { s.amb with targets := { s.amb.targets with grants := tput 0 s.amb.targets.grants c grant } } }
  let s := h.bays.foldl (fun s b => s.modBay b fun _ => { st := .on }) s
  setChState (s.modChapel c fun x => { h with changedAt := x.changedAt }) c .formed

/-- CHAPEL_CREATE (R41, R63, R128, R178, R391, R421, R459). -/
def execChapelCreate (n : Nat) (s : State) : Res :=
  if cmdWaits s n createWaits then .next s
  else runCmd n 0x0101 s fun s c =>
    let o := fieldN c.entry 26 2
    let w := c.byte 28
    let t := c.byte 29
    let r := s.chapelRec c.ch
    if (s.chapel c.ch).state ≠ .empty ∨ r.rect o w t = false then refuse s c 0
    else if c.createBays.any fun b => decide ((s.sensor b).state = 3) then failCmd s c 4 0x102
    else if s.hbmDown then failCmd s c 4 0x81
    else
      let h : Chapel := { policy := c.byte 25, origin := o, width := w, height := t }
      doneCmd (formChapel s c.ch h r.grant) c (le 2 h.ncells ++ le 2 (w * t))

/-! ### CHAPEL_LAUNCH -/

/-- CHAPEL_LAUNCH (R55, R64, R163). -/
def execChapelLaunch (n : Nat) (s : State) : Res :=
  runCmd n 0x0102 s fun s c =>
    let h := s.chapel c.ch
    if h.state ≠ .formed then refuse s c 0
    else if s.interlockBlocks then failCmd s c 0x0D 0
    else if h.tripped then failCmd s c 4 0x102
    else
      let ts := maskTids (BitVec.ofNat 16 (fieldN c.entry 26 2))
      let x := Ctx.started (fieldN c.entry 32 4) (BitVec.ofNat 64 (fieldN c.entry 40 8)) h.cycles.toNat
      let s := s.modCells c.ch fun cell => ts.foldl (fun cell t => cell.modCtx t fun _ => x) cell
      let s := setChState (s.modChapel c.ch fun h => { h with drained := false }) c.ch .running
      doneCmd s c (le 4 (h.ncells * ts.length))

/-! ### Pauses -/

/-- A RUNNING chapel is PAUSED with these flags: CHAPEL_PAUSE commands complete with the count of threads stopped hard,
and an ending departure pause sets DEPARTED (R465, Table 04-10). -/
def becomePaused (s : State) (c hard : Nat) (flags : Chapel → Chapel) : State :=
  let s := s.modChapel c fun h =>
    flags { h with pausing := false, departing := false, departed := h.departed || h.departing }
  let s := setChState s c .paused
  (s.runningOn c 0x0103).foldl (fun s k => doneCmd s k (le 4 hard)) s

/-- CHAPEL_PAUSE (R195). -/
def execChapelPause (n : Nat) (s : State) : Res :=
  runCmd n 0x0103 s fun s c => if (s.chapel c.ch).state = .running then askStopChapel s c.ch else refuse s c 0

/-- PAUSE_COMPLETE (R195): the last thread has reached a safe point. -/
def execPauseComplete (chapel : Nat) (s : State) : Res :=
  let h := s.chapel chapel
  possible (decide (chapel < 192 ∧ h.state = .running) && h.pausing && (s.liveThreads chapel).isEmpty) s fun s =>
    becomePaused s chapel 0 id

/-- CHAPEL_PAUSE_TIMEOUT: the remaining threads stop at the next instruction boundary (Table 04-10). -/
def execChapelPauseTimeout (n : Nat) (s : State) : Res :=
  runningCmd n 0x0103 s (fun _ _ => true) fun s c =>
    let hard := (s.liveThreads c.ch).length
    let s := completeCmd (touch (hardStopChapel s c.ch) n c.objs) c 6 0 (le 4 hard) false .nothing
    becomePaused s c.ch hard fun h => { h with pauseHard := true }

/-- DEPARTURE_PAUSE_HARD (R465): at 1 ms the remaining threads of a departure pause stop hard. -/
def execDeparturePauseHard (chapel : Nat) (s : State) : Res :=
  let h := s.chapel chapel
  possible (decide (chapel < 192 ∧ h.state = .running) && h.departing) s fun s =>
    let hard := (s.liveThreads chapel).length
    becomePaused (hardStopChapel s chapel) chapel hard fun h => { h with pauseHard := true }

/-- Some port the chapel owns is FENCED (R468). -/
def State.ownsFenced (s : State) (c : Nat) : Bool :=
  (List.range 12).any fun t => decide ((s.link t).owner = c ∧ (s.link t).state = 5)

/-- CHAPEL_RESUME (R55, R116, R195, R468). -/
def execChapelResume (n : Nat) (s : State) : Res :=
  if cmdWaits s n pausingFor then .next s
  else runCmd n 0x0104 s fun s c =>
    let h := s.chapel c.ch
    if h.state ≠ .paused then refuse s c 0
    else if s.interlockBlocks then failCmd s c 0x0D 0
    else if h.departed && s.ownsFenced c.ch then refuse s c 0x91
    else
      let s := s.modChapel c.ch fun h =>
        { h with drained := false, pauseHard := false, shedHard := false, departed := false }
      let s := setChState (s.modCells c.ch Cell.resume) c.ch .running
      settleChapel (doneCmd s c []) c.ch

/-! ### Evict -/

/-- A cell after its threads have gone at an evict (R320, Tables 06-7, 09-9): engines stop ABORTED, the choir's pass is
abandoned, copies and trackers of the aisle are dropped. -/
def Cell.evicted (x : Cell) : Cell :=
  let stop := fun (e : Slype) => if e.mode = 0 then e else e.idle 7 0
  { x with
    ctxs := [], waiters := [], barrier := none, choir := {}, tally := {}, eng0 := stop x.eng0, eng1 := stop x.eng1
    turns := x.turns.map fun e => (e.1, { e.2 with records := [] })
    chanTx := [], chanRx := [], arrivals := [], uni := { x.uni with assured := [], casts := [] } }

/-- A chapel becomes EVICTING (Table 04-10, R388): every thread stops and is gone, every tracker completes ABORTED. -/
def evictChapel (s : State) (c : Nat) : State :=
  let s := setChState (s.modChapel c fun h => { h with pausing := false, departing := false, shedHeld := false }) c
    .evicting
  let cells := (s.chapel c).cells
  let s := s.modCells c fun x => { x with ctxs := [] }
  let s := cells.foldl abortTrackers s
  let s := cells.foldl abandonPass s
  s.modCells c Cell.evicted

/-- BUSY and SUSPENDED engines of a chapel. -/
def State.copies (s : State) (c : Nat) : Nat :=
  ((s.chapel c).cells.map fun g =>
    (if (s.cell g).eng0.mode = 0 then 0 else 1) + (if (s.cell g).eng1.mode = 0 then 0 else 1)).sum

/-- CHAPEL_EVICT (R388). -/
def execChapelEvict (n : Nat) (s : State) : Res :=
  runCmd n 0x0106 s fun s c =>
    if (s.chapel c.ch).state = .empty then refuse s c 0
    else
      let s := s.modCmd n fun k => { k with count := (s.liveThreads c.ch).length, count2 := s.copies c.ch }
      evictChapel s c.ch

/-- An ambulatory request of chapel `c`. -/
def AmbFlit.reqOf (f : AmbFlit) (c : Nat) : Bool := decide (f.vnet = 0 ∧ f.chapel = c)

/-- A controller holds a request of the chapel. -/
def Stack.holdsReq (x : Stack) (c : Nat) : Bool :=
  (x.queue.any fun a => match a with
    | .req f => decide (f.chapel = c)
    | .block _ _ => false) || x.entries.any fun e => e.waiting.any fun j => decide (j.req.chapel = c)

/-- A host port holds a request of the chapel. -/
def HostPort.holdsReq (h : HostPort) (c : Nat) : Bool :=
  (h.reqs.any fun f => decide (f.chapel = c)) || (h.reads.any fun e => decide (e.2.chapel = c)) ||
    h.writes.any fun w => decide (w.req.chapel = c)

/-- A Transept port holds a request of the chapel: relayed for the peer, waiting, or sent to the peer. -/
def TPort.holdsReq (l : TPort) (c : Nat) : Bool :=
  (l.trackers.any fun e => e.2.busy && decide (e.2.req.chapel = c)) || (l.relayWait.any fun f => decide (f.chapel = c)) ||
    l.forwards.any fun e => e.2.used && decide (e.2.req.chapel = c)

/-- Every request of the chapel has been answered (R388). -/
def State.requestsDone (s : State) (c : Nat) : Bool :=
  !(s.amb.lanes.any fun e => (e.2.vcs.any fun v => v.2.any (·.reqOf c)) || e.2.link.any fun v => v.2.reqOf c) &&
    !(s.amb.ends.any fun e => e.2.inject.any (·.reqOf c) || e.2.reqs.any (·.reqOf c)) &&
    !(s.hbmStacks.any fun e => e.2.holdsReq c) && !s.h0.holdsReq c && !s.h1.holdsReq c &&
    !(s.links.any fun e => e.2.holdsReq c)

/-- An EVICTING chapel becomes EMPTY, and what waited for it completes: CHAPEL_EVICT, an escalated CHAPEL_RETIRE, a
PKG_RESET with FORCE (Tables 04-9, 04-10). -/
def evictDone (s : State) (c : Nat) : State :=
  let s := teardown s c
  let s := (s.runningOn c 0x0106).foldl (fun s k => doneCmd s k (le 4 k.count ++ le 4 k.count2)) s
  let s := (s.runningOn c 0x0105).foldl (fun s k => doneCmd s k (le 4 k.count ++ [1#8])) s
  settleReset s

/-- EVICT_TEARDOWN_COMPLETE (R132, R388). -/
def execEvictTeardownComplete (chapel : Nat) (s : State) : Res :=
  possible (decide (chapel < 192 ∧ (s.chapel chapel).state = .evicting) && s.requestsDone chapel) s fun s =>
    evictDone s chapel

/-! ### CHAPEL_RETIRE -/

/-- CHAPEL_RETIRE (R166, Table 05-2): a FORMED chapel has no threads to wait for; a RUNNING one becomes RETIRING. -/
def execChapelRetire (n : Nat) (s : State) : Res :=
  if cmdWaits s n pausingFor then .next s
  else runCmd n 0x0105 s fun s c => match (s.chapel c.ch).state with
    | .formed => doneCmd (teardown s c.ch) c (zeros 5)
    | .running => settleChapel (setChState s c.ch .retiring) c.ch
    | .retiring => settleChapel s c.ch
    | _ => refuse s c 0

/-- CHAPEL_RETIRE_TIMEOUT: with ESCALATE the chapel is evicted, else it stays RETIRING (Table 04-10). -/
def execChapelRetireTimeout (n : Nat) (s : State) : Res :=
  runningCmd n 0x0105 s (fun _ c => !c.escalated) fun s c =>
    let left := (s.threads c.ch).length
    if c.byte 25 % 2 = 1 then
      evictChapel (s.modCmd n fun k => { k with escalated := true, count := left }) c.ch
    else completeCmd (touch s n c.objs) c 6 0 (le 4 left ++ [0#8]) false .nothing

/-! ### CHAPEL_QUERY -/

/-- The chapel's rectangle: its own, or while it is EMPTY that of its record in the current screen. -/
def State.rectOf (s : State) (c : Nat) : Chapel :=
  let h := s.chapel c
  let r := s.chapelRec c
  if h.state = .empty then { h with origin := r.origin, width := r.width, height := r.height } else h

/-- The aisle record of a bay (Table 10-9). -/
def BayAisle.bytes (b : BayAisle) : List Byte :=
  le 4 b.chkFail ++ le 4 b.resends ++ le 4 b.exhausted ++ le 4 b.duplicates ++ le 2 b.lastChkSrc ++ le 2 b.lastChkDest ++
    le 2 b.lastResendDest ++ [BitVec.ofNat 8 b.lastChkRoute, 0#8] ++ le 8 b.lastChkTstamp.toNat

/-- RESULT of CHAPEL_QUERY (Table 04-10). -/
def queryResult (s : State) (c : Nat) : List Byte :=
  let h := s.rectOf c
  [BitVec.ofNat 8 h.state.code, BitVec.ofNat 8 h.policy, BitVec.ofNat 8 h.flags, BitVec.ofNat 8 h.lastClass] ++
    le 2 h.lastCause ++ le 2 h.origin ++ [BitVec.ofNat 8 h.width, BitVec.ofNat 8 h.height] ++
    le 4 (s.liveThreads c).length ++ zeros 2

/-- CHAPEL_QUERY (R328, Table 04-10). -/
def execChapelQuery (n : Nat) (wrOk : Bool) (s : State) : Res :=
  runCmdPre n 0x0107 s
    (fun s c => if c.dataLen ≠ 0 ∧ c.dataLen < 32 * (s.rectOf c.ch).bays.length then some (1, 16) else none)
    fun s c =>
      let data := if c.dataLen = 0 ∨ (s.chapel c.ch).state = .empty then []
        else (s.chapel c.ch).bays.flatMap fun b => (s.bayAisle b).bytes
      okWrite s c data (queryResult s c.ch) wrOk

end Sys2Proof.Machine
end

