-- ==== Sys2Proof/Machine/Vector.lean ====
section
/-! DEFINITION. Vector instructions: elements, arithmetic, conversions and reductions (R217-R221, Tables 07-10 to
07-13). -/

namespace Sys2Proof.Machine

/-- Width in bits of an element type (Table 07-10a). -/
def etWidth (et : Nat) : Nat :=
  match et with
  | 0 => 8
  | 1 | 4 | 5 => 16
  | 3 => 64
  | _ => 32

/-- The floating-point format of an element type. -/
def etFmt (et : Nat) : FFmt := if et = 4 then f16 else if et = 5 then bf16 else f32

/-- The low `n` elements of width `w`, element 0 first. -/
def elemsOf (w : Nat) : Nat → Nat → List Nat
  | 0, _ => []
  | n + 1, v => v % 2 ^ w :: elemsOf w n (v >>> w)

/-- The elements of a vector register. -/
def vElems (w : Nat) (v : VWord) : List Nat := elemsOf w (512 / w) v.toNat

/-- The number whose elements of width `w` are `es`, element 0 lowest. -/
def ofElems (w : Nat) : List Nat → Nat
  | [] => 0
  | e :: es => e % 2 ^ w + 2 ^ w * ofElems w es

/-- A vector register from its elements. -/
def vOf (w : Nat) (es : List Nat) : VWord := BitVec.ofNat 512 (ofElems w es)

/-- The mask whose bit i is element i's answer. -/
def maskOf (bs : List Bool) : Word := BitVec.ofNat 64 (ofElems 1 (bs.map fun b => if b then 1 else 0))

/-- A value of `w` bits as a signed integer. -/
def sval (w v : Nat) : Int := if v.testBit (w - 1) then (v : Int) - 2 ^ w else v

/-- A signed integer in `w` bits, wrapping. -/
def wrapW (w : Nat) (v : Int) : Nat := (v % 2 ^ w).toNat

/-- A signed integer in `w` bits, saturating. -/
def satW (w : Nat) (v : Int) : Nat := wrapW w (max (-(2 ^ (w - 1))) (min (2 ^ (w - 1) - 1) v))

/-- Two-operand rows of Table 07-10, one element. -/
def vintElem (func w a b : Nat) : Nat :=
  match func with
  | 0x00 => (a + b) % 2 ^ w
  | 0x01 => (a + 2 ^ w - b) % 2 ^ w
  | 0x02 => a &&& b
  | 0x03 => a ||| b
  | 0x04 => a ^^^ b
  | 0x05 => if sval w b < sval w a then b else a
  | 0x06 => if sval w a < sval w b then b else a
  | 0x07 => min a b
  | 0x08 => max a b
  | 0x09 => a * b % 2 ^ w
  | _ => satW w (sval w a + sval w b)

/-- VSLL, VSRL, VSRA of one element by n < w. -/
def vshiftElem (func w n a : Nat) : Nat :=
  match func with
  | 0x0B => (a <<< n) % 2 ^ w
  | 0x0C => a >>> n
  | _ => wrapW w (sval w a >>> n)

/-- Vector compares of Table 07-10. -/
def vcmpElem (func w a b : Nat) : Bool :=
  match func with
  | 0x0F => a == b
  | 0x10 => decide (sval w a < sval w b)
  | _ => decide (a < b)

/-- vd of a vector integer instruction (Table 07-10), from va, vb and rs. -/
def vintOp (func et : Nat) (va vb : VWord) (rs : Word) : VWord :=
  let w := etWidth et
  let a := vElems w va
  let b := vElems w vb
  let r := rs.toNat % 2 ^ w
  if func ≤ 0x0A then vOf w (List.zipWith (vintElem func w) a b)
  else if func ≤ 0x0D then vOf w (a.map (vshiftElem func w (rs.toNat % w)))
  else if func = 0x0E then
    vOf w ((List.zip a b).zipIdx.map fun e => if rs.getLsbD e.2 then e.1.1 else e.1.2)
  else if func = 0x12 then vOf w (a.map fun _ => r)
  else vOf w (a.map fun x => (x + r) % 2 ^ w)

/-- The mask of a vector integer compare. -/
def vintMask (func et : Nat) (va vb : VWord) : Word :=
  let w := etWidth et
  maskOf (List.zipWith (vcmpElem func w) (vElems w va) (vElems w vb))

/-- Two- and three-operand rows of Table 07-11, one element: va, vb and the old vd. -/
def vfpElem (func : Nat) (f : FFmt) (a b d : Nat) : Nat :=
  match func with
  | 0 => fadd f a b
  | 1 => fsub f a b
  | 2 => fmul f a b
  | 3 => ffma f a b d
  | 4 => fminmax f false a b
  | _ => fminmax f true a b

/-- Vector floating-point compares. -/
def vfcmpElem (func : Nat) (f : FFmt) (a b : Nat) : Bool :=
  match func with
  | 6 => feq f a b
  | 7 => flt f a b
  | _ => fle f a b

/-- vd of a vector floating-point instruction (Table 07-11). -/
def vfpOp (func et : Nat) (va vb vd : VWord) (rs : Word) : VWord :=
  let w := etWidth et
  let f := etFmt et
  let a := vElems w va
  if func = 9 then
    vOf w (a.map fun x => fenc f (fvMul (fdec f x) (fdec f32 (rs.toNat % 2 ^ 32))))
  else vOf w (List.zipWith (fun ab d => vfpElem func f ab.1 ab.2 d) (List.zip a (vElems w vb)) (vElems w vd))

/-- The mask of a vector floating-point compare. -/
def vfpMask (func et : Nat) (va vb : VWord) : Word :=
  let w := etWidth et
  maskOf (List.zipWith (vfcmpElem func (etFmt et)) (vElems w va) (vElems w vb))

/-- One element converted by VCVT (Table 07-12, R220). -/
def vcvtElem (func et x : Nat) : Nat :=
  match func with
  | 0 => wrapW 32 (fToInt f32 32 true x)
  | 1 => if et = 2 then fenc f32 (fvOfInt (sval 32 x)) else fconv (etFmt et) f32 x
  | 2 => fconv f32 bf16 x
  | 3 => fconv f32 f16 x
  | 4 => fencSat e4m3 (fdec f32 x)
  | 5 => fencSat e5m2 (fdec f32 x)
  | 6 => satW 8 (sval 32 x)
  | 7 => wrapW 32 (sval 8 x)
  | 8 => fconv e4m3 f32 x
  | _ => fconv e5m2 f32 x

/-- vd of VCVT with part `p` (R219). -/
def vcvtOp (func et p : Nat) (va vd : VWord) : VWord :=
  let f := vcvtFactor func et
  let w := etWidth et
  if 2 ≤ func ∧ func ≤ 6 then
    let span := 512 / f
    let new := ofElems (w / f) ((vElems w va).map (vcvtElem func et))
    let keep := vd &&& ~~~(BitVec.ofNat 512 (2 ^ span - 1) <<< (span * p))
    keep ||| (BitVec.ofNat 512 new <<< (span * p))
  else
    let n := 512 / w / f
    vOf (w * f) ((((vElems w va).drop (n * p)).take n).map (vcvtElem func et))

/-- Adjacent elements combined. -/
def pairUp (op : Nat → Nat → Nat) : List Nat → List Nat
  | a :: b :: t => op a b :: pairUp op t
  | t => t

/-- The fixed pairwise tree of R221; `n` levels. -/
def pairTree (op : Nat → Nat → Nat) : Nat → List Nat → Nat
  | 0, es => es.headD 0
  | n + 1, es => pairTree op n (pairUp op es)

/-- The scalar of a vector reduction (Table 07-13). -/
def vredOp (func et : Nat) (va : VWord) : Word :=
  let w := etWidth et
  let f := etFmt et
  let op := fun (a b : Nat) =>
    if et ≤ 3 then vintElem (if func = 0 then 0x00 else if func = 1 then 0x06 else 0x05) w a b
    else if func = 0 then fadd f a b else fminmax f (func == 1) a b
  let r := pairTree op 6 (vElems w va)
  if et ≤ 3 then BitVec.ofInt 64 (sval w r) else BitVec.ofNat 64 r

/-- VECTOR_INTEGER (R217, R218). -/
def execVectorInteger (cell tid : Nat) (s : State) : Res :=
  issueIns .vectorInt cell tid s fun s i => match i with
    | .vint func et vd va vb rs =>
      let x := s.ctx cell tid
      if 0x0F ≤ func ∧ func ≤ 0x11 then setRd s cell tid rs (vintMask func et (x.getV va) (x.getV vb))
      else setVd s cell tid vd (vintOp func et (x.getV va) (x.getV vb) (x.getS rs))
    | _ => s

/-- VECTOR_FLOATING_POINT (R209, R210, R217, R218). -/
def execVectorFloatingPoint (cell tid : Nat) (s : State) : Res :=
  issueIns .vectorFp cell tid s fun s i => match i with
    | .vfp func et vd va vb rs =>
      let x := s.ctx cell tid
      if 6 ≤ func ∧ func ≤ 8 then setRd s cell tid rs (vfpMask func et (x.getV va) (x.getV vb))
      else setVd s cell tid vd (vfpOp func et (x.getV va) (x.getV vb) (x.getV vd) (x.getS rs))
    | _ => s

/-- VCVT (R219, R220). -/
def execVcvt (cell tid : Nat) (s : State) : Res :=
  issueIns .vcvt cell tid s fun s i => match i with
    | .vcvt func et vd va p =>
      let x := s.ctx cell tid
      setVd s cell tid vd (vcvtOp func et p (x.getV va) (x.getV vd))
    | _ => s

/-- VECTOR_REDUCTION (R221). -/
def execVectorReduction (cell tid : Nat) (s : State) : Res :=
  issueIns .vectorRed cell tid s fun s i => match i with
    | .vred func et va rs => setRd s cell tid rs (vredOp func et ((s.ctx cell tid).getV va))
    | _ => s

end Sys2Proof.Machine
end

