-- ==== Sys2Proof/Machine/Choir.lean ====
section
/-! DEFINITION. The choir: its commands and what one pass computes (R225, R239-R251). -/

namespace Sys2Proof.Machine

/-! ### The pass (R240, R245-R250) -/

/-- The format of a floating-point choir type. -/
def choirFmt (ty : Nat) : FFmt :=
  match ty with
  | 0 => bf16
  | 2 => e4m3
  | 3 => e5m2
  | 5 => f16
  | _ => f32

/-- An input element: subnormal bfloat16 and fp8 are read as zero of the same sign (R245). -/
def choirIn (ty x : Nat) : FVal :=
  let f := choirFmt ty
  let mag := x % 2 ^ (f.ebits + f.mbits)
  fdec f (if ty ≠ 1 ∧ mag / 2 ^ f.mbits = 0 then x - mag else x)

/-- The elements of `n` consecutive bytes groups of `w` bytes from `off`. -/
def readElems (m : Memory) (off w : Nat) : Nat → List Nat
  | 0 => []
  | n + 1 => leNat (m.readBytes off w) :: readElems m (off + w) w n

/-- Groups of 32 consecutive elements. -/
def blocks32 {α : Type} : Nat → List α → List (List α)
  | 0, _ => []
  | n + 1, xs => xs.take 32 :: blocks32 n (xs.drop 32)

/-- The fixed pairwise tree over 32 binary32 values. -/
def tree32 (ps : List Nat) : Nat := pairTree (fadd f32) 5 ps

/-- One floating-point element of C before output: the block sums added to `acc` in ascending order (R246, R247). -/
def dotFloat (acc : Nat) (a b : List FVal) : Nat :=
  let ps := List.zipWith (fun x y => fenc f32 (fvMul x y)) a b
  (blocks32 (ps.length / 32) ps).foldl (fun acc blk => fadd f32 acc (tree32 blk)) acc

/-- One int8 element of C (R250). -/
def dotInt (acc : Nat) (a b : List Nat) : Nat :=
  let ps := List.zipWith (fun x y => sval 8 x * sval 8 y) a b
  wrapW 32 (ps.foldl (· + ·) (acc : Int))

/-- acc × SCALE rounded once to OUT_TYPE (R248, R249). -/
def choirOut (out scale acc : Nat) : Nat :=
  let v := fvMul (fdec f32 acc) (fdec f32 scale)
  if out = 2 ∨ out = 3 then fencSat (choirFmt out) v else fenc (choirFmt out) v

/-- The columns of `n` rows' worth of a matrix given by rows. -/
def columns {α : Type} (n : Nat) (rows : List (List α)) : List (List α) :=
  (List.range n).map fun j => rows.filterMap fun r => r[j]?

/-- The bytes of each row of C that a pass computes from a store. -/
def choirResult (m : Memory) (d : ChoirDesc) : List (List Byte) :=
  let so := choirSize true d.out
  let a := d.aRows.map fun r => readElems m r.1 (choirSize false d.aType) d.k
  let b := columns 32 (d.bRows.map fun r => readElems m r.1 (choirSize false d.bType) 32)
  let c := d.cRows.map fun r => if d.accum then readElems m r.1 so 32 else List.replicate 32 0
  if d.aType = 4 then
    List.zipWith (fun ai ci => (List.zipWith (fun bj x => dotInt x ai bj) b ci).flatMap (le so)) a c
  else
    let b := b.map (List.map (choirIn d.bType))
    List.zipWith (fun ai ci =>
      let ai := ai.map (choirIn d.aType)
      (List.zipWith (fun bj x => choirOut d.out d.scale (dotFloat x ai bj)) b ci).flatMap (le so)) a c

/-- The rows of C written into the own store. -/
def Cell.writeRows (c : Cell) (rows : List (Nat × Nat)) (data : List (List Byte)) : Cell :=
  { c with store := (List.zip rows data).foldl (fun m e => m.writeBytes e.1.1 e.2) c.store }

/-- The result of a pass reaches rd of its thread (R225). -/
def Cell.choirAnswer (c : Cell) (j : ChoirJob) (v : Nat) : Cell :=
  let c := c.modCtx j.tid fun x => { (x.setS j.rd (BitVec.ofNat 64 v)) with awaits := x.awaits.erase j.rd }
  c.retryWhere fun w => decide (w = Waiting.choirSlot)

/-- CHOIR_GO (R225, R239): the descriptor's bytes are copied at issue. -/
def execChoirGo (cell tid : Nat) (s : State) : Res :=
  issueIns .choirGo cell tid s fun s i => match i with
    | .choirGo rd ra =>
      let off := ((s.ctx cell tid).getS ra).toNat
      if off % 64 ≠ 0 then raise s cell tid 0x04 (ownAddr s cell off)
      else if 524288 ≤ off then raise s cell tid 0x02 (ownAddr s cell off)
      else
        let ch := (s.cell cell).choir
        if 4 ≤ ch.queue.length + ch.running.toList.length then wait s cell tid .choirSlot
        else next s cell tid fun s =>
          let job : ChoirJob := ⟨Memory.readBytes (s.cell cell).store off 64, tid, rd, false⟩
          let s := s.modCell cell fun c => { c with choir := { c.choir with queue := c.choir.queue ++ [job] } }
          if rd = 0 then s else s.modCtx cell tid fun x => { x with awaits := x.awaits ++ [rd] }
    | _ => s

/-- CHOIR_PASS_START (R241, R242): the oldest queued pass begins; queued descriptors wait while the chapel does not
run (Table 06-7). -/
def execChoirPassStart (cell : Nat) (s : State) : Res :=
  let ch := (s.cell cell).choir
  possible (decide (cell < 3072) && s.cellRuns cell && ch.running.isNone && !ch.queue.isEmpty) s fun s =>
    s.modCell cell fun c => { c with choir := { running := c.choir.queue.head?, queue := c.choir.queue.drop 1 } }

/-- CHOIR_PASS_END (R238, R243): C is written, or nothing for a MALFORMED descriptor, and the result reaches rd. -/
def execChoirPassEnd (cell : Nat) (s : State) : Res :=
  match (s.cell cell).choir.running with
  | none => .next s
  | some j => possible (decide (cell < 3072 ∧ (s.bay (bayOf cell)).st = .on)) s fun s =>
    let s := s.modCell cell fun c => { c with choir := { c.choir with running := none } }
    match lowest (choirBad j.desc) with
    | some off => s.modCell cell (·.choirAnswer j (256 * off + 1))
    | none =>
      let d := choirDesc j.desc
      let s := if j.spoiled then spoilRows s cell d.cRows
        else s.modCell cell fun c => c.writeRows d.cRows (choirResult c.store d)
      s.modCell cell (·.choirAnswer j 0)

end Sys2Proof.Machine
end

