-- ==== Sys2Proof/Machine/Screens.lean ====
section
/-! DEFINITION. Screens, proposals, parties and approvals (chapter 05, Table 04-14, R561, R562, R567). -/

namespace Sys2Proof.Machine

/-! ### The screen as an image (Tables 05-3 to 05-5) -/

/-- The 32 bytes of a chapel record. -/
def ChapelRec.bytes (r : ChapelRec) : List Byte :=
  [if r.valid then 1#8 else 0#8, 0#8] ++ le 2 r.origin ++
    [BitVec.ofNat 8 r.width, BitVec.ofNat 8 r.height, BitVec.ofNat 8 r.grant, BitVec.ofNat 8 r.hostPorts] ++
    le 2 r.transept ++ zeros 22

/-- The 16 bytes of a port record. -/
def PortRec.bytes (r : PortRec) : List Byte :=
  [BitVec.ofNat 8 r.owner, BitVec.ofNat 8 r.span] ++ zeros 6 ++ le 8 r.peer

/-- The canonical image of a screen in an epoch (R133, R134). -/
def Screen.image (x : Screen) (epoch : BitVec 32) : List Byte :=
  le 4 0x4E524353 ++ le 4 epoch.toNat ++ le 4 x.generation.toNat ++ le 2 6400 ++ zeros 50 ++
    chapelIds.flatMap (fun c => (tget ChapelRec.fresh x.chapels c).bytes) ++
    (List.range 12).flatMap (fun p => (tget PortRec.fresh x.ports p).bytes)

/-- The screen an image describes. -/
def screenOf (img : List Byte) : Screen :=
  { generation := BitVec.ofNat 32 (fieldN img 8 4)
    chapels := chapelIds.foldl (fun t c => tput ChapelRec.fresh t c (imgChapel img c)) []
    ports := (List.range 12).foldl (fun t p => tput PortRec.fresh t p (imgPort img p)) [] }

/-- The image is not for the current epoch and the next generation (R146). -/
def staleImage (s : State) (img : List Byte) : Bool :=
  decide (fieldN img 4 4 ≠ s.flash.epoch.toNat ∨ fieldN img 8 4 ≠ (s.feb.screen.generation + 1#32).toNat)

/-- Object `x` is a live chapel, or a port with a live owner. -/
def liveObj (s : State) (x : Obj) : Bool :=
  let live := fun c => decide (c < 192 ∧ (s.chapel c).state ≠ .empty)
  match x with
  | .chapel c => live c
  | .port p => live (s.portRec p).owner || live (s.link p).owner
  | _ => false

/-- The image changes the record of a live chapel or port (R147). -/
def liveChange (s : State) (img : List Byte) : Bool := (s.altered img).any (liveObj s)

/-! ### The pending proposal (R148-R153) -/

/-- A PROPOSAL event (Table 04-18). -/
def proposalEvent (s : State) (value : Byte) (id : BitVec 32) : State :=
  post s 0x000A 255 ([value, 0#8, 0#8, 0#8] ++ le 4 id.toNat)

/-- The pending slot is free. -/
def dropProposal (s : State) : State := { s with feb := { s.feb with pending := none } }

/-- The pending proposal expires: its ID joins the last 16 expired ones (R149, R150). -/
def expireProposal (s : State) (p : Proposal) : State :=
  { s with feb := { s.feb with pending := none, expired := (p.id :: s.feb.expired).take 16 } }

/-- TSTAMP reaches `t`. -/
def tsReach (s : State) (t : Nat) : State :=
  { s with pw := { s.pw with tstamp := BitVec.ofNat 64 (max s.ts t) } }

/-- The badge approval is over and the reader free. -/
def endApproval (s : State) : State :=
  match s.gate.approval with
  | some _ => { s with gate := { s.gate with approval := none }.off }
  | none => s

/-- A proposal is recorded and awaits its approval; BUSY while one is pending, ID_EXHAUSTED at the end of the IDs
(R148, R567, R590). -/
def recordProposal (s : State) (c : Cmd) (kind : ProposalKind) (image : List Byte) (slot : Nat) : State :=
  let id := s.flash.nextProposal
  let expiry := c.accepted.toNat + 12000000000
  if s.feb.pending.isSome then failCmd s c 0x0E 0
  else if id = 0xFFFFFFFF#32 then failCmd s c 4 0xC0
  else
    let p : Proposal := ⟨id, kind, image, slot, c.port, expiry, sha384 image⟩
    let s := { s with feb := { s.feb with pending := some p }, flash := { s.flash with nextProposal := id + 1#32 } }
    let s := completeCmd (touch s c.n c.objs) c 0x0A 0 (le 4 id.toNat ++ zeros 4 ++ le 8 expiry) false .nothing
    proposalEvent s 0 id

/-- The bytes that stand for a proposal without an image: its entry with COMMAND_ID zero, and its buffer (R142). -/
def Cmd.proposalBytes (c : Cmd) : List Byte := patch c.entry 4 (zeros 4) ++ c.buf

/-- The 52-byte message an approver signs (R142). -/
def Proposal.message (p : Proposal) : List Byte := p.digest ++ le 4 p.id.toNat

/-- An approved change is done: the completion and PROPOSAL event 1 follow (R152). -/
def approved (s : State) (c : Cmd) (p : Proposal) : State :=
  proposalEvent (doneCmd (dropProposal s) c (le 4 s.feb.screen.generation.toNat)) 1 p.id

/-- A party slot takes KIND and key of a PARTY_ENROL (Table 04-14). -/
def setParty (s : State) (slot kind : Nat) (key : List Byte) : State :=
  let v : Option Party := match kind with
    | 0 => some ⟨.host .h0, key⟩
    | 1 => some ⟨.host .h1, key⟩
    | 2 => some ⟨.badge, key⟩
    | _ => none
  { s with flash := { s.flash with parties := tput none s.flash.parties slot v } }

/-- The record of pattern `i` in the configuration in force is enabled (R561). -/
def patternRecordOn (s : State) (i : Nat) : Bool := (byteAt s.bel.cfg (patternOff i)).getLsbD 0

/-- The signature of an approval has verified: the approval counts now (R146, R147, R149, R152, R561, R562). -/
def countApproval (s : State) (c : Cmd) (p : Proposal) : State :=
  if p.expiry ≤ s.ts then proposalEvent (failCmd (expireProposal s p) c 0x0B 0) 3 p.id
  else match p.kind with
    | .screen =>
      if staleImage s p.image then
        proposalEvent (failCmd (touch (dropProposal s) c.n c.objs) c 3 0x42) 2 p.id
      else if liveChange s p.image then refuse s c 0x41
      else { s with feb := { s.feb with applying := some (c.n, screenOf p.image) } }
    | .enrol =>
      approved (setParty s (byteAt p.image 24).toNat (byteAt p.image 25).toNat (p.image.drop 64)) c p
    | .synthetic =>
      let i := (byteAt p.image 24).toNat
      if (cfgPattern s.bel.cfg i).enabled then approved (patternWake s i s.bel.live true) c p
      else refuse s c 0x32

/-! ### Propose (R144-R148, R590) -/

/-- The image and the signature in the buffer of a SCREEN_PROPOSE. -/
def Cmd.image (c : Cmd) : List Byte := c.buf.take 6400

/-- SCREEN_PROPOSE (R590). -/
def execScreenPropose (n : Nat) (s : State) : Res :=
  runCmd n 0x0501 s fun s c =>
    if s.partyCount < 2 then refuse s c 0x40
    else match s.party (c.byte 24) with
      | none => refuse s c 0x43
      | some q =>
        if q.kind ≠ .host c.port then refuse s c 0x43
        else if !ecdsaVerify q.key c.image (c.buf.drop 6400) then failCmd s c 3 0x46
        else if staleImage s c.image then refuse s c 0x42
        else if liveChange s c.image then refuse s c 0x41
        else recordProposal s c .screen c.image (c.byte 24)

/-- A slot other than `slot` holds the host kind KIND (R143). -/
def hostSlotTaken (s : State) (slot kind : Nat) : Bool :=
  decide (kind < 2) && match s.hostParty (portOf kind) with
    | some x => decide (x ≠ slot)
    | none => false

/-- PARTY_ENROL (R143-R145, Table 04-14). -/
def execPartyEnrol (n : Nat) (s : State) : Res :=
  runCmdPre n 0x0505 s
    (fun s c => if c.byte 25 = 3 ∧ s.party (c.byte 24) = none then some (5, 0) else none) fun s c =>
    let slot := c.byte 24
    let kind := c.byte 25
    let few := decide (s.partyCount < 2)
    if !few && (s.hostParty c.port).isNone then refuse s c 0x43
    else if hostSlotTaken s slot kind then refuse s c 0x4A
    else if few then doneCmd (setParty s slot kind c.buf) c []
    else if kind = 3 ∧ s.partyCount < 3 then refuse s c 0x49
    else recordProposal s c .enrol c.proposalBytes ((s.hostParty c.port).getD 0)

/-- SVC_SYNTHETIC_WAKE (R145, R148, R561): the party of the carrying port proposes. -/
def execSvcSyntheticWake (n : Nat) (s : State) : Res :=
  runCmdPre n 0x0604 s (fun s c => if patternRecordOn s (c.byte 24) then none else some (5, 0)) fun s c =>
    match s.hostParty c.port with
    | none => refuse s c 0x43
    | some slot => recordProposal s c .synthetic c.proposalBytes slot

/-! ### Approve (R149-R155) -/

/-- Step 6 of a SCREEN_APPROVE: the party slot is empty, or the ID is not pending (R150, Table 04-14). -/
def approveMissing (s : State) (c : Cmd) : Option (Nat × Nat) :=
  let id := BitVec.ofNat 32 (fieldN c.entry 28 4)
  if s.party (c.byte 24) = none then some (5, 0)
  else match s.feb.pending with
    | some p => if p.id = id then none else if s.feb.expired.contains id then some (0x0B, 0) else some (5, 0)
    | none => if s.feb.expired.contains id then some (0x0B, 0) else some (5, 0)

/-- An approval by a host party (R151, R152). -/
def hostApproval (s : State) (c : Cmd) (p : Proposal) (q : Party) : State :=
  if q.kind = .badge then failCmd s c 3 0x43
  else if c.byte 24 = p.slot then failCmd s c 3 0x44
  else if q.kind ≠ .host c.port then refuse s c 0x43
  else if c.buf.take 48 ≠ p.digest then failCmd s c 3 0x45
  else if !ecdsaVerify q.key p.message (c.buf.drop 48) then failCmd s c 3 0x46
  else countApproval s c p

/-- An approval by badge starts: the reader listens on ANT_BADGE (R154, R515). -/
def badgeApproval (s : State) (c : Cmd) (p : Proposal) (q : Party) : State :=
  if q.kind ≠ .badge then failCmd s c 3 0x47
  else if c.byte 24 = p.slot then failCmd s c 3 0x44
  else if s.gate.antFault.getLsbD 0 then failCmd s c 4 0xB0
  else { s with gate := { s.gate with approval := some { cmd := c.n, slot := c.byte 24 } } }

/-- SCREEN_APPROVE (R149-R155). -/
def execScreenApprove (n : Nat) (s : State) : Res :=
  runCmdPre n 0x0502 s approveMissing fun s c =>
    match s.feb.pending, s.party (c.byte 24) with
    | some p, some q => if c.dataLen = 0 then badgeApproval s c p q else hostApproval s c p q
    | _, _ => failCmd s c 5 0

/-- SCREEN_APPLY_COMPLETE (R152): the last changed table is written, and the new generation is current. -/
def execScreenApplyComplete (s : State) : Res :=
  match s.feb.applying with
  | none => .next s
  | some (n, x) => possible (!s.flt.halted) s fun s =>
    let s := { s with feb := { s.feb with screen := x, applying := none } }
    match s.cmd n, s.feb.pending with
    | some c, some p => approved s c p
    | _, _ => dropProposal s

/-- Step 4 of the badge exchange: the signature in hand is verified (Table 05-8, R155). -/
def finishBadge (s : State) (r : BadgeRun) : State :=
  let s := endApproval s
  match s.cmd r.cmd, s.feb.pending, s.party r.slot with
  | some c, some p, some q =>
    if ecdsaVerify q.key p.message r.signature then countApproval s c p else failCmd s c 3 0x47
  | _, _, _ => s

/-- A running badge approval ends with this status. -/
def failBadge (s : State) (status detail : Nat) : State :=
  match s.gate.approval with
  | none => s
  | some r =>
    let s := endApproval s
    match s.cmd r.cmd with
    | some c => failCmd s c status detail
    | none => s

/-- TSTAMP at which the limit of a command ends: TIMEOUT_US, or the default (Table 04-8). -/
def Cmd.limitEnd (c : Cmd) : Nat :=
  let us := fieldN c.entry 20 4
  c.started.toNat + 100 * (if us = 0 then (opLimit c.opcode c.entry).getD 0 else us)

/-- BADGE_APPROVAL_TIMEOUT (R155, Table 04-14): the limit, cut to the expiry, runs out. A signature in hand is verified
first. -/
def execBadgeApprovalTimeout (n : Nat) (s : State) : Res :=
  runningCmd n 0x0502 s
    (fun s _ => (match s.gate.approval with | some r => decide (r.cmd = n) | none => false) && s.feb.pending.isSome)
    fun s c => match s.gate.approval, s.feb.pending with
      | some r, some p =>
        let s := tsReach s (min c.limitEnd p.expiry)
        if r.stage = .deselect then finishBadge s r
        else if p.expiry ≤ c.limitEnd then proposalEvent (failBadge (expireProposal s p) 0x0B 0) 3 p.id
        else failBadge s 6 0
      | _, _ => s

/-- PROPOSAL_EXPIRY (R149): a running badge approval ends with it. -/
def execProposalExpiry (s : State) : Res :=
  match s.feb.pending with
  | none => .next s
  | some p => possible (s.feb.applying.isNone && s.pw.pll && !s.flt.halted) s fun s =>
    proposalEvent (failBadge (expireProposal (tsReach s p.expiry) p) 0x0B 0) 3 p.id

/-! ### Withdraw and read (R152) -/

/-- The pending proposal has the ID a command names. -/
def namesPending (s : State) (c : Cmd) : Bool :=
  match s.feb.pending with
  | some p => decide (p.id.toNat = fieldN c.entry 28 4)
  | none => false

/-- SCREEN_WITHDRAW (Table 04-14). -/
def execScreenWithdraw (n : Nat) (s : State) : Res :=
  runCmdPre n 0x0503 s (fun s c => if namesPending s c then none else some (5, 0)) fun s c =>
    match s.feb.pending with
    | none => failCmd s c 5 0
    | some p =>
      if p.port ≠ c.port then refuse s c 0x43
      else proposalEvent (doneCmd (dropProposal s) c []) 2 p.id

/-- What a SCREEN_READ returns: bytes and generation (R142, Table 04-14). -/
def readImage (s : State) (which : Nat) : Option (List Byte × BitVec 32) :=
  if which = 0 then some (s.feb.screen.image s.flash.epoch, s.feb.screen.generation)
  else s.feb.pending.map fun p =>
    (p.image, if p.kind = .screen then BitVec.ofNat 32 (fieldN p.image 8 4) else s.feb.screen.generation)

/-- Nothing to read, or a buffer too short for image and digest (Table 04-14). -/
def readBad (s : State) (c : Cmd) : Option (Nat × Nat) :=
  match readImage s (c.byte 24) with
  | none => some (5, 0)
  | some r => if c.dataLen < r.1.length + 48 then some (1, 16) else none

/-- SCREEN_READ (R152, Table 04-14). -/
def execScreenRead (n : Nat) (wrOk : Bool) (s : State) : Res :=
  runCmdPre n 0x0504 s readBad fun s c =>
    match readImage s (c.byte 24) with
    | none => failCmd s c 5 0
    | some r => okWrite s c (r.1 ++ sha384 r.1) (le 4 r.1.length ++ le 4 r.2.toNat) wrOk

/-- A port reset withdraws the proposal its port made and that is still pending (R92); a badge approval of it ends. -/
def withdrawOf (s : State) (p : HPort) : State :=
  match s.feb.pending with
  | some x =>
    if x.port = p ∧ s.feb.applying = none then proposalEvent (failBadge (dropProposal s) 5 0) 2 x.id else s
  | none => s

end Sys2Proof.Machine
end

