-- ==== Sys2Proof/Machine/Gatehouse.lean ====
section
/-! DEFINITION. The gatehouse reader (chapter 19): field, badges, cable tags, pings. The frames it sends are those of
ISO/IEC 14443 and 15693 (log entry 5). -/

namespace Sys2Proof.Machine

/-! ### The field (R511, R512, R515, R534-R536) -/

/-- The antenna that the reader's present user needs, in the precedence of R536: a sweep, the confirmation of a ping, a
command, a badge approval. -/
def Gatehouse.wants (g : Gatehouse) : Option Nat :=
  match g.sweeping with
  | b :: _ => some b
  | [] =>
    if g.confirming = some 0 then some 0
    else match g.op, g.baseline with
      | some o, _ => some o.bank
      | none, some b => if b.polled then none else some 0
      | none, none => if g.approval.isSome then some 0 else none

/-- Nothing holds the reader (R533). -/
def Gatehouse.free (g : Gatehouse) : Bool :=
  g.wants.isNone && g.confirming.isNone && g.baseline.isNone

/-- The field stands at `antenna` and its first wait is over. -/
def Gatehouse.ready (g : Gatehouse) (antenna : Nat) : Bool :=
  g.field && g.settled && decide (g.antsel = antenna ∧ g.wants = some antenna)

/-- The state with the gatehouse changed by `f`. -/
def State.modGate (s : State) (f : Gatehouse → Gatehouse) : State := { s with gate := f s.gate }

/-- A protocol error is counted (R537). -/
def protoError (s : State) : State := s.modGate fun g => { g with protoErrors := satInc 0xFFFFFFFF g.protoErrors }

/-- The transmitter current lies within the open and short limits (Table 22-9). -/
def currentOk (milliAmp : Nat) : Bool := decide (20 ≤ milliAmp ∧ milliAmp ≤ 300)

/-- ANT_FAULT with bit `antenna` set or cleared. -/
def faultMark (f : BitVec 3) (antenna : Nat) (bad : Bool) : BitVec 3 :=
  let bit := 1#3 <<< antenna
  if bad then f ||| bit else f &&& ~~~bit

/-- The reader sends a frame on its antenna. -/
def radioFrame (s : State) (data : List Byte) : State :=
  if data.isEmpty then s else s.emit (.radio s.gate.antsel data)

/-! ### Detects (R531) -/

/-- A detect is confirmed: an event while ACTIVE, else wake source 0x12. -/
def cardDetect (s : State) (antenna : Nat) : State :=
  let s := s.modGate fun g => { g with
    detects := satInc 0xFFFFFFFF g.detects, spent := setInsert antenna g.spent, confirming := none }
  if s.pw.recording then wakeSource s 0x12 else post s 0x000B 255 [BitVec.ofNat 8 antenna]

/-- A detect is not confirmed. -/
def falseDetect (s : State) : State :=
  s.modGate fun g => { g with falseDetects := satInc 0xFFFFFFFF g.falseDetects, confirming := none }

/-! ### Frames -/

/-- WUPA. -/
def wupa : List Byte := [0x52#8]
/-- HLTA. -/
def hlta : List Byte := [0x50#8, 0#8]
/-- S(DESELECT). -/
def deselect : List Byte := [0xC2#8]

/-- The UID as a tag sends it. -/
def uidBytes (uid : Nat) : List Byte := le 8 uid

/-- The frame a badge stage waits for an answer to (Table 05-8). -/
def cardFrame (r : BadgeRun) (message : List Byte) : List Byte :=
  match r.stage with
  | .polling => []
  | .atqa => wupa
  | .select => [BitVec.ofNat 8 (0x93 + 2 * (r.uid.length / 3)), 0x20#8]
  | .rats => [0xE0#8, 0x80#8]
  | .pps => [0xD0#8, 0x11#8, if r.rate = 424 then 0x0A#8 else 0x05#8]
  | .byName => [0x00#8, 0xA4#8, 0x04#8, 0x00#8, 0x05#8, 0xF0#8, 0x49#8, 0x44#8, 0x58#8, 0x01#8, 0x00#8]
  | .authenticate => [0x00#8, 0x88#8, 0x00#8, 0x00#8, 0x34#8] ++ message ++ [0#8]
  | .deselect => deselect

/-- The request a SVC_GATEHOUSE_OP stage waits for an answer to (Table 19-3). -/
def opFrame (s : State) (o : ReaderOp) : List Byte :=
  match o.stage with
  | .inventory len mask => [0x06#8, 0x01#8, BitVec.ofNat 8 len] ++ le ((len + 7) / 8) mask
  | .systemInfo => [0x22#8, 0x2B#8] ++ uidBytes o.uid
  | .read => [0x22#8, 0x23#8] ++ uidBytes o.uid ++ [BitVec.ofNat 8 o.first, BitVec.ofNat 8 (o.count - 1)]
  | .write =>
    let buf := match s.cmd o.cmd with
      | some c => c.buf
      | none => []
    [0x22#8, 0x21#8] ++ uidBytes o.uid ++ [BitVec.ofNat 8 (o.first + o.moved)] ++ sliceB buf (32 * o.moved) o.blockSize

/-- The message the badge signs. -/
def badgeMessage (s : State) : List Byte :=
  match s.feb.pending with
  | some p => p.message
  | none => []

/-! ### The badge exchange (R154, R155, R517-R521) -/

/-- The approval goes on as `r`, and its stage's frame is sent. -/
def badgeSend (s : State) (r : BadgeRun) : State :=
  radioFrame (s.modGate fun g => { g with approval := some r }) (cardFrame r (badgeMessage s))

/-- The card has left or counts as gone; the reader listens on. -/
def cardGone (s : State) (r : BadgeRun) : State :=
  s.modGate fun g => { g with approval := some { cmd := r.cmd, slot := r.slot, barred := r.barred } }

/-- A card that breaks the standards: HLTA or S(DESELECT), and its UID is not selected again (R521). -/
def cardBroken (s : State) (r : BadgeRun) (uid frame : List Byte) : State :=
  let r := if uid.isEmpty then r else { r with barred := r.barred ++ [uid] }
  cardGone (radioFrame (protoError s) frame) r

/-- The badge's answer to step 1 or 2 is wrong (Table 19-6). -/
def badgeRefused (s : State) : State := failBadge (protoError s) 3 0x48

/-- A request of the approval goes unanswered (Table 19-4). -/
def cardUnanswered (s : State) (r : BadgeRun) : State :=
  let block := decide (r.stage = .byName ∨ r.stage = .authenticate ∨ r.stage = .deselect)
  if r.tries < (if block then 2 else 1) then
    let r := { r with tries := r.tries + 1 }
    let s := s.modGate fun g => { g with approval := some r }
    radioFrame s (if block then [0xB2#8] else cardFrame r (badgeMessage s))
  else if r.stage = .deselect then finishBadge s r
  else cardGone s r

/-- A whole answer to step 1 or 2 is in. -/
def badgeAnswer (s : State) (r : BadgeRun) : State :=
  let r' := { r with answer := [], tries := 0 }
  if r.stage = .byName then
    if r.answer = [0x90#8, 0#8] then badgeSend s { r' with stage := .authenticate } else badgeRefused s
  else if r.answer.length = 98 ∧ r.answer.drop 96 = [0x90#8, 0#8] then
    badgeSend s { r' with stage := .deselect, signature := r.answer.take 96 }
  else badgeRefused s

/-- An ISO/IEC 14443-4 block of step 1 or 2 (R518, R519, Table 19-6). -/
def badgeBlock (s : State) (r : BadgeRun) (a : CardAnswer) : State :=
  match a with
  | .iBlock bytes more =>
    let r := { r with answer := r.answer ++ bytes, tries := 0 }
    if more then radioFrame (s.modGate fun g => { g with approval := some r }) [0xA2#8] else badgeAnswer s r
  | .sWtx => radioFrame s [0xF2#8]
  | .rAck => radioFrame s (cardFrame r (badgeMessage s))
  | _ => cardGone (radioFrame (protoError s) deselect) r

/-- The rate PPS chooses (R517). -/
def ppsRate (rate : Nat) : Nat := if 424 ≤ rate then 424 else if 212 ≤ rate then 212 else 106

/-- A card answers during an approval (R517-R521). -/
def badgeStep (s : State) (r : BadgeRun) (a : CardAnswer) : State :=
  let fresh := { r with tries := 0 }
  match r.stage, a with
  | .polling, _ => s
  | .deselect, _ => finishBadge s r
  | _, .badFrame => cardUnanswered (protoError s) r
  | .atqa, .atqa true => badgeSend s { fresh with stage := .select }
  | .atqa, _ => cardBroken s r [] hlta
  | .select, .uidPart bytes true complete =>
    let uid := r.uid ++ bytes
    if r.barred.contains uid then cardGone (radioFrame s hlta) r
    else badgeSend s { fresh with uid := uid, stage := if complete then .rats else .select }
  | .select, .uidPart bytes false _ => cardBroken s r (r.uid ++ bytes) hlta
  | .select, _ => cardBroken s r r.uid hlta
  | .rats, .ats true rate =>
    let k := ppsRate rate
    badgeSend s { fresh with rate := k, stage := if k = 106 then .byName else .pps }
  | .rats, _ => cardBroken s r r.uid deselect
  | .pps, .ppsAnswer => badgeSend s { fresh with stage := .byName }
  | .pps, _ => cardGone (radioFrame (protoError s) deselect) r
  | .byName, a => badgeBlock s r a
  | .authenticate, a => badgeBlock s r a

/-- WUPA_POLL (R520): every 10 ms while no card is active. -/
def execWupaPoll (s : State) : Res :=
  match s.gate.approval with
  | none => .next s
  | some r => possible (s.gate.ready 0 && s.gate.op.isNone && s.gate.baseline.isNone && s.gate.confirming.isNone &&
      decide (r.stage = .polling)) s fun s => badgeSend s { r with stage := .atqa, tries := 0 }

/-! ### Cable tags (R523-R529) -/

/-- The UID list of an inventory (R526). -/
def uidList (found : List Nat) : List Byte := padTo 256 (found.flatMap uidBytes)

/-- A SVC_GATEHOUSE_OP completes; after an inventory the sweep of its bank goes on where `sweep` holds (R523). -/
def finishOp (s : State) (o : ReaderOp) (status detail : Nat) (data : List Byte) (result : Nat) (sweep wrOk : Bool) :
    State :=
  let s := s.modGate fun g =>
    if sweep then { g with op := none, sweeping := [o.bank] } else { g with op := none }.off
  match s.cmd o.cmd with
  | none => s
  | some c =>
    let s := s.when (decide (status = 0 ∨ status = 6)) fun s => touch s c.n c.objs
    let r := writeBuffer s c data wrOk
    completeCmd r.1 c status detail [BitVec.ofNat 8 result] r.2 .nothing

/-- The command goes on as `o`, and its request is sent. -/
def opSend (s : State) (o : ReaderOp) : State :=
  radioFrame (s.modGate fun g => { g with op := some o }) (opFrame s o)

/-- The inventory goes on with the next round, or ends (R524-R526). -/
def nextRound (s : State) (o : ReaderOp) (wrOk : Bool) : State :=
  if 32 ≤ o.found.length ∧ o.rounds ≠ [] then finishOp s o 4 0xB1 (uidList o.found) 32 true wrOk
  else match o.rounds with
    | [] => finishOp s o 0 0 (uidList o.found) o.found.length true wrOk
    | r :: rs => opSend s { o with rounds := rs, stage := .inventory r.1 r.2, tries := 0 }

/-- What slot `i` of a round brings: a UID to list, or a mask to search; a collision at 64 bits lists its UID once
(R524, R525, R534, Table 19-6). -/
def takeSlot (own len mask : Nat) (x : ReaderOp × List (Nat × Nat) × Nat) (e : SlotAnswer × Nat) :
    ReaderOp × List (Nat × Nat) × Nat :=
  let here := mask + e.2 * 2 ^ len
  let list := fun (uid : Nat) (n : Nat) =>
    if uid = own ∨ x.1.found.contains uid then (x.1, x.2.1, n)
    else if x.1.found.length < 32 then ({ x.1 with found := setInsert uid x.1.found }, x.2.1, n)
    else (x.1, x.2.1 ++ [(len + 4, here)], n)
  match e.1 with
  | .empty => x
  | .tag uid => list uid x.2.2
  | .collision => if 64 ≤ len + 4 then list here (x.2.2 + 1) else (x.1, x.2.1 ++ [(len + 4, here)], x.2.2)

/-- The tag's UID (Table 18-11). -/
def State.tagUid (s : State) : Nat := leNat (Memory.readBytes s.clo.tag.mem 60 8)

/-- The sixteen slots of a round are in; each tag newly found is sent Stay quiet (R524). -/
def takeRound (s : State) (o : ReaderOp) (len mask : Nat) (slots : List SlotAnswer) (wrOk : Bool) : State :=
  let r := (slots.take 16).zipIdx.foldl (takeSlot s.tagUid len mask) (o, [], 0)
  let new := r.1.found.filter fun u => !o.found.contains u
  let s := new.foldl (fun s u => radioFrame s ([0x22#8, 0x02#8] ++ uidBytes u)) s
  let s := (List.range r.2.2).foldl (fun s _ => protoError s) s
  nextRound s { r.1 with rounds := r.2.1 ++ o.rounds } wrOk

/-- The first byte of a write entry that its block does not hold and that is not zero (R527). -/
def writeBad (buf : List Byte) (count b : Nat) : Option Nat :=
  lowest ((List.range count).flatMap fun k => nonzeroAt buf (32 * k + b) (32 - b))

/-- The block size is known: the blocks follow (R527). -/
def opBlocks (s : State) (o : ReaderOp) (b : Nat) : State :=
  let o := { o with blockSize := b, tries := 0 }
  if 32 < b then finishOp (protoError s) o 3 0xB4 [] 0 false true
  else if o.op = 1 then opSend s { o with stage := .read }
  else
    let bad := match s.cmd o.cmd with
      | some c => writeBad c.buf o.count b
      | none => none
    match bad with
    | some off => finishOp s o 1 (inBuffer off) [] 0 false true
    | none => opSend s { o with stage := .write }

/-- A request to a tag goes unanswered (R518, R527-R529). -/
def opUnanswered (s : State) (o : ReaderOp) (wrOk : Bool) : State :=
  if o.tries < 2 then
    let s := s.when (decide (o.stage = .write)) fun s =>
      s.modGate fun g => { g with writeRetries := satInc 0xFFFFFFFF g.writeRetries }
    opSend s { o with tries := o.tries + 1 }
  else match o.stage with
    | .inventory _ _ => nextRound s o wrOk
    | .systemInfo => opBlocks s o 4
    | .read | .write => finishOp s o 6 0 [] o.moved false wrOk

/-- The entries of a read: each block in 32 bytes (R527). -/
def blockEntries (data : List Byte) (b count : Nat) : List Byte :=
  (List.range count).flatMap fun k => padTo 32 ((data.drop (b * k)).take b)

/-- A tag of the bank answers (R523-R529, Table 19-6). -/
def opStep (s : State) (o : ReaderOp) (a : BankAnswer) (wrOk : Bool) : State :=
  let bad := opUnanswered (protoError s) o wrOk
  match o.stage, a with
  | .inventory len mask, .slots xs => takeRound s o len mask xs wrOk
  | .systemInfo, .systemInfo b => opBlocks s o b
  | .systemInfo, .error _ => opBlocks s o 4
  | .read, .blocks data =>
    if data.length = o.blockSize * o.count then
      finishOp s o 0 0 (blockEntries data o.blockSize o.count) o.count false wrOk
    else bad
  | .write, .written =>
    let o := { o with moved := o.moved + 1, tries := 0 }
    if o.moved < o.count then opSend s o else finishOp s o 0 0 [] o.moved false wrOk
  | .read, .error code | .write, .error code =>
    finishOp (protoError s) o 3 (0x100 + code % 256) [] o.moved false wrOk
  | _, _ => bad

/-- BANK_TAG_ANSWER (R518, R523-R529). -/
def execBankTagAnswer (ans : BankAnswer) (wrOk : Bool) (s : State) : Res :=
  match s.gate.op with
  | none => .next s
  | some o => possible (s.gate.ready o.bank && s.gate.sweeping.isEmpty && !s.flt.halted) s fun s => opStep s o ans wrOk

/-- SVC_GATEHOUSE_OP (R515, R523, R532): the reader is taken; its field comes on next. -/
def execSvcGatehouseOp (n : Nat) (s : State) : Res :=
  runCmd n 0x0601 s fun s c =>
    let op := c.byte 24
    let needs : BitVec 3 := if op = 3 then 1#3 ||| s.gate.pingEn else 1#3 <<< c.byte 25
    if s.gate.antFault &&& needs ≠ 0#3 then failCmd s c 4 0xB0
    else if op = 3 then s.modGate fun g => { g with baseline := some { cmd := c.n } }
    else
      let o : ReaderOp :=
        { cmd := c.n, op := op, bank := c.byte 25, uid := fieldN c.entry 32 8, first := c.byte 26, count := c.byte 27
          stage := if op = 0 then .inventory 0 0 else .systemInfo }
      s.modGate fun g => { g with op := some o }

/-- GATEHOUSE_OP_TIMEOUT (R526, R529, R532). -/
def execGatehouseOpTimeout (n : Nat) (wrOk : Bool) (s : State) : Res :=
  runningCmd n 0x0601 s (fun _ _ => true) fun s c =>
    match s.gate.op with
    | some o =>
      if o.op = 0 then finishOp s o 6 0 (uidList o.found) o.found.length false wrOk
      else finishOp s o 6 0 [] o.moved false wrOk
    | none => completeCmd (touch (s.modGate fun g => { g with baseline := none }.off) c.n c.objs) c 6 0 [] false .nothing

/-- A tag in its place by UID; a UID is listed once. -/
def insertTag (t : BankTag) : List BankTag → List BankTag
  | [] => [t]
  | x :: xs => if t.uid = x.uid then t :: xs else if t.uid < x.uid then t :: x :: xs else x :: insertTag t xs

/-- SWEEP_COMPLETE (R523, R525, R531, R534): the bank table is replaced, without the reliquary's own tag; a sweep that
confirms a ping compares the two tables. -/
def execSweepComplete (bank : Nat) (tags : List BankTag) (_more : Bool) (s : State) : Res :=
  possible (s.gate.ready bank && decide (s.gate.sweeping.head? = some bank ∧ tags.length ≤ 32)) s fun s =>
    let new := (tags.filter fun t => decide (t.uid ≠ s.tagUid)).foldl
      (fun l t => insertTag { t with bytes := padTo 20 t.bytes } l) []
    let old := tget [] s.gate.banks bank
    let s := s.modGate fun g =>
      { g with banks := tput [] g.banks bank new, sweeping := g.sweeping.drop 1 }.off
    if s.gate.confirming ≠ some bank then s
    else if new = old then falseDetect s
    else cardDetect s bank

/-! ### Pings (R530-R533) -/

/-- The baseline of an antenna. -/
def Gatehouse.base (g : Gatehouse) (antenna : Nat) : Option Nat :=
  if antenna = 0 then g.base0 else if antenna = 1 then g.base1 else g.base2

/-- The code detunes against a baseline (R530, Table 19-7). -/
def detunes (base code : Nat) (threshold : BitVec 8) : Bool :=
  decide (max 1 threshold.toNat ≤ (base - code) + (code - base))

/-- The average of 16 codes: exact where it is a whole number, else one of the two numbers beside it; the manual states
no rounding (R532). -/
def pingAverage (s : State) (codes : List Nat) : Nat × State :=
  let r := s.freeNat
  (codes.sum / 16 + (if codes.sum % 16 = 0 then 0 else r.1 % 2), r.2)

/-- A baseline is stored in the reader and in CF (R532). -/
def storeBase (s : State) (antenna v : Nat) : State :=
  match antenna with
  | 0 => { s with gate := { s.gate with base0 := some v }, flash := { s.flash with base0 := some v } }
  | 1 => { s with gate := { s.gate with base1 := some v }, flash := { s.flash with base1 := some v } }
  | _ => { s with gate := { s.gate with base2 := some v }, flash := { s.flash with base2 := some v } }

/-- The antennas enabled in PING_EN. -/
def Gatehouse.pinged (g : Gatehouse) : List Nat := (List.range 3).filter fun a => g.pingEn.getLsbD a

/-- The antenna whose 16 baseline pings are not all made, lowest first. -/
def BaselineRun.due (b : BaselineRun) (antennas : List Nat) : Option Nat :=
  antennas.find? fun a => decide ((tget [] b.codes a).length < 16)

/-- An OP 3 with all its pings made stores them and completes (R532). -/
def settleBaseline (s : State) (b : BaselineRun) : State :=
  if (b.due s.gate.pinged).isSome then s.modGate fun g => { g with baseline := some b }
  else
    let s := s.gate.pinged.foldl (fun s a =>
      let r := pingAverage s (tget [] b.codes a)
      storeBase r.2 a r.1) s
    let s := s.modGate fun g => { g with baseline := none }
    match s.cmd b.cmd with
    | some c => doneCmd s c [0#8]
    | none => s

/-- PING (R530-R533, R535): a ping that falls due while the reader is held, or in an outside field, is skipped. -/
def execPing (antenna code : Nat) (s : State) : Res :=
  let g := s.gate
  let basing := match g.baseline with
    | some b => b.polled && decide (b.due g.pinged = some antenna) && g.wants.isNone && !s.flt.halted
    | none => false
  let idle := g.free && g.approval.isNone && (g.base antenna).isSome
  possible (s.pw.porDone && decide (antenna < 3 ∧ code < 4096) && g.pingEn.getLsbD antenna &&
      !g.antFault.getLsbD antenna && !s.clo.tag.field && (basing || idle)) s fun s =>
    let s := s.modGate fun g => { g with pings := (g.pings + 1) % 2 ^ 32, lastPing := code }
    match s.gate.baseline with
    | some b => settleBaseline s { b with codes := tput [] b.codes antenna (tget [] b.codes antenna ++ [code]) }
    | none =>
      if !detunes ((g.base antenna).getD 0) code g.threshold then
        s.modGate fun g => { g with spent := setErase antenna g.spent }
      else if g.spent.contains antenna then s
      else s.modGate fun g => { g with confirming := some antenna
                                       sweeping := if antenna = 0 then [] else [antenna] }

/-! ### WUPA outside an approval (R522, R531, R532) -/

/-- A WUPA outside an approval goes unanswered, its retry included. -/
def wupaUnanswered (s : State) : State :=
  if s.gate.tries < 1 then radioFrame (s.modGate fun g => { g with tries := g.tries + 1 }) wupa
  else match s.gate.confirming, s.gate.baseline with
    | some _, _ => falseDetect (s.modGate Gatehouse.off)
    | none, some b => settleBaseline (s.modGate Gatehouse.off) { b with polled := true }
    | none, none => s

/-- A card answers a WUPA outside an approval: it gets HLTA (R522); a detect is confirmed, a baseline refused. -/
def wupaAnswered (s : State) (wellFormed : Bool) : State :=
  let s := radioFrame (if wellFormed then s else protoError s) hlta
  let s := s.modGate Gatehouse.off
  match s.gate.confirming, s.gate.baseline with
  | some a, _ => cardDetect s a
  | none, some b =>
    let s := s.modGate fun g => { g with baseline := none }
    match s.cmd b.cmd with
    | some c => failCmd s c 3 0xB3
    | none => s
  | none, none => s

/-- A WUPA outside an approval is out. -/
def Gatehouse.polls (g : Gatehouse) : Bool :=
  g.ready 0 && (decide (g.confirming = some 0) || (g.op.isNone && g.baseline.isSome))

/-- CARD_ANSWER (R518-R522, R531, R532, Table 19-6). -/
def execCardAnswer (ans : CardAnswer) (s : State) : Res :=
  if s.gate.polls then
    possible true s fun s => match ans with
      | .atqa w => wupaAnswered s w
      | .badFrame => wupaUnanswered (protoError s)
      | _ => wupaAnswered s false
  else match s.gate.approval with
    | none => .next s
    | some r => possible (s.gate.ready 0 && decide (r.stage ≠ .polling) && !s.flt.halted) s fun s => badgeStep s r ans

/-- ANSWER_WINDOW_EXPIRY (R518). -/
def execAnswerWindowExpiry (wrOk : Bool) (s : State) : Res :=
  if s.gate.polls then possible true s wupaUnanswered
  else match s.gate.op, s.gate.approval with
    | some o, _ => possible (s.gate.ready o.bank && s.gate.sweeping.isEmpty && !s.flt.halted) s fun s =>
        opUnanswered s o wrOk
    | none, some r => possible (s.gate.ready 0 && decide (r.stage ≠ .polling) && !s.flt.halted) s fun s =>
        cardUnanswered s r
    | none, none => .next s

/-- The card has been selected and not let go. -/
def CardStage.held : CardStage → Bool
  | .polling | .atqa | .select => false
  | _ => true

/-- CARD_HOLD_LIMIT (R519): 10 s from its SELECT. -/
def execCardHoldLimit (s : State) : Res :=
  match s.gate.approval with
  | none => .next s
  | some r => possible (s.gate.ready 0 && r.stage.held && !s.flt.halted) s fun s =>
    let s := radioFrame (protoError s) deselect
    if r.stage = .deselect then finishBadge s r else (cardGone s r).modGate Gatehouse.off

/-! ### Field commands -/

/-- The user that needed a faulted antenna ends (R515). -/
def faultUser (s : State) : State :=
  let g := s.gate
  match g.sweeping with
  | b :: rest =>
    let s := s.modGate fun g => { g with sweeping := rest }
    if g.confirming = some b then falseDetect s else s
  | [] =>
    if g.confirming.isSome then falseDetect s
    else match g.op, g.baseline with
      | some o, _ => finishOp s o 4 0xB0 [] 0 false true
      | none, some b =>
        let s := s.modGate fun g => { g with baseline := none }
        match s.cmd b.cmd with
        | some c => failCmd s c 4 0xB0
        | none => s
      | none, none => failBadge s 4 0xB0

/-- FIELD_TURN_ON (R511, R512, R515, R535). -/
def execFieldTurnOn (antenna milliAmp : Nat) (s : State) : Res :=
  possible (s.pw.porDone && decide (s.gate.wants = some antenna) && !s.gate.field && !s.clo.tag.field) s fun s =>
    let ok := currentOk milliAmp
    let s := s.modGate fun g => { g with antFault := faultMark g.antFault antenna !ok }
    if ok then s.modGate fun g => { g with antsel := antenna, field := true, settled := false, tries := 0 }
    else faultUser s

/-- FIELD_SETTLE (R512): the first request of the reader's user goes out. -/
def execFieldSettle (s : State) : Res :=
  possible (s.gate.field && !s.gate.settled) s fun s =>
    let s := s.modGate fun g => { g with settled := true }
    if s.gate.polls then radioFrame s wupa
    else match s.gate.sweeping, s.gate.op with
      | _ :: _, _ => radioFrame s [0x06#8, 0x01#8, 0#8]
      | [], some o => radioFrame s (opFrame s o)
      | [], none => s

/-- ANTENNA_FAULT_RETRY (R515): a turn-on every 10 s on a faulted antenna; a pass clears its mark. -/
def execAntennaFaultRetry (antenna milliAmp : Nat) (s : State) : Res :=
  possible (s.pw.porDone && s.gate.antFault.getLsbD antenna && s.gate.free && s.gate.approval.isNone &&
      !s.clo.tag.field) s fun s =>
    s.modGate fun g => { g with antFault := faultMark g.antFault antenna !currentOk milliAmp }

end Sys2Proof.Machine
end

