-- ==== Sys2Proof/Machine/Interlock.lean ====
section
/-! DEFINITION. The coolant interlock (R53, R489-R492). -/

namespace Sys2Proof.Machine

/-- Bits of ALERT_CAUSE are set (Table 18-4). -/
def alert (s : State) (bits : BitVec 32) : State :=
  { s with clo := { s.clo with alertCause := s.clo.alertCause ||| bits } }

/-- The state with the interlock changed by `f`. -/
def State.modIlk (s : State) (f : Interlock → Interlock) : State := { s with clo := { s.clo with ilk := f s.clo.ilk } }

/-- The tick on which a disagreement run is counted and, while closed, latches (R490). -/
def latchTick : Nat := 53

/-- Both channels have read open on 2 consecutive ticks while the state is closed (Table 18-6). -/
def Interlock.openDue (k : Interlock) : Bool := decide (k.state = 0 ∧ 2 ≤ k.bothOpen)

/-- Both channels have read closed on 2 consecutive ticks while the state is open, with no latch. -/
def Interlock.closedDue (k : Interlock) : Bool := decide (k.state = 1 ∧ 2 ≤ k.bothClosed)

/-- A disagreement run is at its 53rd tick while the state is closed. -/
def Interlock.latchDue (k : Interlock) : Bool := decide (k.state = 0 ∧ k.run = latchTick)

/-- One sample of both channels (R489, R490): a run is counted once, when it ends or on its 53rd tick. -/
def Interlock.sample (k : Interlock) (a b : Bool) : Interlock :=
  let k := { k with aOpen := a, bOpen := b }
  if a ≠ b then
    let run := min (latchTick + 1) (k.run + 1)
    let count := decide (run = latchTick)
    { k with run := run, bothOpen := 0, bothClosed := 0, counted := k.counted || count
             disc := if count then satInc 0xFFFF k.disc else k.disc }
  else
    let count := decide (k.run ≠ 0) && !k.counted
    { k with run := 0, counted := false, disc := if count then satInc 0xFFFF k.disc else k.disc
             bothOpen := if a then min 2 (k.bothOpen + 1) else 0
             bothClosed := if a then 0 else min 2 (k.bothClosed + 1) }

/-- An INTERLOCK event, and for a latch its log entry: at once while the sacristy runs, else after the next bring-up
(R491). -/
def reportInterlock (s : State) (value : Nat) : State :=
  if s.mainOn then
    let s := if value = 2 then logC s 0 0x0105 locCloister 255 [] else s
    post s 0x0008 255 [BitVec.ofNat 8 value]
  else s.modIlk fun k => { k with owed := k.owed ++ [value] }

/-- The shed starts, unless one holds already; an acknowledgement is needed (R491). With the main domains off there is
nothing to shed. -/
def interlockShed (s : State) : State :=
  if !s.mainOn then s
  else
    let s := if s.heat.shed = .none then startShed s else s
    { s with heat := { s.heat with ackNeeded := true } }

/-- The interlock is declared open (R490, R491); a state change is wake source 0x10. -/
def declareOpen (s : State) : State :=
  let s := alert (s.modIlk fun k => { k with state := 1 }) 4#32
  wakeSource (reportInterlock (interlockShed s) 1) 0x10

/-- A discrepancy is latched (R490, R491). -/
def latchDiscrepancy (s : State) : State :=
  let s := alert (s.modIlk fun k => { k with state := 2 }) 12#32
  wakeSource (reportInterlock (interlockShed s) 2) 0x10

/-- The interlock is declared closed (R490). -/
def declareClosed (s : State) : State :=
  wakeSource (reportInterlock (s.modIlk fun k => { k with state := 0 }) 0) 0x10

/-- What the last sample decided is declared on that sample's tick. -/
def settleInterlock (s : State) : State :=
  let k := s.clo.ilk
  if k.openDue then declareOpen s
  else if k.latchDue then latchDiscrepancy s
  else if k.closedDue then declareClosed s
  else s

/-- INTERLOCK_SAMPLE (R489, R490). -/
def execInterlockSample (aOpen bOpen : Bool) (s : State) : Res :=
  possible s.pw.porDone s fun s => (settleInterlock s).modIlk fun k => k.sample aOpen bOpen

/-- INTERLOCK_OPEN_DECLARED (R490, R491). -/
def execInterlockOpenDeclared (s : State) : Res := possible (s.pw.porDone && s.clo.ilk.openDue) s declareOpen

/-- INTERLOCK_CLOSED_DECLARED (R490). -/
def execInterlockClosedDeclared (s : State) : Res := possible (s.pw.porDone && s.clo.ilk.closedDue) s declareClosed

/-- INTERLOCK_DISCREPANCY_LATCH (R490, R491). -/
def execInterlockDiscrepancyLatch (s : State) : Res :=
  possible (s.pw.porDone && s.clo.ilk.latchDue) s latchDiscrepancy

end Sys2Proof.Machine
end

