-- ==== Sys2Proof/Machine/Reliquary.lean ====
section
/-! DEFINITION. The reliquary tag (R501-R510, R534): its field side by ISO/IEC 15693 (log entry 5), its wire side, the
capsule's two halves and FD_N. A field transaction is one step. -/

namespace Sys2Proof.Machine

/-! ### Memory -/

/-- The state with the tag changed by `f`. -/
def State.modTag (s : State) (f : Tag → Tag) : State := { s with clo := { s.clo with tag := f s.clo.tag } }

/-- Where block `b` is stored: the two capsule halves change places at a swap (R504). -/
def Tag.place (t : Tag) (b : Nat) : Nat :=
  if t.swapped && decide (64 ≤ b ∧ b < 128) then b + 64
  else if t.swapped && decide (128 ≤ b ∧ b < 192) then b - 64
  else b

/-- The 32 bytes of block `b`. -/
def Tag.block (t : Tag) (b : Nat) : List Byte := t.mem.readBytes (32 * t.place b) 32

/-- The tag with block `b` written. -/
def Tag.putBlock (t : Tag) (b : Nat) (data : List Byte) : Tag :=
  { t with mem := t.mem.writeBytes (32 * t.place b) (padTo 32 data) }

/-- The tag with the blocks from `first` upward written. -/
def Tag.putBlocks (t : Tag) (first count : Nat) (data : List Byte) : Tag :=
  (List.range count).foldl (fun t k => t.putBlock (first + k) (sliceB data (32 * k) 32)) t

/-- Blocks `first` upward. -/
def Tag.blocks (t : Tag) (first count : Nat) : List Byte := (List.range count).flatMap fun k => t.block (first + k)

/-- Every named block lies in the note area (Table 18-10). -/
def noteBlocks (first count : Nat) : Bool := decide (192 ≤ first ∧ first + count ≤ 256)

/-! ### The field side (R503, R506, R509, R510) -/

/-- An unaddressed request is heard unless the tag is quiet, an addressed one by its UID, a Select-mode one while
selected (ISO/IEC 15693-3). -/
def tagHears (s : State) (a : TagAddr) : Bool :=
  match a with
  | .all => decide (s.clo.tag.state ≠ .quiet)
  | .uid u => decide (u.toNat = s.tagUid)
  | .selected => decide (s.clo.tag.state = .selected)

/-- The tag answers, unless the package's own gatehouse holds its modulator off (R534). -/
def tagAnswer (s : State) (data : List Byte) : State := if s.gate.field then s else s.emit (.tagAnswer data)

/-- The tag answers with an error code. -/
def tagError (s : State) (code : Byte) : State := tagAnswer s [1#8, code]

/-- A request in an outside field, whose presence the tag senses but for the gatehouse's own (R534). -/
def tagRequest (s : State) (k : State → State) : Res :=
  possible true s fun s => k (if s.gate.field then s else s.modTag fun t => { t with field := true })

/-- A request that names the tag. -/
def tagCommand (a : TagAddr) (s : State) (k : State → State) : Res :=
  tagRequest s fun s => if tagHears s a then k s else s

/-- The tag's UID as it is sent. -/
def State.tagUidBytes (s : State) : List Byte := uidBytes s.tagUid

/-- TAG_INVENTORY (R503): the tag answers in the slot its UID gives, where the mask meets its UID. -/
def execTagInventory (_slots16 : Bool) (maskLen : Nat) (mask : BitVec 64) (s : State) : Res :=
  tagRequest s fun s =>
    if s.clo.tag.state ≠ .quiet ∧ s.tagUid % 2 ^ maskLen = mask.toNat % 2 ^ maskLen then
      tagAnswer s ([0#8, 0#8] ++ s.tagUidBytes)
    else s

/-- STAY_QUIET (R503): no answer. -/
def execStayQuiet (uid : BitVec 64) (s : State) : Res :=
  tagCommand (.uid uid) s fun s => s.modTag fun t => { t with state := .quiet }

/-- SELECT (R503): another tag's selection returns a selected tag to Ready. -/
def execSelect (uid : BitVec 64) (s : State) : Res :=
  tagRequest s fun s =>
    if tagHears s (.uid uid) then tagAnswer (s.modTag fun t => { t with state := .selected }) [0#8]
    else s.modTag fun t => if t.state = .selected then { t with state := .ready } else t

/-- RESET_TO_READY (R503). -/
def execResetToReady (addr : TagAddr) (s : State) : Res :=
  tagCommand addr s fun s => tagAnswer (s.modTag fun t => { t with state := .ready }) [0#8]

/-- GET_SYSTEM_INFORMATION (R503): 256 blocks of 32 bytes. -/
def execGetSystemInformation (addr : TagAddr) (s : State) : Res :=
  tagCommand addr s fun s => tagAnswer s ([0#8, 4#8] ++ s.tagUidBytes ++ [0xFF#8, 0x1F#8])

/-- The security status of a block (Table 18-12). -/
def blockSecurity (b : Nat) : Byte := if b < 192 then 1#8 else 0#8

/-- A block as it is read, after its security status where the option flag asks for it. -/
def readEntry (t : Tag) (option : Bool) (b : Nat) : List Byte :=
  if option then blockSecurity b :: t.block b else t.block b

/-- READ_SINGLE_BLOCK (R503). -/
def execReadSingleBlock (addr : TagAddr) (option : Bool) (block : Nat) (s : State) : Res :=
  tagCommand addr s fun s =>
    if 255 < block then tagError s 0x10#8 else tagAnswer s (0#8 :: readEntry s.clo.tag option block)

/-- READ_MULTIPLE_BLOCKS (R503). -/
def execReadMultipleBlocks (addr : TagAddr) (option : Bool) (first count : Nat) (s : State) : Res :=
  tagCommand addr s fun s =>
    if count = 0 ∨ 32 < count ∨ 256 < first + count then tagError s 0x10#8
    else tagAnswer s (0#8 :: (List.range count).flatMap fun k => readEntry s.clo.tag option (first + k))

/-- A field write of note blocks sets NOTE_WRITTEN while the cloister is powered (R509). -/
def noteWrite (s : State) (first count : Nat) (data : List Byte) : State :=
  let s := s.modTag fun t => t.putBlocks first count data
  tagAnswer (if s.pw.porDone then alert s 64#32 else s) [0#8]

/-- WRITE_SINGLE_BLOCK (R503, R509): a whole block of 32 bytes. -/
def execWriteSingleBlock (addr : TagAddr) (block : Nat) (data : List Byte) (s : State) : Res :=
  if data.length ≠ 32 then .next s
  else tagCommand addr s fun s => if noteBlocks block 1 then noteWrite s block 1 data else tagError s 0x12#8

/-- WRITE_MULTIPLE_BLOCKS (R503, R509): 1 to 4 blocks; a longer write is none of Table 18-12's commands. -/
def execWriteMultipleBlocks (addr : TagAddr) (first count : Nat) (data : List Byte) (s : State) : Res :=
  if count = 0 ∨ data.length ≠ 32 * count then .next s
  else tagCommand addr s fun s =>
    if 4 < count then tagError s 1#8
    else if noteBlocks first count then noteWrite s first count data
    else tagError s 0x12#8

/-- TAG_OTHER_COMMAND (R503). -/
def execTagOtherCommand (addr : TagAddr) (_code : Nat) (s : State) : Res := tagCommand addr s fun s => tagError s 1#8

/-- Note blocks take undefined content (R510): free bytes. -/
def tearBlocks : List Nat → State → State
  | [], s => s
  | b :: bs, s =>
    let r := s.freeBytes 32
    tearBlocks bs (r.2.modTag fun t => t.putBlock b r.1)

/-- The outside field is gone: the tag is without power, and Ready when it has it again. -/
def fieldGone (s : State) : State := s.modTag fun t => { t with field := false, state := .ready }

/-- FIELD_DROP (R510): the field drops; the note blocks a write was addressing hold undefined content. -/
def execFieldDrop (blocks : List Nat) (s : State) : Res :=
  possible (blocks.all fun b => noteBlocks b 1) s fun s => fieldGone (tearBlocks blocks s)

/-! ### FD_N (R505) -/

/-- FD_N_ASSERT (R505, R534): each falling edge is wake source 0x11. -/
def execFdNAssert (s : State) : Res :=
  possible (s.pw.porDone && !s.clo.tag.fdLow && !s.gate.field) s fun s =>
    wakeSource (s.modTag fun t => { t with field := true, fdLow := true }) 0x11

/-- FD_N_RELEASE (R505). -/
def execFdNRelease (s : State) : Res :=
  possible (s.pw.porDone && s.clo.tag.fdLow) s fun s => fieldGone (s.modTag fun t => { t with fdLow := false })

/-! ### The wire side (R502, R504, R506-R508) -/

/-- The SMBus target's answer. -/
def smbus (s : State) (data : List Byte) : State := s.emit (.smbus data)

/-- CAPSULE_TAG_WRITE (R504): the capsule is written into the storage of the previous copy, and the halves swap. -/
def execCapsuleTagWrite (s : State) : Res :=
  match s.flash.capsule with
  | none => .next s
  | some bytes => possible (s.pw.porDone && s.clo.tagOwed) s fun s =>
    let s := s.modTag fun t => { t.putBlocks 128 64 bytes with swapped := !t.swapped }
    { s with clo := { s.clo with tagOwed := false } }

/-- After a cloister power-on the current half takes the capsule of CF, where their generations differ (R504). -/
def restoreCapsule (s : State) : State :=
  match s.flash.capsule with
  | none => s
  | some bytes =>
    if fieldN (s.clo.tag.block 64) 4 4 = fieldN bytes 4 4 then s else s.modTag fun t => t.putBlocks 64 64 bytes

/-- An SMBus write is staged: SMB_SCL is held. -/
def Tag.smbusHeld (t : Tag) : Bool := t.staged.any fun x => decide (x.cmd = none)

/-- SMB_TAG_READ (R484, R502): status, then 1 to 7 blocks. -/
def execSmbTagRead (first count : Nat) (s : State) : Res :=
  possible (s.pw.porDone && !s.clo.tag.smbusHeld) s fun s =>
    if count = 0 ∨ 7 < count then smbus s [1#8]
    else if 256 < first + count then smbus s [5#8]
    else smbus s (0#8 :: s.clo.tag.blocks first count)

/-- SMB_TAG_WRITE (R484, R502, R506): whole note blocks; staged, and answered at the commit. -/
def execSmbTagWrite (first : Nat) (data : List Byte) (s : State) : Res :=
  possible (s.pw.porDone && !s.clo.tag.smbusHeld) s fun s =>
    let count := data.length / 32
    if data.length = 0 ∨ data.length % 32 ≠ 0 ∨ 7 < count then smbus s [1#8]
    else if !noteBlocks first count then smbus s [3#8]
    else s.modTag fun t => { t with staged := t.staged ++ [⟨first, data, none⟩] }

/-- SVC_TAG_WRITE (R502, R506, Table 04-15): staged, and completed at the commit. -/
def execSvcTagWrite (n : Nat) (s : State) : Res :=
  runCmd n 0x0605 s fun s c =>
    let first := c.byte 24
    let count := c.byte 25
    if first < 8 then failCmd s c 3 0xA0
    else if first < 192 ∧ 64 < first + count then failCmd s c 3 0
    else s.modTag fun t => { t with staged := t.staged ++ [⟨first, c.plain, some c.n⟩] }

/-- The staged write served next: SVC_TAG_WRITE before SMBus (R508). -/
def Tag.nextStaged (t : Tag) : Option Staged :=
  match t.staged.find? (fun x => x.cmd.isSome) with
  | some x => some x
  | none => t.staged.head?

/-- A staged write is answered with a status. -/
def answerStaged (s : State) (x : Staged) (status : Nat) : State :=
  let s := s.modTag fun t => { t with staged := t.staged.erase x }
  match x.cmd with
  | none => smbus s [BitVec.ofNat 8 status]
  | some n => match s.cmd n with
    | some c => if status = 0 then doneCmd s c [] else failCmd s c status 0
    | none => s

/-- TAG_COMMIT (R506). -/
def execTagCommit (s : State) : Res :=
  match s.clo.tag.nextStaged with
  | none => .next s
  | some x => possible s.pw.porDone s fun s =>
    answerStaged (s.modTag fun t => t.putBlocks x.first (x.data.length / 32) x.data) x 0

/-- WIRE_ACCESS_BUSY (R507): an access has waited 2 ms for a field transaction; nothing is read or written. Capsule
writes wait without limit. -/
def execWireAccessBusy (who : WireAccess) (s : State) : Res :=
  match who with
  | .capsule => .next s
  | .svcTagWrite => match s.clo.tag.staged.find? (fun x => x.cmd.isSome) with
    | some x => possible s.pw.porDone s fun s => answerStaged s x 0x0E
    | none => .next s
  | .smbus => possible s.pw.porDone s fun s =>
    match s.clo.tag.staged.find? (fun x => decide (x.cmd = none)) with
    | some x => answerStaged s x 0x0E
    | none => smbus s [0x0E#8]

end Sys2Proof.Machine
end

