-- ==== Sys2Proof/Machine/Cloister.lean ====
section
/-! DEFINITION. Command keys, the SMBus target's other answers, the calibration store (R483-R485, R493-R500) and the
diagnostics opcodes (Table 04-16). -/

namespace Sys2Proof.Machine

/-! ### Keys (R498-R500) -/

/-- The state with the key of port byte `p` set or emptied. -/
def putKey (s : State) (p : Byte) (k : Option (List Byte)) : State :=
  if p = 0#8 then { s with flash := { s.flash with keyH0 := k } } else { s with flash := { s.flash with keyH1 := k } }

/-- KEY_SET (R498): a port byte and 32 key bytes. -/
def execKeySet (bytes : List Byte) (s : State) : Res :=
  possible s.pw.porDone s fun s =>
    let p := byteAt bytes 0
    if bytes.length ≠ 33 ∨ 1#8 < p then smbus s [1#8]
    else if (s.flash.key (portOf p.toNat)).isSome then smbus s [3#8]
    else smbus (setNonce (putKey s p (some (bytes.drop 1))) (portOf p.toNat) 0) [0#8]

/-- KEY_CLEAR (R499): a port byte. -/
def execKeyClear (bytes : List Byte) (s : State) : Res :=
  possible s.pw.porDone s fun s =>
    let p := byteAt bytes 0
    if bytes.length ≠ 1 ∨ 1#8 < p then smbus s [1#8]
    else if 2 ≤ s.partyCount then smbus s [3#8]
    else smbus (putKey s p none) [0#8]

/-! ### SMBus (R483-R485) -/

/-- SMB_ALERT_N is driven low (R483). -/
def Cloister.alerting (k : Cloister) : Bool := k.alertCause &&& k.alertEn != 0#32

/-- ALERT_RESPONSE (R484): the target answers with its address, 0x5C. -/
def execAlertResponse (s : State) : Res :=
  possible (s.pw.porDone && s.clo.alerting) s fun s => smbus s [0x5C#8]

/-- SMB_TSTAMP_READ (R485). -/
def execSmbTstampRead (s : State) : Res := possible s.pw.porDone s fun s => smbus s (le 8 s.tsNow.toNat)

/-! ### The calibration store (R493-R497) -/

/-- The highest VALID generation; 0 with none. -/
def Flash.topGen (f : Flash) : Nat := max f.slotA.validGen f.slotB.validGen

/-- The slot that a store writes is B: one not VALID, A first, else the one with the lower generation (R495). -/
def Flash.targetB (f : Flash) : Bool :=
  if f.slotA.st ≠ .valid then false
  else if f.slotB.st ≠ .valid then true
  else decide (f.slotB.gen < f.slotA.gen)

/-- The state with slot A or B set. -/
def putSlot (s : State) (toB : Bool) (x : CalSlot) : State :=
  if toB then { s with flash := { s.flash with slotB := x } } else { s with flash := { s.flash with slotA := x } }

/-- What a store stages: the HBM results, the results of the ports that are UP, and for the others the entries of the
slot in use (R495). -/
def stageCal (s : State) : CalSlot :=
  let old := match s.calSlot with
    | some x => x.ports
    | none => []
  { st := .valid, gen := s.flash.topGen + 1, rate := (s.stack 0).rate
    stackIds := (List.range 8).map fun m => tget 0 s.flash.stackIds m
    ports := (List.range 12).foldl (fun t p =>
      let l := s.link p
      tput CalPort.fresh t p
        (if l.state = 2 then ⟨BitVec.ofNat 32 (l.serial.getD 0), l.mask⟩ else tget CalPort.fresh old p)) [] }

/-- CAL_STATE (Table 18-9). -/
def calState (s : State) : List Byte :=
  let code := fun (x : CalSlot) => match x.st with
    | .empty => 0#8
    | .valid => 1#8
    | .torn => 2#8
  le 4 s.flash.slotA.validGen ++ le 4 s.flash.slotB.validGen ++ [code s.flash.slotA, code s.flash.slotB,
    if !s.clo.calInUse then 0xFF#8 else if s.clo.calB then 1#8 else 0#8] ++ zeros 5

/-- RESULT of SVC_CAL_STORE: the two generations. -/
def calResult (s : State) : List Byte := le 4 s.flash.slotA.validGen ++ le 4 s.flash.slotB.validGen

/-- SVC_CAL_STORE (R495, R497, R567): OP 0 erases its target and writes on; OP 1 reads CAL_STATE; OP 2 erases a slot. -/
def execSvcCalStore (n : Nat) (wrOk : Bool) (s : State) : Res :=
  runCmd n 0x0606 s fun s c =>
    match c.byte 24 with
    | 0 =>
      if s.hbmDown then failCmd s c 4 0x81
      else if s.flash.topGen = 0xFFFFFFFE then failCmd s c 4 0xC0
      else
        let b := s.flash.targetB
        let s := { s with clo := { s.clo with store := some ⟨b, stageCal s, c.n⟩ } }
        putSlot s b { st := .torn }
    | 1 => okWrite s c (sealReply s c (calState s)) (calResult s) wrOk
    | _ =>
      let s := putSlot s (decide (c.byte 25 = 1)) {}
      doneCmd s c (calResult s)

/-- CAL_STORE_WRITE_DONE (R495, R496): the slot stands complete. A read-back that fails leaves it TORN; the manual gives
that completion no status, so it is a free one. -/
def execCalStoreWriteDone (readBack : Bool) (s : State) : Res :=
  match s.clo.store with
  | none => .next s
  | some x => possible s.pw.porDone s fun s =>
    let s := { s with clo := { s.clo with store := none } }
    let s := if readBack then putSlot s x.toB x.slot else s
    let r := s.freeNat
    match s.cmd x.cmd with
    | none => s
    | some c =>
      if readBack then doneCmd s c (calResult s)
      else completeCmd (touch r.2 c.n c.objs) c (r.1 % 256) 0 (calResult s) false .nothing

/-! ### Diagnostics (Table 04-16) -/

/-- DIAG_LOG_READ (R123): from one snapshot of a chancel's log. -/
def execDiagLogRead (n : Nat) (wrOk : Bool) (s : State) : Res :=
  runCmd n 0x0701 s fun s c =>
    let south := decide (c.byte 24 = 1)
    let log := if south then s.flt.logS else s.flt.logN
    let lost := if south then s.flt.overS else s.flt.overN
    let part := (log.drop (fieldN c.entry 26 2)).take (fieldN c.entry 28 2)
    okWrite s c (padTo c.dataLen (part.flatMap LogEntry.bytes)) (le 4 lost ++ le 2 log.length) wrOk

/-- DIAG_CAPSULE_READ (R480): the latest complete capsule; zeros where there has been none. -/
def execDiagCapsuleRead (n : Nat) (wrOk : Bool) (s : State) : Res :=
  runCmd n 0x0702 s fun s c =>
    let bytes := s.flash.capsule.getD (zeros 2048)
    okWrite s c (padTo 2048 bytes) (sliceB bytes 4 4 ++ zeros 4 ++ sliceB bytes 8 8) wrOk

/-- DIAG_PATTERN (R121): on a bay of no chapel or a port without owner; it runs for its DURATION. -/
def execDiagPattern (n : Nat) (s : State) : Res :=
  runCmd n 0x0703 s fun s c =>
    let id := fieldN c.entry 26 2
    if c.byte 24 = 0 then
      if (s.bay id).st = .draining ∨ (s.bay id).st = .fenced then failCmd s c 0x0F 0
      else if (s.chapelOfBay id).isSome then refuse s c 0
      else s
    else if (s.link id).state = 5 then failCmd s c 0x0F 0
    else if (s.link id).owner ≠ 255 then refuse s c 0
    else s

/-- DIAG_PATTERN_END (R121): the errors and bits counted. -/
def execDiagPatternEnd (n errors bits : Nat) (s : State) : Res :=
  runningCmd n 0x0703 s (fun _ _ => true) fun s c => okCmd s c (le 8 errors ++ le 8 bits)

end Sys2Proof.Machine
end

