-- ==== Sys2Proof/Machine/Departure.lean ====
section
/-! DEFINITION. The rest of chapter 17: the end of a departure, the sacristy's lockstep, screen parity and the periodic
capsule (R462, R471, R479). -/

namespace Sys2Proof.Machine

/-- A port is FENCED: its traffic stops as Table 16-11 gives, and a LINK_TRAIN that runs on it completes FENCED. -/
def fencePort (s : State) (t : Nat) : State :=
  if (s.link t).state = 5 then s
  else
    let s := stopTraffic s t 5
    match trainCmd s t with
    | some c => failCmd s c 0x0F 0
    | none => s

/-- PORTS_FENCED (R462): DEPART has been echoed, or 200 ns have passed; every port goes FENCED. -/
def execPortsFenced (s : State) : Res :=
  match s.flt.departing with
  | none => .next s
  | some d => possible s.mainOn s fun s =>
    d.ports.foldl fencePort { s with flt := { s.flt with departing := none } }

/-- SACRISTY_LOCKSTEP (R471, R472, R479): both halves halt; the package departs, vector 65 is signalled on each port, and
the cloister makes the capsule. No completion and no event is posted. -/
def execSacristyLockstep (s : State) : Res :=
  possible (s.mainOn && !s.flt.halted) s fun s =>
    let s := latchP s 0x0103
    let s := { s with flt := { s.flt with halted := true, pkgFaulted := true } }
    let s := logEntry s ⟨s.pw.tstamp, 2, 255, 0x0103, locSacristy, 0, zeros 16⟩
    let s := bothPorts.foldl (fun s p => signal s p 0 65) s
    cloisterCapsule (depart s 2 0x0103) 0x0103

/-- LOC of a router or of a target that holds a copy of a screen-derived table (Table 17-7, R137). -/
def tableHolder (loc : Nat) : Bool :=
  let id := loc % 4096
  match loc / 4096 with
  | 0 => decide (id < 3072)
  | 4 => decide (id < 8)
  | 5 => decide (id < 12)
  | 6 => decide (id < 2)
  | _ => false

/-- SCREEN_PARITY (R462, Table 17-1). -/
def execScreenParity (loc : Nat) (s : State) : Res :=
  possible (s.mainOn && !s.flt.halted && tableHolder loc) s fun s => faultP s 0x0104 loc []

/-- CAPSULE_PERIODIC (R479): every 60 s while ACTIVE. -/
def execCapsulePeriodic (s : State) : Res :=
  possible (s.mainOn && decide (s.pw.state = .active) && !s.flt.halted) s fun s => makeCapsule s 0 0

end Sys2Proof.Machine
end

