-- ==== Sys2Proof/Machine/Loads.lean ====
section
/-! DEFINITION. The table loads of a chapel and FABRIC_DRAIN (R64, R267, R304, R310, R311, R316, R332-R334,
Tables 04-10, 04-11, 10-5 to 10-7, 11-2 to 11-4). -/

namespace Sys2Proof.Machine

/-! ### Multicast groups -/

/-- Bytes of a group record of a chapel (R310). -/
def Chapel.groupBytes (h : Chapel) : Nat := 16 + 8 * h.ncells

/-- Offset of the entry of cell `i` in the record at `base`. -/
def entryOff (base i : Nat) : Nat := base + 16 + 8 * i

/-- The entry of cell `i` in the record at `base`. -/
def groupEntry (img : List Byte) (base i : Nat) : Nat := fieldN img (entryOff base i) 8

/-- A tree followed from a queue of cells, each with the lane it is reached on: every visit, and the cells reached on a
column lane that name a row output. A cell goes on to its outputs once. -/
def treeWalk (h : Chapel) (ent : Nat → Nat) : Nat → List (Nat × Option Dir) → List Nat → List Nat → List Nat × List Nat
  | 0, _, seen, bad => (seen, bad)
  | _, [], seen, bad => (seen, bad)
  | fuel + 1, (i, lane) :: q, seen, bad =>
    let outs := treeOuts (ent i)
    let bad := if lane.any (fun d => !dirRow d) && outs.any dirRow then i :: bad else bad
    if seen.contains i then treeWalk h ent fuel q (i :: seen) bad
    else
      let g := h.globalOf i
      let on := (outs.filter fun d => h.ownsLink g d).map fun d => (h.relOf (stepDir g d), some d)
      treeWalk h ent fuel (q ++ on) (i :: seen) bad

/-- What breaks Table 10-7 in a tree record. -/
def treeBad (h : Chapel) (img : List Byte) (base root : Nat) : List Nat :=
  let ent := groupEntry img base
  let cells := List.range h.ncells
  let walk := treeWalk h ent (4 * h.ncells + 2) [(root, none)] [] []
  let wrong := cells.filter fun i =>
    (treeOuts (ent i)).any (fun d => !h.ownsLink (h.globalOf i) d) || (decide (i = root) && bitN (ent i) 0) ||
      (decide (ent i ≠ 0) && decide (walk.1.count i ≠ 1)) || walk.2.contains i
  wrong.map (entryOff base) ++ cells.flatMap fun i =>
    badIf (decide (31 < ent i % 256)) (entryOff base i) ++ nonzeroAt img (entryOff base i + 1) 7

/-- A source route from cell `g` is valid and stays inside the chapel (R304): each router on the way consumes a code; one
turn at most, out of a row. -/
def routeWalk (h : Chapel) (info : Nat) : Nat → Nat → Nat → Dir → Bool → Bool
  | 0, _, _, _, _ => false
  | fuel + 1, pos, g, d, turned =>
    let n := h.far g d
    if h.folds g d then routeWalk h info fuel pos n.1 n.2 turned
    else if !h.holds n.1 then false
    else match bitsN info (2 * pos + 1) (2 * pos) with
      | 0 => routeWalk h info fuel (pos + 1) n.1 n.2 turned
      | 1 => !turned && dirRow d && routeWalk h info fuel (pos + 1) n.1 (dirTurn n.2 true) true
      | 2 => !turned && dirRow d && routeWalk h info fuel (pos + 1) n.1 (dirTurn n.2 false) true
      | _ => true

/-- A route entry of cell `g` keeps Table 10-4 and R304. -/
def routeOk (h : Chapel) (g info : Nat) : Bool :=
  let n := bitsN info 52 48
  decide (bitsN info 63 55 = 0 ∧ 1 ≤ n ∧ n ≤ 24) &&
    (List.range 24).all (fun i => decide (bitsN info (2 * i + 1) (2 * i) = 3) == decide (i + 1 = n)) &&
    routeWalk h info 64 0 g (dirOfCode (bitsN info 54 53)) false

/-- What breaks Table 10-7 in a route record. -/
def routesBad (h : Chapel) (img : List Byte) (base : Nat) : List Nat :=
  (List.range h.ncells).flatMap fun i =>
    let e := groupEntry img base i
    badIf (decide (e ≠ 0) && !routeOk h (h.globalOf i) e) (entryOff base i)

/-- What breaks Table 10-7 in the group record at `base`. -/
def groupBad (h : Chapel) (img : List Byte) (base : Nat) : List Nat :=
  let kind := (byteAt img base).toNat
  let ring := (byteAt img (base + 1)).toNat
  let root := fieldN img (base + 2) 2
  let side := if ring % 2 = 0 then 4 * h.width else 4 * h.height
  let unused := nonzeroAt img (base + 4) 4
  match kind with
  | 0 => nonzeroAt img base h.groupBytes
  | 1 => unused ++ nonzeroAt img (base + 1) 1 ++ nonzeroAt img (base + 8) 8 ++
      (if h.ncells ≤ root then [base + 2] else treeBad h img base root)
  | 2 => unused ++ badIf (decide (3 < ring)) (base + 1) ++ nonzeroAt img (base + 2) 2 ++
      badIf (decide (2 ^ side ≤ fieldN img (base + 8) 8)) (base + 8) ++ nonzeroAt img (base + 16) (8 * h.ncells)
  | 3 => unused ++ nonzeroAt img (base + 1) 3 ++ nonzeroAt img (base + 8) 8 ++ routesBad h img base
  | _ => [base]

/-- The entries of cells that are not zero. -/
def entryTable (ent : Nat → Nat) (n : Nat) : Tbl Nat :=
  ((List.range n).map fun i => (i, ent i)).filter fun e => decide (e.2 ≠ 0)

/-- The group a record gives. -/
def parseGroup (h : Chapel) (img : List Byte) (base : Nat) : McastGroup :=
  let ring := (byteAt img (base + 1)).toNat
  { kind := (byteAt img base).toNat, dim := ring % 2, dir := ring / 2 % 2, root := fieldN img (base + 2) 2,
    copyMask := fieldN img (base + 8) 8, entries := entryTable (groupEntry img base) h.ncells }

/-- A chapel has a rectangle: its own, or a record in the current screen. -/
def State.hasRect (s : State) (c : Nat) : Bool :=
  decide ((s.chapel c).state ≠ .empty) || (s.chapelRec c).valid

/-- What of steps 3 and 5 needs the rectangle, for a load whose image must be `len` bytes and keep `bad`. -/
def imageCheck (s : State) (c : Cmd) (len : Chapel → Nat) (bad : Chapel → List Nat) : Option (Nat × Nat) :=
  if !s.hasRect c.ch then none
  else
    let h := s.rectOf c.ch
    if c.dataLen ≠ len h then some (1, 16) else (lowest (bad h)).map fun o => (1, inBuffer o)

/-- A table load of a chapel that is FORMED, or PAUSED and drained, and has no bay in TRIP (R64, Table 04-11). -/
def loadGate (s : State) (c : Cmd) (k : State) : State :=
  let h := s.chapel c.ch
  if h.state = .formed ∨ (h.state = .paused ∧ h.drained = true) then if h.tripped then failCmd s c 4 0x102 else k
  else refuse s c (if h.state = .paused then 0x20 else 0)

/-- MCAST_LOAD (R64, R310, R311). -/
def execMcastLoad (n : Nat) (s : State) : Res :=
  runCmdPre n 0x0201 s
    (fun s c => imageCheck s c (fun h => fieldN c.entry 28 2 * h.groupBytes) fun h =>
      (List.range (fieldN c.entry 28 2)).flatMap fun k => groupBad h c.buf (k * h.groupBytes))
    fun s c => loadGate s c <|
      let first := fieldN c.entry 26 2
      let s := s.modChapel c.ch fun h => { h with mcast := (List.range (fieldN c.entry 28 2)).foldl (fun t k =>
        tput McastGroup.fresh t (first + k) (parseGroup h c.buf (k * h.groupBytes))) h.mcast }
      doneCmd s c []

/-! ### Sum groups -/

/-- The neighbour of cell `i` in direction `d` inside the rectangle, without a wrap or a fold. -/
def Chapel.neighbour (h : Chapel) (i : Nat) (d : Dir) : Option Nat :=
  let w := 4 * h.width
  match d with
  | .e => if i % w + 1 < w then some (i + 1) else none
  | .w => if 0 < i % w then some (i - 1) else none
  | .s => if i + w < h.ncells then some (i + w) else none
  | .n => if w ≤ i then some (i - w) else none

/-- PARENT of a sum entry (Table 11-3). -/
def sumParent (e : Nat) : Nat := bitsN e 8 6

/-- The entry of cell `i` in a SUM_TREE_LOAD image. -/
def sumImgEntry (img : List Byte) (i : Nat) : Nat := fieldN img (32 + 8 * i) 8

/-- Following PARENT from cell `i` reaches `target`. -/
def sumReaches (h : Chapel) (ent : Nat → Nat) (target : Nat) : Nat → Nat → Bool
  | 0, _ => false
  | fuel + 1, i =>
    if i = target then true
    else
      let p := sumParent (ent i)
      if 1 ≤ p ∧ p ≤ 4 then match h.neighbour i (dirOfCode (p - 1)) with
        | some j => sumReaches h ent target fuel j
        | none => false
      else false

/-- An IN bit of a sum entry agrees with the neighbour's PARENT. -/
def sumInOk (h : Chapel) (ent : Nat → Nat) (i : Nat) (d : Dir) : Bool :=
  let named := match h.neighbour i d with
    | some j => decide (sumParent (ent j) = dirCode (dirOpp d) + 1)
    | none => false
  bitN (ent i) (dirCode d + 1) == named

/-- A sum entry breaks a rule of Table 11-4 that names it. `gate`: PARENT 5 is allowed at cell 0. -/
def sumEntryBad (h : Chapel) (ent : Nat → Nat) (target : Nat) (gate : Bool) (i : Nat) : Bool :=
  let e := ent i
  let p := sumParent e
  decide (5 < p) || (decide (p = 5) && !(gate && decide (i = 0))) ||
    (decide (1 ≤ p ∧ p ≤ 4) && (h.neighbour i (dirOfCode (p - 1))).isNone) || !dirs.all (sumInOk h ent i) ||
    (decide (e ≠ 0) && !sumReaches h ent target (h.ncells + 1) i)

/-- Reserved bits of a sum entry. -/
def sumReserved (img : List Byte) (i : Nat) : List Nat :=
  let o := 32 + 8 * i
  badIf ((byteAt img o).getLsbD 5) o ++ badIf (decide (1 < (byteAt img (o + 1)).toNat)) (o + 1) ++ nonzeroAt img (o + 2) 6

/-- The header fields of a used sum group out of Table 11-2. -/
def sumHeaderBad (img : List Byte) : List Nat :=
  let b := fun k => (byteAt img k).toNat
  let bytes := fieldN img 4 2
  let slot := fieldN img 10 2
  let wait := fieldN img 12 4
  badIf (decide (3 < b 1)) 1 ++
    badIf (decide (bytes < 64 ∨ bytes % 64 ≠ 0 ∨ (if b 1 = 1 then 4096 else 8192) < bytes)) 4 ++ badIf (decide (b 6 = 0)) 6 ++
    nonzeroAt img 7 1 ++ badIf (decide (slot ≠ 0 ∧ slot < 10)) 10 ++
    badIf (decide (wait ≠ 0 ∧ (wait < 10 ∨ 10000000 < wait))) 12 ++ badIf (decide (63 < b 24 ∧ b 24 ≠ 255)) 24 ++
    nonzeroAt img 25 7

/-- What breaks Table 11-4 in a used sum group; `holds`: the span slots the chapel holds. -/
def sumTreeBad (h : Chapel) (holds : Nat → Bool) (img : List Byte) : List Nat :=
  let b := fun k => (byteAt img k).toNat
  let ent := sumImgEntry img
  let cells := List.range h.ncells
  let root := fieldN img 2 2
  let down := fieldN img 8 2
  let grp := tget McastGroup.fresh h.mcast down
  let children := fieldN img 16 8
  let top := decide (b 24 = 255)
  let rootOk := if top then decide (root < h.ncells ∧ ent root ≠ 0) &&
      cells.all fun i => decide (ent i = 0) || decide (sumParent (ent i) = 0) == decide (i = root)
    else decide (root = 0 ∧ sumParent (ent 0) = 5)
  badIf (if b 0 = 2 then !decide (down < 1024 ∧ grp.kind = 1 ∧ grp.root = root) else decide (down ≠ 0)) 8 ++
    badIf (!rootOk || cells.all fun i => !bitN (ent i) 0) 2 ++
    badIf ((List.range 64).any fun n => bitN children n && !holds n) 16 ++
    (cells.filter (sumEntryBad h ent (if top then root else 0) (!top && holds (b 24)))).map (fun i => 32 + 8 * i) ++
    cells.flatMap (sumReserved img)

/-- What breaks Table 11-4 in a SUM_TREE_LOAD image. -/
def sumImageBad (h : Chapel) (holds : Nat → Bool) (img : List Byte) : List Nat :=
  match (byteAt img 0).toNat with
  | 0 => nonzeroAt img 0 (32 + 8 * h.ncells)
  | 1 | 2 => sumHeaderBad img ++ sumTreeBad h holds img
  | _ => [0]

/-- The sum group an image gives. -/
def parseSum (h : Chapel) (img : List Byte) : SumGroup :=
  let b := fun k => (byteAt img k).toNat
  if b 0 = 0 then SumGroup.fresh
  else
    { kind := b 0, op := b 1, root := fieldN img 2 2, sliceBytes := fieldN img 4 2, slices := b 6,
      downGroup := fieldN img 8 2, slotTimeout := fieldN img 10 2, waitTimeout := fieldN img 12 4,
      gateChildren := BitVec.ofNat 64 (fieldN img 16 8), gateParent := b 24,
      entries := entryTable (sumImgEntry img) h.ncells }

/-- Set bits of `v` below `n`. -/
def bitCount (n v : Nat) : Nat := ((List.range n).filter (bitN v)).length

/-- Sum slots a group reserves at cell `i` (R334). -/
def SumGroup.slotsAt (g : SumGroup) (i : Nat) : Nat :=
  bitCount 5 (tget 0 g.entries i) + if i = 0 then bitCount 64 g.gateChildren.toNat else 0

/-- Some router of the chapel has more than eight slots reserved. -/
def slotsExceeded (h : Chapel) (sums : Tbl SumGroup) : Bool :=
  (List.range h.ncells).any fun i => decide (8 < (sums.map fun e => e.2.slotsAt i).sum)

/-- The span slots the current screen gives a chapel. -/
def State.screenSlot (s : State) (c n : Nat) : Bool :=
  (List.range 12).any fun p => decide ((s.portRec p).owner = c ∧ (s.portRec p).span = n)

/-- SUM_TREE_LOAD (R64, R332-R334). -/
def execSumTreeLoad (n : Nat) (s : State) : Res :=
  runCmdPre n 0x0202 s
    (fun s c => imageCheck s c (fun h => 32 + 8 * h.ncells) fun h => sumImageBad h (s.screenSlot c.ch) c.buf)
    fun s c => loadGate s c <|
      let h := s.chapel c.ch
      let sums := tput SumGroup.fresh h.sums (c.byte 25) (parseSum h c.buf)
      if slotsExceeded h sums then failCmd s c 4 0x70
      else
        let s := s.modChapel c.ch fun h => { h with sums := sums }
        let s := s.modCells c.ch fun x => { x with sum := { x.sum with insts := tdel x.sum.insts (c.byte 25) } }
        doneCmd s c []

/-! ### Handlers -/

/-- The cells HANDLER_LOAD names, by global ID. -/
def Cmd.handlerCells (c : Cmd) (h : Chapel) : List Nat :=
  if fieldN c.entry 26 2 = 0xFFFF then h.cells else [h.globalOf (fieldN c.entry 26 2)]

/-- HANDLER_LOAD (R64, R267, R268). -/
def execHandlerLoad (n : Nat) (s : State) : Res :=
  runCmdPre n 0x0108 s
    (fun s c => if s.hasRect c.ch ∧ fieldN c.entry 26 2 ≠ 0xFFFF ∧ (s.rectOf c.ch).ncells ≤ fieldN c.entry 26 2 then
      some (5, 0) else none)
    fun s c =>
      let h := s.chapel c.ch
      if ¬(h.state = .formed ∨ h.state = .paused) then refuse s c 0
      else
        let cells := c.handlerCells h
        if cells.any fun g => (s.cell g).turnBusy then refuse s c 0x60
        else if h.tripped then failCmd s c 4 0x102
        else doneCmd (cells.foldl (fun s g => s.modCell g (·.loadHandlers c.buf)) s) c []

/-! ### FABRIC_DRAIN -/

/-- Nothing of the aisle, the chantry or a reduction is left at a cell's router (R316). -/
def Cell.fabricEmpty (x : Cell) : Bool :=
  let a := x.aisle
  let m := x.ch
  a.inE.isEmpty && a.inW.isEmpty && a.inS.isEmpty && a.inN.isEmpty && a.linkE.isEmpty && a.linkW.isEmpty &&
    a.linkS.isEmpty && a.linkN.isEmpty && a.injQ.isEmpty && a.gateIn.isEmpty && a.gateOut.isEmpty && a.sumOut.isEmpty &&
    x.sum.inbox.isEmpty && x.sum.insts.all (fun e => e.2.operands.isEmpty && e.2.ready.isEmpty) &&
    x.uni.assured.isEmpty && x.arrivals.isEmpty && m.linkE.isEmpty && m.linkW.isEmpty && m.linkS.isEmpty &&
    m.linkN.isEmpty && m.injQ.isEmpty && m.sysQ.isEmpty && m.gateOut.isEmpty && m.gateIn.isEmpty

/-- The chapel's fabric is drained (R316). -/
def State.fabricEmpty (s : State) (c : Nat) : Bool := (s.chapel c).cells.all fun g => (s.cell g).fabricEmpty

/-- TSCLK cycles since a command started. -/
def Cmd.taken (s : State) (c : Cmd) : List Byte := le 8 (s.ts - c.started.toNat)

/-- FABRIC_DRAIN (R316, Table 04-11): it waits for the chapel's fabric. -/
def execFabricDrain (n : Nat) (s : State) : Res :=
  runCmd n 0x0203 s fun s c =>
    if (s.chapel c.ch).state = .formed ∨ (s.chapel c.ch).state = .paused then s else refuse s c 0

/-- DRAIN_COMPLETE (R316). -/
def execDrainComplete (n : Nat) (s : State) : Res :=
  runningCmd n 0x0203 s (fun s c => s.fabricEmpty c.ch) fun s c =>
    doneCmd (s.modChapel c.ch fun h => { h with drained := true }) c (c.taken s)

/-- FABRIC_DRAIN_TIMEOUT: DRAINED stays clear (Table 04-11). -/
def execFabricDrainTimeout (n : Nat) (s : State) : Res :=
  runningCmd n 0x0203 s (fun _ _ => true) fun s c => completeCmd s c 6 0 (c.taken s) false .nothing

end Sys2Proof.Machine
end

