-- ==== Sys2Proof/Machine/Windows.lean ====
section
/-! DEFINITION. The memory opcodes of Table 04-12: memory windows, lecterns and copies (R137, R191, R252, R259, R386,
R405, R421, R593). -/

namespace Sys2Proof.Machine

/-! ### Overlaps -/

/-- An HBM range meets a window of a chapel for which `p` holds. -/
def hbmWindowMeets (s : State) (p : Nat → Bool) (base size : Nat) : Bool :=
  s.amb.targets.windows.any fun e => p (e.1 / 64) && decide (e.2.kind = 1) && rangesMeet base size e.2.base e.2.size

/-- An HBM range meets a lectern. -/
def lecternMeets (s : State) (base size : Nat) : Bool :=
  s.feb.lecterns.any fun e => e.2.defined && rangesMeet base size e.2.base e.2.size

/-! ### Windows -/

/-- The window MEM_WINDOW_MAP maps; unmapped for KIND 0. -/
def Cmd.window (c : Cmd) : Window :=
  if c.byte 26 = 0 then {}
  else { kind := c.byte 26, access := c.byte 27, addr := fieldN c.entry 32 8, base := fieldN c.entry 40 8,
         size := fieldN c.entry 48 8 }

/-- The window the chapel has under the number a command names. -/
def Cmd.oldWindow (s : State) (c : Cmd) : Window := tget {} (s.chapel c.ch).windows (c.byte 25)

/-- A mapping is refused: the port is not in HOST_PORTS, or a range overlaps (R137, Table 04-12). -/
def windowRefused (s : State) (c : Cmd) : Bool :=
  let w := c.window
  let others := (s.chapel c.ch).windows.filter fun e => decide (e.1 ≠ c.byte 25)
  decide (2 ≤ w.kind) && !bitN (s.chapelRec c.ch).hostPorts (w.kind - 2) ||
    others.any (fun e => rangesMeet w.addr w.size e.2.addr e.2.size) ||
    (decide (w.kind = 1) && (hbmWindowMeets s (fun x => decide (x ≠ c.ch)) w.base w.size || lecternMeets s w.base w.size))

/-- A tracker holds an access to window `w` of chapel `c`. -/
def Tracker.usesWindow (t : Tracker) (c w : Nat) : Bool := t.busy && decide (t.req.chapel = c ∧ t.req.win = w)

/-- The chapel has no request to the window outstanding. -/
def windowQuiet (s : State) (c w : Nat) : Bool :=
  let busy := fun (ts : Tbl Tracker) => ts.any fun e => e.2.usesWindow c w
  !((s.chapel c).cells.any fun g =>
      busy (s.cell g).trackers || busy (s.cell g).eng0.trackers || busy (s.cell g).eng1.trackers) &&
    !(s.links.any fun e => busy e.2.trackers)

/-- The tables of the targets, and those of the cells, hold what the command gives (R386). -/
def putWindow (s : State) (c : Cmd) : State :=
  let t := s.amb.targets
  let s := { s with amb := { s.amb with targets := { t with windows := tput {} t.windows (c.ch * 64 + c.byte 25) c.window } } }
  doneCmd (s.modChapel c.ch fun h => { h with windows := tput {} h.windows (c.byte 25) c.window }) c []

/-- A mapped window leaves the cells' tables first; the rest follows once its requests are answered (R386). -/
def startWindow (s : State) (c : Cmd) : State :=
  let h := s.chapel c.ch
  if ¬(h.state = .formed ∨ h.state = .paused) then refuse s c 0
  else if c.byte 26 ≠ 0 ∧ windowRefused s c = true then refuse s c 0
  else if c.byte 26 = 1 ∧ s.hbmDown = true then failCmd s c 4 0x81
  else if c.oldWindow s = {} then putWindow s c
  else
    let s := s.modChapel c.ch fun h => { h with
      windows := tput {} h.windows (c.byte 25) { tget {} h.windows (c.byte 25) with closing := true } }
    if windowQuiet s c.ch (c.byte 25) then putWindow s c else s

/-- MEM_WINDOW_MAP (R137, R252, R386, R405, R421): in its turn; and, for a window that was mapped, again when the last
outstanding request to it has been answered. -/
def execMemWindowMap (n : Nat) (s : State) : Res :=
  if cmdWaits s n (fun _ c => decide (c.stage = .running)) then
    runningCmd n 0x0301 s (fun s c => windowQuiet s c.ch (c.byte 25)) putWindow
  else runCmdPre n 0x0301 s
    (fun s c => if c.byte 26 = 0 ∧ c.oldWindow s = {} then some (5, 0) else none) startWindow

/-! ### Lecterns -/

/-- A lectern in the sacristy's and the targets' tables. -/
def putLectern (s : State) (n : Nat) (l : Lectern) : State :=
  { s with feb := { s.feb with lecterns := tput Lectern.fresh s.feb.lecterns n l },
           amb := { s.amb with targets := { s.amb.targets with
             lecterns := tput Lectern.fresh s.amb.targets.lecterns n l } } }

/-- A chapel that is not EMPTY is granted the lectern. -/
def lecternGranted (s : State) (n : Nat) : Bool :=
  chapelIds.any fun c => decide ((s.chapel c).state ≠ .empty) && bitN (s.chapelRec c).grant n

/-- LECTERN_DEFINE (R46, R252, R259, R421, Table 04-12). -/
def execLecternDefine (n : Nat) (s : State) : Res :=
  runCmd n 0x0302 s fun s c =>
    let l := s.lectern c.ch
    let base := fieldN c.entry 32 8
    let size := fieldN c.entry 40 8
    if c.byte 25 = 1 then
      if lecternGranted s c.ch then refuse s c 0
      else if s.hbmDown then failCmd s c 4 0x81
      else doneCmd (putLectern (closeEntries s l.base l.size) c.ch {}) c []
    else if l.defined || hbmWindowMeets s (fun _ => true) base size || lecternMeets s base size then refuse s c 0
    else if s.hbmDown then failCmd s c 4 0x81
    else doneCmd (putLectern s c.ch ⟨true, base, size⟩) c []

/-! ### Copies -/

/-- The mover stops at once with ABORTED (R593, Table 04-12): its units are given up, and the copy completes with the
bytes moved. -/
def moverAbort (s : State) (detail : Nat) : State :=
  if s.amb.mover.mode = 0 then s
  else
    let drop := fun (h : HostPort) => { h with reads := h.reads.filter fun e => decide (e.2.chapel ≠ 0xFE) }
    let s := { s with h0 := drop s.h0, h1 := drop s.h1 }
    settleMover (s.modMover fun x => { x with
      units := [], failed := some (7, detail)
      trackers := x.trackers.map fun e => (e.1, if e.2.busy then e.2.freed true else e.2) })

/-- SLYPE_COPY of the sacristy's mover. -/
def startMover (s : State) (c : Cmd) : State :=
  let src := fieldN c.entry 32 8
  let dst := fieldN c.entry 40 8
  let len := fieldN c.entry 48 8
  let out := decide (c.byte 26 = 1)
  let base := if out then src else dst
  if hbmWindowMeets s (fun _ => true) base len || lecternMeets s base len then refuse s c 0
  else if s.hbmDown then failCmd s c 4 0x81
  else if s.amb.mover.mode ≠ 0 then failCmd s c 0x0E 0
  else
    let s := s.modMover fun x => x.begin_ src dst len 16 (some c.n)
    let s := { s with amb := { s.amb with moverOut := out, moverPort := c.byte 25 } }
    if (s.hp (portOf (c.byte 25))).bme then s else moverAbort s 0x23

/-- SLYPE_COPY of a chapel: engine 1 of its cell 0 (R191). -/
def startCopy (s : State) (c : Cmd) : State :=
  let h := s.chapel c.ch
  let g := h.globalOf 0
  if ¬(h.state = .formed ∨ h.state = .running ∨ h.state = .paused) then refuse s c 0
  else if s.hbmDown then failCmd s c 4 0x81
  else if (s.cell g).eng1.mode ≠ 0 then failCmd s c 0x0E 0
  else s.modEng g 1 fun x =>
    x.begin_ (fieldN c.entry 32 8) (fieldN c.entry 40 8) (fieldN c.entry 48 8) 16 (some c.n)

/-- SLYPE_COPY (R191, R405, R421, R593, Table 04-12). -/
def execSlypeCopy (n : Nat) (s : State) : Res :=
  runCmd n 0x0303 s fun s c => if c.ch = 0xFE then startMover s c else startCopy s c

end Sys2Proof.Machine
end

