-- ==== Sys2Proof/Machine/HostPorts.lean ====
section
/-! DEFINITION. The host ports' own commands (chapter 03): chapels' host requests, Bus Master Enable, function resets and
port resets. -/

namespace Sys2Proof.Machine

/-! ### Chapels' host requests (R90, R375, R591, R592) -/

/-- A class C entry of a host port that names a chapel. -/
def logHost (s : State) (p : HPort) (cause chapel : Nat) : State := logC s 0 cause (locHost p) chapel []

/-- The host address of a request: its offset in the window that maps it (R385). -/
def hostAddr (s : State) (f : AmbFlit) : Nat := (s.targetWindow f.chapel f.win).base + f.addr

/-- HOST_PORT_REQUEST (R88, R90, R592): the oldest request that has passed its check. A read needs a tag and stays behind
the posted writes before it. -/
def execHostPortRequest (p : HPort) (s : State) : Res :=
  match (s.hp p).reqs with
  | [] => .next s
  | f :: rest =>
    let on := (s.hp p).hasFn (f.chapel + 1) && (s.hp p).busMaster (f.chapel + 1)
    let ready := !on || decide (f.op = .write) || (decide ((s.hp p).writes = []) && (freeTag s p).isSome)
    possible (s.mainOn && ready) s fun s =>
      let s := s.modHp p fun h => { h with reqs := rest }
      if !on then logHost (respondErr s f 0x20 false) p 0x0020 f.chapel
      else if f.op = .write then
        s.modHp p fun h => { h with writes := h.writes ++ [⟨h.nextWrite, f⟩], nextWrite := h.nextWrite + 1 }
      else match freeTag s p with
        | some tag =>
          let s := s.modHp p fun h => { h with reads := tput noRead h.reads tag f }
          (wakeLink s p).emit (.memRead p (f.chapel + 1) (hostAddr s f) (sizeBytes f.size) tag)
        | none => s

/-- HOST_WRITE_TRANSMITTED (R592): the oldest posted write goes out, and the port answers DONE. -/
def execHostWriteTransmitted (p : HPort) (tag : Nat) (s : State) : Res :=
  match (s.hp p).writes with
  | [] => .next s
  | w :: rest => possible (s.mainOn && decide (w.tag = tag ∧ (s.hp p).link ≠ .down)) s fun s =>
    let s := s.modHp p fun h => { h with writes := rest }
    let data := sliceB w.req.data (w.req.addr % 64) (sizeBytes w.req.size)
    let s := (wakeLink s p).emit (.memWrite p (w.req.chapel + 1) (hostAddr s w.req) data)
    respond s w.req 0 []

/-- An outstanding read ends: its tag is free. -/
def freeRead (s : State) (p : HPort) (tag : Nat) : State := s.modHp p fun h => { h with reads := tdel h.reads tag }

/-- A read fails: ABORTED or POISON at its initiator and HOST_DATA_FAIL (R591); the mover's copy stops. -/
def hostReadFails (s : State) (p : HPort) (f : AmbFlit) (status : Nat) : State :=
  if f.chapel = 0xFE then moverFail (s.modMover (·.modTracker f.txn fun t => t.freed false)) f.addr 7 0
  else logHost (respondErr s f status (decide (status = 0x22))) p 0x0002 f.chapel

/-- HOST_READ_COMPLETION (R591): the data of a read, or what its completion reports. -/
def execHostReadCompletion (p : HPort) (tag : Nat) (result : PcieResult) (s : State) : Res :=
  let f := tget noRead (s.hp p).reads tag
  let whole := match result with
    | .data bytes => decide (bytes.length = sizeBytes f.size)
    | _ => true
  possible (s.mainOn && whole && decide (f ≠ noRead)) s fun s =>
    let s := freeRead s p tag
    match result with
    | .data bytes => if f.chapel = 0xFE then moverHostData s f.txn f.addr bytes else respond s f 0 bytes
    | .poisoned => hostReadFails s p f 0x22
    | _ => hostReadFails s p f 7

/-- HOST_COMPLETION_TIMEOUT (R591). -/
def execHostCompletionTimeout (p : HPort) (tag : Nat) (s : State) : Res :=
  let f := tget noRead (s.hp p).reads tag
  possible (s.mainOn && decide (f ≠ noRead)) s fun s => hostReadFails (freeRead s p tag) p f 7

/-! ### Function and port resets (R91-R93, R593) -/

/-- Every host-memory request of the chapels in `p?` that waits at the port ends with a status (R91, R92). -/
def failHostRequests (s : State) (p : HPort) (status : Nat) (p? : Nat → Bool) : State :=
  let h := s.hp p
  let mine := fun (f : AmbFlit) => decide (f.chapel ≠ 0xFE) && p? f.chapel
  let gone := (h.reads.map Prod.snd).filter mine ++ h.reqs.filter mine ++ (h.writes.map HostWrite.req).filter mine
  let s := s.modHp p fun h => { h with
    reads := h.reads.filter (fun e => !mine e.2), reqs := h.reqs.filter (fun f => !mine f)
    writes := h.writes.filter (fun w => !mine w.req) }
  gone.foldl (fun s f => respondErr s f status false) s

/-- The keys of a function's MSI-X vectors. -/
def fnKeys (fn : Nat) : List Nat := (vectorsOf fn).map (msixKey fn)

/-- What a reset of VF `fn` leaves: its enables and its MSI-X state are gone. -/
def HostPort.vfReset (h : HostPort) (fn : Nat) : HostPort :=
  { h with vfBme := setErase fn h.vfBme, vfMse := setErase fn h.vfMse
           msix := h.msix.filter (fun e => !(fnKeys fn).contains e.1)
           msixPend := h.msixPend.filter (fun k => !(fnKeys fn).contains k) }

/-- VF_FLR (R91): the chapel's state does not change. -/
def execVfFlr (p : HPort) (vf : Nat) (s : State) : Res :=
  possible (decide ((s.hp p).link ≠ .down ∧ 1 ≤ vf ∧ vf ≤ (s.hp p).vfs)) s fun s =>
    (failHostRequests s p 0x20 fun c => decide (c + 1 = vf)).modHp p fun h => h.vfReset vf

/-- The effects of Table 03-6 on a port, whose link is left in state `link`. -/
def portReset (s : State) (p : HPort) (link : LinkState) : State :=
  let s := failHostRequests s p 0x21 fun _ => true
  let s := if s.amb.mover.mode ≠ 0 ∧ s.amb.moverPort = portIx p then moverAbort s 0 else s
  let waiting := (s.hp p).rings.flatMap fun e => e.2.waiting
  let s := stopRingCmds s fun c => decide (c.port = p)
  let s := { s with feb := { s.feb with heldBells := s.feb.heldBells.filter fun b => decide (b.port ≠ p) } }
  let s := s.modHp p fun h =>
    { link := link, rate := if link = .down then 0 else h.rate, width := if link = .down then 0 else h.width
      nextWrite := h.nextWrite
      er := { waiting := keepWakes h.er.waiting, pPosted := h.er.pPosted, degraded := h.er.degraded } }
  withdrawOf (dropWaiting s p waiting) p

/-- PF_FLR (R93): Table 03-6, but the link stays up. -/
def execPfFlr (p : HPort) (s : State) : Res :=
  possible (decide ((s.hp p).link ≠ .down)) s fun s => portReset s p (s.hp p).link

/-- HOST_PORT_RESET (R92): PERSTx_N low, a hot reset or DL_Down. -/
def execHostPortReset (p : HPort) (why : PortResetCause) (s : State) : Res :=
  let perst := match p with
    | .h0 => s.pw.perst0
    | .h1 => s.pw.perst1
  possible (if why = .perst then perst else decide ((s.hp p).link ≠ .down)) s fun s =>
    let s := match why, p with
      | .perst, .h0 => { s with pw := { s.pw with perst0 := false } }
      | .perst, .h1 => { s with pw := { s.pw with perst1 := false } }
      | _, _ => s
    portReset s p .down

/-- BUS_MASTER_ENABLE_CLEAR (R593): of the PF, it stops a SLYPE_COPY of the sacristy through the port. -/
def execBusMasterEnableClear (p : HPort) (fn : Nat) (s : State) : Res :=
  possible (decide ((s.hp p).link ≠ .down) && (s.hp p).hasFn fn) s fun s =>
    if fn ≠ 0 then s.modHp p fun h => { h with vfBme := setErase fn h.vfBme }
    else
      let s := s.modHp p fun h => { h with bme := false }
      if s.amb.mover.mode ≠ 0 ∧ s.amb.moverPort = portIx p then moverAbort s 0x23 else s

end Sys2Proof.Machine
end

