-- ==== Sys2Proof/Machine/Package.lean ====
section
/-! DEFINITION. The package opcodes (Table 04-9) and the hard end of a shed (R44, R45, R50, R53-R55, R470, R492). -/

namespace Sys2Proof.Machine

/-! ### The shed's end (R53, R54) -/

/-- At 40 ms: a RUNNING chapel is PAUSED, with SHED_HARD where threads had not stopped; of a RETIRING one whose threads
had not all stopped the bays are gated and SHED_HARD is set (Tables 02-5, 02-5a). -/
def shedHardChapel (s : State) (c : Nat) : State :=
  let left := (s.liveThreads c).length
  match (s.chapel c).state with
  | .running => becomePaused (hardStopChapel s c) c left fun h => { h with shedHard := h.shedHard || decide (left ≠ 0) }
  | .retiring => s.modChapel c fun h => { h with shedHard := h.shedHard || decide (left ≠ 0), shedHeld := true }
  | _ => s

/-- SHED_HARD_GATE (R53): every bay is clock-gated, and the package is at the service floor. -/
def execShedHardGate (s : State) : Res :=
  possible (decide (s.heat.shed = .shedding)) s fun s =>
    let s := chapelIds.foldl shedHardChapel s
    { s with heat := { s.heat with shed := .floor } }

/-- Threads held by a shed go on (Table 02-5a). -/
def Cell.unhold (x : Cell) : Cell :=
  { x with ctxs := x.ctxs.map fun e => (e.1, { e.2.unstop with stopAsked := false }) }

/-- A RETIRING chapel goes on after the acknowledgement (Table 02-5a). -/
def unholdChapel (s : State) (c : Nat) : State :=
  if (s.chapel c).shedHeld then
    (s.modCells c Cell.unhold).modChapel c fun h => { h with shedHeld := false, shedHard := false }
  else s

/-- PKG_INTERLOCK_ACK (R55, R492). -/
def execPkgInterlockAck (n : Nat) (s : State) : Res :=
  runCmd n 0x0005 s fun s c =>
    if s.clo.ilk.bothClosed < 2 then failCmd s c 0x0D 0
    else
      let was := s.heat.ackNeeded
      let s := settleInterlock s
      let latched := decide (s.clo.ilk.state = 2)
      let s := s.modIlk fun k => { k with state := 0 }
      let s := s.when latched fun s => reportInterlock s 0
      let s := { s with heat := { s.heat with shed := .none, ackNeeded := false } }
      doneCmd (chapelIds.foldl unholdChapel s) c [if was then 1#8 else 0#8]

/-! ### Identity, limit -/

/-- Bays not in TRIP. -/
def State.soundBays (s : State) : Nat := ((List.range 192).filter fun b => decide ((s.sensor b).state ≠ 3)).length

/-- PKG_IDENTIFY (Table 04-9): the asset record; revision, parties, bays, firmware version, TSTAMP. -/
def execPkgIdentify (n : Nat) (wrOk : Bool) (s : State) : Res :=
  runCmd n 0x0001 s fun s c =>
    okWrite s c (s.clo.tag.blocks 0 8) ([0xB0#8, BitVec.ofNat 8 s.partyCount] ++ le 2 s.soundBays ++
      le 4 s.flash.firmware.toNat ++ le 8 s.ts) wrOk

/-- PKG_POWER_LIMIT (R50): 1,200 to 2,100 W. -/
def execPkgPowerLimit (n : Nat) (s : State) : Res :=
  runCmd n 0x0004 s fun s c =>
    let old := s.pw.limitW
    let limit := fieldN c.entry 24 2
    if limit < 1200 ∨ 2100 < limit then failCmd s c 1 24
    else doneCmd { s with pw := { s.pw with limitW := limit } } c (le 2 old)

/-! ### Power states (R44, R45, R47, R49) -/

/-- A posted completion is still to start a change of power state. -/
def State.powerMoves (s : State) : Bool :=
  bothPorts.any fun p => (s.hp p).rings.any fun e => e.2.waiting.any fun x => decide (x.after ≠ .nothing)

/-- PKG_POWER_STATE (R44, R45, R47, R588). A request behind an unfinished transition waits for it (R49). -/
def execPkgPowerState (n : Nat) (s : State) : Res :=
  if cmdWaits s n (fun s _ => s.powerMoves) then .next s
  else runCmd n 0x0003 s fun s c =>
    let before := [BitVec.ofNat 8 s.pw.state.code]
    let is := fun (f : ChState → Bool) => chapelIds.any fun k => f (s.chapel k).state
    let opt := c.byte 25
    match c.byte 24 with
    | 0 => doneCmd (leaveIdle s) c before
    | 1 =>
      if is fun x => decide (x = .running ∨ x = .retiring ∨ x = .evicting) then refuse s c 0
      else completeCmd (touch s c.n c.objs) c 0 0 before false (if s.pw.state = .idle then .nothing else .enterIdle)
    | _ =>
      if is fun x => decide (x ≠ .empty) then refuse s c 0
      else
        let s := wantOff s (List.range 192)
        let s := { s with pw := { s.pw with hbmKeep := bitN opt 0, hbmLost := false, wakeEn0 := bitN opt 1, wakeEn1 := bitN opt 2 } }
        completeCmd (touch s c.n c.objs) c 0 0 before false .enterCrypt

/-! ### Package reset (R39, R470) -/

/-- PKG_RESET (R470): with FORCE, every chapel is evicted first; its completion follows the reset. -/
def execPkgReset (n : Nat) (s : State) : Res :=
  runCmd n 0x0002 s fun s c =>
    if s.pw.thermtrip then failCmd s c 3 0x102
    else if c.byte 24 % 2 = 1 then
      let busy := chapelIds.filter fun k => decide ((s.chapel k).state ≠ .empty ∧ (s.chapel k).state ≠ .evicting)
      settleReset (busy.foldl evictChapel s)
    else if !s.allEmpty then refuse s c 0
    else packageReset s

end Sys2Proof.Machine
end

