-- ==== Sys2Proof/Machine/Registers.lean ====
section
/-! DEFINITION. Register reads and writes (R3-R9, R74-R77, R89, R473, R482, R538, R563, R566, Tables 03-2, 03-5, 18-2):
PF BAR0, a VF BAR0, and the SMBus target's registers. -/

namespace Sys2Proof.Machine

/-! ### What registers read as -/

/-- 1 for true. -/
def flag (b : Bool) : Nat := if b then 1 else 0

/-- CLOISTER_STATUS (Table 18-3). -/
def cloisterStatus (s : State) : Nat :=
  s.pw.state.code % 4 * 2 ^ 14 + flag s.pw.mainPg * 2 ^ 13 + flag s.pw.wakeHeld * 2 ^ 12 +
    s.clo.ilk.state % 4 * 2 ^ 10 + flag s.heat.ackNeeded * 2 ^ 9 + flag s.clo.calB * 2 ^ 8 + flag s.clo.calNone * 2 ^ 7 +
    flag s.flash.keyH0.isSome * 2 ^ 6 + flag s.flash.keyH1.isSome * 2 ^ 5 + flag s.clo.tag.field * 2 ^ 4 +
    flag s.pw.wakeEn0 * 2 ^ 3 + flag s.pw.wakeEn1 * 2 ^ 2

/-- INTERLOCK_STAT (Table 18-7). -/
def interlockStat (k : Interlock) : Nat :=
  k.disc % 65536 * 2 ^ 16 + flag k.aOpen * 2 ^ 7 + flag k.bOpen * 2 ^ 6 + k.state % 4 * 2 ^ 4

/-- An entry of WAKE_REASONS (R487). -/
def WakeEntry.bytes (w : WakeEntry) : List Byte :=
  [BitVec.ofNat 8 w.source, BitVec.ofNat 8 w.order, BitVec.ofNat 8 w.count] ++ zeros 5 ++ le 8 w.tstamp.toNat

/-- The 256 bytes of WAKE_REASONS (R487). -/
def wakeReasons (s : State) : List Byte := padTo 256 (s.pw.wakes.flatMap WakeEntry.bytes)

/-- FAULT_STATUS (Table 17-6). -/
def faultStatus (s : State) : List Byte :=
  le 8 (flag s.flt.pLatched * 2 ^ 63 + flag s.flt.halted * 2 ^ 62 + s.flt.pCause % 65536 * 2 ^ 32 +
    s.flt.kFaults % 2 ^ 32) ++ le 8 s.flt.pTstamp.toNat

/-- The coalescing counters of a controller (Table 08-6). -/
def Stack.counters (x : Stack) : List Byte :=
  le 8 x.blockReads ++ le 8 x.reqServed ++ le 8 x.reqCoalesced ++ le 8 x.blockErrors

/-- MEM_STATm (Table 15-5). -/
def memStat (s : State) (m : Nat) : List Byte :=
  let x := s.stack m
  [BitVec.ofNat 8 x.rate, BitVec.ofNat 8 x.spareMin,
    BitVec.ofNat 8 (x.train % 4 + 4 * ((s.sensor (200 + m)).state % 4)), BitVec.ofNat 8 x.temp] ++ zeros 4 ++
    le 8 x.ce ++ le 8 x.ue ++ le 2 (tget [] s.flash.rowsPending m).length ++ zeros 2 ++ le 4 x.odeCorr

/-- GATEHOUSE_STAT (Table 19-7). -/
def gatehouseStat (g : Gatehouse) : List Byte :=
  [g.threshold, g.pingEn.zeroExtend 8, g.antFault.zeroExtend 8, 0#8] ++ le 4 g.pings ++
    le 4 g.falseDetects ++ le 4 g.detects ++ le 4 g.writeRetries ++ le 4 g.protoErrors ++
    le 2 (g.lastPing % 4096) ++ le 2 (g.base2.getD 0 % 4096) ++ le 2 (g.base1.getD 0 % 4096) ++
    le 2 (g.base0.getD 0 % 4096)

/-- BELFRY_STAT (Table 20-10). ENABLED is bit 0 of the configuration in force. -/
def belfryStat (b : Belfry) : List Byte :=
  le 4 (b.lastPattern % 4 * 64 + flag b.lastSynthetic * 32 + flag (cfgOn b.cfg) * 16 + flag b.sealed * 8) ++
    le 4 b.wakes ++ le 8 b.live

/-- A ring's configuration block (Table 04-1). -/
def Ring.block (r : Ring) : List Byte :=
  cfgBytes r.sqBase r.cqBase r.enable r.log2 ++ le 2 r.cqTail ++ le 2 r.sqHead ++ [r.ringErr] ++ zeros 103

/-- The event ring's configuration block (Table 04-1a). -/
def EventRing.block (r : EventRing) : List Byte :=
  cfgBytes r.base 0 r.enable r.log2 ++ le 2 r.tail ++ zeros 2 ++ [r.ringErr] ++ zeros 3 ++ le 4 r.lost ++ zeros 96

/-- A vector's entry in an MSI-X table: message address, data and vector control (PCIe). -/
def MsixEntry.bytes (e : MsixEntry) : List Byte := le 8 e.addr.toNat ++ le 4 e.data.toNat ++ le 4 (flag e.mask)

/-- The entry of a vector of a function. -/
def HostPort.entry (h : HostPort) (fn v : Nat) : MsixEntry := tget MsixEntry.fresh h.msix (msixKey fn v)

/-- The 8 bytes of a function's pending-bit array that begin at vector `v`. -/
def HostPort.pendingBits (h : HostPort) (fn v : Nat) : List Byte :=
  le 8 ((List.range 64).foldl (fun n i => n + (if h.msixPend.contains (msixKey fn (v + i)) ∧ (fn = 0 ∨ v + i < 2)
    then 2 ^ i else 0)) 0)

/-- The package control register bytes at an 8-byte aligned offset (Tables 18-2, 17-6, 08-6, 13-11, 15-5, 19-7,
20-10). -/
def pkgBytes (s : State) (o : Nat) : List Byte :=
  if o = 0x800 then le 4 (cloisterStatus s) ++ le 4 s.clo.alertCause.toNat
  else if o = 0x808 then le 4 s.clo.alertEn.toNat ++ le 4 s.clo.wakeSrcEn.toNat
  else if o = 0x810 then le 8 (interlockStat s.clo.ilk)
  else if o < 0x820 then zeros 8
  else if o < 0x830 then sliceB (calState s) (o - 0x820) 8
  else if o < 0x900 then zeros 8
  else if o < 0xA00 then sliceB (wakeReasons s) (o - 0x900) 8
  else if o < 0xB00 then zeros 8
  else if o < 0xB10 then sliceB (faultStatus s) (o - 0xB00) 8
  else if o < 0xC00 then zeros 8
  else if o < 0xD00 then sliceB (s.stack ((o - 0xC00) / 32)).counters (o % 32) 8
  else if o = 0xD00 then le 8 s.amb.timeoutUs
  else if o < 0xE00 then zeros 8
  else if o < 0xF00 then sliceB (memStat s ((o - 0xE00) / 32)) (o % 32) 8
  else if o < 0xF20 then sliceB (gatehouseStat s.gate) (o - 0xF00) 8
  else if o < 0xF30 then sliceB (belfryStat s.bel) (o - 0xF20) 8
  else zeros 8

/-- The 8 bytes of PF BAR0 at an 8-byte aligned offset (Table 03-2); reserved offsets and doorbells read zero (R76). -/
def pfBytes (s : State) (p : HPort) (o : Nat) : List Byte :=
  let h := s.hp p
  if o < 0x800 then zeros 8
  else if o < 0x1000 then pkgBytes s o
  else if o < 0x2000 then zeros 8
  else if o < 0x4000 then sliceB (s.ring p ((o - 0x2000) / 128)).block (o % 128) 8
  else if o < 0x4080 then sliceB h.er.block (o - 0x4000) 8
  else if o < 0x100000 then zeros 8
  else if o < 0x100500 then sliceB (h.entry 0 ((o - 0x100000) / 16)).bytes (o % 16) 8
  else if o = 0x108000 then h.pendingBits 0 0
  else if o = 0x108008 then (h.pendingBits 0 64).take 2 ++ zeros 6
  else zeros 8

/-- The 8 bytes of the BAR0 of VF `fn` at an 8-byte aligned offset (Table 03-5). -/
def vfBytes (s : State) (p : HPort) (fn o : Nat) : List Byte :=
  let h := s.hp p
  let c := s.chapel (fn - 1)
  if o < 0x40 then
    sliceB (Config.vfMirror c.state.code c.policy c.lastClass c.lastCause c.changedAt) o 8
  else if o < 0x1000 then zeros 8
  else if o < 0x1020 then sliceB (h.entry fn ((o - 0x1000) / 16)).bytes (o % 16) 8
  else if o = 0x1800 then h.pendingBits fn 0
  else zeros 8

/-! ### Reads (R8, R74, R76, R566) -/

/-- The offset holds the low half of a 64-bit register or counter of PF BAR0 (R566). -/
def lowHalf (o : Nat) : Bool :=
  decide (o % 8 = 0) && (decide ((0x900 ≤ o ∧ o < 0xA00 ∧ o % 16 = 8) ∨ o = 0xB00 ∨ o = 0xB08 ∨ (0xC00 ≤ o ∧ o < 0xD00) ∨
    (0xE00 ≤ o ∧ o < 0xF30) ∨ (0x2000 ≤ o ∧ o < 0x4000 ∧ o % 128 < 16) ∨ o = 0x4000))

/-- A read of RING_ERR clears it; a cause recorded in the same cycle stays (R7, R8). -/
def clearRingErr (s : State) (p : HPort) (o size : Nat) (hw : BitVec 8) : State :=
  let k := o % 128
  if k ≤ 0x18 ∧ 0x18 < k + size then
    if 0x2000 ≤ o ∧ o < 0x4000 then s.modRing p ((o - 0x2000) / 128) fun r => { r with ringErr := hw }
    else if 0x4000 ≤ o ∧ o < 0x4080 then s.modHp p fun h => { h with er := { h.er with ringErr := hw } }
    else s
  else s

/-- A read of PF BAR0 (R76, R566): a 4-byte read of a low half latches the high half, which the next 4-byte read of it
returns. -/
def readPf (s : State) (p : HPort) (o size : Nat) (hw : BitVec 8) : State :=
  let b := pfBytes s p (o / 8 * 8)
  let now := leNat (sliceB b (o % 8) size)
  let latched := match (s.hp p).latch with
    | some (k, v) => if size = 4 ∧ o = k + 4 then some v else none
    | none => none
  match latched with
  | some v => (s.modHp p fun h => { h with latch := none }).emit (.readData (v.zeroExtend 64))
  | none =>
    let s := s.emit (.readData (BitVec.ofNat 64 now))
    let s := s.when (decide (size = 4) && lowHalf o) fun s =>
      s.modHp p fun h => { h with latch := some (o, BitVec.ofNat 32 (fieldN b 4 4)) }
    clearRingErr s p o size hw

/-- The register of an SMBus command code (Table 18-2). -/
def smbusRegister (s : State) (code : Nat) : Option (List Byte) :=
  match code with
  | 0x00 => some (le 4 (cloisterStatus s))
  | 0x01 => some (le 4 s.clo.alertCause.toNat)
  | 0x02 => some (le 4 s.clo.alertEn.toNat)
  | 0x03 => some (le 4 s.clo.wakeSrcEn.toNat)
  | 0x04 => some (le 4 (interlockStat s.clo.ilk))
  | 0x05 => some (calState s)
  | 0x06 => some (wakeReasons s)
  | 0x07 => some (faultStatus s)
  | 0x08 => some (le 8 s.tsNow.toNat)
  | _ => none

/-- A function whose BAR0 an access can reach (R74). -/
def HostPort.vfBar (h : HostPort) (fn : Nat) : Bool :=
  decide (h.link ≠ .down ∧ 1 ≤ fn) && h.memSpace fn

/-- RC_REGISTER_READ (R8): a host or SMBus read of a register. -/
def execRcRegisterRead (tgt : RegTarget) (size : Nat) (hw : BitVec 8) (s : State) : Res :=
  match tgt with
  | .pf p o => possible (s.barOn p && accessForm o size && decide (o < 2 ^ 24)) s fun s => readPf s p o size hw
  | .vf p fn o => possible ((s.hp p).vfBar fn && accessForm o size && decide (o < 65536)) s fun s =>
      s.emit (.readData (BitVec.ofNat 64 (leNat (sliceB (vfBytes s p fn (o / 8 * 8)) (o % 8) size))))
  | .smbus code => possible s.pw.porDone s fun s =>
      match smbusRegister s code with
      | some bytes => smbus s bytes
      | none => s.emit .smbusNack
  | .memorySpaceEnable p fn => possible (decide ((s.hp p).link ≠ .down) && (s.hp p).hasFn fn) s fun s =>
      s.emit (.readData (BitVec.ofNat 64 (flag ((s.hp p).memSpace fn))))
  | .vfCount p => possible (decide ((s.hp p).link ≠ .down)) s fun s =>
      s.emit (.readData (BitVec.ofNat 64 (s.hp p).vfs))

/-- LOW_HALF_READ (R566): the low half is read, and the high half latched. -/
def execLowHalfRead (p : HPort) (offset : Nat) (s : State) : Res :=
  possible (s.barOn p && lowHalf offset) s fun s => readPf s p offset 4 0#8

/-- BAR_MISS_REQUEST (R74): a read is answered Unsupported Request; a posted write has no answer. -/
def execBarMissRequest (p : HPort) (read : Bool) (_addr : BitVec 64) (s : State) : Res :=
  possible (decide ((s.hp p).link ≠ .down)) s fun s => s.when read fun s => s.emit (.unsupported p)

/-! ### Writes (R3, R5, R7, R9, R76, R77) -/

/-- The bytes of a register at `base` after a write of bytes `v` at offset `off`: those the write covers are `v`'s. -/
def overlay (cur : List Byte) (base off : Nat) (v : List Byte) : List Byte :=
  cur.mapIdx fun i b => if off ≤ base + i ∧ base + i < off + v.length then byteAt v (base + i - off) else b

/-- A write of `v` at `off` as it falls on the 4-byte register at `base`. -/
def written (cur : BitVec 32) (base off : Nat) (v : List Byte) : BitVec 32 :=
  BitVec.ofNat 32 (leNat (overlay (le 4 cur.toNat) base off v))

/-- The write covers a byte of the 4-byte register at `base`. -/
def covers (base off size : Nat) : Bool := decide (base < off + size ∧ off < base + 4)

/-- The bits whose setting is logged in a byte of package control (R5, R76): the reserved ones, but for the registers
that Table 18-2 gives as RO, since a write to a whole RO register logs nothing (R9). -/
def pkgReserved (o : Nat) : Byte :=
  let m := fun (bs : List Byte) => byteAt bs (o % 4)
  if o < 0x804 then 0#8
  else if o < 0x80C then m [0x80, 0xFF, 0xFF, 0xFF]
  else if o < 0x810 then m [0xF8, 0xFF, 0xFF, 0xFF]
  else if o < 0x814 then 0#8
  else if o < 0x820 then 0xFF#8
  else if o < 0x830 then 0#8
  else if o < 0x900 then 0xFF#8
  else if o < 0xA00 then 0#8
  else if o < 0xB00 then 0xFF#8
  else if o < 0xB10 then 0#8
  else if o < 0xC00 then 0xFF#8
  else if o < 0xD00 then 0#8
  else if o < 0xD04 then m [0, 0xC0, 0xFF, 0xFF]
  else if o < 0xE00 then 0xFF#8
  else if o < 0xF00 then
    (if o % 32 = 2 then 0xF0#8 else if 4 ≤ o % 32 ∧ o % 32 < 8 then 0xFF#8
     else if o % 32 = 26 ∨ o % 32 = 27 then 0xFF#8 else 0#8)
  else if o < 0xF04 then m [0, 0xF8, 0xF8, 0xFF]
  else if o < 0xF20 then 0#8
  else if o < 0xF24 then m [0x07, 0xFF, 0xFF, 0xFF]
  else if o < 0xF30 then 0#8
  else 0xFF#8

/-- Some byte of the write sets a bit of its reserved mask. -/
def setsReserved (mask : Nat → Byte) : Nat → List Byte → Bool
  | _, [] => false
  | o, b :: bs => b &&& mask o != 0#8 || setsReserved mask (o + 1) bs

/-- ALERT_CAUSE after a write that clears the bits of `clear`: a bit hardware sets in the cycle stays (R3, R7). -/
def alertWrite (s : State) (clear hwSet : BitVec 32) : State :=
  { s with clo := { s.clo with alertCause := (s.clo.alertCause &&& ~~~clear) ||| (hwSet &&& 0x7F#32) } }

/-- The state with ALERT_EN set. -/
def alertEnWrite (s : State) (v : BitVec 32) : State := { s with clo := { s.clo with alertEn := v &&& 0x7F#32 } }

/-- The state with WAKE_SRC_EN set. -/
def wakeSrcWrite (s : State) (v : BitVec 32) : State := { s with clo := { s.clo with wakeSrcEn := v &&& 7#32 } }

/-- A write of TIMEOUT_US (R382). -/
def timeoutWrite (s : State) (p : HPort) (us : Nat) : State :=
  if 10 ≤ us ∧ us ≤ 10000 then { s with amb := { s.amb with timeoutUs := us } }
  else logC s 0 0x0132 (locHost p) 255 (le 4 us)

/-- A write of `v` into package control at `off`: every writable register it covers takes it (R77). -/
def pkgWrite (s : State) (p : HPort) (off : Nat) (v : List Byte) (hwSet : BitVec 32) : State :=
  let n := v.length
  let s := s.when (covers 0x804 off n) fun s => alertWrite s (written 0#32 0x804 off v) hwSet
  let s := s.when (covers 0x808 off n) fun s => alertEnWrite s (written s.clo.alertEn 0x808 off v)
  let s := s.when (covers 0x80C off n) fun s => wakeSrcWrite s (written s.clo.wakeSrcEn 0x80C off v)
  let s := s.when (covers 0xD00 off n) fun s =>
    timeoutWrite s p ((written (BitVec.ofNat 32 s.amb.timeoutUs) 0xD00 off v).toNat % 2 ^ 14)
  let s := s.when (covers 0xF00 off n) fun s =>
    let w := written (BitVec.ofNat 32 (fieldN (gatehouseStat s.gate) 0 4)) 0xF00 off v
    { s with gate := { s.gate with threshold := w.truncate 8, pingEn := w.extractLsb' 8 3 } }
  s.when (setsReserved pkgReserved off v) fun s => rsvWrite s p

/-- A write of `v` into the MSI-X entry of a vector, at byte `off` of it: unmasking delivers a pending vector (R87). -/
def msixWrite (s : State) (p : HPort) (fn vector off : Nat) (v : List Byte) : State :=
  let bs := patch ((s.hp p).entry fn vector).bytes off v
  let e : MsixEntry := ⟨BitVec.ofNat 64 (fieldN bs 0 8), BitVec.ofNat 32 (fieldN bs 8 4), bitN (fieldN bs 12 4) 0⟩
  let s := s.modHp p fun h => { h with msix := tput MsixEntry.fresh h.msix (msixKey fn vector) e }
  deliverPending s p fn vector

/-- A write to a reserved offset has no effect; one with a bit set is logged (R76). -/
def reservedWrite (s : State) (p : HPort) (v : List Byte) : State :=
  s.when (setsReserved (fun _ => 0xFF#8) 0 v) fun s => rsvWrite s p

/-- A write into PF BAR0 (Table 03-2). -/
def pfWrite (s : State) (p : HPort) (o size : Nat) (value : BitVec 64) (hwSet : BitVec 32) : State :=
  let v := le size value.toNat
  if o < 0x800 then reservedWrite s p v
  else if o < 0x1000 then pkgWrite s p o v hwSet
  else if o < 0x1408 then ringBell s p o size value
  else if o < 0x2000 then reservedWrite s p v
  else if o < 0x4000 then ringBlockWrite s p ((o - 0x2000) / 128) (o % 128) size value
  else if o < 0x4080 then eventBlockWrite s p (o - 0x4000) size value
  else if o < 0x100000 then reservedWrite s p v
  else if o < 0x100500 then msixWrite s p 0 ((o - 0x100000) / 16) (o % 16) v
  else if 0x108000 ≤ o ∧ o < 0x108010 then s
  else reservedWrite s p v

/-- A write into a VF's BAR0 (Table 03-5): the mirror and the pending bits are RO (R9). -/
def vfWrite (s : State) (p : HPort) (fn o : Nat) (v : List Byte) : State :=
  if o < 0x40 then s
  else if 0x1000 ≤ o ∧ o < 0x1020 then msixWrite s p fn ((o - 0x1000) / 16) (o % 16) v
  else if 0x1800 ≤ o ∧ o < 0x1808 then s
  else reservedWrite s p v

/-- RSV_WRITE of a write that came by SMBus (R5). -/
def smbusRsv (s : State) : State := logC s 0 0x0004 locCloister 255 []

/-- An SMBus Block Write of a register (R3, R9, R484). -/
def smbusWrite (s : State) (code : Nat) (v : List Byte) (hwSet : BitVec 32) : State :=
  let rsv := fun (s : State) => s.when (setsReserved (fun i => pkgReserved (0x800 + 4 * code + i)) 0 (v.take 4)) smbusRsv
  match code with
  | 1 => rsv (alertWrite s (written 0#32 0 0 v) hwSet)
  | 2 => rsv (alertEnWrite s (written s.clo.alertEn 0 0 v))
  | 3 => rsv (wakeSrcWrite s (written s.clo.wakeSrcEn 0 0 v))
  | _ => if [0, 4, 5, 6, 7, 8, 0x10, 0x11, 0x20, 0x21].contains code then s else s.emit .smbusNack

/-- Memory Space Enable of a function is written. -/
def HostPort.setMemSpace (h : HostPort) (fn : Nat) (on : Bool) : HostPort :=
  if fn = 0 then { h with mse := on }
  else { h with vfMse := if on then setInsert fn h.vfMse else setErase fn h.vfMse }

/-- The count of enabled VFs is written: at most 192, and the VFs no longer enabled lose what they held (Table 03-1). -/
def HostPort.setVfs (h : HostPort) (n : Nat) : HostPort :=
  let n := min n 192
  { (((List.range 192).map (· + 1)).filter (fun f => decide (n < f))).foldl HostPort.vfReset h with vfs := n }

/-- REGISTER_WRITE (R5): any register write; where the offset has a row of its own, that row's effect. -/
def execRegisterWrite (tgt : RegTarget) (size : Nat) (value : BitVec 64) (hwSet : BitVec 32) (s : State) : Res :=
  match tgt with
  | .pf p o => possible (s.barOn p && (accessForm o size || decide (0x1000 ≤ o ∧ o < 0x1408)) && decide (o < 2 ^ 24)) s
      fun s => pfWrite s p o size value hwSet
  | .vf p fn o => possible ((s.hp p).vfBar fn && accessForm o size && decide (o < 65536)) s
      fun s => vfWrite s p fn o (le size value.toNat)
  | .smbus code => possible s.pw.porDone s fun s => smbusWrite s code (le size value.toNat) hwSet
  | .memorySpaceEnable p fn => possible (decide ((s.hp p).link ≠ .down) && (s.hp p).hasFn fn) s fun s =>
      s.modHp p fun h => h.setMemSpace fn (value.getLsbD 0)
  | .vfCount p => possible (decide ((s.hp p).link ≠ .down)) s fun s => s.modHp p fun h => h.setVfs value.toNat

/-- AMB_CTRL_WRITE (R382): a 4-byte write of AMB_CTRL. -/
def execAmbCtrlWrite (p : HPort) (value : BitVec 32) (s : State) : Res :=
  possible (s.barOn p) s fun s => pkgWrite s p 0xD00 (le 4 value.toNat) 0#32

end Sys2Proof.Machine
end

