-- ==== Sys2Proof/Machine/System.lean ====
section
/-! DEFINITION. The cloister's power-on and power loss (R39, R577, R578, R581) and the end of main bring-up: firmware,
HBM initialisation and training, package-ready (R42, R56, R84, R418-R421, R494, R523). -/

namespace Sys2Proof.Machine

/-! ### Cloister power-on -/

/-- The whole package in reset; what is not volatile and the levels the board drives stay (Table 02-2). -/
def State.dark (s : State) : State :=
  { State.reset with
    pending := s.pending, emitted := s.emitted, freeCount := s.freeCount, now := s.now, flash := s.flash
    pw := { mainPg := s.pw.mainPg, perst0 := s.pw.perst0, perst1 := s.pw.perst1 }
    clo := { tag := { s.clo.tag with staged := [], fdLow := false } } }

/-- PWRGD_AON_RISE (R39): the whole package is cleared, with the cloister and TSTAMP. -/
def execPwrgdAonRise (s : State) : Res :=
  possible (!s.pw.aonPg) s fun s =>
    let s := s.dark
    { s with pw := { s.pw with aonPg := true } }

/-- PWRGD_AON_FALL (R578): main reset and cloister reset; no capsule is made. A calibration store under way leaves its
slot TORN (R496). -/
def execPwrgdAonFall (s : State) : Res := possible s.pw.aonPg s State.dark

/-- XTAL_CHECK_PASS (R577). -/
def execXtalCheckPass (s : State) : Res :=
  possible (s.pw.aonPg && !s.pw.xtal && !s.pw.xtalFailed) s fun s => { s with pw := { s.pw with xtal := true } }

/-- XTAL_CHECK_FAIL (R581): the cloister stays in reset until the next rise of PWRGD_AON. -/
def execXtalCheckFail (s : State) : Res :=
  possible (s.pw.aonPg && !s.pw.xtal && !s.pw.xtalFailed) s fun s => { s with pw := { s.pw with xtalFailed := true } }

/-- CLOISTER_POR_COMPLETE (R577, R43): a CRYPT that was not requested begins. Baselines, belfry configuration and the
current capsule come back from CF (R504, R532, R546); a PWRGD_MAIN already high starts bring-up. -/
def execCloisterPorComplete (s : State) : Res :=
  possible (s.pw.aonPg && s.pw.xtal && !s.pw.porDone) s fun s =>
    let s := { s with pw := { s.pw with porDone := true, state := .crypt, recording := true } }
    let s := { s with gate := { s.gate with base0 := s.flash.base0, base1 := s.flash.base1, base2 := s.flash.base2 } }
    let s := match s.flash.belfry with
      | some cfg => { s with bel := applyCfg s.bel cfg }
      | none => s
    let s := restoreCapsule s
    if s.pw.mainPg then startBringUp s else s

/-! ### HBM initialisation (R418) -/

/-- A replacement row holds zeros with valid codes. -/
def zeroRow (h : Hbm) (key : Nat) : Hbm :=
  { mem := h.mem.filter fun e => decide (rowKey e.1 ≠ key), poison := h.poison.filter fun a => decide (rowKey a ≠ key)
    zeroRows := setInsert key h.zeroRows }

/-- Soft repair of row `row` of stack `m`. -/
def repairRow (s : State) (m row : Nat) : State := { s with hbm := zeroRow s.hbm (8 * row + m) }

/-- The lists of another stack are cleared (R418). -/
def claimLists (s : State) (m id : Nat) : State :=
  if tget 0 s.flash.stackIds m = id then s
  else { s with flash := { s.flash with stackIds := tput 0 s.flash.stackIds m id
                                        rowsPending := tdel s.flash.rowsPending m
                                        rowsRepaired := tdel s.flash.rowsRepaired m } }

/-- DETAIL of an entry that names a row: an address of it, which the manual's row number does not give. -/
def rowLog (s : State) (m cause : Nat) : State :=
  let r := s.freeNat
  logC r.2 0 cause (locHbm m) 255 (hbmDetail r.1)

/-- A pending row is repaired and moves to the repaired list, or stays (R418). -/
def repairPending (m : Nat) (noSpare : List Nat) (s : State) (row : Nat) : State :=
  let done := tget [] s.flash.rowsRepaired m
  if noSpare.contains row then rowLog s m 0x0144
  else if 256 ≤ done.length then rowLog s m 0x0143
  else
    let left := (tget [] s.flash.rowsPending m).filter fun r => decide (r ≠ row)
    repairRow { s with flash := { s.flash with
      rowsPending := tput [] s.flash.rowsPending m left
      rowsRepaired := tput [] s.flash.rowsRepaired m (done ++ [row]) } } m row

/-- The bring-up leaves a requested CRYPT with HBM_KEEP. -/
def State.keeps (s : State) : Bool := s.pw.requested && s.pw.hbmKeep

/-- The controller of stack `m` initialises it (R418). -/
def initStack (s : State) (m : Nat) (x : StackInit) : State :=
  let s :=
    if s.keeps then s
    else
      let s := claimLists s m x.stackId
      let s := (tget [] s.flash.rowsRepaired m).foldl (fun s r => repairRow s m r) s
      (tget [] s.flash.rowsPending m).foldl (repairPending m x.noSpare) s
  s.modStack m fun k => { k with spareMin := x.spareMin }

/-- A PKG_RESET runs. -/
def State.resetRuns (s : State) : Bool :=
  s.feb.cmds.any fun k => decide (k.stage = .running ∧ k.opcode = 0x0002)

/-- FIRMWARE_READY (R42, cycle 512,000). At a main bring-up the torn slots are logged (R494) and both banks are to be
swept (R523). -/
def execFirmwareReady (hbmStacks : List StackInit) (s : State) : Res :=
  possible (decide (s.pw.phase = .chancels ∧ hbmStacks.length = 8)) s fun s =>
    let s := { s with pw := { s.pw with phase := .firmware } }
    let s :=
      if s.resetRuns then s
      else
        let s := [s.flash.slotA, s.flash.slotB].foldl (fun s x =>
          if x.st = .torn then logC s 0 0x0106 locCloister 255 [] else s) s
        { s with gate := { s.gate with sweeping := [1, 2] } }
    hbmStacks.zipIdx.foldl (fun s e => initStack s e.2 e.1) s

/-! ### Training (R419-R421) -/

/-- The pin rates of full training, in the order it tries them (R420). -/
def trainRates : List Nat := [92, 84, 76, 64]

/-- The slot in use matches every stack: VALID, a STACK_ID that is not zero for each, and a rate every stack passes. -/
def State.storedFits (s : State) (best : List Nat) : Bool :=
  match s.calSlot with
  | none => false
  | some x => decide (x.st = .valid ∧ x.stackIds.length = 8) && trainRates.contains x.rate &&
      (best.all fun r => decide (x.rate ≤ r)) &&
      (List.range 8).all fun m => decide (x.stackIds.getD m 0 = tget 0 s.flash.stackIds m ∧ x.stackIds.getD m 0 ≠ 0)

/-- Every controller's TRAIN and RATE; a stack that failed training before stays failed until main power-on (R421). -/
def setTrain (s : State) (train : Nat → Nat) (rate : Nat → Nat) : State :=
  (List.range 8).foldl (fun s m => s.modStack m fun x =>
    { x with train := if x.train = 3 then 3 else train m, rate := rate m }) s

/-- Full training (R420, R421): the first rate every stack passes; with none, the stacks that fail at 6.4 Gb/s are
failed, and HBM_TRAIN_FAIL names the first of them. -/
def fullTraining (s : State) (best : List Nat) : State :=
  match trainRates.find? (fun r => best.all fun b => decide (r ≤ b)) with
  | some r => setTrain s (fun _ => 1) fun _ => r
  | none =>
    let bad := fun m => decide (best.getD m 0 < 64)
    let s := setTrain s (fun m => if bad m then 3 else 1) fun _ => 64
    faultP s 0x0146 (locHbm (((List.range 8).find? bad).getD 0)) []

/-- HBM_TRAINING_COMPLETE (R419, Table 15-4): from self-refresh, from stored results, or full. -/
def execHbmTrainingComplete (marginPass : Bool) (best : List Nat) (s : State) : Res :=
  possible (decide (s.pw.phase = .firmware ∧ best.length = 8)) s fun s =>
    let s := { s with pw := { s.pw with phase := .hbmDone } }
    let pass := marginPass && !s.pw.hbmLost
    if s.keeps && pass then setTrain s (fun _ => 2) fun m => (s.stack m).rate
    else if !s.keeps && pass && s.storedFits best then
      setTrain s (fun _ => 0) fun _ => (s.calSlot.map CalSlot.rate).getD 0
    else fullTraining s best

/-! ### Package-ready -/

/-- With the interlock open or latched, the package starts at the service floor (R56). -/
def startFloor (s : State) : State :=
  if s.clo.ilk.state = 0 then s else { s with heat := { s.heat with shed := .floor, ackNeeded := true } }

/-- INTERLOCK events and log entries of the time before follow the bring-up (R491). -/
def reportOwed (s : State) : State :=
  s.clo.ilk.owed.foldl reportInterlock (s.modIlk fun k => { k with owed := [] })

/-- A PKG_RESET that ran the reset completes (Table 04-9). -/
def finishReset (s : State) : State :=
  (s.feb.cmds.filter fun k => decide (k.stage = .running ∧ k.opcode = 0x0002)).foldl (fun s k => doneCmd s k []) s

/-- PACKAGE_READY (R42, R56, R84, R488). -/
def execPackageReady (s : State) : Res :=
  possible (decide (s.pw.phase = .hbmDone) && s.gate.sweeping.isEmpty) s fun s =>
    let s := { s with pw := { s.pw with
      phase := .ready, recording := false, requested := false, hbmKeep := false, hbmLost := false } }
    let s := startFloor s
    let s := bothPorts.foldl (fun s p => if (s.hp p).link = .l0 then postPort s p 0x0001 255 [0xB0#8] else s) s
    releaseBells (finishReset (reportOwed s))

end Sys2Proof.Machine
end

