-- ==== Sys2Proof/Machine/Dispatch.lean ====
section
/-! DEFINITION. The dispatch: one arm per command. -/

namespace Sys2Proof.Machine

/-- What a command does to the state (everything but the queue). -/
def exec (i : Instr) (s : State) : Host.Outcome State Fault Refusal :=
  match i with
  | .registerWrite tgt size value hwSet => Sys2Proof.Machine.execRegisterWrite tgt size value hwSet s
  | .rcRegisterRead tgt size hw => Sys2Proof.Machine.execRcRegisterRead tgt size hw s
  | .lowHalfRead p offset => Sys2Proof.Machine.execLowHalfRead p offset s
  | .clkLoss => Sys2Proof.Machine.execClkLoss s
  | .railLoss => Sys2Proof.Machine.execRailLoss s
  | .pwrgdMainFall => Sys2Proof.Machine.execPwrgdMainFall s
  | .pwrgdMainRise => Sys2Proof.Machine.execPwrgdMainRise s
  | .pwrgdAonRise => Sys2Proof.Machine.execPwrgdAonRise s
  | .xtalCheckPass => Sys2Proof.Machine.execXtalCheckPass s
  | .xtalCheckFail => Sys2Proof.Machine.execXtalCheckFail s
  | .cloisterPorComplete => Sys2Proof.Machine.execCloisterPorComplete s
  | .pwrgdAonFall => Sys2Proof.Machine.execPwrgdAonFall s
  | .mainDomainsStable => Sys2Proof.Machine.execMainDomainsStable s
  | .pllLock => Sys2Proof.Machine.execPllLock s
  | .chancelResetRelease => Sys2Proof.Machine.execChancelResetRelease s
  | .firmwareReady hbmStacks => Sys2Proof.Machine.execFirmwareReady hbmStacks s
  | .sweepComplete bank tags more => Sys2Proof.Machine.execSweepComplete bank tags more s
  | .hbmTrainingComplete marginPass best => Sys2Proof.Machine.execHbmTrainingComplete marginPass best s
  | .packageReady => Sys2Proof.Machine.execPackageReady s
  | .pkgIdentify n wrOk => Sys2Proof.Machine.execPkgIdentify n wrOk s
  | .pkgReset n => Sys2Proof.Machine.execPkgReset n s
  | .pkgPowerState n => Sys2Proof.Machine.execPkgPowerState n s
  | .cryptReached => Sys2Proof.Machine.execCryptReached s
  | .transeptHeldRetrainDone port => Sys2Proof.Machine.execTranseptHeldRetrainDone port s
  | .pkgPowerLimit n => Sys2Proof.Machine.execPkgPowerLimit n s
  | .limiterSample watts => Sys2Proof.Machine.execLimiterSample watts s
  | .shedHardGate => Sys2Proof.Machine.execShedHardGate s
  | .pkgInterlockAck n => Sys2Proof.Machine.execPkgInterlockAck n s
  | .sensorSample sensor milliC => Sys2Proof.Machine.execSensorSample sensor milliC s
  | .thermalStateChange sensor => Sys2Proof.Machine.execThermalStateChange sensor s
  | .thermtripComparator sensor => Sys2Proof.Machine.execThermtripComparator sensor s
  | .thermalEventPost => Sys2Proof.Machine.execThermalEventPost s
  | .doorbellWrite p offset size value => Sys2Proof.Machine.execDoorbellWrite p offset size value s
  | .completionHeadDoorbell p offset size value => Sys2Proof.Machine.execCompletionHeadDoorbell p offset size value s
  | .eventHeadDoorbell p offset size value => Sys2Proof.Machine.execEventHeadDoorbell p offset size value s
  | .barMissRequest p read addr => Sys2Proof.Machine.execBarMissRequest p read addr s
  | .msixUnmask p fn vector => Sys2Proof.Machine.execMsixUnmask p fn vector s
  | .busMasterEnableSet p fn => Sys2Proof.Machine.execBusMasterEnableSet p fn s
  | .busMasterEnableClear p fn => Sys2Proof.Machine.execBusMasterEnableClear p fn s
  | .vfFlr p vf => Sys2Proof.Machine.execVfFlr p vf s
  | .pfFlr p => Sys2Proof.Machine.execPfFlr p s
  | .hostPortReset p why => Sys2Proof.Machine.execHostPortReset p why s
  | .perstRelease p => Sys2Proof.Machine.execPerstRelease p s
  | .hostL1Exit p => Sys2Proof.Machine.execHostL1Exit p s
  | .linkL0Reached p rate width => Sys2Proof.Machine.execLinkL0Reached p rate width s
  | .hostPortRequest p => Sys2Proof.Machine.execHostPortRequest p s
  | .hostReadCompletion p tag result => Sys2Proof.Machine.execHostReadCompletion p tag result s
  | .hostCompletionTimeout p tag => Sys2Proof.Machine.execHostCompletionTimeout p tag s
  | .hostWriteTransmitted p tag => Sys2Proof.Machine.execHostWriteTransmitted p tag s
  | .ringConfigWrite p offset size value => Sys2Proof.Machine.execRingConfigWrite p offset size value s
  | .ringEnable p ring value => Sys2Proof.Machine.execRingEnable p ring value s
  | .ringDisable p ring value => Sys2Proof.Machine.execRingDisable p ring value s
  | .eventRingEnable p value => Sys2Proof.Machine.execEventRingEnable p value s
  | .eventRingDisable p value => Sys2Proof.Machine.execEventRingDisable p value s
  | .entryFetch n data => Sys2Proof.Machine.execEntryFetch n data s
  | .entryFetchTimeout n => Sys2Proof.Machine.execEntryFetchTimeout n s
  | .dataBufferReadTimeout n => Sys2Proof.Machine.execDataBufferReadTimeout n s
  | .chapelCreate n => Sys2Proof.Machine.execChapelCreate n s
  | .chapelLaunch n => Sys2Proof.Machine.execChapelLaunch n s
  | .chapelPause n => Sys2Proof.Machine.execChapelPause n s
  | .chapelPauseTimeout n => Sys2Proof.Machine.execChapelPauseTimeout n s
  | .pauseComplete chapel => Sys2Proof.Machine.execPauseComplete chapel s
  | .chapelResume n => Sys2Proof.Machine.execChapelResume n s
  | .chapelRetire n => Sys2Proof.Machine.execChapelRetire n s
  | .chapelRetireTimeout n => Sys2Proof.Machine.execChapelRetireTimeout n s
  | .chapelEvict n => Sys2Proof.Machine.execChapelEvict n s
  | .evictTeardownComplete chapel => Sys2Proof.Machine.execEvictTeardownComplete chapel s
  | .chapelQuery n wrOk => Sys2Proof.Machine.execChapelQuery n wrOk s
  | .handlerLoad n => Sys2Proof.Machine.execHandlerLoad n s
  | .mcastLoad n => Sys2Proof.Machine.execMcastLoad n s
  | .sumTreeLoad n => Sys2Proof.Machine.execSumTreeLoad n s
  | .fabricDrain n => Sys2Proof.Machine.execFabricDrain n s
  | .drainComplete n => Sys2Proof.Machine.execDrainComplete n s
  | .fabricDrainTimeout n => Sys2Proof.Machine.execFabricDrainTimeout n s
  | .memWindowMap n => Sys2Proof.Machine.execMemWindowMap n s
  | .lecternDefine n => Sys2Proof.Machine.execLecternDefine n s
  | .slypeCopy n => Sys2Proof.Machine.execSlypeCopy n s
  | .linkTrain n => Sys2Proof.Machine.execLinkTrain n s
  | .linkTrainComplete n micros => Sys2Proof.Machine.execLinkTrainComplete n micros s
  | .linkTrainTimeout n => Sys2Proof.Machine.execLinkTrainTimeout n s
  | .linkStatus n wrOk => Sys2Proof.Machine.execLinkStatus n wrOk s
  | .linkAssign n => Sys2Proof.Machine.execLinkAssign n s
  | .screenPropose n => Sys2Proof.Machine.execScreenPropose n s
  | .screenApprove n => Sys2Proof.Machine.execScreenApprove n s
  | .screenApplyComplete => Sys2Proof.Machine.execScreenApplyComplete s
  | .badgeApprovalTimeout n => Sys2Proof.Machine.execBadgeApprovalTimeout n s
  | .proposalExpiry => Sys2Proof.Machine.execProposalExpiry s
  | .screenWithdraw n => Sys2Proof.Machine.execScreenWithdraw n s
  | .screenRead n wrOk => Sys2Proof.Machine.execScreenRead n wrOk s
  | .partyEnrol n => Sys2Proof.Machine.execPartyEnrol n s
  | .svcGatehouseOp n => Sys2Proof.Machine.execSvcGatehouseOp n s
  | .gatehouseOpTimeout n wrOk => Sys2Proof.Machine.execGatehouseOpTimeout n wrOk s
  | .svcBelfryCfg n => Sys2Proof.Machine.execSvcBelfryCfg n s
  | .svcBelfryRead n wrOk => Sys2Proof.Machine.execSvcBelfryRead n wrOk s
  | .svcSyntheticWake n => Sys2Proof.Machine.execSvcSyntheticWake n s
  | .svcTagWrite n => Sys2Proof.Machine.execSvcTagWrite n s
  | .svcCalStore n wrOk => Sys2Proof.Machine.execSvcCalStore n wrOk s
  | .calStoreWriteDone readBack => Sys2Proof.Machine.execCalStoreWriteDone readBack s
  | .diagLogRead n wrOk => Sys2Proof.Machine.execDiagLogRead n wrOk s
  | .diagCapsuleRead n wrOk => Sys2Proof.Machine.execDiagCapsuleRead n wrOk s
  | .diagPattern n => Sys2Proof.Machine.execDiagPattern n s
  | .diagPatternEnd n errors bits => Sys2Proof.Machine.execDiagPatternEnd n errors bits s
  | .scalarAlu cell tid => Sys2Proof.Machine.execScalarAlu cell tid s
  | .immediateAlu cell tid => Sys2Proof.Machine.execImmediateAlu cell tid s
  | .shi cell tid => Sys2Proof.Machine.execShi cell tid s
  | .insk cell tid => Sys2Proof.Machine.execInsk cell tid s
  | .multiplyDivide cell tid => Sys2Proof.Machine.execMultiplyDivide cell tid s
  | .scalarFloatingPoint cell tid => Sys2Proof.Machine.execScalarFloatingPoint cell tid s
  | .load cell tid => Sys2Proof.Machine.execLoad cell tid s
  | .store cell tid => Sys2Proof.Machine.execStore cell tid s
  | .vld cell tid => Sys2Proof.Machine.execVld cell tid s
  | .vst cell tid => Sys2Proof.Machine.execVst cell tid s
  | .atomic cell tid => Sys2Proof.Machine.execAtomic cell tid s
  | .branch cell tid => Sys2Proof.Machine.execBranch cell tid s
  | .jal cell tid => Sys2Proof.Machine.execJal cell tid s
  | .jalr cell tid => Sys2Proof.Machine.execJalr cell tid s
  | .fenceAcq cell tid => Sys2Proof.Machine.execFenceAcq cell tid s
  | .fenceRel cell tid => Sys2Proof.Machine.execFenceRel cell tid s
  | .fenceFull cell tid => Sys2Proof.Machine.execFenceFull cell tid s
  | .exit cell tid => Sys2Proof.Machine.execExit cell tid s
  | .spawn cell tid => Sys2Proof.Machine.execSpawn cell tid s
  | .barCell cell tid => Sys2Proof.Machine.execBarCell cell tid s
  | .brk cell tid => Sys2Proof.Machine.execBrk cell tid s
  | .eret cell tid => Sys2Proof.Machine.execEret cell tid s
  | .eretR cell tid => Sys2Proof.Machine.execEretR cell tid s
  | .rdsr cell tid => Sys2Proof.Machine.execRdsr cell tid s
  | .wrsr cell tid => Sys2Proof.Machine.execWrsr cell tid s
  | .vectorInteger cell tid => Sys2Proof.Machine.execVectorInteger cell tid s
  | .vectorFloatingPoint cell tid => Sys2Proof.Machine.execVectorFloatingPoint cell tid s
  | .vcvt cell tid => Sys2Proof.Machine.execVcvt cell tid s
  | .vectorReduction cell tid => Sys2Proof.Machine.execVectorReduction cell tid s
  | .send cell tid => Sys2Proof.Machine.execSend cell tid s
  | .sendRel cell tid => Sys2Proof.Machine.execSendRel cell tid s
  | .sendCh cell tid => Sys2Proof.Machine.execSendCh cell tid s
  | .sendChRel cell tid => Sys2Proof.Machine.execSendChRel cell tid s
  | .chanOpen cell tid => Sys2Proof.Machine.execChanOpen cell tid s
  | .chanClose cell tid => Sys2Proof.Machine.execChanClose cell tid s
  | .turnWait cell tid => Sys2Proof.Machine.execTurnWait cell tid s
  | .hret cell tid => Sys2Proof.Machine.execHret cell tid s
  | .sumC cell tid => Sys2Proof.Machine.execSumC cell tid s
  | .sumW cell tid => Sys2Proof.Machine.execSumW cell tid s
  | .tallyClaim cell tid => Sys2Proof.Machine.execTallyClaim cell tid s
  | .tallyRelease cell tid => Sys2Proof.Machine.execTallyRelease cell tid s
  | .tallyInit cell tid => Sys2Proof.Machine.execTallyInit cell tid s
  | .tallyFold cell tid => Sys2Proof.Machine.execTallyFold cell tid s
  | .tallyFeed cell tid => Sys2Proof.Machine.execTallyFeed cell tid s
  | .tallyRd cell tid => Sys2Proof.Machine.execTallyRd cell tid s
  | .tallyPerform cell => Sys2Proof.Machine.execTallyPerform cell s
  | .choirGo cell tid => Sys2Proof.Machine.execChoirGo cell tid s
  | .choirPassStart cell => Sys2Proof.Machine.execChoirPassStart cell s
  | .choirPassEnd cell => Sys2Proof.Machine.execChoirPassEnd cell s
  | .slypeGo cell tid => Sys2Proof.Machine.execSlypeGo cell tid s
  | .slypeWait cell tid => Sys2Proof.Machine.execSlypeWait cell tid s
  | .slypeUnitIssue mover => Sys2Proof.Machine.execSlypeUnitIssue mover s
  | .illegalInstruction cell tid => Sys2Proof.Machine.execIllegalInstruction cell tid s
  | .memError cell tid => Sys2Proof.Machine.execMemError cell tid s
  | .messageArrival cell => Sys2Proof.Machine.execMessageArrival cell s
  | .recordDispatch cell turn => Sys2Proof.Machine.execRecordDispatch cell turn s
  | .aislePacketArrival cell dir damage => Sys2Proof.Machine.execAislePacketArrival cell dir damage s
  | .outputGrant cell out => Sys2Proof.Machine.execOutputGrant cell out s
  | .injectionClaim cell out gate => Sys2Proof.Machine.execInjectionClaim cell out gate s
  | .aisleEjection cell src => Sys2Proof.Machine.execAisleEjection cell src s
  | .castTrackerTimeout cell index => Sys2Proof.Machine.execCastTrackerTimeout cell index s
  | .uniARetransmit cell index => Sys2Proof.Machine.execUniARetransmit cell index s
  | .uniAExhausted cell index => Sys2Proof.Machine.execUniAExhausted cell index s
  | .uniAAck cell => Sys2Proof.Machine.execUniAAck cell s
  | .sumOperandArrival cell => Sys2Proof.Machine.execSumOperandArrival cell s
  | .sumCombineDone cell group => Sys2Proof.Machine.execSumCombineDone cell group s
  | .sumSlotTimeout cell group => Sys2Proof.Machine.execSumSlotTimeout cell group s
  | .sumReleaseToggle cell group => Sys2Proof.Machine.execSumReleaseToggle cell group s
  | .sumReleaseWaitTimeout cell group => Sys2Proof.Machine.execSumReleaseWaitTimeout cell group s
  | .sumResultArrival cell => Sys2Proof.Machine.execSumResultArrival cell s
  | .sumWaitTimeout cell tid => Sys2Proof.Machine.execSumWaitTimeout cell tid s
  | .chantryFlitArrival cell ins bad => Sys2Proof.Machine.execChantryFlitArrival cell ins bad s
  | .chantryInjection cell => Sys2Proof.Machine.execChantryInjection cell s
  | .chantryHold cell starved => Sys2Proof.Machine.execChantryHold cell starved s
  | .channelOpen cell => Sys2Proof.Machine.execChannelOpen cell s
  | .channelOpenReply cell => Sys2Proof.Machine.execChannelOpenReply cell s
  | .channelCredit cell => Sys2Proof.Machine.execChannelCredit cell s
  | .creditRepeat cell chan => Sys2Proof.Machine.execCreditRepeat cell chan s
  | .openRepeat cell handle => Sys2Proof.Machine.execOpenRepeat cell handle s
  | .channelOpenGiveUp cell handle => Sys2Proof.Machine.execChannelOpenGiveUp cell handle s
  | .ambFlitArrival at_ corrupt => Sys2Proof.Machine.execAmbFlitArrival at_ corrupt s
  | .ambRequestAtTarget ep => Sys2Proof.Machine.execAmbRequestAtTarget ep s
  | .coalesceEntryExpiry m block => Sys2Proof.Machine.execCoalesceEntryExpiry m block s
  | .ambResponse ep => Sys2Proof.Machine.execAmbResponse ep s
  | .trackerTimeout owner txn => Sys2Proof.Machine.execTrackerTimeout owner txn s
  | .ambCtrlWrite p value => Sys2Proof.Machine.execAmbCtrlWrite p value s
  | .bayFence bay => Sys2Proof.Machine.execBayFence bay s
  | .bayDrained bay => Sys2Proof.Machine.execBayDrained bay s
  | .bayDrainForced bay => Sys2Proof.Machine.execBayDrainForced bay s
  | .fenceAck bay => Sys2Proof.Machine.execFenceAck bay s
  | .bayPowerOnRequest bay => Sys2Proof.Machine.execBayPowerOnRequest bay s
  | .bayPowerGood bay => Sys2Proof.Machine.execBayPowerGood bay s
  | .hbmAccessDone m onDie dec => Sys2Proof.Machine.execHbmAccessDone m onDie dec s
  | .hbmScrub m onDie dec => Sys2Proof.Machine.execHbmScrub m onDie dec s
  | .stackTempSample m milliC => Sys2Proof.Machine.execStackTempSample m milliC s
  | .stackThermalChange m => Sys2Proof.Machine.execStackThermalChange m s
  | .transeptFrameReceived port rx => Sys2Proof.Machine.execTranseptFrameReceived port rx s
  | .replayTimer port => Sys2Proof.Machine.execReplayTimer port s
  | .replayExhausted port => Sys2Proof.Machine.execReplayExhausted port s
  | .peerSilent port => Sys2Proof.Machine.execPeerSilent port s
  | .laneTrainingDone port good wrong => Sys2Proof.Machine.execLaneTrainingDone port good wrong s
  | .laneLoss port lane => Sys2Proof.Machine.execLaneLoss port lane s
  | .restripeComplete port => Sys2Proof.Machine.execRestripeComplete port s
  | .laneRetrainTimer port => Sys2Proof.Machine.execLaneRetrainTimer port s
  | .laneRetrainDone port lane ok => Sys2Proof.Machine.execLaneRetrainDone port lane ok s
  | .hello port asset peerPort mask => Sys2Proof.Machine.execHello port asset peerPort mask s
  | .owner port chapel => Sys2Proof.Machine.execOwner port chapel s
  | .laneDrop port mask => Sys2Proof.Machine.execLaneDrop port mask s
  | .laneRestore port mask => Sys2Proof.Machine.execLaneRestore port mask s
  | .laneRetrain port lane => Sys2Proof.Machine.execLaneRetrain port lane s
  | .depart port body => Sys2Proof.Machine.execDepart port body s
  | .down port cause => Sys2Proof.Machine.execDown port cause s
  | .unknown port op => Sys2Proof.Machine.execUnknown port op s
  | .ctrlOpRepeatExpiry port => Sys2Proof.Machine.execCtrlOpRepeatExpiry port s
  | .portsFenced => Sys2Proof.Machine.execPortsFenced s
  | .departurePauseHard chapel => Sys2Proof.Machine.execDeparturePauseHard chapel s
  | .sacristyLockstep => Sys2Proof.Machine.execSacristyLockstep s
  | .capsulePeriodic => Sys2Proof.Machine.execCapsulePeriodic s
  | .capsuleTagWrite => Sys2Proof.Machine.execCapsuleTagWrite s
  | .interlockSample aOpen bOpen => Sys2Proof.Machine.execInterlockSample aOpen bOpen s
  | .interlockOpenDeclared => Sys2Proof.Machine.execInterlockOpenDeclared s
  | .interlockClosedDeclared => Sys2Proof.Machine.execInterlockClosedDeclared s
  | .interlockDiscrepancyLatch => Sys2Proof.Machine.execInterlockDiscrepancyLatch s
  | .smbTagRead first count => Sys2Proof.Machine.execSmbTagRead first count s
  | .smbTagWrite first data => Sys2Proof.Machine.execSmbTagWrite first data s
  | .keySet bytes => Sys2Proof.Machine.execKeySet bytes s
  | .keyClear bytes => Sys2Proof.Machine.execKeyClear bytes s
  | .alertResponse => Sys2Proof.Machine.execAlertResponse s
  | .smbTstampRead => Sys2Proof.Machine.execSmbTstampRead s
  | .wireAccessBusy who => Sys2Proof.Machine.execWireAccessBusy who s
  | .tagCommit => Sys2Proof.Machine.execTagCommit s
  | .tagInventory slots16 maskLen mask => Sys2Proof.Machine.execTagInventory slots16 maskLen mask s
  | .stayQuiet uid => Sys2Proof.Machine.execStayQuiet uid s
  | .select uid => Sys2Proof.Machine.execSelect uid s
  | .resetToReady addr => Sys2Proof.Machine.execResetToReady addr s
  | .getSystemInformation addr => Sys2Proof.Machine.execGetSystemInformation addr s
  | .readSingleBlock addr option block => Sys2Proof.Machine.execReadSingleBlock addr option block s
  | .readMultipleBlocks addr option first count => Sys2Proof.Machine.execReadMultipleBlocks addr option first count s
  | .writeSingleBlock addr block data => Sys2Proof.Machine.execWriteSingleBlock addr block data s
  | .writeMultipleBlocks addr first count data => Sys2Proof.Machine.execWriteMultipleBlocks addr first count data s
  | .tagOtherCommand addr code => Sys2Proof.Machine.execTagOtherCommand addr code s
  | .fieldDrop blocks => Sys2Proof.Machine.execFieldDrop blocks s
  | .fdNAssert => Sys2Proof.Machine.execFdNAssert s
  | .fdNRelease => Sys2Proof.Machine.execFdNRelease s
  | .fieldSettle => Sys2Proof.Machine.execFieldSettle s
  | .ping antenna code => Sys2Proof.Machine.execPing antenna code s
  | .antennaFaultRetry antenna milliAmp => Sys2Proof.Machine.execAntennaFaultRetry antenna milliAmp s
  | .wupaPoll => Sys2Proof.Machine.execWupaPoll s
  | .cardAnswer ans => Sys2Proof.Machine.execCardAnswer ans s
  | .bankTagAnswer ans wrOk => Sys2Proof.Machine.execBankTagAnswer ans wrOk s
  | .answerWindowExpiry wrOk => Sys2Proof.Machine.execAnswerWindowExpiry wrOk s
  | .cardHoldLimit => Sys2Proof.Machine.execCardHoldLimit s
  | .dripFrameEnd => Sys2Proof.Machine.execDripFrameEnd s
  | .resealTimeout total => Sys2Proof.Machine.execResealTimeout total s
  | .railLeavesToleranceInCrypt group => Sys2Proof.Machine.execRailLeavesToleranceInCrypt group s
  | .laneRestoreStart port => Sys2Proof.Machine.execLaneRestoreStart port s
  | .dataBufferReadCompletion n data => Sys2Proof.Machine.execDataBufferReadCompletion n data s
  | .screenParity loc => Sys2Proof.Machine.execScreenParity loc s
  | .brewSamplePeriod bits0 bits1 bits2 => Sys2Proof.Machine.execBrewSamplePeriod bits0 bits1 bits2 s
  | .fieldTurnOn antenna milliAmp => Sys2Proof.Machine.execFieldTurnOn antenna milliAmp s
  | .transeptFrameSend port => Sys2Proof.Machine.execTranseptFrameSend port s

end Sys2Proof.Machine
end

