-- ==== Sys2Proof/Machine/Idle.lean ====
section
/-! DEFINITION. What a step does on an empty queue: one TSCLK cycle passes while the main PLL runs, one KCLK cycle
while the cloister runs without it (R32). The choice is the model's (log entry 3). -/

namespace Sys2Proof.Machine

/-- The chapel's CCLK cycle count one TSCLK cycle (16 CCLK cycles) later (R198). -/
def Chapel.tick (c : Chapel) : Chapel :=
  if c.state = .running ∨ c.state = .retiring then { c with cycles := c.cycles + 16#48 } else c

/-- One idle step. -/
def idle (s : State) : State :=
  if s.pw.pll then
    { s with now := s.now + 1, pw := { s.pw with tstamp := s.pw.tstamp + 1#64 },
             chapels := s.chapels.map (fun e => (e.1, e.2.tick)) }
  else if s.pw.porDone then { s with now := s.now + 1, pw := { s.pw with k := s.pw.k + 1 } }
  else { s with now := s.now + 1 }

end Sys2Proof.Machine
end

