-- ==== Sys2Proof/Safety.lean ====
section
/-! DEFINITION. What holds of the package in every state a step leads to, in the terms claims use. -/

namespace Sys2Proof.Machine

/-- The invariant of the package: registers hold values the spec lets them hold, reserved bits read zero, the fault
logs keep their sizes, and every memory and table is in its canonical form. -/
structure State.Inv (s : State) : Prop where
  /-- the power limit is 1,200 W to 2,100 W (R50) -/
  limit : 1200 ≤ s.pw.limitW ∧ s.pw.limitW ≤ 2100
  /-- the issue rate is 1/16 to 16/16 (R51) -/
  rate : 1 ≤ s.heat.rate ∧ s.heat.rate ≤ 16
  /-- the access timeout is 10 to 10,000 microseconds (R382) -/
  timeout : 10 ≤ s.amb.timeoutUs ∧ s.amb.timeoutUs ≤ 10000
  /-- the reserved bits of ALERT_CAUSE read zero (R5, Table 18-4) -/
  alertCause : s.clo.alertCause &&& 0xFFFFFF80#32 = 0#32
  /-- the reserved bits of ALERT_EN read zero -/
  alertEn : s.clo.alertEn &&& 0xFFFFFF80#32 = 0#32
  /-- the reserved bits of WAKE_SRC_EN read zero -/
  wakeSrcEn : s.clo.wakeSrcEn &&& 0xFFFFFFF8#32 = 0#32
  /-- the interlock state is 0, 1 or 2 and DISC_COUNT is a 16-bit count (R490, R565) -/
  interlock : s.clo.ilk.state ≤ 2 ∧ s.clo.ilk.disc ≤ 0xFFFF
  /-- each chancel's fault log keeps at most its 4,096 latest entries (R477) -/
  logs : s.flt.logN.length ≤ 4096 ∧ s.flt.logS.length ≤ 4096
  /-- the capsule's history holds at most 44 entries (Table 17-9) -/
  history : s.flt.history.length ≤ 44
  /-- every cell store is in its canonical form -/
  stores : ∀ e ∈ s.cells, e.2.store.wf = true
  /-- HBM contents are in their canonical form -/
  hbm : WrittenMemory.wf s.hbm.mem = true
  /-- tag memory is in its canonical form -/
  tag : s.clo.tag.mem.wf = true
  /-- the tables of chapels, cells, stacks, Transept ports and aisle records are in their canonical form -/
  chapels : Tbl.wf Chapel.fresh s.chapels = true
  cells : Tbl.wf Cell.fresh s.cells = true
  hbmStacks : Tbl.wf Stack.fresh s.hbmStacks = true
  links : Tbl.wf TPort.fresh s.links = true
  aisleBays : Tbl.wf BayAisle.fresh s.aisleBays = true

/-! ### The words of the claims -/

/-- What every loss of the main domains leaves (R40, R43, R46): a CRYPT with the main domains held in reset and the PLL
stopped; what the main domains hold is at its reset value. TSTAMP, the power limit and the cloister flash but for the
capsule's generation and bytes stay. -/
structure State.MainLost (s t : State) : Prop where
  state : t.pw.state = .crypt ∧ t.pw.phase = .held ∧ t.pw.pll = false ∧ t.pw.entering = false
  time : t.pw.tstamp = s.pw.tstamp ∧ t.pw.k = (if s.pw.pll then 0 else s.pw.k) ∧ t.pw.limitW = s.pw.limitW
  ports : t.h0 = {} ∧ t.h1 = {} ∧ t.links = []
  febupor : t.feb = { nextCmd := s.feb.nextCmd }
  chapels : t.chapels = [] ∧ t.cells = [] ∧ t.amb = {} ∧ t.aisleBays = [] ∧ t.heat = {}
  flash : t.flash = { s.flash with capsuleGen := t.flash.capsuleGen, capsule := t.flash.capsule }
  sealed : t.bel.live = s.bel.live
  silent : t.emitted = []

/-! #### Febupor commands -/

/-- The turn of command `c` has come, its number is `n` and its opcode `op`, and step 9's rules for every command let it
execute: the package is not PKG_FAULTED, or the opcode executes all the same, and no chapel it needs is FAULTED
(R106-R108, R115, R469). -/
structure State.Turn (s : State) (n op : Nat) (c : Cmd) : Prop where
  held : s.cmd n = some c
  opcode : c.opcode = op
  turn : turnCame s c = true
  unblocked : s.flt.pkgFaulted = false ∨ c.allowedFaulted = true
  sound : ∀ x, c.faultChapel = some x → x < 192 → (s.chapel x).state ≠ .faulted

/-- Command `c` as it executes from `s`: it holds the objects it names, and its start is noted. -/
def State.started (s : State) (c : Cmd) : Cmd :=
  { c with objs := c.holds s, stage := .running, started := s.pw.tstamp }

/-- The state in which `c` has started to execute and has had no effect yet. -/
def State.begin (s : State) (c : Cmd) : State := { s with emitted := [] }.modCmd c.n fun _ => s.started c

/-- A command of opcode `op` executes: `c`, with number `n`. -/
structure State.Running (s : State) (n op : Nat) (c : Cmd) : Prop where
  held : s.cmd n = some c
  opcode : c.opcode = op
  stage : c.stage = .running
  live : s.flt.halted = false

/-! #### Instructions of a cell -/

/-- Context `t` of cell `g` may issue now (R159, R162), and the word at its PC spells `i` (R200). -/
structure State.Ready (s : State) (g t : Nat) (i : Ins) : Prop where
  spelled : decodeIns ((s.cell g).nextWord t) = some i
  issues : s.mayIssue g t = true

/-- The state in which `i` has issued and has had no effect yet. -/
def State.issued (s : State) (g t : Nat) (i : Ins) : State := startIns { s with emitted := [] } g t i

/-- A context whose instruction `i` has issued and has had no effect yet: what it reads and writes has been finished
(R227). -/
def Ctx.issued (x : Ctx) (i : Ins) : Ctx :=
  { x with
    begun := false
    late := (x.late.filter fun r => !(if r < 64 then i.touches [r] [] else i.touches [] [r - 64])) ++ i.slow }

/-- From `s` to `u` context `t` of cell `g` has issued and is now `y`, and nothing else of the package has changed:
every other cell, every other context, the stores and engines of the cell, and everything outside the cells. -/
structure State.Became (s u : State) (g t : Nat) (y : Ctx) : Prop where
  outside : u = { s with cells := u.cells, emitted := [] }
  others : ∀ h, h ≠ g → u.cell h = s.cell h
  inside : u.cell g = { s.cell g with ctxs := (u.cell g).ctxs, lastTid := t }
  threads : ∀ j, j ≠ t → (u.cell g).ctx j = (s.cell g).ctx j
  thread : (u.cell g).ctx t = y

/-- The context goes on at `pc`. -/
def Ctx.at_ (x : Ctx) (pc : Nat) : Ctx := { x with pc := BitVec.ofNat 19 pc }

/-- Command `c`, the issue of `i` from context `t` of cell `g`, ends in `v` but for a stop that was asked of the
thread. -/
def State.Ends (s : State) (g t : Nat) (c : Instr) (v : State) : Prop := exec c s = .next (settleStop v g t)

/-- It has its effect `k`, and the thread goes on at PC + 4; where that is no PC it has no effect and PC_RANGE is raised
(R204, R205). -/
def State.Goes (s : State) (g t : Nat) (i : Ins) (c : Instr) (k : State → State) : Prop :=
  let u := s.issued g t i
  let pc := (s.ctx g t).pc.toNat + 4
  (pcOk pc = true → s.Ends g t c ((k u).modCtx g t fun y => y.at_ pc)) ∧
  (pcOk pc = false → s.Ends g t c (raise u g t 0x07 0))

/-- It raises the exception with this code and address, and has no other effect. -/
def State.Raises (s : State) (g t : Nat) (i : Ins) (c : Instr) (code addr : Nat) : Prop :=
  s.Ends g t c (raise (s.issued g t i) g t code addr)

/-- The thread waits, to issue the instruction again, and nothing else changes. -/
def State.WaitsFor (s : State) (g t : Nat) (i : Ins) (c : Instr) (w : Waiting) : Prop :=
  ∃ v, s.Ends g t c v ∧ s.Became v g t { (s.ctx g t).issued i with mode := .wait, waiting := w }

end Sys2Proof.Machine
end

