-- ==== Sys2Proof/Certificates/Slice0/Obligations.lean ====
section
/-! DEFINITION. The statements about the package, for the provers. -/

open Sys2Proof Sys2Proof.Machine

/-- For every command c and state s: a step of s with c at the front of its queue is exec of c on s with the queue's
rest. -/
def Obligations.StepRunsFrontCommand : Prop :=
  ∀ (c : Instr) (rest : List Instr) (s : State),
    step { s with pending := c :: rest } = exec c { s with pending := rest }

/-- The model's own choice (log entry 3): a step on an empty queue is one idle cycle. While the main PLL runs TSTAMP
advances by one and the cycle count of every chapel that runs threads by the 16 CCLK cycles of a TSCLK cycle; while the
PLL is stopped and the cloister runs, the count of KCLK cycles advances by one; nothing else but the model's step
counter changes. -/
def Obligations.EmptyQueueIdlesOneCycle : Prop :=
  ∀ s : State, s.pending = [] →
    (s.pw.pll = true → ∃ t, step s = .next t ∧ t.pw = { s.pw with tstamp := s.pw.tstamp + 1 } ∧
      (∀ c, t.chapel c = if (s.chapel c).state = .running ∨ (s.chapel c).state = .retiring
        then { s.chapel c with cycles := (s.chapel c).cycles + 16 } else s.chapel c) ∧
      t = { s with now := s.now + 1, pw := t.pw, chapels := t.chapels }) ∧
    (s.pw.pll = false → s.pw.porDone = true →
      step s = .next { s with now := s.now + 1, pw := { s.pw with k := s.pw.k + 1 } }) ∧
    (s.pw.pll = false → s.pw.porDone = false → step s = .next { s with now := s.now + 1 })

/-- State.reset is the package before its cloister supply rises: OFF, in reset, TSTAMP 0, no command waiting; the limit
is 1,200 W (R50), both wake enables are 1 (R588), ALERT_EN enables all seven causes and WAKE_SRC_EN all three sources,
no chapel or cell holds anything, both fault logs are empty, the carafe is sealed and a fresh ring is disabled with its
phase bit 1. -/
def Obligations.ResetValues : Prop :=
  State.reset.pending = [] ∧ State.reset.pw.state = .off ∧ State.reset.pw.phase = .held ∧
  State.reset.pw.tstamp = 0 ∧ State.reset.pw.limitW = 1200 ∧
  State.reset.pw.wakeEn0 = true ∧ State.reset.pw.wakeEn1 = true ∧
  State.reset.clo.alertEn = 0x7F ∧ State.reset.clo.wakeSrcEn = 7 ∧ State.reset.heat.rate = 16 ∧
  (∀ c, State.reset.chapel c = Chapel.fresh ∧ (State.reset.chapel c).state = .empty) ∧
  (∀ g, State.reset.cell g = Cell.fresh) ∧ State.reset.flt.logN = [] ∧ State.reset.flt.logS = [] ∧
  State.reset.bel.sealed = true ∧
  (∀ p i, (State.reset.ring p i).enable = false ∧ (State.reset.ring p i).phase = true)

/-- State.Inv holds of State.reset: registers within the values the spec allows, reserved bits zero, logs within their
sizes, every memory and table in canonical form. -/
def Obligations.ResetMeetsInvariant : Prop := State.reset.Inv

/-- Whatever command a step runs, in whatever state: where State.Inv holds and the step answers a next state, it holds
there. The limit stays 1,200 W to 2,100 W (R50), the issue rate 1/16 to 16/16 (R51), the access timeout 10 to 10,000
microseconds (R382), reserved bits of the alert and wake registers zero (R5), the interlock state one of three (R490),
each fault log at most 4,096 entries (R477), and every cell store, HBM, tag memory and table canonical. -/
def Obligations.StepKeepsInvariant : Prop :=
  ∀ s t : State, s.Inv → step s = .next t → t.Inv

/-- For every command and state, exec answers a next state whose queue is the queue it was given. So no command of the
table stops the block. -/
def Obligations.EveryCommandAnswersNext : Prop :=
  ∀ (i : Instr) (s : State), ∃ t, exec i s = .next t ∧ t.pending = s.pending

/-- PWRGD_AON_RISE and PWRGD_AON_FALL put the whole package into reset: every field is at its reset value but the
cloister flash, the tag's memory and levels the board drives (PWRGD_MAIN, PERSTx_N); a rise leaves PWRGD_AON high. The
crystal check passes or fails once per rise (R577, R581). CLOISTER_POR_COMPLETE makes the package a CRYPT that was not
requested (R43) that records wakes, restores the gatehouse baselines from CF (R532), and with PWRGD_MAIN high starts
the main bring-up (R587). What the tag, the belfry and the cloister's registers take from CF stays in those parts. -/
def Obligations.CloisterSupplyAndCrystal : Prop := ∀ s : State,
  (s.pw.aonPg = false → exec .pwrgdAonRise s = .next { State.reset with
      pending := s.pending, freeCount := s.freeCount, now := s.now, flash := s.flash
      pw := { mainPg := s.pw.mainPg, perst0 := s.pw.perst0, perst1 := s.pw.perst1, aonPg := true }
      clo := { tag := { s.clo.tag with staged := [], fdLow := false } } }) ∧
  (s.pw.aonPg = true → exec .pwrgdAonFall s = .next { State.reset with
      pending := s.pending, freeCount := s.freeCount, now := s.now, flash := s.flash
      pw := { mainPg := s.pw.mainPg, perst0 := s.pw.perst0, perst1 := s.pw.perst1 }
      clo := { tag := { s.clo.tag with staged := [], fdLow := false } } }) ∧
  (s.pw.aonPg = true → s.pw.xtal = false → s.pw.xtalFailed = false →
    exec .xtalCheckPass s = .next { s with emitted := [], pw := { s.pw with xtal := true } } ∧
    exec .xtalCheckFail s = .next { s with emitted := [], pw := { s.pw with xtalFailed := true } }) ∧
  (s.pw.aonPg = true → s.pw.xtal = true → s.pw.porDone = false →
    ∃ t, exec .cloisterPorComplete s = .next t ∧
      t = { s with emitted := [], pw := t.pw, gate := { s.gate with
        base0 := s.flash.base0, base1 := s.flash.base1, base2 := s.flash.base2 }, bel := t.bel, clo := t.clo } ∧
      t.pw.porDone = true ∧ t.pw.recording = true ∧
      (s.pw.mainPg = false → t.pw = { s.pw with porDone := true, state := .crypt, recording := true }) ∧
      (s.pw.mainPg = true → t.pw.state = .active ∧ t.pw.phase = .switches))

/-- The steps of Table 02-3. A rising PWRGD_MAIN starts the bring-up in a CRYPT that was not requested, or when a wake is
held; in a requested CRYPT with no wake held it starts nothing (R587). A bring-up that leaves a CRYPT that was not requested
sets the limit to 1,200 W, any other keeps it (R50), and THERMTRIP_N is released (R65). MAIN_DOMAINS_STABLE releases the
PLL; PLL_LOCK starts the clocks and advances TSTAMP by the counted KCLK cycles k times 2500 over 678, rounded down (R32);
CHANCEL_RESET_RELEASE clears the fault log and FAULT_STATUS, and advances the screen epoch over an empty screen (R140).
FIRMWARE_READY takes the eight stacks' spare counts; at a main bring-up both banks are to be swept (R523).
HBM_TRAINING_COMPLETE leaves every controller trained from self-refresh where a requested CRYPT kept HBM and the margin test
passed (TRAIN 2, the rate held), or with the highest of 9.2, 8.4, 7.6 and 6.4 Gb/s every stack passes (R420). PACKAGE_READY
makes the package ready, ends the recording of wakes, and with the interlock open or latched starts at the service floor
with ACK_NEEDED (R56). It posts PACKAGE_READY with revision B0 on each host whose link is up. -/
def Obligations.BringUpSteps : Prop :=
  (∀ s : State,
   (s.pw.mainPg = false → s.pw.porDone = true → s.pw.state = .crypt → s.pw.phase = .held →
     (s.pw.requested = false ∨ s.pw.wakeHeld = true →
       ∃ t, exec .pwrgdMainRise s = .next t ∧ t = { s with emitted := [], clo := t.clo, pw := { s.pw with
         mainPg := true, phase := .switches, state := .active, wakeHeld := false, thermtrip := false
         limitW := if s.pw.requested = true then s.pw.limitW else 1200 } }) ∧
     (s.pw.requested = true → s.pw.wakeHeld = false →
       exec .pwrgdMainRise s = .next { s with emitted := [], pw := { s.pw with mainPg := true } })) ∧
   (s.pw.phase = .switches → exec .mainDomainsStable s =
     .next { s with emitted := [], pw := { s.pw with phase := .pllReleased } }) ∧
   (s.pw.phase = .pllReleased → exec .pllLock s = .next { s with emitted := [], pw := { s.pw with
     phase := .locked, pll := true, k := 0, tstamp := s.pw.tstamp + BitVec.ofNat 64 (s.pw.k * 2500 / 678) } }) ∧
   (s.pw.phase = .locked → exec .chancelResetRelease s = .next { s with
     emitted := [], pw := { s.pw with phase := .chancels }, flt := {}
     flash := { s.flash with epoch := s.flash.epoch + 1 }
     feb := { s.feb with screen := {}, applying := none, pending := none, expired := [] } })) ∧
  (∀ s : State,
   (∀ x : List StackInit, s.pw.phase = .chancels → x.length = 8 →
     ∃ t, exec (.firmwareReady x) s = .next t ∧ t.pw = { s.pw with phase := .firmware } ∧
       (∀ m i, x[m]? = some i → (t.stack m).spareMin = i.spareMin) ∧
       (s.resetRuns = false → t.gate = { s.gate with sweeping := [1, 2] }) ∧
       t = { s with emitted := [], pw := t.pw, gate := t.gate, flt := t.flt, flash := t.flash, hbm := t.hbm
                    hbmStacks := t.hbmStacks, freeCount := t.freeCount }) ∧
   (∀ best : List Nat, s.pw.phase = .firmware → best.length = 8 →
     ∃ t, exec (.hbmTrainingComplete true best) s = .next t ∧
       (s.keeps = true → s.pw.hbmLost = false →
         t = { s with emitted := [], pw := { s.pw with phase := .hbmDone }, hbmStacks := t.hbmStacks } ∧
         ∀ m, m < 8 → (s.stack m).train ≠ 3 → t.stack m = { s.stack m with train := 2 }) ∧
       (∀ r, trainRates.find? (fun r => best.all fun b => decide (r ≤ b)) = some r →
         s.keeps = false → s.storedFits best = false →
         t = { s with emitted := [], pw := { s.pw with phase := .hbmDone }, hbmStacks := t.hbmStacks } ∧
         ∀ m, m < 8 → (s.stack m).train ≠ 3 → t.stack m = { s.stack m with train := 1, rate := r })) ∧
   (s.pw.phase = .hbmDone → s.gate.sweeping = [] → s.resetRuns = false → s.feb.heldBells = [] → s.clo.ilk.owed = [] →
     s.flt.halted = false →
     exec .packageReady s = .next (bothPorts.foldl
       (fun t p => if (s.hp p).link = .l0 then postPort t p 0x0001 255 [0xB0] else t)
       { s with emitted := []
                pw := { s.pw with phase := .ready, recording := false, requested := false
                                  hbmKeep := false, hbmLost := false }
                heat := if s.clo.ilk.state = 0 then s.heat
                        else { s.heat with shed := .floor, ackNeeded := true } })))

-- import Sys2Proof.Laws.Table

/-- CLK_LOSS and RAIL_LOSS put the package into a CRYPT that was not requested, with main reset held until PWRGD_MAIN
falls (R585): everything the main domains hold is lost, HBM contents too (R46); nothing is posted or logged; the cloister
latches the fault with its cause and TSTAMP unless an earlier one is latched (R473), sets bit 1 of ALERT_CAUSE and makes
a capsule of the next generation (R479). PWRGD_MAIN_FALL applies the same reset (R40); in a CRYPT already reached nothing
more is lost. -/
def Obligations.MainPowerLoss : Prop := ∀ s : State,
  (s.pw.phase ≠ .held → ∃ t, exec .clkLoss s = .next t ∧ s.MainLost t ∧ t.hbm = {} ∧ t.hbmStacks = [] ∧
    t.pw.lossHeld = true ∧ t.pw.requested = false ∧ t.pw.recording = true ∧ t.pw.wakes = [] ∧
    t.flt = { s.flt with departing := none, pLatched := true
                         pCause := if s.flt.pLatched then s.flt.pCause else 0x0100
                         pTstamp := if s.flt.pLatched then s.flt.pTstamp else s.pw.tstamp } ∧
    t.clo = { s.clo with alertCause := s.clo.alertCause ||| 2, tagOwed := true } ∧
    t.flash.capsuleGen = s.flash.capsuleGen + 1) ∧
  (s.pw.phase ≠ .held → s.pw.mainPg = true → ∃ t, exec .railLoss s = .next t ∧ s.MainLost t ∧ t.hbm = {} ∧
    t.hbmStacks = [] ∧ t.pw.lossHeld = true ∧ t.pw.requested = false ∧ t.pw.recording = true ∧ t.pw.wakes = [] ∧
    t.flt = { s.flt with departing := none, pLatched := true
                         pCause := if s.flt.pLatched then s.flt.pCause else 0x0101
                         pTstamp := if s.flt.pLatched then s.flt.pTstamp else s.pw.tstamp } ∧
    t.clo = { s.clo with alertCause := s.clo.alertCause ||| 2, tagOwed := true } ∧
    t.flash.capsuleGen = s.flash.capsuleGen + 1) ∧
  (s.pw.mainPg = true → s.pw.porDone = true → s.pw.state ≠ .crypt → s.pw.entering = false →
    ∃ t, exec .pwrgdMainFall s = .next t ∧ s.MainLost t ∧ t.hbm = {} ∧ t.hbmStacks = [] ∧ t.pw.mainPg = false ∧
      t.pw.lossHeld = false ∧ t.pw.requested = false ∧ t.pw.recording = true ∧ t.pw.wakes = [] ∧
      t.flt = { s.flt with departing := none } ∧ t.clo = s.clo ∧ t.flash = s.flash) ∧
  (s.pw.mainPg = true → s.pw.state = .crypt → s.pw.phase = .held →
    exec .pwrgdMainFall s = .next { s with emitted := [], pw := { s.pw with mainPg := false, lossHeld := false } })

/-- CRYPT_REACHED: once every bay is off, a package entering CRYPT loses its main domains; HBM contents and each stack's
rate survive exactly where the request set HBM_KEEP (R45, R46). With no wake recorded meanwhile the package stays in
CRYPT. A rail of group 2 or 3 that leaves tolerance there loses kept HBM contents; any other group changes nothing.
TRANSEPT_HELD_RETRAIN_DONE (R47): a port retraining from its held state carries frames again, as UP, or as
OWNER_MISMATCH where the two sides announce different owners (R446), and TRANSEPT_STATE is posted. -/
def Obligations.RequestedCryptAndRetention : Prop := ∀ s : State,
  (s.pw.entering = true → (∀ e ∈ s.amb.bays, e.2.st = .off) → s.pw.wakes = [] →
    ∃ t, exec .cryptReached s = .next t ∧ s.MainLost t ∧ t.pw.requested = true ∧ t.flash = s.flash ∧ t.clo = s.clo ∧
      (s.pw.hbmKeep = true → t.hbm = s.hbm) ∧ (s.pw.hbmKeep = false → t.hbm = {} ∧ t.hbmStacks = [])) ∧
  (∀ group, s.pw.state = .crypt → s.pw.phase = .held →
    exec (.railLeavesToleranceInCrypt group) s = .next
      (if s.pw.requested = true ∧ s.pw.hbmKeep = true ∧ (group = 2 ∨ group = 3)
       then { s with emitted := [], pw := { s.pw with hbmLost := true }, hbm := {} }
       else { s with emitted := [] })) ∧
  (∀ port, port < 12 → (s.link port).heldState = true → (s.link port).state = 1 →
    ∃ t, exec (.transeptHeldRetrainDone port) s = .next t ∧
      t.link port = { s.link port with heldState := false, state := (s.link port).upState, changedAt := s.pw.tstamp } ∧
      (∀ q, q ≠ port → t.link q = s.link q) ∧
      t = { s with emitted := t.emitted, h0 := t.h0, h1 := t.h1, links := t.links })

/-- LIMITER_SAMPLE in ACTIVE, with no shed and no chancel sensor in THROTTLE: the average over the last ten samples,
the new one among them, is compared with the limit. Above the limit the issue rate falls by 1/16, not below 1/16; below
97 % of it the rate rises by 1/16, not above 16/16; in between it stays (R51). In a shed the rate is 1/16 (R53). The
samples kept and the rate are all that changes. -/
def Obligations.LimiterStepsRate : Prop := ∀ (watts : Nat) (s : State), s.mainOn = true → s.pw.state = .active →
  let w := (watts :: s.heat.watts).take 10
  (s.heat.shed = .none → (∀ i, 192 ≤ i → i < 200 → (s.sensor i).state < 2) →
    (s.pw.limitW * w.length < w.sum → exec (.limiterSample watts) s = .next { s with
      emitted := [], heat := { s.heat with watts := w, rate := max 1 (s.heat.rate - 1) } }) ∧
    (100 * w.sum < 97 * s.pw.limitW * w.length → exec (.limiterSample watts) s = .next { s with
      emitted := [], heat := { s.heat with watts := w, rate := min 16 (s.heat.rate + 1) } }) ∧
    (w.sum ≤ s.pw.limitW * w.length → 97 * s.pw.limitW * w.length ≤ 100 * w.sum →
      exec (.limiterSample watts) s = .next { s with emitted := [], heat := { s.heat with watts := w } })) ∧
  (s.heat.shed ≠ .none → exec (.limiterSample watts) s = .next { s with
      emitted := [], heat := { s.heat with watts := w, rate := 1 } })

/-- SENSOR_SAMPLE records the temperature rounded to the nearest quarter degree, halves up (R586). THERMAL_STATE_CHANGE
moves a sensor after 20 samples: to the highest state all 20 meet the threshold of (95, 105 and 115 °C for WARN,
THROTTLE and TRIP), and down from WARN at 92 °C, from THROTTLE at 102 °C or below; TRIP latches; fewer samples move
nothing (R62). A move to NORMAL, WARN or THROTTLE changes only that sensor; a chancel sensor's TRIP is a class P fault
with THERMTRIP_N low (R61), a bay's leads to that bay's trip. THERMTRIP_COMPARATOR drives THERMTRIP_N low, whatever the
clocks do (R65). -/
def Obligations.JunctionSensors : Prop :=
  (∀ (s : State) (i : Nat) (milliC : Int), s.mainOn = true → i < 200 →
    exec (.sensorSample i milliC) s = .next ({ s with emitted := [] }.modSensor i fun x =>
      { x with samples := ((milliC + 125) / 250 :: x.samples).take 20 })) ∧
  (∀ (st : Nat) (xs : List Int), xs.length < 20 ∨ st = 3 → junctionTable.next st xs = st) ∧
  (∀ (st : Nat) (xs : List Int), st < 3 → 20 ≤ xs.length →
    ((∀ x ∈ xs, 460 ≤ x) → junctionTable.next st xs = 3) ∧
    (st < 2 → (∀ x ∈ xs, 420 ≤ x) → (∃ x ∈ xs, x < 460) → junctionTable.next st xs = 2) ∧
    (st = 0 → (∀ x ∈ xs, 380 ≤ x) → (∃ x ∈ xs, x < 420) → junctionTable.next st xs = 1) ∧
    (st = 1 → (∀ x ∈ xs, x ≤ 368) → junctionTable.next st xs = 0) ∧
    (st = 2 → (∀ x ∈ xs, x ≤ 408) → (∀ x ∈ xs, 380 ≤ x) → junctionTable.next st xs = 1) ∧
    (st = 2 → (∀ x ∈ xs, x ≤ 408) → (∃ x ∈ xs, x < 380) → junctionTable.next st xs = 0) ∧
    (st = 0 → (∃ x ∈ xs, x < 380) → junctionTable.next st xs = 0)) ∧
  (∀ (s : State) (i n : Nat), s.mainOn = true → i < 200 →
    junctionTable.next (s.sensor i).state (s.sensor i).samples = n → n ≠ (s.sensor i).state →
    let u := { s with emitted := [] }.modSensor i fun x => { x with state := n, samples := [], moved := true }
    (n < 3 → exec (.thermalStateChange i) s = .next u) ∧
    (n = 3 → i < 192 → exec (.thermalStateChange i) s = .next (bayTrip u i)) ∧
    (n = 3 → 192 ≤ i → ∃ t, exec (.thermalStateChange i) s = .next t ∧ t.pw.thermtrip = true ∧
      t = thermtripLow (faultP u 0x0102 (locSensor i) []))) ∧
  (∀ (s : State) (i : Nat), s.pw.aonPg = true → i < 200 → exec (.thermtripComparator i) s = .next { s with
    emitted := [], pw := { s.pw with thermtrip := true }
    clo := { s.clo with alertCause := s.clo.alertCause ||| 32 } })

/-- STACK_TEMP_SAMPLE records a stack's temperature in quarter degrees and as whole degrees in its controller.
STACK_THERMAL_CHANGE moves a stack by the thresholds of Table 15-3; only a TRIP does more than move it, a class P fault
and the loss of that stack. THERMAL_EVENT_POST posts one event that names up to seven moved sensors with their states, in
ascending index, and clears what has moved (R67); it waits out 10 ms from the last. SHED_HARD_GATE puts a package that
sheds, with every chapel EMPTY, FORMED or PAUSED, at the service floor (R53). -/
def Obligations.StackHeatThermalEventAndFloor : Prop :=
  (∀ (s : State) (m : Nat) (milliC : Int), m < 8 → s.mainOn = true → s.awake = true →
    exec (.stackTempSample m milliC) s = .next (({ s with emitted := [] }.modSensor (200 + m) fun x =>
      { x with samples := ((milliC + 125) / 250 :: x.samples).take 20 }).modStack m fun x =>
        { x with temp := ((milliC + 125) / 250 / 4).toNat % 256 })) ∧
  (∀ (s : State) (m n : Nat), m < 8 → s.mainOn = true →
    stackTable.next (s.sensor (200 + m)).state (s.sensor (200 + m)).samples = n → n ≠ (s.sensor (200 + m)).state →
    let u := { s with emitted := [] }.modSensor (200 + m) fun x => { x with state := n, samples := [], moved := true }
    exec (.stackThermalChange m) s =
      .next (if n = 3 then hbmFail (faultP u 0x0145 (locSensor (200 + m)) []) m else u)) ∧
  (∀ (s : State) (i : Nat), s.mainOn = true → s.heat.lastEvent = none → s.movedSensors = [i] →
    exec .thermalEventPost s =
      .next (let t := (post { s with emitted := [] } 0x0004 255
          [1, BitVec.ofNat 8 i, BitVec.ofNat 8 (s.sensor i).state]).modSensor i fun x =>
            { x with moved := false, reported := x.state }
        { t with heat := { t.heat with lastEvent := some s.pw.tstamp } })) ∧
  (∀ s : State, s.heat.shed = .shedding →
    (∀ c, (s.chapel c).state = .empty ∨ (s.chapel c).state = .formed ∨ (s.chapel c).state = .paused) →
    exec .shedHardGate s = .next { s with emitted := [], heat := { s.heat with shed := .floor } })

/-- PERST_RELEASE and HOST_L1_EXIT are host resumes (sources 1 to 4). With no stay to record, the release only raises
PERSTx_N, and an exit only brings the link out of L1. In a CRYPT already reached, a source that arrives for the first
time takes the next order number with count 1 and the time TSTAMP would have on leaving (R487); with PWRGD_MAIN high the
bring-up starts, with PWRGD_MAIN low the wake is held and bit 0 of ALERT_CAUSE is set (R48). No WAKEx_N pin moves: a
host resume is no device wake (R71). -/
def Obligations.HostResumesWakeThePackage : Prop :=
  (∀ s : State, s.pw.recording = false →
    (s.pw.perst0 = false → exec (.perstRelease .h0) s =
      .next { s with emitted := [], pw := { s.pw with perst0 := true } }) ∧
    (s.pw.perst1 = false → exec (.perstRelease .h1) s =
      .next { s with emitted := [], pw := { s.pw with perst1 := true } }) ∧
    (∀ p, (s.hp p).link = .l1 → exec (.hostL1Exit p) s =
      .next ({ s with emitted := [] }.modHp p fun h => { h with link := .l0 }))) ∧
  (∀ (s : State) (i : Instr) (src : Nat),
    (i, src) ∈ [(.perstRelease .h0, 1), (.perstRelease .h1, 2), (.hostL1Exit .h0, 3), (.hostL1Exit .h1, 4)] →
    s.pw.perst0 = false → s.pw.perst1 = false → s.pw.porDone = true → s.pw.recording = true →
    s.pw.entering = false → s.pw.state = .crypt → s.pw.phase = .held → s.pw.lossHeld = false →
    (∀ w ∈ s.pw.wakes, w.source ≠ src) →
    ∃ t, exec i s = .next t ∧ t.pw.wakes = s.pw.wakes ++ [⟨src, s.pw.wakes.length + 1, 1, s.tsNow⟩] ∧
      t.pw.wake0 = s.pw.wake0 ∧ t.pw.wake1 = s.pw.wake1 ∧
      (s.pw.mainPg = true → t.pw.state = .active ∧ t.pw.phase = .switches) ∧
      (s.pw.mainPg = false → t.pw.state = .crypt ∧ t.pw.phase = .held ∧ t.pw.wakeHeld = true ∧
        t.clo = { s.clo with alertCause := s.clo.alertCause ||| 1 }) ∧
      t = { s with emitted := t.emitted, pw := t.pw, clo := t.clo, h0 := t.h0, h1 := t.h1 })

/-- LINK_L0_REACHED records rate and width and releases that port's WAKEx_N alone (R71). At 64 or 32 GT/s and x16 or x8
no LINK_DEGRADED is owed; the events that waited for the port are posted (R70, R127). A lower rate or width posts
LINK_DEGRADED with both on that port once its event ring is enabled. -/
def Obligations.HostLinkReachesL0 : Prop := ∀ (s : State) (rate width : Nat), s.mainOn = true →
  (s.pw.perst0 = true →
    let h := { s.h0 with link := .l0, rate := rate, width := width, er := { s.h0.er with degraded := none } }
    let u := { s with emitted := [], pw := { s.pw with wake0 := false }, h0 := h }
    let e : Event := ⟨0x0003, 255, s.pw.tstamp, padTo 16 [BitVec.ofNat 8 rate, BitVec.ofNat 8 width]⟩
    ((rate = 64 ∨ rate = 32) ∧ (width = 16 ∨ width = 8) →
      exec (.linkL0Reached .h0 rate width) s = .next (flushEvents u .h0)) ∧
    (¬((rate = 64 ∨ rate = 32) ∧ (width = 16 ∨ width = 8)) →
      (s.h0.er.enable = true →
        exec (.linkL0Reached .h0 rate width) s = .next (flushEvents (postOn u .h0 e false) .h0)) ∧
      (s.h0.er.enable = false → exec (.linkL0Reached .h0 rate width) s =
        .next (flushEvents { u with h0 := { h with er := { h.er with degraded := some e } } } .h0)))) ∧
  (s.pw.perst1 = true →
    let h := { s.h1 with link := .l0, rate := rate, width := width, er := { s.h1.er with degraded := none } }
    let u := { s with emitted := [], pw := { s.pw with wake1 := false }, h1 := h }
    let e : Event := ⟨0x0003, 255, s.pw.tstamp, padTo 16 [BitVec.ofNat 8 rate, BitVec.ofNat 8 width]⟩
    ((rate = 64 ∨ rate = 32) ∧ (width = 16 ∨ width = 8) →
      exec (.linkL0Reached .h1 rate width) s = .next (flushEvents u .h1)) ∧
    (¬((rate = 64 ∨ rate = 32) ∧ (width = 16 ∨ width = 8)) →
      (s.h1.er.enable = true →
        exec (.linkL0Reached .h1 rate width) s = .next (flushEvents (postOn u .h1 e false) .h1)) ∧
      (s.h1.er.enable = false → exec (.linkL0Reached .h1 rate width) s =
        .next (flushEvents { u with h1 := { h with er := { h.er with degraded := some e } } } .h1))))

/-- With the event ring enabled, the link not down, the PF mastering the bus, a slot free and nothing lost or waiting,
posting an event writes its 32-byte entry at BASE + 32 TAIL (R124), moves TAIL on by one modulo the ring's size, counts a
slot used, advances SEQ by one, toggles the phase when TAIL wraps to 0, and signals vector 0 only if the vector is armed,
which it then no longer is (R86). An entry is code, phase, chapel, SEQ, TSTAMP and 16 bytes of DETAIL. A full ring drops
an event that is not exempt and counts it (R125). Nothing else of the port and nothing else of the package changes. -/
def Obligations.EventIsWrittenOnce : Prop := ∀ (s : State) (p : HPort) (e : Event),
  ((s.hp p).eventRoom = true → (s.hp p).er.lost = 0 → (s.hp p).er.waiting = [] → (s.hp p).link = .l0 →
    (s.hp p).er.armed = false → ∀ x,
    let r := (s.hp p).er
    postOn s p e x = (s.emit (.memWrite p 0 (r.base + 32 * r.tail) (r.entry e))).modHp p fun h => { h with er := { h.er with
      tail := (r.tail + 1) % 2 ^ r.log2, used := r.used + 1, seq := r.seq + 1
      phase := if (r.tail + 1) % 2 ^ r.log2 = 0 then !r.phase else r.phase, armed := false } }) ∧
  ((s.hp p).eventsOn = true → (s.hp p).eventRoom = false → e.code ≠ 0x0007 →
    postOn s p e false = s.modHp p fun h => { h with er := { h.er with
      lost := satInc 0xFFFFFFFF (s.hp p).er.lost } }) ∧
  (∀ r : EventRing, r.entry e = le 2 e.code ++ [if r.phase then 0x80 else 0, BitVec.ofNat 8 e.chapel] ++
    le 4 r.seq.toNat ++ le 8 e.tstamp.toNat ++ padTo 16 e.detail ∧ (r.entry e).length = 32)

/-- A doorbell in ACTIVE at package-ready, 4 or 8 bytes, aligned, no reserved bit set, of an enabled ring and with INDEX below
its entry count: DOORBELL_WRITE of ring i puts the entries from the old tail up to INDEX, wrapping at the ring's size, at the
end of the package's one command sequence in ring order with consecutive numbers (R81), and the ring's tail is INDEX; INDEX
equal to the tail exposes nothing and posts nothing. COMPLETION_HEAD_DOORBELL and EVENT_HEAD_DOORBELL with INDEX equal to the
head have no effect; otherwise the head becomes INDEX, the slots passed are freed, the vector is armed, and if entries still
lie before the tail it is signalled at once and so no longer armed (R86); then what waited for a slot is posted while there
is room (R100, R125). On a ring that is not enabled, or with INDEX not below the entry count, nothing changes but
DOORBELL_BAD on that port's event ring (R79); a doorbell of another width or alignment changes nothing but DOORBELL_BAD
(R78). Before package-ready a submission doorbell is held (R84). -/
def Obligations.Doorbells : Prop :=
  (∀ (s : State) (p : HPort) (i size idx : Nat),
   s.barOn p = true → i < 64 → size = 4 ∨ size = 8 → idx < 65536 → s.pw.state ≠ .idle →
   let r := s.ring p i
   let c : Instr := .doorbellWrite p (0x1000 + 8 * i) size (BitVec.ofNat 64 idx)
   let n := (idx + 2 ^ r.log2 - r.sqTail) % 2 ^ r.log2
   (s.pw.phase = .ready → r.enable = true → idx < 2 ^ r.log2 → r.sqTail < 2 ^ r.log2 → idx ≠ r.sqTail →
     ∃ t, exec c s = .next t ∧ (t.ring p i).sqTail = idx ∧ (t.ring p i).sqBase = r.sqBase ∧
       t.feb.nextCmd = s.feb.nextCmd + n ∧
       (t.feb.cmds.map fun c => (c.n, c.port, c.ring, c.slot, c.accepted)) =
         (s.feb.cmds.map fun c => (c.n, c.port, c.ring, c.slot, c.accepted)) ++
           ((List.range n).map fun k =>
             (s.feb.nextCmd + k, p, i, (r.sqTail + k) % 2 ^ r.log2, s.pw.tstamp)) ∧
       t = { s with emitted := t.emitted, h0 := t.h0, h1 := t.h1
                    feb := { s.feb with cmds := t.feb.cmds, nextCmd := t.feb.nextCmd } }) ∧
   (s.pw.phase = .ready → r.enable = true → idx < 2 ^ r.log2 → idx = r.sqTail →
     exec c s = .next { s with emitted := [] }) ∧
   (s.pw.phase = .ready → r.enable = false ∨ 2 ^ r.log2 ≤ idx → exec c s =
     .next (postPort { s with emitted := [] } p 0x0002 255 (le 4 (0x1000 + 8 * i) ++ le 4 idx))) ∧
   (∀ off sz (v : BitVec 64), 0x1000 ≤ off → off < 0x1200 → (sz ≠ 4 ∧ sz ≠ 8) ∨ off % 8 ≠ 0 →
     exec (.doorbellWrite p off sz v) s =
       .next (postPort { s with emitted := [] } p 0x0002 255 (le 4 off ++ le 4 v.toNat))) ∧
   (s.pw.phase ≠ .ready → exec c s = .next { s with emitted := [], feb := { s.feb with
     heldBells := s.feb.heldBells ++ [⟨p, 0x1000 + 8 * i, size, BitVec.ofNat 64 idx⟩] } })) ∧
  (∀ (s : State) (p : HPort) (size idx : Nat),
   s.barOn p = true → size = 4 ∨ size = 8 → idx < 65536 → s.pw.state ≠ .idle → s.pw.phase = .ready →
   (∀ i, i < 64 →
     let r := s.ring p i
     let c : Instr := .completionHeadDoorbell p (0x1200 + 8 * i) size (BitVec.ofNat 64 idx)
     let left := r.cqUsed - (idx + 2 ^ r.log2 - r.cqHead) % 2 ^ r.log2
     let u := { s with emitted := [] }.modRing p i fun r =>
       { r with cqHead := idx, cqUsed := left, armed := decide (left = 0) }
     (r.enable = true → idx < 2 ^ r.log2 → idx = r.cqHead → exec c s = .next { s with emitted := [] }) ∧
     (r.enable = true → idx < 2 ^ r.log2 → idx ≠ r.cqHead →
       (left = 0 → exec c s = .next (flushRing u p i)) ∧
       (0 < left → exec c s = .next (flushRing (signal u p 0 (i + 1)) p i))) ∧
     (r.enable = false ∨ 2 ^ r.log2 ≤ idx → exec c s =
       .next (postPort { s with emitted := [] } p 0x0002 255 (le 4 (0x1200 + 8 * i) ++ le 4 idx)))) ∧
   (let r := (s.hp p).er
     let c : Instr := .eventHeadDoorbell p 0x1400 size (BitVec.ofNat 64 idx)
     let left := r.used - (idx + 2 ^ r.log2 - r.head) % 2 ^ r.log2
     let u := { s with emitted := [] }.modHp p fun h =>
       { h with er := { h.er with head := idx, used := left, armed := decide (left = 0) } }
     (r.enable = true → idx < 2 ^ r.log2 → idx = r.head → exec c s = .next { s with emitted := [] }) ∧
     (r.enable = true → idx < 2 ^ r.log2 → idx ≠ r.head →
       (left = 0 → exec c s = .next (flushEvents u p)) ∧
       (0 < left → exec c s = .next (flushEvents (signal u p 0 0) p))) ∧
     (r.enable = false ∨ 2 ^ r.log2 ≤ idx → exec c s =
       .next (postPort { s with emitted := [] } p 0x0002 255 (le 4 0x1400 ++ le 4 idx)))))

/-- RING_ENABLE writes +0x10 of ring i's block with ENABLE set and LOG2_ENTRIES lg, no reserved bit set. With lg 4 to 12,
both bases nonzero and at most 4,096 entries over the port's enabled rings, the ring starts: both heads, both tails and
SQ_HEAD at zero, completion phase 1, no duplicate window, its vector armed (R98, R86). Otherwise nothing changes but
RING_ERR, which holds the cause of Table 04-2 (1 for LOG2_ENTRIES, 2 for too many entries, 4 for a zero base) and is
posted on that port (R97). RING_DISABLE with the ring's LOG2_ENTRIES clears ENABLE: commands of the ring that have not
started leave the sequence without completion, those that run are marked so that their completions are dropped (R99). -/
def Obligations.RingEnableAndDisable : Prop := ∀ (s : State) (p : HPort) (i lg : Nat), s.barOn p = true → i < 64 →
  lg < 16 →
  let r := s.ring p i
  (r.enable = false → r.sqBase % 4096 = 0 → r.sqBase < 2 ^ 64 → r.cqBase % 4096 = 0 → r.cqBase < 2 ^ 64 →
    let c : Instr := .ringEnable p i (BitVec.ofNat 32 (2 ^ 31 + lg))
    let err := fun k : Nat => (Host.Outcome.next (postPort ({ s with emitted := [] }.modRing p i fun r =>
      { r with ringErr := BitVec.ofNat 8 k }) p 0x000D 255 [BitVec.ofNat 8 i, BitVec.ofNat 8 k]) : Res)
    (lg < 4 ∨ 12 < lg → exec c s = err 1) ∧
    (4 ≤ lg → lg ≤ 12 → 4096 < (s.hp p).ringEntries + 2 ^ lg → exec c s = err 2) ∧
    (4 ≤ lg → lg ≤ 12 → (s.hp p).ringEntries + 2 ^ lg ≤ 4096 → r.sqBase = 0 ∨ r.cqBase = 0 → exec c s = err 4) ∧
    (4 ≤ lg → lg ≤ 12 → (s.hp p).ringEntries + 2 ^ lg ≤ 4096 → r.sqBase ≠ 0 → r.cqBase ≠ 0 →
      exec c s = .next ({ s with emitted := [] }.modRing p i fun r =>
        { sqBase := r.sqBase, cqBase := r.cqBase, enable := true, log2 := lg, sqHead := 0, sqTail := 0
          cqHead := 0, cqTail := 0, cqUsed := 0, phase := true, ringErr := r.ringErr, armed := true, dup := []
          waiting := [], passed := [] }))) ∧
  (r.enable = true → r.sqBase % 4096 = 0 → r.sqBase < 2 ^ 64 → r.cqBase % 4096 = 0 → r.cqBase < 2 ^ 64 →
    r.log2 = lg → r.waiting = [] →
    ∃ t, exec (.ringDisable p i (BitVec.ofNat 32 lg)) s = .next t ∧ (t.ring p i).enable = false ∧
      (t.ring p i).armed = false ∧ (t.ring p i).sqBase = r.sqBase ∧ (t.ring p i).dup = r.dup ∧
      t.feb.cmds = (s.feb.cmds.filter fun c => !(decide (c.port = p ∧ c.ring = i) && decide (c.stage ≠ .running))).map
        (fun c => if c.port = p ∧ c.ring = i then { c with dropped := true } else c) ∧
      t = { s with emitted := [], h0 := t.h0, h1 := t.h1, feb := { s.feb with cmds := t.feb.cmds } })

/-- EVENT_RING_ENABLE with LOG2_ENTRIES 4 to 12 and a nonzero base starts the ring with head and tail at zero, nothing
used, phase 1, SEQ 0 and its vector armed (R98); what waits and what is owed is then posted (R127).
EVENT_RING_DISABLE keeps only the WAKE_REASON events that wait (R127). RING_CONFIG_WRITE of a base of an enabled ring to
another value is cause 3 of Table 04-2: nothing changes but RING_ERR, which is posted (R97); a write of a base of a
disabled ring sets that base. -/
def Obligations.EventRingAndConfiguration : Prop := ∀ (s : State) (p : HPort), s.barOn p = true →
  (∀ lg, 4 ≤ lg → lg ≤ 12 →
    let r := (s.hp p).er
    r.base % 4096 = 0 → r.base ≠ 0 → r.base < 2 ^ 64 →
    (r.enable = false → r.degraded = none →
      exec (.eventRingEnable p (BitVec.ofNat 32 (2 ^ 31 + lg))) s =
        .next (flushEvents ({ s with emitted := [] }.modHp p fun h => { h with er :=
          { base := h.er.base, enable := true, log2 := lg, head := 0, tail := 0, used := 0, phase := true
            ringErr := h.er.ringErr, armed := true, seq := 0, lost := 0, waiting := h.er.waiting
            pPosted := h.er.pPosted, degraded := none } }) p)) ∧
    (r.enable = true → r.log2 = lg → exec (.eventRingDisable p (BitVec.ofNat 32 lg)) s =
      .next ({ s with emitted := [] }.modHp p fun h => { h with er := { h.er with
        enable := false, waiting := h.er.waiting.filter fun e => decide (e.code = 0x0007) } }))) ∧
  (∀ i base, i < 64 → base % 4096 = 0 → base < 2 ^ 64 →
    let r := s.ring p i
    r.sqBase % 4096 = 0 → r.sqBase < 2 ^ 64 → r.cqBase % 4096 = 0 → r.cqBase < 2 ^ 64 → r.log2 < 16 →
    (r.enable = true → base ≠ r.sqBase →
      exec (.ringConfigWrite p (0x2000 + 128 * i) 8 (BitVec.ofNat 64 base)) s =
        .next (postPort ({ s with emitted := [] }.modRing p i fun r => { r with ringErr := 3 }) p 0x000D 255
          [BitVec.ofNat 8 i, 3])) ∧
    (r.enable = false → exec (.ringConfigWrite p (0x2000 + 128 * i) 8 (BitVec.ofNat 64 base)) s =
      .next ({ s with emitted := [] }.modRing p i fun r => { r with sqBase := base })))

/-- A read of PF BAR0 with no high half latched returns the bytes of the register that holds the offset and, except for
RING_ERR and the latch of a low half, changes nothing. At 0x804, 0x808 and 0x80C those are ALERT_CAUSE, ALERT_EN and
WAKE_SRC_EN; below 0x800 they are zero (R76). A 1-byte read of RING_ERR returns its cause and leaves what hardware set in
the same cycle (R7, R8). LOW_HALF_READ of P_TSTAMP returns its low half and latches its high half, which the next 4-byte
read of the high half returns, whatever the register holds by then (R566). A read outside every enabled BAR is answered
Unsupported Request, a posted write there is not answered (R74). SMBus reads return the register of the command code. -/
def Obligations.RegisterReads : Prop :=
  (∀ (s : State) (p : HPort) (o size : Nat) (hw : BitVec 8), s.barOn p = true → accessForm o size = true →
    o < 0x800 → (s.hp p).latch = none →
    exec (.rcRegisterRead (.pf p o) size hw) s = .next { s with emitted := [.readData 0] }) ∧
  (∀ (s : State) (p : HPort) (hw : BitVec 8), s.barOn p = true → (s.hp p).latch = none →
    exec (.rcRegisterRead (.pf p 0x804) 4 hw) s =
      .next { s with emitted := [.readData (s.clo.alertCause.zeroExtend 64)] } ∧
    exec (.rcRegisterRead (.pf p 0x808) 4 hw) s =
      .next { s with emitted := [.readData (s.clo.alertEn.zeroExtend 64)] } ∧
    exec (.rcRegisterRead (.pf p 0x80C) 4 hw) s =
      .next { s with emitted := [.readData (s.clo.wakeSrcEn.zeroExtend 64)] }) ∧
  (∀ (s : State) (p : HPort) (i : Nat) (hw : BitVec 8), s.barOn p = true → i < 64 → (s.hp p).latch = none →
    exec (.rcRegisterRead (.pf p (0x2018 + 128 * i)) 1 hw) s =
      .next ({ s with emitted := [.readData ((s.ring p i).ringErr.zeroExtend 64)] }.modRing p i fun r =>
        { r with ringErr := hw })) ∧
  (∀ (s : State) (p : HPort), s.barOn p = true → (s.hp p).latch = none →
    exec (.lowHalfRead p 0xB08) s =
      .next ({ s with emitted := [.readData (BitVec.ofNat 64 (s.flt.pTstamp.toNat % 2 ^ 32))] }.modHp p fun h =>
        { h with latch := some (0xB08, BitVec.ofNat 32 (s.flt.pTstamp.toNat / 2 ^ 32)) })) ∧
  (∀ (s : State) (p : HPort) (hw : BitVec 8) (v : BitVec 32), s.barOn p = true → (s.hp p).latch = some (0xB08, v) →
    exec (.rcRegisterRead (.pf p 0xB0C) 4 hw) s =
      .next ({ s with emitted := [.readData (v.zeroExtend 64)] }.modHp p fun h => { h with latch := none })) ∧
  (∀ (s : State) (p : HPort) (addr : BitVec 64), (s.hp p).link ≠ .down →
    exec (.barMissRequest p true addr) s = .next { s with emitted := [.unsupported p] } ∧
    exec (.barMissRequest p false addr) s = .next { s with emitted := [] }) ∧
  (∀ (s : State) (hw : BitVec 8), s.pw.porDone = true →
    exec (.rcRegisterRead (.smbus 1) 4 hw) s = .next { s with emitted := [.smbus (le 4 s.clo.alertCause.toNat)] } ∧
    exec (.rcRegisterRead (.smbus 8) 8 hw) s = .next { s with emitted := [.smbus (le 8 s.tsNow.toNat)] })

/-- A 4-byte host write of ALERT_CAUSE clears the bits written as one, but a bit hardware sets in the same cycle stays
set (R7). A write of ALERT_EN or WAKE_SRC_EN takes the defined bits; where a reserved bit is written as one it stays zero
and one class C RSV_WRITE entry is logged (R5), else nothing is logged. A write of CLOISTER_STATUS, INTERLOCK_STAT or
FAULT_STATUS, which are RO, changes and logs nothing, whatever bits it sets (R9). AMB_CTRL_WRITE and a register write of TIMEOUT_US take a value from 10 to 10,000;
any other leaves the field as it was and logs AMB_CFG_BAD (R382). The configuration writes of Memory Space Enable and of
the count of VFs take effect on that port alone. -/
def Obligations.RegisterWrites : Prop :=
  (∀ (s : State) (p : HPort) (v : BitVec 32) (hwSet : BitVec 32), s.barOn p = true → v &&& 0xFFFFFF80 = 0 →
    exec (.registerWrite (.pf p 0x804) 4 (v.zeroExtend 64) hwSet) s = .next { s with emitted := []
                                                                                     clo := { s.clo with
      alertCause := (s.clo.alertCause &&& ~~~v) ||| (hwSet &&& 0x7F) } }) ∧
  (∀ (s : State) (p : HPort) (v : BitVec 32), s.barOn p = true →
    let u := { s with emitted := [], clo := { s.clo with alertEn := v &&& 0x7F } }
    let w := { s with emitted := [], clo := { s.clo with wakeSrcEn := v &&& 7 } }
    (v &&& 0xFFFFFF80 = 0 → exec (.registerWrite (.pf p 0x808) 4 (v.zeroExtend 64) 0) s = .next u) ∧
    (v &&& 0xFFFFFF80 ≠ 0 → exec (.registerWrite (.pf p 0x808) 4 (v.zeroExtend 64) 0) s =
      .next (logC u 0 0x0004 (locHost p) 255 [])) ∧
    (v &&& 0xFFFFFFF8 = 0 → exec (.registerWrite (.pf p 0x80C) 4 (v.zeroExtend 64) 0) s = .next w) ∧
    (v &&& 0xFFFFFFF8 ≠ 0 → exec (.registerWrite (.pf p 0x80C) 4 (v.zeroExtend 64) 0) s =
      .next (logC w 0 0x0004 (locHost p) 255 []))) ∧
  (∀ (s : State) (p : HPort) (o : Nat) (v : BitVec 32), s.barOn p = true →
    o = 0x800 ∨ o = 0x810 ∨ o = 0xB00 ∨ o = 0xB04 →
    exec (.registerWrite (.pf p o) 4 (v.zeroExtend 64) 0) s = .next { s with emitted := [] }) ∧
  (∀ (s : State) (p : HPort) (us : Nat), s.barOn p = true → us < 2 ^ 14 → ∀ c : Instr,
    c = .ambCtrlWrite p (BitVec.ofNat 32 us) ∨ c = .registerWrite (.pf p 0xD00) 4 (BitVec.ofNat 64 us) 0 →
    exec c s = .next (if 10 ≤ us ∧ us ≤ 10000 then { s with emitted := [], amb := { s.amb with timeoutUs := us } }
      else logC { s with emitted := [] } 0 0x0132 (locHost p) 255 (le 4 us))) ∧
  (∀ (s : State) (p : HPort) (v : BitVec 64), (s.hp p).link ≠ .down →
    exec (.registerWrite (.memorySpaceEnable p 0) 2 v 0) s =
      .next ({ s with emitted := [] }.modHp p fun h => { h with mse := v.getLsbD 0 }) ∧
    ((s.hp p).vfs ≤ v.toNat → v.toNat ≤ 192 → ∃ t, exec (.registerWrite (.vfCount p) 2 v 0) s = .next t ∧
      (t.hp p).vfs = v.toNat))

/-- MSIX_UNMASK of a vector of an enabled function with Memory Space Enable set clears its mask; where the vector is
pending and its function's Bus Master Enable is set, it is signalled once and is pending no more, otherwise nothing is
sent (R87). BUS_MASTER_ENABLE_SET of a VF sets that enable and delivers each of its two pending vectors; of the PF it
delivers its vectors and then releases the port's held fetches, completions and events (R593). BUS_MASTER_ENABLE_CLEAR of
a VF, or of the PF while no SLYPE_COPY of the sacristy runs, clears that enable alone. -/
def Obligations.UnmaskAndBusMaster : Prop := ∀ (s : State) (p : HPort) (fn : Nat), (s.hp p).link ≠ .down →
  (s.hp p).hasFn fn = true →
  (∀ v, (s.hp p).memSpace fn = true → (vectorsOf fn).contains v = true →
    let k := msixKey fn v
    let u := { s with emitted := [] }.modHp p fun h => { h with
      msix := tput MsixEntry.fresh h.msix k { tget MsixEntry.fresh h.msix k with mask := false } }
    ((s.hp p).msixPend.contains k = true → (s.hp p).busMaster fn = true →
      exec (.msixUnmask p fn v) s = .next ((u.modHp p fun h => { h with
        msixPend := h.msixPend.filter (· ≠ k) }).emit (.msix p fn v))) ∧
    ((s.hp p).msixPend.contains k = false ∨ (s.hp p).busMaster fn = false →
      exec (.msixUnmask p fn v) s = .next u)) ∧
  (fn ≠ 0 → exec (.busMasterEnableSet p fn) s = .next ([0, 1].foldl (fun t v => deliverPending t p fn v)
    ({ s with emitted := [] }.modHp p fun h => { h with vfBme := setInsert fn h.vfBme }))) ∧
  (fn = 0 → exec (.busMasterEnableSet p fn) s = .next (releasePf ((List.range 80).foldl
    (fun t v => deliverPending t p 0 v) ({ s with emitted := [] }.modHp p fun h => { h with bme := true })) p)) ∧
  (fn ≠ 0 → exec (.busMasterEnableClear p fn) s =
    .next ({ s with emitted := [] }.modHp p fun h => { h with vfBme := h.vfBme.filter (· ≠ fn) })) ∧
  (fn = 0 → s.amb.mover.mode = 0 → exec (.busMasterEnableClear p fn) s =
    .next ({ s with emitted := [] }.modHp p fun h => { h with bme := false }))

/-- On a port with no host-memory request outstanding: VF_FLR clears that VF's enables, MSI-X entries and pending bits and
nothing else; in particular no chapel changes (R91). PF_FLR and HOST_PORT_RESET, with no command, proposal or mover copy
of that port, bring its rings, enables and MSI-X table to their reset values; WAKE_REASON events stay held for it and
PERSTx_N reads the level the board drives. The link stays as it is on an FLR and goes down on a reset (R92, R93). Nothing
of the other port, of any chapel or of the rest of the package changes but held doorbells of the port, which are gone.
With a request outstanding, an FLR first answers every such request of that chapel with HOST_VF_OFF. -/
def Obligations.FunctionAndPortResets : Prop := ∀ (s : State) (p : HPort), (s.hp p).link ≠ .down →
  (∀ vf, 1 ≤ vf → vf ≤ (s.hp p).vfs →
    exec (.vfFlr p vf) s = .next ((failHostRequests { s with emitted := [] } p 0x20
      fun c => decide (c + 1 = vf)).modHp p fun h => h.vfReset vf) ∧
    ((s.hp p).reads = [] → (s.hp p).reqs = [] → (s.hp p).writes = [] → exec (.vfFlr p vf) s =
      .next ({ s with emitted := [] }.modHp p fun h => { h with
        vfBme := setErase vf h.vfBme, vfMse := setErase vf h.vfMse
        msix := h.msix.filter fun e => !(fnKeys vf).contains e.1
        msixPend := h.msixPend.filter fun k => !(fnKeys vf).contains k }))) ∧
  ((s.hp p).reads = [] → (s.hp p).reqs = [] → (s.hp p).writes = [] → s.amb.mover.mode = 0 → s.feb.pending = none →
    (∀ c ∈ s.feb.cmds, c.port ≠ p) → (∀ e ∈ (s.hp p).rings, e.2.waiting = []) →
    let quiet := fun (u : State) (link : LinkState) (rate width : Nat) =>
      { u with emitted := [], feb := { u.feb with heldBells := u.feb.heldBells.filter fun b => decide (b.port ≠ p) } }.modHp
        p fun h => { link := link, rate := rate, width := width, nextWrite := h.nextWrite
                     er := { waiting := keepWakes h.er.waiting, pPosted := h.er.pPosted, degraded := h.er.degraded } }
    exec (.pfFlr p) s = .next (quiet s (s.hp p).link (s.hp p).rate (s.hp p).width) ∧
    (∀ why, why ≠ .perst → exec (.hostPortReset p why) s = .next (quiet s .down 0 0)) ∧
    (p = .h0 → s.pw.perst0 = true → exec (.hostPortReset p .perst) s =
      .next (quiet { s with pw := { s.pw with perst0 := false } } .down 0 0)) ∧
    (p = .h1 → s.pw.perst1 = true → exec (.hostPortReset p .perst) s =
      .next (quiet { s with pw := { s.pw with perst1 := false } } .down 0 0)))

/-- HOST_PORT_REQUEST takes the port's oldest request. Where the chapel's VF is not enabled or does not master the bus no
TLP goes out: the initiator is answered HOST_VF_OFF and one class C entry is logged (R90). A write joins the port's posted
writes; a read that no posted write stands before and for which a tag is free is emitted with the requester ID of VF c + 1
and the host address of its window (R88), its tag held until it ends. HOST_WRITE_TRANSMITTED emits the oldest posted
write and answers DONE (R592). HOST_READ_COMPLETION answers a chapel's read with the data; Unsupported Request, Completer
Abort and HOST_COMPLETION_TIMEOUT answer ABORTED, poisoned data POISON, and log HOST_DATA_FAIL (R591); the tag is free
again. -/
def Obligations.HostMemoryTraffic : Prop := ∀ (s : State) (p : HPort), s.mainOn = true →
  (∀ f rest, (s.hp p).reqs = f :: rest →
    let on := (s.hp p).hasFn (f.chapel + 1) && (s.hp p).busMaster (f.chapel + 1)
    let u := { s with emitted := [] }.modHp p fun h => { h with reqs := rest }
    (on = false → exec (.hostPortRequest p) s =
      .next (logC (respondErr u f 0x20 false) 0 0x0020 (locHost p) f.chapel [])) ∧
    (on = true → f.op = .write → exec (.hostPortRequest p) s = .next (u.modHp p fun h => { h with
      writes := h.writes ++ [⟨h.nextWrite, f⟩], nextWrite := h.nextWrite + 1 })) ∧
    (∀ tag, on = true → f.op ≠ .write → (s.hp p).writes = [] → (s.hp p).link = .l0 → freeTag s p = some tag →
      exec (.hostPortRequest p) s = .next ((u.modHp p fun h => { h with reads := tput noRead h.reads tag f }).emit
        (.memRead p (f.chapel + 1) ((s.targetWindow f.chapel f.win).base + f.addr) (sizeBytes f.size) tag)))) ∧
  (∀ w rest, (s.hp p).writes = w :: rest → (s.hp p).link = .l0 →
    exec (.hostWriteTransmitted p w.tag) s = .next (respond
      (({ s with emitted := [] }.modHp p fun h => { h with writes := rest }).emit
        (.memWrite p (w.req.chapel + 1) ((s.targetWindow w.req.chapel w.req.win).base + w.req.addr)
          (sliceB w.req.data (w.req.addr % 64) (sizeBytes w.req.size)))) w.req 0 [])) ∧
  (∀ tag f, tget noRead (s.hp p).reads tag = f → f ≠ noRead → f.chapel ≠ 0xFE →
    let u := { s with emitted := [] }.modHp p fun h => { h with reads := tdel h.reads tag }
    let failed := fun (status : Nat) (poison : Bool) =>
      (Host.Outcome.next (logC (respondErr u f status poison) 0 0x0002 (locHost p) f.chapel []) : Res)
    (∀ bytes, bytes.length = sizeBytes f.size →
      exec (.hostReadCompletion p tag (.data bytes)) s = .next (respond u f 0 bytes)) ∧
    exec (.hostReadCompletion p tag .poisoned) s = failed 0x22 true ∧
    exec (.hostReadCompletion p tag .unsupportedRequest) s = failed 7 false ∧
    exec (.hostReadCompletion p tag .completerAbort) s = failed 7 false ∧
    exec (.hostCompletionTimeout p tag) s = failed 7 false)

/-- ENTRY_FETCH of the 64 bytes of an accepted entry. Where no recorded entry of the ring has its COMMAND_ID, the entry is
recorded in the ring's window of the last 256 (R110); an opcode of no row completes with status 0x02; a header or
parameter that fails its check completes MALFORMED at the lowest failing offset (R6, R106); a well-formed entry that reads
no buffer and is not secured is ready for its turn. Where the ID is recorded: a byte that differs completes MALFORMED with
REPLAYED set and DETAIL the offset of the first difference (R112), equal bytes are answered again with REPLAYED set, and
do not execute again (R111). A fetch that ends in a PCIe error, and ENTRY_FETCH_TIMEOUT, log HOST_DATA_FAIL and complete
the slot with COMMAND_ID 0, opcode 0 and status ABORTED (R589). -/
def Obligations.EntryFetchChecks : Prop := ∀ (s : State) (n : Nat) (c : Cmd) (e : List Byte),
  s.cmd n = some c → c.stage = .accepted → c.fetching = true → s.flt.halted = false → e.length = 64 →
  let u := { s with emitted := [] }
  let d := (s.ring c.port c.ring).dup.find? fun d => decide (fieldN d.bytes 4 4 = fieldN e 4 4)
  let k := { c with entry := e }
  let v := (recordEntry u c e).modCmd n fun _ => k
  (d = none →
    (opcodes.contains (fieldN e 0 2) = false →
      exec (.entryFetch n (some e)) s = .next (failCmd v k 0x02 0)) ∧
    (∀ o, opcodes.contains (fieldN e 0 2) = true → lowest (headerBad (fieldN e 0 2) e) = some o →
      exec (.entryFetch n (some e)) s = .next (failCmd v k 0x01 o)) ∧
    (opcodes.contains (fieldN e 0 2) = true → lowest (headerBad (fieldN e 0 2) e) = none →
      fieldN e 16 4 = 0 → opSecured (fieldN e 0 2) = false → k.buf = [] →
      (∀ o, step5Bad (fieldN e 0 2) e [] = some o → exec (.entryFetch n (some e)) s = .next (failCmd v k 0x01 o)) ∧
      (step5Bad (fieldN e 0 2) e [] = none → indexMissing (fieldN e 0 2) e = true →
        exec (.entryFetch n (some e)) s = .next (failCmd v k 0x05 0)) ∧
      (step5Bad (fieldN e 0 2) e [] = none → indexMissing (fieldN e 0 2) e = false →
        geometryBad (fieldN e 0 2) e = false →
        exec (.entryFetch n (some e)) s = .next (v.modCmd n fun x => { x with stage := .ready })))) ∧
  (∀ x, d = some x →
    (∀ o, firstDiff 0 x.bytes e = some o → exec (.entryFetch n (some e)) s =
      .next (postCompletion (u.dropCmd n) c.port c.ring
        ⟨c.slot, BitVec.ofNat 32 (fieldN e 4 4), fieldN e 0 2, 0x01, true, false, o, [], .nothing⟩)) ∧
    (∀ a, x.bytes = e → x.answer = some a → exec (.entryFetch n (some e)) s =
      .next (postCompletion (u.dropCmd n) c.port c.ring { a with slot := c.slot, replayed := true }))) ∧
  (let failed := postCompletion ((logC u 0 0x0002 (locHost c.port) 255 []).dropCmd n) c.port c.ring
      ⟨c.slot, 0, 0, 0x07, false, false, 2, le 2 c.slot, .nothing⟩;
    exec (.entryFetch n none) s = .next failed ∧ exec (.entryFetchTimeout n) s = .next failed)

/-- DATA_BUFFER_READ_COMPLETION with all DATA_LEN bytes goes on with steps 5 to 7 over them; one that ends in a PCIe
error, and DATA_BUFFER_READ_TIMEOUT, complete the command ABORTED with DETAIL 1 and log HOST_DATA_FAIL (R109). At its turn
a command whose opcode does not execute in PKG_FAULTED is refused with DETAIL 0x90 (R469), and one that names a FAULTED
chapel completes FAULT_CONTAINED with the cause of that chapel's first class K fault (R108). A refusal is NOT_PERMITTED,
or SUPERSEDED with DETAIL 0 where an earlier command changed one of its objects after its entry was accepted (R83,
R107). -/
def Obligations.BufferAndStepNine : Prop :=
  (∀ (s : State) (n : Nat) (c : Cmd) (b : List Byte), s.cmd n = some c → c.stage = .reading → s.flt.halted = false →
    (b.length = c.dataLen → exec (.dataBufferReadCompletion n (some b)) s =
      .next (checkParams ({ s with emitted := [] }.modCmd n fun _ => { c with buf := b }) { c with buf := b })) ∧
    exec (.dataBufferReadCompletion n none) s =
      .next (failCmd (logC { s with emitted := [] } 0 0x0002 (locHost c.port) 255 []) c 0x07 1) ∧
    exec (.dataBufferReadTimeout n) s =
      .next (failCmd (logC { s with emitted := [] } 0 0x0002 (locHost c.port) 255 []) c 0x07 1)) ∧
  (∀ (s : State) (c : Cmd) (k : State → Cmd → State),
    (s.flt.pkgFaulted = true → c.allowedFaulted = false → gated s c k = refuse s c 0x90) ∧
    (∀ x, s.flt.pkgFaulted = false ∨ c.allowedFaulted = true → c.faultChapel = some x → x < 192 →
      (s.chapel x).state = .faulted → gated s c k = failCmd s c 0x0C (s.chapel x).firstK) ∧
    (∀ d, objsMeet c.changed (c.names s) = true → refuse s c d = failCmd s c 0x09 0) ∧
    (∀ d, objsMeet c.changed (c.names s) = false → refuse s c d = failCmd s c 0x03 d))

/-- A command that was neither dropped nor repeated completes on a ring with a free slot and nothing waiting, the PF
mastering the bus and the link up: one 32-byte entry (COMMAND_ID, OPCODE, STATUS, the ring's phase, DATA_WRITTEN, SQ_HEAD,
DETAIL and 16 bytes of RESULT) is written at CQ_BASE + 32 tail; the tail moves on by one modulo the ring's size with the
phase toggled where it wraps; one more slot is used; the window keeps the answer (R101 to R104, R111). The command is no
longer in the sequence. Every other ring, the other port and the rest of the package are unchanged. -/
def Obligations.CompletionIsPosted : Prop := ∀ (s : State) (c : Cmd) (status detail : Nat) (result : List Byte)
    (written : Bool), c.dropped = false → c.repeats = [] →
  let r := s.ring c.port c.ring
  r.waiting = [] → s.ringRoom c.port c.ring = true → (s.hp c.port).link = .l0 → r.armed = false →
  ∃ t, completeCmd s c status detail result written .nothing = t ∧
    t.emitted = s.emitted ++ [.memWrite c.port 0 (r.cqBase + 32 * r.cqTail)
      (le 4 (fieldN c.entry 4 4) ++ le 2 c.opcode ++
        [BitVec.ofNat 8 status, BitVec.ofNat 8 ((if r.phase then 128 else 0) + (if written then 32 else 0))] ++
        le 2 (t.ring c.port c.ring).sqHead ++ [0, 0] ++ le 4 detail ++ padTo 16 result)] ∧
    (t.ring c.port c.ring).cqTail = (r.cqTail + 1) % 2 ^ r.log2 ∧ (t.ring c.port c.ring).cqUsed = r.cqUsed + 1 ∧
    (t.ring c.port c.ring).phase = (if (r.cqTail + 1) % 2 ^ r.log2 = 0 then !r.phase else r.phase) ∧
    (t.ring c.port c.ring).waiting = [] ∧ (t.ring c.port c.ring).sqTail = r.sqTail ∧
    (t.ring c.port c.ring).dup.map DupEntry.bytes = r.dup.map DupEntry.bytes ∧ t.cmd c.n = none ∧
    (∀ p i, (p, i) ≠ (c.port, c.ring) → t.ring p i = s.ring p i) ∧
    t = { s with emitted := t.emitted, h0 := t.h0, h1 := t.h1
                 feb := { s.feb with cmds := s.feb.cmds.filter fun k => k.n ≠ c.n } }

/-- At its turn PKG_IDENTIFY writes the asset record, tag blocks 0 to 7, to the data buffer and completes OK with the
revision 0xB0, the number of parties, the bays not in TRIP, the firmware version and TSTAMP. PKG_POWER_LIMIT with a limit
of 1,200 to 2,100 W puts it in force, answers the limit before, and changes nothing else (R50); any other limit is
MALFORMED at offset 24. PKG_INTERLOCK_ACK completes with status 0x0D while the interlock has not read closed
on two consecutive ticks; else, with nothing left to declare, the interlock is closed, the shed ends, the acknowledgement
is no longer needed, every chapel a shed held goes on, and RESULT says whether an acknowledgement was needed; where it
clears a discrepancy latch an INTERLOCK event 0 is reported too (R55, R492). -/
def Obligations.PackageIdentityLimitAndAck : Prop := ∀ (s : State) (n : Nat) (c : Cmd),
  let u := s.begin c
  let d := s.started c
  (s.Turn n 0x0001 c → ∀ ok, exec (.pkgIdentify n ok) s = .next (okWrite u d (s.clo.tag.blocks 0 8)
    ([0xB0#8, BitVec.ofNat 8 s.partyCount] ++
      le 2 ((List.range 192).filter fun b => decide ((s.sensor b).state ≠ 3)).length ++
      le 4 s.flash.firmware.toNat ++ le 8 s.ts) ok)) ∧
  (s.Turn n 0x0004 c →
    (1200 ≤ fieldN c.entry 24 2 ∧ fieldN c.entry 24 2 ≤ 2100 → exec (.pkgPowerLimit n) s =
      .next (doneCmd { u with pw := { s.pw with limitW := fieldN c.entry 24 2 } } d (le 2 s.pw.limitW))) ∧
    (fieldN c.entry 24 2 < 1200 ∨ 2100 < fieldN c.entry 24 2 →
      exec (.pkgPowerLimit n) s = .next (failCmd u d 0x01 24))) ∧
  (s.Turn n 0x0005 c →
    (s.clo.ilk.bothClosed < 2 → exec (.pkgInterlockAck n) s = .next (failCmd u d 0x0D 0)) ∧
    (2 ≤ s.clo.ilk.bothClosed → s.clo.ilk.openDue = false → s.clo.ilk.latchDue = false → s.clo.ilk.closedDue = false →
      let v := u.modIlk fun k => { k with state := 0 }
      let w := if s.clo.ilk.state = 2 then reportInterlock v 0 else v
      exec (.pkgInterlockAck n) s = .next (doneCmd (chapelIds.foldl unholdChapel
        { w with heat := { w.heat with shed := .none, ackNeeded := false } }) d
          [if s.heat.ackNeeded then 1#8 else 0#8])))

/-- PKG_POWER_STATE waits while a change of power state is owed to a posted completion (R49). At its turn ACTIVE ends IDLE
and completes OK with the state before; IDLE is refused while any chapel is RUNNING, RETIRING or EVICTING, else it
completes OK and the package enters IDLE after its completion is posted; CRYPT is refused unless every chapel is EMPTY,
else every bay is to go off, HBM_KEEP and the wake enables are taken from OPTIONS, and the package enters CRYPT after the
completion is posted (R44, R45, R47, R588). PKG_RESET under THERMTRIP is refused with DETAIL 0x102; without FORCE it is
refused unless every chapel is EMPTY, and then the package is reset and its completion follows PACKAGE_READY; with FORCE
every chapel that is not EMPTY is evicted first (R470). -/
def Obligations.PowerStateAndReset : Prop := ∀ (s : State) (n : Nat) (c : Cmd),
  let u := s.begin c
  let d := s.started c
  let anyChapel (p : ChState → Bool) := chapelIds.any fun k => p (s.chapel k).state
  (s.cmd n = some c → s.powerMoves = true → exec (.pkgPowerState n) s = .next s) ∧
  (s.Turn n 0x0003 c → s.powerMoves = false →
    let before := [BitVec.ofNat 8 s.pw.state.code]
    (c.byte 24 = 0 → exec (.pkgPowerState n) s = .next (doneCmd (leaveIdle u) d before)) ∧
    (c.byte 24 = 1 →
      (anyChapel (fun x => decide (x = .running ∨ x = .retiring ∨ x = .evicting)) = true →
        exec (.pkgPowerState n) s = .next (refuse u d 0)) ∧
      (anyChapel (fun x => decide (x = .running ∨ x = .retiring ∨ x = .evicting)) = false →
        exec (.pkgPowerState n) s = .next (completeCmd (touch u n d.objs) d 0 0 before false
          (if s.pw.state = .idle then .nothing else .enterIdle)))) ∧
    (c.byte 24 = 2 →
      (anyChapel (fun x => decide (x ≠ .empty)) = true → exec (.pkgPowerState n) s = .next (refuse u d 0)) ∧
      (anyChapel (fun x => decide (x ≠ .empty)) = false →
        let v := wantOff u (List.range 192)
        exec (.pkgPowerState n) s = .next (completeCmd (touch
          { v with pw := { s.pw with hbmKeep := bitN (c.byte 25) 0, hbmLost := false
                                     wakeEn0 := bitN (c.byte 25) 1, wakeEn1 := bitN (c.byte 25) 2 } } n d.objs)
          d 0 0 before false .enterCrypt)))) ∧
  (s.Turn n 0x0002 c →
    (s.pw.thermtrip = true → exec (.pkgReset n) s = .next (failCmd u d 0x03 0x102)) ∧
    (s.pw.thermtrip = false → c.byte 24 % 2 = 0 →
      (s.allEmpty = false → exec (.pkgReset n) s = .next (refuse u d 0)) ∧
      (s.allEmpty = true → exec (.pkgReset n) s = .next (packageReset u))) ∧
    (s.pw.thermtrip = false → c.byte 24 % 2 = 1 →
      exec (.pkgReset n) s = .next (settleReset ((chapelIds.filter fun k => decide ((s.chapel k).state ≠ .empty ∧
        (s.chapel k).state ≠ .evicting)).foldl evictChapel u))))

/-- With the cloister out of reset and nothing left to declare, an INTERLOCK_SAMPLE records both channels: equal samples
end a disagreement run and count toward two consecutive ticks open or closed; a run is counted in DISC_COUNT, saturating
at 0xFFFF, once: on its 53rd tick or when it ends sooner (R489, R490). With the state closed and both channels open on
two ticks the interlock is declared open, with ALERT_CAUSE bit 2; with a run on its 53rd tick the discrepancy latches,
with bits 2 and 3; with the state open and both closed on two ticks it is declared closed and ALERT_CAUSE keeps its
value. While the main domains run, a declaration of open and a latch start a shed and ask for an acknowledgement;
while they do not, heat is unchanged (R491). A declaration that is not due changes nothing. -/
def Obligations.InterlockDeclarations : Prop := ∀ (s : State), s.pw.porDone = true →
  let k := s.clo.ilk
  (k.openDue = false → k.latchDue = false → k.closedDue = false →
    (∀ a, exec (.interlockSample a a) s = .next ({ s with emitted := [] }.modIlk fun k =>
      { k with aOpen := a, bOpen := a, run := 0, counted := false
               disc := if k.run ≠ 0 ∧ k.counted = false then satInc 0xFFFF k.disc else k.disc
               bothOpen := if a then min 2 (k.bothOpen + 1) else 0
               bothClosed := if a then 0 else min 2 (k.bothClosed + 1) })) ∧
    (∀ a, exec (.interlockSample a (!a)) s = .next ({ s with emitted := [] }.modIlk fun k =>
      { k with aOpen := a, bOpen := !a, run := min 54 (k.run + 1), bothOpen := 0, bothClosed := 0
               counted := k.counted || decide (k.run = 52)
               disc := if k.run = 52 then satInc 0xFFFF k.disc else k.disc }))) ∧
  (k.state = 0 → 2 ≤ k.bothOpen → ∃ v, exec .interlockOpenDeclared s = .next (wakeSource v 0x10) ∧
    v.clo.ilk = { k with state := 1, owed := v.clo.ilk.owed } ∧ v.clo.alertCause = s.clo.alertCause ||| 4#32 ∧
    (s.mainOn = true → v.heat.ackNeeded = true ∧ v.heat.shed ≠ .none ∧ v.clo.ilk.owed = k.owed) ∧
    (s.mainOn = false → v = { s with clo := v.clo, emitted := [] } ∧ v.clo.ilk.owed = k.owed ++ [1])) ∧
  (k.state = 0 → k.run = 53 → k.bothOpen < 2 → ∃ v, exec .interlockDiscrepancyLatch s = .next (wakeSource v 0x10) ∧
    v.clo.ilk = { k with state := 2, owed := v.clo.ilk.owed } ∧ v.clo.alertCause = s.clo.alertCause ||| 12#32 ∧
    (s.mainOn = true → v.heat.ackNeeded = true ∧ v.heat.shed ≠ .none ∧ v.clo.ilk.owed = k.owed) ∧
    (s.mainOn = false → v = { s with clo := v.clo, emitted := [] } ∧ v.clo.ilk.owed = k.owed ++ [2])) ∧
  (k.state = 1 → 2 ≤ k.bothClosed → ∃ v, exec .interlockClosedDeclared s = .next (wakeSource v 0x10) ∧
    v = { s with clo := v.clo, h0 := v.h0, h1 := v.h1, emitted := v.emitted } ∧
    v.clo.ilk = { k with state := 0, owed := v.clo.ilk.owed } ∧ v.clo.alertCause = s.clo.alertCause ∧
    v.clo.ilk.owed = (if s.mainOn then k.owed else k.owed ++ [0])) ∧
  (k.openDue = false → exec .interlockOpenDeclared s = .next s) ∧
  (k.latchDue = false → exec .interlockDiscrepancyLatch s = .next s) ∧
  (k.closedDue = false → exec .interlockClosedDeclared s = .next s)

/-- CHAPEL_CREATE waits while a bay it names, none being in TRIP, is on its way on or off (R116). At its turn it is refused
unless the chapel is EMPTY and the rectangle is the one of the current screen (R63, R128); a bay in TRIP makes it
NO_RESOURCE 0x102 and a failed stack NO_RESOURCE 0x81 (R421); else the chapel is formed and RESULT gives its cells and
bays. A formed chapel is FORMED, and every cell of its rectangle is all zero while every other cell is as it was (R178).
CHAPEL_LAUNCH of a chapel that is not FORMED is refused, one under a shed or an unacknowledged interlock completes
INTERLOCK_OPEN, one of a tripped chapel NO_RESOURCE 0x102 (R55, R64); else every thread of TMASK starts in every cell, at
the entry and argument given, the chapel is RUNNING and RESULT counts the threads. CHAPEL_RESUME waits for a pause under
way; of a chapel that is not PAUSED it is refused, with a departed chapel that owns a FENCED port the DETAIL is 0x91
(R468); else the chapel is RUNNING again. CHAPEL_QUERY answers the chapel's record, with the aisle records of its bays
where a buffer is given and long enough; one too short is MALFORMED at offset 16. -/
def Obligations.ChapelStarts : Prop := ∀ (s : State) (n : Nat) (c : Cmd),
  let u := s.begin c
  let d := s.started c
  let h := s.chapel c.ch
  (s.cmd n = some c → createWaits s c = true → exec (.chapelCreate n) s = .next s) ∧
  (s.Turn n 0x0101 c → createWaits s c = false →
    let k : Chapel := { policy := c.byte 25, origin := fieldN c.entry 26 2, width := c.byte 28, height := c.byte 29 }
    let r := s.chapelRec c.ch
    let fits := r.rect k.origin k.width k.height
    (h.state ≠ .empty ∨ fits = false → exec (.chapelCreate n) s = .next (refuse u d 0)) ∧
    (h.state = .empty → fits = true → c.createBays.any (fun b => decide ((s.sensor b).state = 3)) = true →
      exec (.chapelCreate n) s = .next (failCmd u d 0x04 0x102)) ∧
    (h.state = .empty → fits = true → c.createBays.any (fun b => decide ((s.sensor b).state = 3)) = false →
      (s.hbmDown = true → exec (.chapelCreate n) s = .next (failCmd u d 0x04 0x81)) ∧
      (s.hbmDown = false → exec (.chapelCreate n) s =
        .next (doneCmd (formChapel u c.ch k r.grant) d (le 2 k.ncells ++ le 2 (k.width * k.height)))))) ∧
  (∀ (v : State) (i : Nat) (k : Chapel) (grant : Nat), k.state = .empty →
    let t := formChapel v i k grant
    t.chapel i = { k with state := .formed, changedAt := v.pw.tstamp } ∧ (∀ j, j ≠ i → t.chapel j = v.chapel j) ∧
    (∀ g, k.holds g = true → t.cell g = Cell.fresh) ∧ (∀ g, k.holds g = false → t.cell g = v.cell g)) ∧
  (s.Turn n 0x0102 c →
    (h.state ≠ .formed → exec (.chapelLaunch n) s = .next (refuse u d 0)) ∧
    (h.state = .formed → s.interlockBlocks = true → exec (.chapelLaunch n) s = .next (failCmd u d 0x0D 0)) ∧
    (h.state = .formed → s.interlockBlocks = false → h.tripped = true →
      exec (.chapelLaunch n) s = .next (failCmd u d 0x04 0x102)) ∧
    (h.state = .formed → s.interlockBlocks = false → h.tripped = false →
      let ts := maskTids (BitVec.ofNat 16 (fieldN c.entry 26 2))
      let x := Ctx.started (fieldN c.entry 32 4) (BitVec.ofNat 64 (fieldN c.entry 40 8)) h.cycles.toNat
      let v := u.modCells c.ch fun cell => ts.foldl (fun cell t => cell.modCtx t fun _ => x) cell
      exec (.chapelLaunch n) s = .next (doneCmd (setChState (v.modChapel c.ch fun h => { h with drained := false }) c.ch
        .running) d (le 4 (h.ncells * ts.length))))) ∧
  (s.cmd n = some c → pausingFor s c = true → exec (.chapelResume n) s = .next s) ∧
  (s.Turn n 0x0104 c → pausingFor s c = false →
    (h.state ≠ .paused → exec (.chapelResume n) s = .next (refuse u d 0)) ∧
    (h.state = .paused → s.interlockBlocks = true → exec (.chapelResume n) s = .next (failCmd u d 0x0D 0)) ∧
    (h.state = .paused → s.interlockBlocks = false → h.departed = true → s.ownsFenced c.ch = true →
      exec (.chapelResume n) s = .next (refuse u d 0x91)) ∧
    (h.state = .paused → s.interlockBlocks = false → h.departed = false ∨ s.ownsFenced c.ch = false →
      let v := u.modChapel c.ch fun h =>
        { h with drained := false, pauseHard := false, shedHard := false, departed := false }
      exec (.chapelResume n) s =
        .next (settleChapel (doneCmd (setChState (v.modCells c.ch Cell.resume) c.ch .running) d []) c.ch))) ∧
  (s.Turn n 0x0107 c → ∀ ok,
    (c.dataLen = 0 → exec (.chapelQuery n ok) s = .next (okWrite u d [] (queryResult u c.ch) ok)) ∧
    (32 * h.bays.length ≤ c.dataLen → c.dataLen ≠ 0 → h.state ≠ .empty → exec (.chapelQuery n ok) s =
      .next (okWrite u d (h.bays.flatMap fun b => (s.bayAisle b).bytes) (queryResult u c.ch) ok)) ∧
    (c.dataLen < 32 * h.bays.length → c.dataLen ≠ 0 → h.state ≠ .empty →
      exec (.chapelQuery n ok) s = .next (failCmd u d 0x01 16)))

/-- CHAPEL_PAUSE of a RUNNING chapel asks every thread to stop at its next safe point and suspends every BUSY engine
(R195); of another chapel it is refused. When no thread of a pausing chapel is READY or WAIT the chapel is PAUSED with no
thread stopped hard. At CHAPEL_PAUSE_TIMEOUT, and at 1 ms of a departure pause (R465), the threads still running stop at
their instruction boundary, the chapel is PAUSED with PAUSE_HARD set, and the timed-out command completes TIMEOUT with
their count. A chapel that becomes PAUSED is no longer pausing, has DEPARTED set where it was departing, and every other
chapel and every cell is unchanged until the waiting commands complete. -/
def Obligations.ChapelPauses : Prop :=
  (∀ (s : State) (n : Nat) (c : Cmd),
    (s.Turn n 0x0103 c →
      ((s.chapel c.ch).state = .running → exec (.chapelPause n) s = .next (askStopChapel (s.begin c) c.ch)) ∧
      ((s.chapel c.ch).state ≠ .running → exec (.chapelPause n) s = .next (refuse (s.begin c) (s.started c) 0))) ∧
    (s.Running n 0x0103 c →
      let u := { s with emitted := [] }
      let hard := (s.liveThreads c.ch).length
      exec (.chapelPauseTimeout n) s = .next (becomePaused (completeCmd (touch (hardStopChapel u c.ch) n c.objs) c 0x06 0
        (le 4 hard) false .nothing) c.ch hard fun h => { h with pauseHard := true }))) ∧
  (∀ (s : State) (i : Nat), i < 192 → (s.chapel i).state = .running →
    let u := { s with emitted := [] }
    ((s.chapel i).pausing = true → s.liveThreads i = [] → exec (.pauseComplete i) s = .next (becomePaused u i 0 id)) ∧
    ((s.chapel i).departing = true → exec (.departurePauseHard i) s = .next (becomePaused (hardStopChapel u i) i
      (s.liveThreads i).length fun h => { h with pauseHard := true }))) ∧
  (∀ (s : State) (i hard : Nat) (f : Chapel → Chapel), (∀ h, (f h).state = h.state) → (s.chapel i).state = .running →
    ∃ v : State, becomePaused s i hard f =
        (v.runningOn i 0x0103).foldl (fun v k => doneCmd v k (le 4 hard)) v ∧
      v = { s with chapels := v.chapels, h0 := v.h0, h1 := v.h1, emitted := v.emitted } ∧
      v.chapel i = { f { (s.chapel i) with pausing := false, departing := false
                                           departed := (s.chapel i).departed || (s.chapel i).departing } with
                     state := .paused, changedAt := s.pw.tstamp } ∧
      ∀ j, j ≠ i → v.chapel j = s.chapel j) ∧
  (∀ (s : State) (i : Nat), let t := askStopChapel s i
    t = { s with chapels := t.chapels, cells := t.cells } ∧ (t.chapel i).pausing = true ∧
    ∀ j, j ≠ i → t.chapel j = s.chapel j)

/-- CHAPEL_RETIRE waits for a pause under way; a FORMED chapel is torn down at once and RESULT is zero; a RUNNING chapel
becomes RETIRING and is torn down when its threads have exited, as is one already RETIRING; of any other state it is
refused (R166). At its timeout the command with ESCALATE evicts the chapel and keeps the number of threads left; without
it completes TIMEOUT and the chapel stays RETIRING. CHAPEL_EVICT of an EMPTY chapel is refused, of any other keeps the
number of live threads and of copies and evicts it (R388). An evicted chapel's cells hold no context. When every request
of an EVICTING chapel has been answered the chapel is EMPTY (R132); torn down, it has no tables, every cell of its
rectangle is all zero and every other cell is as it was, and the last fault stays readable. -/
def Obligations.ChapelEnds : Prop :=
  (∀ (s : State) (n : Nat) (c : Cmd),
    let u := s.begin c
    let d := s.started c
    let h := s.chapel c.ch
    (s.cmd n = some c → pausingFor s c = true → exec (.chapelRetire n) s = .next s) ∧
    (s.Turn n 0x0105 c → pausingFor s c = false →
      (h.state = .formed → exec (.chapelRetire n) s = .next (doneCmd (teardown u c.ch) d (zeros 5))) ∧
      (h.state = .running → exec (.chapelRetire n) s = .next (settleChapel (setChState u c.ch .retiring) c.ch)) ∧
      (h.state = .retiring → exec (.chapelRetire n) s = .next (settleChapel u c.ch)) ∧
      (h.state ≠ .formed → h.state ≠ .running → h.state ≠ .retiring →
        exec (.chapelRetire n) s = .next (refuse u d 0))) ∧
    (s.Running n 0x0105 c → c.escalated = false →
      let v := { s with emitted := [] }
      let left := (s.threads c.ch).length
      (c.byte 25 % 2 = 1 → exec (.chapelRetireTimeout n) s =
        .next (evictChapel (v.modCmd n fun k => { k with escalated := true, count := left }) c.ch)) ∧
      (c.byte 25 % 2 = 0 → exec (.chapelRetireTimeout n) s =
        .next (completeCmd (touch v n c.objs) c 0x06 0 (le 4 left ++ [0#8]) false .nothing))) ∧
    (s.Turn n 0x0106 c →
      (h.state = .empty → exec (.chapelEvict n) s = .next (refuse u d 0)) ∧
      (h.state ≠ .empty → exec (.chapelEvict n) s = .next (evictChapel (u.modCmd n fun k =>
        { k with count := (s.liveThreads c.ch).length, count2 := s.copies c.ch }) c.ch)))) ∧
  (∀ (s : State) (i : Nat), i < 192 → (s.chapel i).state = .evicting → s.requestsDone i = true →
    exec (.evictTeardownComplete i) s = .next (evictDone { s with emitted := [] } i)) ∧
  (∀ (s : State) (i : Nat), let h := s.chapel i
    h.state ≠ .empty → let t := teardown s i
    (t.chapel i).state = .empty ∧ (t.chapel i).lastCause = h.lastCause ∧ (t.chapel i).lastClass = h.lastClass ∧
    (∀ j, j ≠ i → t.chapel j = s.chapel j) ∧
    (∀ g, h.holds g = true → t.cell g = Cell.fresh) ∧ (∀ g, h.holds g = false → t.cell g = s.cell g))

/-- An image whose length is not the rectangle's is MALFORMED at offset 16, and one that breaks a rule of its table is
MALFORMED at the lowest buffer offset that does. MCAST_LOAD and SUM_TREE_LOAD need a chapel that is FORMED, or PAUSED and
drained: a PAUSED one not drained is refused with DETAIL 0x20, any other with 0, and a tripped one completes NO_RESOURCE
0x102 (R64). MCAST_LOAD sets the groups its image gives, from FIRST on, and no other (R310); SUM_TREE_LOAD sets one
group, drops what its cells held of it, and completes NO_RESOURCE 0x70 where a router would need more than eight slots
(R334). HANDLER_LOAD needs FORMED or PAUSED, is refused with 0x60 while a TURN of a named cell is busy (R267), and loads
every named cell. FABRIC_DRAIN needs FORMED or PAUSED; DRAIN_COMPLETE sets DRAINED once nothing is left in the chapel's
fabric (R316), and at its timeout the command completes TIMEOUT with DRAINED as it was; RESULT of both is the time
taken. -/
def Obligations.LoadsAndDrain : Prop := ∀ (s : State) (n : Nat) (c : Cmd),
  let u := s.begin c
  let d := s.started c
  let h := s.chapel c.ch
  let may := h.state = .formed ∨ (h.state = .paused ∧ h.drained = true)
  let groups := fieldN c.entry 28 2
  let mbad := (List.range groups).flatMap fun k => groupBad (s.rectOf c.ch) c.buf (k * (s.rectOf c.ch).groupBytes)
  let sbad := sumImageBad (s.rectOf c.ch) (s.screenSlot c.ch) c.buf
  (s.Turn n 0x0201 c → s.hasRect c.ch = true → c.dataLen ≠ groups * (s.rectOf c.ch).groupBytes →
    exec (.mcastLoad n) s = .next (failCmd u d 0x01 16)) ∧
  (s.Turn n 0x0201 c → s.hasRect c.ch = true → c.dataLen = groups * (s.rectOf c.ch).groupBytes →
    (∀ o, lowest mbad = some o → exec (.mcastLoad n) s = .next (failCmd u d 0x01 (inBuffer o))) ∧
    (lowest mbad = none →
      (¬ may → exec (.mcastLoad n) s = .next (refuse u d (if h.state = .paused then 0x20 else 0))) ∧
      (may → h.tripped = true → exec (.mcastLoad n) s = .next (failCmd u d 0x04 0x102)) ∧
      (may → h.tripped = false → exec (.mcastLoad n) s = .next (doneCmd (u.modChapel c.ch fun h => { h with
        mcast := (List.range groups).foldl (fun t k => tput McastGroup.fresh t (fieldN c.entry 26 2 + k)
          (parseGroup h c.buf (k * h.groupBytes))) h.mcast }) d [])))) ∧
  (s.Turn n 0x0202 c → s.hasRect c.ch = true → c.dataLen ≠ 32 + 8 * (s.rectOf c.ch).ncells →
    exec (.sumTreeLoad n) s = .next (failCmd u d 0x01 16)) ∧
  (s.Turn n 0x0202 c → s.hasRect c.ch = true → c.dataLen = 32 + 8 * (s.rectOf c.ch).ncells →
    (∀ o, lowest sbad = some o → exec (.sumTreeLoad n) s = .next (failCmd u d 0x01 (inBuffer o))) ∧
    (lowest sbad = none →
      (¬ may → exec (.sumTreeLoad n) s = .next (refuse u d (if h.state = .paused then 0x20 else 0))) ∧
      (may → h.tripped = true → exec (.sumTreeLoad n) s = .next (failCmd u d 0x04 0x102)) ∧
      (may → h.tripped = false → ∀ sums, sums = tput SumGroup.fresh h.sums (c.byte 25) (parseSum h c.buf) →
        (slotsExceeded h sums = true → exec (.sumTreeLoad n) s = .next (failCmd u d 0x04 0x70)) ∧
        (slotsExceeded h sums = false → exec (.sumTreeLoad n) s =
          .next (doneCmd ((u.modChapel c.ch fun h => { h with sums := sums }).modCells c.ch fun x =>
            { x with sum := { x.sum with insts := tdel x.sum.insts (c.byte 25) } }) d []))))) ∧
  (s.Turn n 0x0108 c →
    let cells := c.handlerCells h
    (s.hasRect c.ch = true → fieldN c.entry 26 2 ≠ 0xFFFF → (s.rectOf c.ch).ncells ≤ fieldN c.entry 26 2 →
      exec (.handlerLoad n) s = .next (failCmd u d 0x05 0)) ∧
    (s.hasRect c.ch = false ∨ fieldN c.entry 26 2 = 0xFFFF ∨ fieldN c.entry 26 2 < (s.rectOf c.ch).ncells →
      (¬ (h.state = .formed ∨ h.state = .paused) → exec (.handlerLoad n) s = .next (refuse u d 0)) ∧
      (h.state = .formed ∨ h.state = .paused → (cells.any fun g => (s.cell g).turnBusy) = true →
        exec (.handlerLoad n) s = .next (refuse u d 0x60)) ∧
      (h.state = .formed ∨ h.state = .paused → (cells.any fun g => (s.cell g).turnBusy) = false →
        (h.tripped = true → exec (.handlerLoad n) s = .next (failCmd u d 0x04 0x102)) ∧
        (h.tripped = false → exec (.handlerLoad n) s =
          .next (doneCmd (cells.foldl (fun v g => v.modCell g (·.loadHandlers c.buf)) u) d []))))) ∧
  (s.Turn n 0x0203 c →
    (h.state = .formed ∨ h.state = .paused → exec (.fabricDrain n) s = .next u) ∧
    (¬ (h.state = .formed ∨ h.state = .paused) → exec (.fabricDrain n) s = .next (refuse u d 0))) ∧
  (s.Running n 0x0203 c →
    let v := { s with emitted := [] }
    (s.fabricEmpty c.ch = true → exec (.drainComplete n) s =
      .next (doneCmd (v.modChapel c.ch fun h => { h with drained := true }) c (le 8 (s.ts - c.started.toNat)))) ∧
    exec (.fabricDrainTimeout n) s =
      .next (completeCmd v c 0x06 0 (le 8 (s.ts - c.started.toNat)) false .nothing))

/-- MEM_WINDOW_MAP unmaps a window that is not mapped: NO_SUCH_OBJECT. It needs FORMED or PAUSED; a mapping is refused
where its port is not in HOST_PORTS or its range overlaps (R137), and completes NO_RESOURCE 0x81 for HBM with a failed
stack. A window not mapped before takes the new mapping at once in the targets' and the cells' tables; one that was mapped
closes first, and takes it when no request to it is outstanding, at its turn or at a later command (R386).
LECTERN_DEFINE with OP 1 is refused while a chapel that is not EMPTY is granted the lectern, and undefines it; with OP 0
it is refused where the lectern is defined or its range meets a window or a lectern, and defines it (R252, R259).
SLYPE_COPY of a chapel needs FORMED, RUNNING or PAUSED and starts engine 1 of its cell 0, completing BUSY where that runs
(R191); of the sacristy it starts the mover, refused where its range meets a window or a lectern, BUSY where that runs,
and ABORTED at once where the port does not master the bus (R593). -/
def Obligations.WindowsLecternsCopies : Prop := ∀ (s : State) (n : Nat) (c : Cmd),
  let u := s.begin c
  let d := s.started c
  let h := s.chapel c.ch
  let forms := h.state = .formed ∨ h.state = .paused
  (s.Turn n 0x0301 c →
    (c.byte 26 = 0 → c.oldWindow s = {} → exec (.memWindowMap n) s = .next (failCmd u d 0x05 0)) ∧
    (c.byte 26 ≠ 0 ∨ c.oldWindow s ≠ {} →
      (¬ forms → exec (.memWindowMap n) s = .next (refuse u d 0)) ∧
      (forms → c.byte 26 ≠ 0 → windowRefused s c = true → exec (.memWindowMap n) s = .next (refuse u d 0)) ∧
      (forms → c.byte 26 = 1 → windowRefused s c = false → s.hbmDown = true →
        exec (.memWindowMap n) s = .next (failCmd u d 0x04 0x81)) ∧
      (forms → c.byte 26 = 0 ∨ (windowRefused s c = false ∧ (c.byte 26 ≠ 1 ∨ s.hbmDown = false)) →
        let v := u.modChapel c.ch fun h => { h with windows := tput {} h.windows (c.byte 25)
                                                      { tget {} h.windows (c.byte 25) with closing := true } }
        (c.oldWindow s = {} → exec (.memWindowMap n) s = .next (putWindow u d)) ∧
        (c.oldWindow s ≠ {} → windowQuiet v c.ch (c.byte 25) = true →
          exec (.memWindowMap n) s = .next (putWindow v d)) ∧
        (c.oldWindow s ≠ {} → windowQuiet v c.ch (c.byte 25) = false → exec (.memWindowMap n) s = .next v)))) ∧
  (s.Running n 0x0301 c → windowQuiet s c.ch (c.byte 25) = true →
    exec (.memWindowMap n) s = .next (putWindow { s with emitted := [] } c)) ∧
  (∀ v : State, putWindow v c = doneCmd { v with
    amb := { v.amb with targets := { v.amb.targets with
      windows := tput {} v.amb.targets.windows (64 * c.ch + c.byte 25) c.window } }
    chapels := tput Chapel.fresh v.chapels c.ch { v.chapel c.ch with
      windows := tput {} (v.chapel c.ch).windows (c.byte 25) c.window } } c []) ∧
  (s.Turn n 0x0302 c →
    let l := s.lectern c.ch
    let base := fieldN c.entry 32 8
    let size := fieldN c.entry 40 8
    let meets := hbmWindowMeets s (fun _ => true) base size || lecternMeets s base size
    (c.byte 25 = 1 → lecternGranted s c.ch = true → exec (.lecternDefine n) s = .next (refuse u d 0)) ∧
    (c.byte 25 = 1 → lecternGranted s c.ch = false → s.hbmDown = false → exec (.lecternDefine n) s =
      .next (doneCmd (putLectern (closeEntries u l.base l.size) c.ch {}) d [])) ∧
    (c.byte 25 ≠ 1 → l.defined = true ∨ meets = true → exec (.lecternDefine n) s = .next (refuse u d 0)) ∧
    (c.byte 25 ≠ 1 → l.defined = false → meets = false → s.hbmDown = false → exec (.lecternDefine n) s =
      .next (doneCmd (putLectern u c.ch ⟨true, base, size⟩) d [])) ∧
    ((c.byte 25 = 1 ∧ lecternGranted s c.ch = false) ∨ (c.byte 25 ≠ 1 ∧ l.defined = false ∧ meets = false) →
      s.hbmDown = true → exec (.lecternDefine n) s = .next (failCmd u d 0x04 0x81))) ∧
  (s.Turn n 0x0303 c →
    let src := fieldN c.entry 32 8
    let dst := fieldN c.entry 40 8
    let len := fieldN c.entry 48 8
    let g := h.globalOf 0
    (c.ch ≠ 0xFE →
      (¬ (h.state = .formed ∨ h.state = .running ∨ h.state = .paused) →
        exec (.slypeCopy n) s = .next (refuse u d 0)) ∧
      (h.state = .formed ∨ h.state = .running ∨ h.state = .paused →
        (s.hbmDown = true → exec (.slypeCopy n) s = .next (failCmd u d 0x04 0x81)) ∧
        (s.hbmDown = false → (s.cell g).eng1.mode ≠ 0 → exec (.slypeCopy n) s = .next (failCmd u d 0x0E 0)) ∧
        (s.hbmDown = false → (s.cell g).eng1.mode = 0 → exec (.slypeCopy n) s =
          .next (u.modCell g fun x => { x with eng1 := x.eng1.begin_ src dst len 16 (some n) })))) ∧
    (c.ch = 0xFE →
      let base := if c.byte 26 = 1 then src else dst
      let meets := hbmWindowMeets s (fun _ => true) base len || lecternMeets s base len
      (meets = true → exec (.slypeCopy n) s = .next (refuse u d 0)) ∧
      (meets = false → s.hbmDown = true → exec (.slypeCopy n) s = .next (failCmd u d 0x04 0x81)) ∧
      (meets = false → s.hbmDown = false → s.amb.mover.mode ≠ 0 →
        exec (.slypeCopy n) s = .next (failCmd u d 0x0E 0)) ∧
      (meets = false → s.hbmDown = false → s.amb.mover.mode = 0 →
        let v := { u with amb := { s.amb with mover := s.amb.mover.begin_ src dst len 16 (some n)
                                              moverOut := decide (c.byte 26 = 1), moverPort := c.byte 25 } }
        exec (.slypeCopy n) s = .next (if (s.hp (portOf (c.byte 25))).bme then v else moverAbort v 0x23))))

/-- SCREEN_PROPOSE is refused with fewer than two parties (DETAIL 0x40), by a party that is not the host of the carrying
port (0x43), and for an image of another epoch or generation (0x42) or one that changes a live record (0x41); a signature
that does not verify is NOT_PERMITTED 0x46 (R144 to R147). PARTY_ENROL that withdraws an empty slot is NO_SUCH_OBJECT;
with two or more parties the port must have a party; a second slot of one host kind is refused 0x4A; with fewer than two
parties it takes effect at once, else it is a proposal, refused 0x49 where it would leave fewer than two (R143).
SVC_SYNTHETIC_WAKE of a record that is not enabled is NO_SUCH_OBJECT, else the port's party proposes it. A proposal that
is recorded gets the next ID, becomes the one pending proposal with an expiry 12,000,000,000 cycles after its entry was
accepted and the digest of its image, and its command completes APPROVAL_PENDING with ID and expiry, a PROPOSAL event 0
following; while one is pending it is BUSY, and at the last ID NO_RESOURCE 0xC0 (R148, R590). SCREEN_WITHDRAW needs the
pending ID, and the proposal's port; then the slot is free and a PROPOSAL event 2 follows (R152). SCREEN_READ writes the
image and its digest where the buffer holds both. -/
def Obligations.Proposals : Prop := ∀ (s : State) (n : Nat) (c : Cmd),
  let u := s.begin c
  let d := s.started c
  (s.Turn n 0x0501 c →
    (s.partyCount < 2 → exec (.screenPropose n) s = .next (refuse u d 0x40)) ∧
    (2 ≤ s.partyCount → s.party (c.byte 24) = none → exec (.screenPropose n) s = .next (refuse u d 0x43)) ∧
    (∀ q, 2 ≤ s.partyCount → s.party (c.byte 24) = some q →
      (q.kind ≠ .host c.port → exec (.screenPropose n) s = .next (refuse u d 0x43)) ∧
      (q.kind = .host c.port → ecdsaVerify q.key c.image (c.buf.drop 6400) = false →
        exec (.screenPropose n) s = .next (failCmd u d 0x03 0x46)) ∧
      (q.kind = .host c.port → ecdsaVerify q.key c.image (c.buf.drop 6400) = true →
        (staleImage s c.image = true → exec (.screenPropose n) s = .next (refuse u d 0x42)) ∧
        (staleImage s c.image = false → liveChange s c.image = true →
          exec (.screenPropose n) s = .next (refuse u d 0x41)) ∧
        (staleImage s c.image = false → liveChange s c.image = false →
          exec (.screenPropose n) s = .next (recordProposal u d .screen (c.buf.take 6400) (c.byte 24)))))) ∧
  (s.Turn n 0x0505 c →
    (c.byte 25 = 3 → s.party (c.byte 24) = none → exec (.partyEnrol n) s = .next (failCmd u d 0x05 0)) ∧
    (c.byte 25 ≠ 3 ∨ s.party (c.byte 24) ≠ none →
      (2 ≤ s.partyCount → s.hostParty c.port = none → exec (.partyEnrol n) s = .next (refuse u d 0x43)) ∧
      (s.partyCount < 2 ∨ s.hostParty c.port ≠ none →
        (hostSlotTaken s (c.byte 24) (c.byte 25) = true → exec (.partyEnrol n) s = .next (refuse u d 0x4A)) ∧
        (hostSlotTaken s (c.byte 24) (c.byte 25) = false →
          (s.partyCount < 2 →
            exec (.partyEnrol n) s = .next (doneCmd (setParty u (c.byte 24) (c.byte 25) c.buf) d [])) ∧
          (s.partyCount = 2 → c.byte 25 = 3 → exec (.partyEnrol n) s = .next (refuse u d 0x49)) ∧
          (2 ≤ s.partyCount → 3 ≤ s.partyCount ∨ c.byte 25 ≠ 3 → exec (.partyEnrol n) s =
            .next (recordProposal u d .enrol c.proposalBytes ((s.hostParty c.port).getD 0))))))) ∧
  (s.Turn n 0x0604 c →
    (patternRecordOn s (c.byte 24) = false → exec (.svcSyntheticWake n) s = .next (failCmd u d 0x05 0)) ∧
    (patternRecordOn s (c.byte 24) = true → s.hostParty c.port = none →
      exec (.svcSyntheticWake n) s = .next (refuse u d 0x43)) ∧
    (∀ x, patternRecordOn s (c.byte 24) = true → s.hostParty c.port = some x →
      exec (.svcSyntheticWake n) s = .next (recordProposal u d .synthetic c.proposalBytes x))) ∧
  (∀ (v : State) (k : Cmd) (kind : ProposalKind) (image : List Byte) (slot : Nat), let id := v.flash.nextProposal
    (v.feb.pending ≠ none → recordProposal v k kind image slot = failCmd v k 0x0E 0) ∧
    (v.feb.pending = none → id = 0xFFFFFFFF#32 → recordProposal v k kind image slot = failCmd v k 0x04 0xC0) ∧
    (v.feb.pending = none → id ≠ 0xFFFFFFFF#32 → recordProposal v k kind image slot = proposalEvent
      (completeCmd (touch { v with
        feb := { v.feb with
          pending := some ⟨id, kind, image, slot, k.port, k.accepted.toNat + 12000000000, sha384 image⟩ }
        flash := { v.flash with nextProposal := id + 1#32 } } k.n k.objs) k 0x0A 0
          (le 4 id.toNat ++ zeros 4 ++ le 8 (k.accepted.toNat + 12000000000)) false .nothing) 0 id)) ∧
  (s.Turn n 0x0503 c →
    ((∀ p, s.feb.pending = some p → p.id.toNat ≠ fieldN c.entry 28 4) →
      exec (.screenWithdraw n) s = .next (failCmd u d 0x05 0)) ∧
    (∀ p, s.feb.pending = some p → p.id.toNat = fieldN c.entry 28 4 →
      (p.port ≠ c.port → exec (.screenWithdraw n) s = .next (refuse u d 0x43)) ∧
      (p.port = c.port → exec (.screenWithdraw n) s =
        .next (proposalEvent (doneCmd { u with feb := { u.feb with pending := none } } d []) 2 p.id)))) ∧
  (s.Turn n 0x0504 c → ∀ ok,
    (readImage s (c.byte 24) = none → exec (.screenRead n ok) s = .next (failCmd u d 0x05 0)) ∧
    (∀ r, readImage s (c.byte 24) = some r →
      (c.dataLen < r.1.length + 48 → exec (.screenRead n ok) s = .next (failCmd u d 0x01 16)) ∧
      (r.1.length + 48 ≤ c.dataLen → exec (.screenRead n ok) s =
        .next (okWrite u d (r.1 ++ sha384 r.1) (le 4 r.1.length ++ le 4 r.2.toNat) ok))))

/-- SCREEN_APPROVE of an empty party slot or of an ID that is not pending is NO_SUCH_OBJECT, of one of the last 16 expired
IDs TIMED-OUT 0x0B (R150). A host approval needs a host party other than the proposer's, carried by its own port, over
the proposal's digest, with a signature that verifies: DETAIL 0x43, 0x44, 0x43, 0x45 and 0x46 say which it fails (R151,
R152); one by badge needs a badge party and a working badge antenna, and starts the reader (R154). An approval that counts
after the expiry ends the proposal with event 3; a screen still current is written table by table, and at
SCREEN_APPLY_COMPLETE it is the current screen, its command completes with the new generation, and event 1 follows; an
enrolment takes effect at once. At the expiry the pending proposal is gone, its ID among the expired ones, and a badge
approval of it ends 0x0B; at its limit a badge approval with a signature in hand is verified first, else it ends with
TIMEOUT (R149, R155). That a signature in hand is verified first is the model's reading (log entry 62). -/
def Obligations.Approvals : Prop :=
  (∀ (s : State) (n : Nat) (c : Cmd), s.Turn n 0x0502 c →
    let u := s.begin c
    let d := s.started c
    let id := BitVec.ofNat 32 (fieldN c.entry 28 4)
    (s.party (c.byte 24) = none → exec (.screenApprove n) s = .next (failCmd u d 0x05 0)) ∧
    (s.party (c.byte 24) ≠ none → (∀ p, s.feb.pending = some p → p.id ≠ id) → exec (.screenApprove n) s =
      .next (failCmd u d (if s.feb.expired.contains id then 0x0B else 0x05) 0)) ∧
    (∀ p q, s.party (c.byte 24) = some q → s.feb.pending = some p → p.id = id →
      (c.dataLen = 0 →
        (q.kind ≠ .badge → exec (.screenApprove n) s = .next (failCmd u d 0x03 0x47)) ∧
        (q.kind = .badge → c.byte 24 = p.slot → exec (.screenApprove n) s = .next (failCmd u d 0x03 0x44)) ∧
        (q.kind = .badge → c.byte 24 ≠ p.slot → s.gate.antFault.getLsbD 0 = true →
          exec (.screenApprove n) s = .next (failCmd u d 0x04 0xB0)) ∧
        (q.kind = .badge → c.byte 24 ≠ p.slot → s.gate.antFault.getLsbD 0 = false → exec (.screenApprove n) s =
          .next { u with gate := { s.gate with approval := some { cmd := n, slot := c.byte 24 } } })) ∧
      (c.dataLen ≠ 0 →
        (q.kind = .badge → exec (.screenApprove n) s = .next (failCmd u d 0x03 0x43)) ∧
        (q.kind ≠ .badge → c.byte 24 = p.slot → exec (.screenApprove n) s = .next (failCmd u d 0x03 0x44)) ∧
        (q.kind ≠ .badge → c.byte 24 ≠ p.slot → q.kind ≠ .host c.port →
          exec (.screenApprove n) s = .next (refuse u d 0x43)) ∧
        (q.kind = .host c.port → c.byte 24 ≠ p.slot → c.buf.take 48 ≠ p.digest →
          exec (.screenApprove n) s = .next (failCmd u d 0x03 0x45)) ∧
        (q.kind = .host c.port → c.byte 24 ≠ p.slot → c.buf.take 48 = p.digest →
          (ecdsaVerify q.key (p.digest ++ le 4 p.id.toNat) (c.buf.drop 48) = false →
            exec (.screenApprove n) s = .next (failCmd u d 0x03 0x46)) ∧
          (ecdsaVerify q.key (p.digest ++ le 4 p.id.toNat) (c.buf.drop 48) = true →
            exec (.screenApprove n) s = .next (countApproval u d p)))))) ∧
  (∀ (s : State) (c : Cmd) (p : Proposal),
    let gone := { s with feb := { s.feb with pending := none } }
    (p.expiry ≤ s.ts → countApproval s c p = proposalEvent (failCmd { s with feb := { s.feb with
      pending := none, expired := (p.id :: s.feb.expired).take 16 } } c 0x0B 0) 3 p.id) ∧
    (s.ts < p.expiry → p.kind = .screen →
      (staleImage s p.image = true → countApproval s c p =
        proposalEvent (failCmd (touch gone c.n c.objs) c 0x03 0x42) 2 p.id) ∧
      (staleImage s p.image = false → liveChange s p.image = true → countApproval s c p = refuse s c 0x41) ∧
      (staleImage s p.image = false → liveChange s p.image = false → countApproval s c p =
        { s with feb := { s.feb with applying := some (c.n, screenOf p.image) } })) ∧
    (s.ts < p.expiry → p.kind = .enrol → countApproval s c p =
      approved (setParty s (byteAt p.image 24).toNat (byteAt p.image 25).toNat (p.image.drop 64)) c p)) ∧
  (∀ (s : State) (n : Nat) (x : Screen), s.feb.applying = some (n, x) → s.flt.halted = false →
    let u := { s with feb := { s.feb with screen := x, applying := none }, emitted := [] }
    (∀ c p, s.cmd n = some c → s.feb.pending = some p → exec .screenApplyComplete s =
      .next (proposalEvent (doneCmd { u with feb := { u.feb with pending := none } } c
        (le 4 x.generation.toNat)) 1 p.id)) ∧
    (s.cmd n = none → exec .screenApplyComplete s = .next { u with feb := { u.feb with pending := none } })) ∧
  (∀ (s : State) (p : Proposal), s.feb.pending = some p → s.feb.applying = none → s.flt.halted = false →
    let ended (t : Nat) := { s with
      pw := { s.pw with tstamp := BitVec.ofNat 64 (max s.ts t) }
      feb := { s.feb with pending := none, expired := (p.id :: s.feb.expired).take 16 }, emitted := [] }
    (s.pw.pll = true → exec .proposalExpiry s =
      .next (proposalEvent (failBadge (ended p.expiry) 0x0B 0) 3 p.id)) ∧
    (∀ n c r, s.Running n 0x0502 c → s.gate.approval = some r → r.cmd = n →
      let at_ := { s with
        pw := { s.pw with tstamp := BitVec.ofNat 64 (max s.ts (min c.limitEnd p.expiry)) }, emitted := [] }
      (r.stage = .deselect → exec (.badgeApprovalTimeout n) s = .next (finishBadge at_ r)) ∧
      (r.stage ≠ .deselect → p.expiry ≤ c.limitEnd → exec (.badgeApprovalTimeout n) s =
        .next (proposalEvent (failBadge (ended p.expiry) 0x0B 0) 3 p.id)) ∧
      (r.stage ≠ .deselect → c.limitEnd < p.expiry →
        exec (.badgeApprovalTimeout n) s = .next (failBadge at_ 0x06 0))))

/-- LINK_TRAIN waits while its port is TRAINING or RESTRIPING (R116). OP 2 takes a FENCED port out of its fence to DOWN,
with its span slot's sequences and channels reset (R467), and brings down any other port that is not DOWN; its command
completes OK. OP 0 and 1 of a FENCED port complete FENCED 0x0F; OP 0 of a port that is not DOWN completes OK with the
present mask; else the port goes down and trains, and is then TRAINING with no lane lost or retired and no peer known.
When its lane set is known and has two or more lanes the link is up: UP or OWNER_MISMATCH by the announced owners, its
OWNER announced, the command OK with the lane set and the time (R436 to R438, R446). At the timeout the link is down with
cause 8. Fewer than two good lanes also bring it down with cause 8; else the lanes trained are good and HELLO is sent
with them. LINK_STATUS answers state, mask, owner and slot, with the port's record where a buffer is given. LINK_ASSIGN of
a FENCED port completes FENCED; to a chapel and slot the screen does not give the port it is refused; else the port has
the new owner and slot, is announced where the link is not down, and RESULT is the owner before (R138, R446). -/
def Obligations.LinkCommands : Prop := ∀ (s : State) (n : Nat) (c : Cmd),
  let u := s.begin c
  let d := s.started c
  let t := c.byte 24
  let l := s.link t
  (s.cmd n = some c → l.state = 1 ∨ l.state = 3 → exec (.linkTrain n) s = .next s) ∧
  (s.Turn n 0x0401 c → l.state ≠ 1 → l.state ≠ 3 →
    (c.byte 25 = 2 →
      let v := if l.state = 5 then setLinkState (resetSlot u l.owner l.span) t 0
        else if l.state = 0 then u else linkDown u t 1;
      exec (.linkTrain n) s = .next (doneCmd v d (trainResult (v.link t) 0))) ∧
    (c.byte 25 ≠ 2 → l.state = 5 → exec (.linkTrain n) s = .next (failCmd u d 0x0F 0)) ∧
    (c.byte 25 = 0 → l.state ≠ 5 → l.state ≠ 0 → exec (.linkTrain n) s = .next (doneCmd u d (trainResult l 0))) ∧
    (c.byte 25 ≠ 2 → l.state = 0 → exec (.linkTrain n) s = .next (beginTrain u t)) ∧
    (c.byte 25 ≠ 2 → c.byte 25 ≠ 0 → l.state ≠ 0 → l.state ≠ 5 →
      exec (.linkTrain n) s = .next (beginTrain (linkDown u t 1) t))) ∧
  (∀ (v : State) (p : Nat), let w := beginTrain v p
    (w.link p).state = 1 ∧ (w.link p).losses = [] ∧ (w.link p).retired = [] ∧ (w.link p).peerAsset = 0 ∧
    ∀ q, q ≠ p → w.link q = v.link q) ∧
  (∀ micros, s.Running n 0x0401 c → l.state = 1 → 2 ≤ laneCount l.laneSet →
    let v := { s with emitted := [] }.modLink t fun l => { l with mask := l.laneSet, trained := l.laneSet }
    let w := setLinkState v t (v.link t).upState
    let x := sendCtrl w t 2 (w.link t).owner []
    exec (.linkTrainComplete n micros) s = .next (doneCmd x c (trainResult (x.link t) micros))) ∧
  (s.Running n 0x0401 c → exec (.linkTrainTimeout n) s = .next (linkDown { s with emitted := [] } t 8)) ∧
  (∀ p good, linkLive s p = true → (s.link p).state = 1 → (s.link p).good = 0#8 → (s.link p).heldState = false →
    (laneCount good < 2 → exec (.laneTrainingDone p good 0#8) s = .next (linkDown { s with emitted := [] } p 8)) ∧
    (2 ≤ laneCount good → (s.link p).peerMask = none → exec (.laneTrainingDone p good 0#8) s =
      .next (sendCtrl ({ s with emitted := [] }.modLink p fun l => { l with good := good }) p 1 0
        (padTo 32 (s.assetLow ++ [BitVec.ofNat 8 p, good]))))) ∧
  (s.Turn n 0x0402 c → ∀ ok, exec (.linkStatus n ok) s = .next (okWrite u d (if c.dataLen = 0 then [] else l.record)
    [BitVec.ofNat 8 l.state, l.mask, BitVec.ofNat 8 l.owner, BitVec.ofNat 8 l.span] ok)) ∧
  (s.Turn n 0x0403 c →
    let x := c.byte 25
    let k := c.byte 26
    let r := s.portRec t
    (l.state = 5 → exec (.linkAssign n) s = .next (failCmd u d 0x0F 0)) ∧
    (l.state ≠ 5 → x ≠ 255 → ¬ (r.owner = x ∧ r.span = k) → exec (.linkAssign n) s = .next (refuse u d 0)) ∧
    (l.state ≠ 5 → x = 255 ∨ (r.owner = x ∧ r.span = k) → l.owner = x → l.span = k →
      let v := u.modLink t fun l => { l with owner := x, span := if x = 255 then 0 else k }
      let w := if 1 ≤ l.state ∧ l.state ≤ 4 then sendCtrl v t 2 x [] else v
      exec (.linkAssign n) s = .next (doneCmd (settleOwner w t) d [BitVec.ofNat 8 l.owner])) ∧
    (l.state ≠ 5 → x = 255 ∨ (r.owner = x ∧ r.span = k) → ¬ (l.owner = x ∧ l.span = k) →
      let v := settleSlot ((dropRequests u t).modLink t fun l =>
        { l with owner := x, span := if x = 255 then 0 else k }) l.owner l.span
      let w := if 1 ≤ l.state ∧ l.state ≤ 4 then sendCtrl v t 2 x [] else v
      exec (.linkAssign n) s = .next (doneCmd (settleOwner w t) d [BitVec.ofNat 8 l.owner])))

/-- SVC_GATEHOUSE_OP completes NO_RESOURCE 0xB0 where an antenna it needs is faulty; OP 3 starts a baseline, another OP
starts an operation of the reader on its bank, an inventory for OP 0. At its timeout an inventory completes TIMEOUT with
the UIDs found, another operation with the blocks moved, and a baseline is dropped with the field off. SVC_BELFRY_CFG is
refused with DETAIL 0x31 while the carafe is not sealed, else the configuration of the plaintext is stored and comes into
force at the next period; SVC_BELFRY_READ is refused with 0x30 while it is sealed, else it answers the range asked for, sealed with
the request's key, and seals the carafe again where it asks for that. SVC_TAG_WRITE below block 8 completes NOT_PERMITTED
0xA0, into blocks 64 to 191 NOT_PERMITTED 0, else its blocks are staged. SVC_CAL_STORE OP 0 needs every stack trained and
a generation left (0x81, 0xC0), and its target slot is torn while it is written; OP 1 answers the state of both slots;
OP 2 empties a slot. When the write is done and read back the target slot holds the staged results and the command
completes OK with both generations. After a failed read-back the slot stays torn and the status is a free value (the
model's reading, log entry 61). -/
def Obligations.ServiceCommands : Prop := ∀ (s : State) (n : Nat) (c : Cmd),
  let u := s.begin c
  let d := s.started c
  let e := { s with emitted := [] }
  (s.Turn n 0x0601 c →
    let needs : BitVec 3 := if c.byte 24 = 3 then 1#3 ||| s.gate.pingEn else 1#3 <<< c.byte 25
    (s.gate.antFault &&& needs ≠ 0#3 → exec (.svcGatehouseOp n) s = .next (failCmd u d 0x04 0xB0)) ∧
    (s.gate.antFault &&& needs = 0#3 → c.byte 24 = 3 →
      exec (.svcGatehouseOp n) s = .next { u with gate := { s.gate with baseline := some { cmd := n } } }) ∧
    (s.gate.antFault &&& needs = 0#3 → c.byte 24 ≠ 3 →
      let o : ReaderOp :=
        { cmd := n, op := c.byte 24, bank := c.byte 25, uid := fieldN c.entry 32 8, first := c.byte 26
          count := c.byte 27, stage := if c.byte 24 = 0 then .inventory 0 0 else .systemInfo }
      exec (.svcGatehouseOp n) s = .next { u with gate := { s.gate with op := some o } })) ∧
  (s.Running n 0x0601 c → ∀ ok,
    (∀ o, s.gate.op = some o → exec (.gatehouseOpTimeout n ok) s = .next (if o.op = 0
      then finishOp e o 0x06 0 (uidList o.found) o.found.length false ok
      else finishOp e o 0x06 0 [] o.moved false ok)) ∧
    (s.gate.op = none → exec (.gatehouseOpTimeout n ok) s = .next (completeCmd
      (touch { e with gate := { s.gate with baseline := none }.off } c.n c.objs) c 0x06 0 [] false .nothing))) ∧
  (s.Turn n 0x0602 c →
    (s.bel.sealed = false → exec (.svcBelfryCfg n) s = .next (refuse u d 0x31)) ∧
    (s.bel.sealed = true → exec (.svcBelfryCfg n) s = .next (doneCmd { u with
      bel := { s.bel with next := some c.plain }, flash := { s.flash with belfry := some c.plain } } d []))) ∧
  (s.Turn n 0x0603 c → ∀ ok,
    (s.bel.sealed = true → exec (.svcBelfryRead n ok) s = .next (refuse u d 0x30)) ∧
    (s.bel.sealed = false →
      let reseals := bitN (byteAt c.plain 12).toNat 0
      let r := s.bel.reply (c.byte 24) (fieldN c.plain 0 8) (fieldN c.plain 8 4) reseals
      let v := okWrite u d (sealReply u d (padTo c.plain.length r.1)) (le 4 (32 + r.2)) ok
      exec (.svcBelfryRead n ok) s =
        .next (if reseals then { v with bel := { v.bel with sealed := true, synthetic := false } } else v))) ∧
  (s.Turn n 0x0605 c →
    (c.byte 24 < 8 → exec (.svcTagWrite n) s = .next (failCmd u d 0x03 0xA0)) ∧
    (8 ≤ c.byte 24 → c.byte 24 < 192 → 64 < c.byte 24 + c.byte 25 →
      exec (.svcTagWrite n) s = .next (failCmd u d 0x03 0)) ∧
    (8 ≤ c.byte 24 → 192 ≤ c.byte 24 ∨ c.byte 24 + c.byte 25 ≤ 64 → exec (.svcTagWrite n) s =
      .next { u with clo := { s.clo with tag := { s.clo.tag with
        staged := s.clo.tag.staged ++ [⟨c.byte 24, c.plain, some n⟩] } } })) ∧
  (s.Turn n 0x0606 c → ∀ ok,
    (c.byte 24 = 0 → s.hbmDown = true → exec (.svcCalStore n ok) s = .next (failCmd u d 0x04 0x81)) ∧
    (c.byte 24 = 0 → s.hbmDown = false → s.flash.topGen = 0xFFFFFFFE →
      exec (.svcCalStore n ok) s = .next (failCmd u d 0x04 0xC0)) ∧
    (c.byte 24 = 0 → s.hbmDown = false → s.flash.topGen ≠ 0xFFFFFFFE → exec (.svcCalStore n ok) s =
      .next (putSlot { u with clo := { s.clo with store := some ⟨s.flash.targetB, stageCal u, n⟩ } }
        s.flash.targetB { st := .torn })) ∧
    (c.byte 24 = 1 →
      exec (.svcCalStore n ok) s = .next (okWrite u d (sealReply u d (calState u)) (calResult u) ok)) ∧
    (c.byte 24 = 2 →
      let v := putSlot u (decide (c.byte 25 = 1)) {}
      exec (.svcCalStore n ok) s = .next (doneCmd v d (calResult v)))) ∧
  (∀ x : CalStore, s.pw.porDone = true → s.clo.store = some x → s.cmd x.cmd = some c →
    let v := { e with clo := { s.clo with store := none } }
    let w := putSlot v x.toB x.slot
    exec (.calStoreWriteDone true) s = .next (doneCmd w c (calResult w)) ∧
    exec (.calStoreWriteDone false) s = .next (completeCmd (touch { v with freeCount := s.freeCount + 1 } c.n c.objs) c
      (s.freeNat.1 % 256) 0 (calResult v) false .nothing))

/-- DIAG_LOG_READ writes COUNT entries of a chancel's fault log from FIRST on, filled with zeros, and completes with the
entries lost and held (R477). DIAG_CAPSULE_READ writes the 2,048 bytes of the crash capsule, zeros where none was ever
stored, and completes with its generation and TSTAMP. Neither changes a log or the capsule before it completes.
DIAG_PATTERN on a bay needs a bay of no chapel, and completes FENCED 0x0F while it drains or is fenced; on a Transept port
it needs a port of no chapel, and completes FENCED where the port is; else it runs until DIAG_PATTERN_END, which completes
it with the errors and bits counted. -/
def Obligations.DiagnosticCommands : Prop := ∀ (s : State) (n : Nat) (c : Cmd),
  let u := s.begin c
  let d := s.started c
  (s.Turn n 0x0701 c → ∀ ok,
    (c.byte 24 = 1 → exec (.diagLogRead n ok) s = .next (okWrite u d
      (padTo c.dataLen (((s.flt.logS.drop (fieldN c.entry 26 2)).take (fieldN c.entry 28 2)).flatMap LogEntry.bytes))
      (le 4 s.flt.overS ++ le 2 s.flt.logS.length) ok)) ∧
    (c.byte 24 ≠ 1 → exec (.diagLogRead n ok) s = .next (okWrite u d
      (padTo c.dataLen (((s.flt.logN.drop (fieldN c.entry 26 2)).take (fieldN c.entry 28 2)).flatMap LogEntry.bytes))
      (le 4 s.flt.overN ++ le 2 s.flt.logN.length) ok))) ∧
  (s.Turn n 0x0702 c → ∀ ok,
    (∀ b, s.flash.capsule = some b → exec (.diagCapsuleRead n ok) s =
      .next (okWrite u d (padTo 2048 b) (sliceB b 4 4 ++ zeros 4 ++ sliceB b 8 8) ok)) ∧
    (s.flash.capsule = none → exec (.diagCapsuleRead n ok) s = .next (okWrite u d (zeros 2048) (zeros 16) ok))) ∧
  (s.Turn n 0x0703 c →
    let id := fieldN c.entry 26 2
    (c.byte 24 = 0 → (s.bay id).st = .draining ∨ (s.bay id).st = .fenced →
      exec (.diagPattern n) s = .next (failCmd u d 0x0F 0)) ∧
    (c.byte 24 = 0 → (s.bay id).st ≠ .draining → (s.bay id).st ≠ .fenced →
      ((s.chapelOfBay id).isSome = true → exec (.diagPattern n) s = .next (refuse u d 0)) ∧
      (s.chapelOfBay id = none → exec (.diagPattern n) s = .next u)) ∧
    (c.byte 24 ≠ 0 →
      ((s.link id).state = 5 → exec (.diagPattern n) s = .next (failCmd u d 0x0F 0)) ∧
      ((s.link id).state ≠ 5 → (s.link id).owner ≠ 255 → exec (.diagPattern n) s = .next (refuse u d 0)) ∧
      ((s.link id).state ≠ 5 → (s.link id).owner = 255 → exec (.diagPattern n) s = .next u))) ∧
  (s.Running n 0x0703 c → ∀ errors bits, exec (.diagPatternEnd n errors bits) s =
    .next (completeCmd { s with emitted := [] } c 0x00 0 (le 8 errors ++ le 8 bits) false .nothing))

/-- A thread that may issue and whose next word spells a scalar ALU, immediate, shift, halfword-insert, multiply or
divide, scalar floating-point, vector integer, vector floating-point, conversion or reduction instruction writes its
result to its one destination and goes on at PC + 4 (R204, R206 to R211, R217 to R221); vector compares and reductions
write a scalar register. Every other register, the exception registers, every other thread, the cell's store and
engines, every other cell and the rest of the package are unchanged; then a stop asked of the thread may take place.
Writing s0 writes nothing, and s0 reads zero (Table 06-1). Where PC + 4 is outside the store the destination is not written
and PC_RANGE is raised (R205). Division by zero gives all ones and the dividend as remainder, and -2^63 divided by -1
gives -2^63 and 0 (R208). -/
def Obligations.ArithmeticResults : Prop :=
  (∀ (s : State) (g t : Nat) (i : Ins), s.Ready g t i →
    let x := s.ctx g t
    let pc := x.pc.toNat + 4
    let gives (c : Instr) (y : Ctx) : Prop :=
      (pcOk pc = true → ∃ u, exec c s = .next (settleStop u g t) ∧ s.Became u g t (y.at_ pc)) ∧
      (pcOk pc = false → exec c s = .next (settleStop (raise (s.issued g t i) g t 0x07 0) g t))
    let sets (c : Instr) (rd : Nat) (v : Word) : Prop := gives c ((x.issued i).setS rd v)
    let setsV (c : Instr) (vd : Nat) (v : VWord) : Prop := gives c ((x.issued i).setV vd v)
    (∀ f rd ra rb, i = .alu f rd ra rb → sets (.scalarAlu g t) rd (aluOp f (x.getS ra) (x.getS rb))) ∧
    (∀ k rd ra imm, i = .imm k rd ra imm → sets (.immediateAlu g t) rd (immOp k (x.getS ra) imm)) ∧
    (∀ k rd ra n, i = .shi k rd ra n → sets (.shi g t) rd (shiftWord k (x.getS ra) n)) ∧
    (∀ rd h imm, i = .insk rd h imm → sets (.insk g t) rd (inskOp (x.getS rd) h imm)) ∧
    (∀ f rd ra rb, i = .mulDiv f rd ra rb → sets (.multiplyDivide g t) rd (mulDivOp f (x.getS ra) (x.getS rb))) ∧
    (∀ f rd ra rb, i = .fp f rd ra rb → sets (.scalarFloatingPoint g t) rd (fpOp f (x.getS ra) (x.getS rb))) ∧
    (∀ f et vd va vb rs, i = .vint f et vd va vb rs →
      (0x0F ≤ f ∧ f ≤ 0x11 → sets (.vectorInteger g t) rs (vintMask f et (x.getV va) (x.getV vb))) ∧
      (¬ (0x0F ≤ f ∧ f ≤ 0x11) →
        setsV (.vectorInteger g t) vd (vintOp f et (x.getV va) (x.getV vb) (x.getS rs)))) ∧
    (∀ f et vd va vb rs, i = .vfp f et vd va vb rs →
      (6 ≤ f ∧ f ≤ 8 → sets (.vectorFloatingPoint g t) rs (vfpMask f et (x.getV va) (x.getV vb))) ∧
      (¬ (6 ≤ f ∧ f ≤ 8) →
        setsV (.vectorFloatingPoint g t) vd (vfpOp f et (x.getV va) (x.getV vb) (x.getV vd) (x.getS rs)))) ∧
    (∀ f et vd va p, i = .vcvt f et vd va p → setsV (.vcvt g t) vd (vcvtOp f et p (x.getV va) (x.getV vd))) ∧
    (∀ f et va rs, i = .vred f et va rs → sets (.vectorReduction g t) rs (vredOp f et (x.getV va)))) ∧
  (∀ (x : Ctx) (r q : Nat) (v : Word), (x.setS r v).getS q = (if q = r ∧ r ≠ 0 then v else x.getS q) ∧
    x.getS 0 = 0#64 ∧ (x.setS r v).v = x.v ∧ (x.setS 0 v) = x) ∧
  (∀ (x : Ctx) (r q : Nat) (v : VWord), (x.setV r v).getV q = (if q = r then v else x.getV q) ∧
    (x.setV r v).s = x.s) ∧
  (∀ a : Word, mulDivOp 5 a 0#64 = BitVec.allOnes 64 ∧ mulDivOp 6 a 0#64 = BitVec.allOnes 64 ∧
    mulDivOp 7 a 0#64 = a ∧ mulDivOp 8 a 0#64 = a) ∧
  mulDivOp 5 (BitVec.intMin 64) (BitVec.allOnes 64) = BitVec.intMin 64 ∧
  mulDivOp 7 (BitVec.intMin 64) (BitVec.allOnes 64) = 0#64

/-- A branch compares ra with rb and goes to its own PC + 4 OFF where the compare holds, else to PC + 4; JAL goes to
PC + 4 OFF and JALR to ra + IMM, each with PC + 4 in rd; nothing else changes. A target that is no PC raises PC_RANGE, with
rd not written, and a branch not taken never does for its target (R204, R205). SPAWN to an address that is no PC raises
PC_RANGE and starts nothing; with a FREE context, and the chapel not RETIRING, the lowest FREE context starts at ra with
s1 = rb, all its other state zero, and rd is its TID; else rd is all ones and nothing starts (R164, R214). EXIT of a thread
with an access outstanding, or whose tally queue is not empty, waits; else its context is FREE, every other context is as
it was where no barrier runs, and its chapel may end (R165, R166). -/
def Obligations.ControlFlow : Prop := ∀ (s : State) (g t : Nat) (i : Ins), s.Ready g t i →
  let x := s.ctx g t
  let pc := x.pc.toNat
  let u := s.issued g t i
  let goes (c : Instr) (y : Ctx) (target : Nat) : Prop :=
    (pcOk target = true → ∃ v, exec c s = .next (settleStop v g t) ∧ s.Became v g t (y.at_ target)) ∧
    (pcOk target = false → exec c s = .next (settleStop (raise u g t 0x07 0) g t))
  (∀ k ra rb off, i = .branch k ra rb off → goes (.branch g t) (x.issued i)
    (if compareOp k (x.getS ra) (x.getS rb) then branchPc pc 16 off else pc + 4)) ∧
  (∀ rd off, i = .jal rd off →
    goes (.jal g t) ((x.issued i).setS rd (BitVec.ofNat 64 (pc + 4))) (branchPc pc 21 off)) ∧
  (∀ rd ra imm, i = .jalr rd ra imm → goes (.jalr g t) ((x.issued i).setS rd (BitVec.ofNat 64 (pc + 4)))
    (x.getS ra + (BitVec.ofNat 16 imm).signExtend 64).toNat) ∧
  (∀ rd ra rb, i = .spawn rd ra rb →
    let free := (s.cell g).freeCtx
    let ends := decide ((s.chapel (s.chapelIx g)).state = .retiring)
    (pcOk (x.getS ra).toNat = false → exec (.spawn g t) s = .next (settleStop (raise u g t 0x07 0) g t)) ∧
    (pcOk (x.getS ra).toNat = true → free = none ∨ ends = true →
      goes (.spawn g t) ((x.issued i).setS rd (BitVec.allOnes 64)) (pc + 4)) ∧
    (∀ k, pcOk (x.getS ra).toNat = true → free = some k → ends = false →
      (pcOk (pc + 4) = true →
        let new := Ctx.setS { mode := .ready, pc := BitVec.ofNat 19 (x.getS ra).toNat
                              cycleBase := (s.chapel (s.chapelIx g)).cycles.toNat } 1 (x.getS rb)
        exec (.spawn g t) s = .next (settleStop (((u.modCtx g k fun _ => new).modCtx g t
          fun y => y.setS rd (BitVec.ofNat 64 k)).modCtx g t fun y => y.at_ (pc + 4)) g t)) ∧
      (pcOk (pc + 4) = false → exec (.spawn g t) s = .next (settleStop (raise u g t 0x07 0) g t)))) ∧
  (i = .exit →
    ((s.cell g).exitReady t = false → ∃ v, exec (.exit g t) s = .next (settleStop v g t) ∧
      s.Became v g t { x.issued i with mode := .wait, waiting := .exit }) ∧
    ((s.cell g).exitReady t = true → ∃ v, exec (.exit g t) s = .next (settleStop (settleChapel v (s.chapelIx g)) g t) ∧
      v = { s with cells := v.cells, emitted := [] } ∧ (∀ h, h ≠ g → v.cell h = s.cell h) ∧ v.ctx g t = Ctx.fresh ∧
      ((s.cell g).barrier = none → ∀ j, j ≠ t → v.ctx g j = s.ctx g j)))

/-- BRK raises BREAK, and a word that spells no instruction raises ILLEGAL. A precise exception of a thread whose ACTIVE is 0
and EXC_VEC is not 0 writes EXC_PC, EXC_CAUSE (ACTIVE, RESUMABLE and the code) and EXC_ADDR, leaves every other register
unchanged, and the thread goes on at EXC_VEC; with EXC_VEC 0 it writes the record, the thread stops where it is and its
chapel takes a class K fault; with ACTIVE 1 no record is written and the chapel takes a class K fault. A MEM_ERROR that is
due is taken at the instruction boundary, oldest first, with the address unit's record. ERET with ACTIVE and RESUMABLE set
clears ACTIVE, changes no other register, and continues at EXC_PC; with either clear it raises ILLEGAL. ERET.R with ACTIVE
set clears it and continues at ra, where ra is a PC, else it raises PC_RANGE; with ACTIVE clear it raises ILLEGAL. A stop
asked of the thread takes place once it stands at a safe point, and without one nothing changes. -/
def Obligations.ExceptionsAndReturns : Prop :=
  (∀ (s : State) (g t : Nat) (i : Ins), s.Ready g t i →
    let x := s.ctx g t
    let u := s.issued g t i
    let active := x.excCause.getLsbD 63
    let illegal (c : Instr) : Prop := exec c s = .next (settleStop (raise u g t 0x01 0) g t)
    let back (c : Instr) (pc : Nat) : Prop :=
      (pcOk pc = true → ∃ v, exec c s = .next (settleStop v g t) ∧ s.Became v g t
        (({ x.issued i with excCause := x.excCause &&& ~~~(1#64 <<< 63) } : Ctx).at_ pc)) ∧
      (pcOk pc = false → exec c s = .next (settleStop (raise u g t 0x07 0) g t))
    (i = .brk → exec (.brk g t) s = .next (settleStop (raise u g t 0x0B 0) g t)) ∧
    (i = .eret → active = false ∨ x.excCause.getLsbD 62 = false → illegal (.eret g t)) ∧
    (i = .eret → active = true → x.excCause.getLsbD 62 = true → back (.eret g t) x.excPc.toNat) ∧
    (∀ ra, i = .eretR ra →
      (active = false → illegal (.eretR g t)) ∧ (active = true → back (.eretR g t) (x.getS ra).toNat))) ∧
  (∀ (s : State) (g t : Nat), s.mayIssue g t = true → decodeIns ((s.cell g).nextWord t) = none →
    let u := { s with emitted := [] }.modCell g fun c =>
      { (c.modCtx t fun x => { x with begun := false }) with lastTid := t }
    exec (.illegalInstruction g t) s = .next (settleStop (raise u g t 0x01 0) g t)) ∧
  (∀ (s : State) (g t : Nat), let x := s.ctx g t
    ∀ e es, s.cellRuns g = true → x.mode = .ready → x.errors = e :: es → x.begun = false →
      x.excCause.getLsbD 63 = false →
      exec (.memError g t) s = .next (settleStop (enterExc ({ s with emitted := [] }.modCtx g t fun x =>
        { x with errors := es }) g t false e.cause 0x05 e.pc.toNat e.addr.toNat) g t)) ∧
  (∀ (s : State) (g t code addr : Nat), let x := s.ctx g t
    let a := if 2 ≤ code ∧ code ≤ 4 then addr % 2 ^ 48 else 0
    (x.excCause.getLsbD 63 = true → raise s g t code addr =
      faultK s (s.chapelIx g) 0x0111 (locCell g) (threadDetail t code 0 x.pc.toNat a) false false) ∧
    (x.excCause.getLsbD 63 = false → raise s g t code addr = enterExc s g t true 0 code x.pc.toNat a)) ∧
  (∀ (s : State) (g t sub code pc addr : Nat) (resumable : Bool), let x := s.ctx g t
    let cause := BitVec.ofNat 64 (2 ^ 63 + (if resumable then 2 ^ 62 else 0) + 256 * sub + code)
    let y : Ctx := { x with excPc := BitVec.ofNat 64 pc, excCause := cause, excAddr := BitVec.ofNat 64 addr
                            begun := false }
    (x.excVec ≠ 0#64 → ∃ v : State, enterExc s g t resumable sub code pc addr = settleStop v g t ∧
      v = { s with cells := v.cells } ∧ (∀ h, h ≠ g → v.cell h = s.cell h) ∧ (∀ j, j ≠ t → v.ctx g j = s.ctx g j) ∧
      v.ctx g t = y.at_ x.excVec.toNat) ∧
    (x.excVec = 0#64 → ∃ v : State, enterExc s g t resumable sub code pc addr =
        faultK (v.modCell g (·.stopCtx t)) (s.chapelIx g) 0x0110 (locCell g) (threadDetail t code sub pc addr)
          false false ∧
      v = { s with cells := v.cells } ∧ (∀ h, h ≠ g → v.cell h = s.cell h) ∧ (∀ j, j ≠ t → v.ctx g j = s.ctx g j) ∧
      v.ctx g t = y.at_ pc)) ∧
  (∀ (s : State) (g t : Nat), let v := settleStop s g t
    v = { s with cells := v.cells } ∧ (∀ h, h ≠ g → v.cell h = s.cell h) ∧
    ((s.ctx g t).stopAsked = false → v.cell g = s.cell g) ∧
    ((s.ctx g t).stopAsked = true → (s.cell g).atSafePoint t = true → v.cell g = (s.cell g).stopCtx t))

/-- RDSR writes the special register to rd; reading CHSTATE clears RESUMED for the thread. WRSR to EXC_VEC or EXC_PC with
a value that is 4-byte aligned and below 524,288 writes that register and no other; with another value it raises SR_ACCESS
and has no other effect, as does a WRSR to any other register. FENCE.ACQ waits while a load or an atomic of the thread is
outstanding, FENCE.REL and FENCE.FULL while any access is; else they only go on at PC + 4. BAR.CELL waits for the thread's
outstanding accesses and issues again; a thread that arrives while another barrier runs waits for its end; one that
arrives while a thread its mask names is FREE or STOPPED ends the barrier with 1 in every rd, the last to arrive ends it
with 0, and any other waits. -/
def Obligations.SpecialRegistersAndFences : Prop := ∀ (s : State) (g t : Nat) (i : Ins), s.Ready g t i →
  let x := s.ctx g t
  let pc := x.pc.toNat + 4
  let u := s.issued g t i
  let gives (c : Instr) (y : Ctx) : Prop :=
    (pcOk pc = true → ∃ v, exec c s = .next (settleStop v g t) ∧ s.Became v g t (y.at_ pc)) ∧
    (pcOk pc = false → exec c s = .next (settleStop (raise u g t 0x07 0) g t))
  let waits (c : Instr) (y : Ctx) (w : Waiting) : Prop := gives c { y with mode := .wait, waiting := w }
  (∀ rd n, i = .rdsr rd n →
    (n ≠ 7 → gives (.rdsr g t) ((x.issued i).setS rd (readSpecial s g t n))) ∧
    (n = 7 → gives (.rdsr g t) { (x.issued i).setS rd (readSpecial s g t 7) with resumed := false })) ∧
  (∀ ra n, i = .wrsr ra n →
    (n = 0x020 → (x.getS ra).toNat % 4 = 0 → (x.getS ra).toNat < 524288 →
      gives (.wrsr g t) { x.issued i with excVec := x.getS ra }) ∧
    (n = 0x021 → (x.getS ra).toNat % 4 = 0 → (x.getS ra).toNat < 524288 →
      gives (.wrsr g t) { x.issued i with excPc := x.getS ra }) ∧
    (n = 0x020 ∨ n = 0x021 → (x.getS ra).toNat % 4 ≠ 0 ∨ 524288 ≤ (x.getS ra).toNat →
      exec (.wrsr g t) s = .next (settleStop (raise u g t 0x06 0) g t)) ∧
    (n ≠ 0x020 → n ≠ 0x021 → exec (.wrsr g t) s = .next (settleStop (raise u g t 0x06 0) g t))) ∧
  (i = .fenceAcq →
    ((s.cell g).loadsOut t = true → waits (.fenceAcq g t) (x.issued i) .loads) ∧
    ((s.cell g).loadsOut t = false → gives (.fenceAcq g t) (x.issued i))) ∧
  (i = .fenceRel →
    ((s.cell g).outstanding t = true → waits (.fenceRel g t) (x.issued i) .accesses) ∧
    ((s.cell g).outstanding t = false → gives (.fenceRel g t) (x.issued i))) ∧
  (i = .fenceFull →
    ((s.cell g).outstanding t = true → waits (.fenceFull g t) (x.issued i) .accesses) ∧
    ((s.cell g).outstanding t = false → gives (.fenceFull g t) (x.issued i))) ∧
  (∀ rd ra, i = .barCell rd ra →
    let mask : BitVec 16 := (x.getS ra).truncate 16
    let here (w : Waiting) : Ctx := { x.issued i with mode := .wait, waiting := w }
    let gone := (maskTids mask).any fun k => decide (k ≠ t) &&
      decide ((s.ctx g k).mode = .free ∨ (s.ctx g k).mode = .stopped)
    ((s.cell g).outstanding t = true →
      ∃ v, exec (.barCell g t) s = .next (settleStop v g t) ∧ s.Became v g t (here .release)) ∧
    ((s.cell g).outstanding t = false → pcOk pc = false →
      exec (.barCell g t) s = .next (settleStop (raise u g t 0x07 0) g t)) ∧
    ((s.cell g).outstanding t = false → pcOk pc = true →
      (∀ b, (s.cell g).barrier = some b → b.mask ≠ mask →
        ∃ v, exec (.barCell g t) s = .next (settleStop v g t) ∧ s.Became v g t (here .barrierTurn)) ∧
      (∀ a, (s.cell g).barrier = none ∧ a = [] ∨ (s.cell g).barrier = some ⟨mask, a⟩ →
        ∃ v, s.Became v g t (here (.barrier mask rd)) ∧
          let w := v.modCell g fun c => { c with barrier := some ⟨mask, a ++ [t]⟩ }
          (gone = true → exec (.barCell g t) s = .next (settleStop (w.modCell g (·.endBarrier 1#64)) g t)) ∧
          (gone = false → (maskTids mask).all (a ++ [t]).contains = true →
            exec (.barCell g t) s = .next (settleStop (w.modCell g (·.endBarrier 0#64)) g t)) ∧
          (gone = false → (maskTids mask).all (a ++ [t]).contains = false →
            exec (.barCell g t) s = .next (settleStop w g t)))))

/-- The address is ra + OFF modulo 2^64, of an atomic ra (R203, R213). One the address unit refuses raises its exception and
changes nothing else. In the thread's own store a load writes its bytes, sign- or zero-extended, to rd, VLD 64 bytes to a
vector register; a store, VST and an atomic write exactly the bytes of their width at the offset, and every other byte of
the store, every other cell's store and the rest of the package keep their value; the atomic's rd is the old value,
zero-extended (R185, R212, R213). An atomic with release ordering waits for the thread's outstanding accesses and issues
again; with acquire ordering the thread then waits for its outstanding loads. Any other place takes the lowest free
tracker, and the thread goes on with the destination awaited; with none free it waits (R379). -/
def Obligations.MemoryAccesses : Prop :=
  (∀ (s : State) (g t : Nat) (i : Ins), s.Ready g t i →
    let x := s.ctx g t
    let pc := x.pc.toNat + 4
    let u := s.issued g t i
    let m := (s.cell g).store
    let ends (c : Instr) (v : State) : Prop := exec c s = .next (settleStop v g t)
    let refused (c : Instr) (a : Nat) (r : Placed) : Prop := ∀ code, r = .error code → ends c (raise u g t code a)
    let sends (c : Instr) (a : Nat) (r : Placed) (f : AmbFlit) (l : Landing) (isLoad : Bool) : Prop :=
      ∀ p, r = .ok p → (∀ o, p ≠ .own o) → ends c (issueAccess u g t a p f l isLoad)
    let reads (c : Instr) (r : Placed) (y : Nat → Ctx) : Prop := ∀ o, r = .ok (.own o) →
      (pcOk pc = true → ∃ v, ends c v ∧ s.Became v g t ((y o).at_ pc)) ∧
      (pcOk pc = false → ends c (raise u g t 0x07 0))
    let stores (c : Instr) (r : Placed) (bs : Nat → List Byte) (y : Nat → Ctx) : Prop := ∀ o, r = .ok (.own o) →
      (pcOk pc = true → ∃ v : State, ends c v ∧ v = { s with cells := v.cells, emitted := [] } ∧
        (∀ h, h ≠ g → v.cell h = s.cell h) ∧
        v.cell g = { s.cell g with
          ctxs := (v.cell g).ctxs, lastTid := t, store := (v.cell g).store, choir := (v.cell g).choir } ∧
        (∀ j, j ≠ t → v.ctx g j = s.ctx g j) ∧ v.ctx g t = y o ∧
        (∀ b, b < o ∨ o + (bs o).length ≤ b → (v.cell g).store.read b = m.read b) ∧
        (∀ k, (h : k < (bs o).length) → (v.cell g).store.read (o + k) = (bs o)[k])) ∧
      (pcOk pc = false → ends c (raise u g t 0x07 0))
    (∀ width sg rd ra off, i = .load width sg rd ra off →
      let a := effAddr (x.getS ra) off
      let r := checkAddr s g .load width a
      refused (.load g t) a r ∧
      reads (.load g t) r (fun o => (x.issued i).setS rd (landWord width sg (Memory.readBytes m o width))) ∧
      sends (.load g t) a r { op := .read, size := sizeCode width } (.reg rd width sg) true) ∧
    (∀ vd ra off, i = .vld vd ra off →
      let a := effAddr (x.getS ra) off
      let r := checkAddr s g .load 64 a
      refused (.vld g t) a r ∧
      reads (.vld g t) r (fun o => (x.issued i).setV vd (BitVec.ofNat 512 (leNat (Memory.readBytes m o 64)))) ∧
      sends (.vld g t) a r { op := .read, size := sizeCode 64 } (.vreg vd) true) ∧
    (∀ width rs ra off, i = .store width rs ra off →
      let a := effAddr (x.getS ra) off
      let r := checkAddr s g .store width a
      let bs := le width (x.getS rs).toNat
      refused (.store g t) a r ∧ stores (.store g t) r (fun _ => bs) (fun _ => (x.issued i).at_ pc) ∧
      sends (.store g t) a r { op := .write, size := sizeCode width, data := writeData a bs } .store false) ∧
    (∀ vs ra off, i = .vst vs ra off →
      let a := effAddr (x.getS ra) off
      let r := checkAddr s g .store 64 a
      let bs := le 64 (x.getV vs).toNat
      refused (.vst g t) a r ∧ stores (.vst g t) r (fun _ => bs) (fun _ => (x.issued i).at_ pc) ∧
      sends (.vst g t) a r { op := .write, size := sizeCode 64, data := bs } .store false) ∧
    (∀ rd ra rb ord wide aop, i = .atomic rd ra rb ord wide aop →
      let a := (x.getS ra).toNat
      let width := if wide then 8 else 4
      let r := checkAddr s g .atomic width a
      let old (o : Nat) := leNat (Memory.readBytes m o width)
      let new (o : Nat) := le width (atomicNew aop width (old o) (x.getS rb).toNat (x.getS rd).toNat)
      let y (o : Nat) := ((x.issued i).setS rd (BitVec.ofNat 64 (old o))).at_ pc
      let holds := (ord = 1 ∨ ord = 3) ∧ (s.cell g).loadsOut t = true ∧ x.waiting = .none
      (2 ≤ ord → (s.cell g).outstanding t = true → ∃ v, ends (.atomic g t) v ∧
        s.Became v g t { x.issued i with mode := .wait, waiting := .release }) ∧
      (ord < 2 ∨ (s.cell g).outstanding t = false →
        (∀ o, r = .ok (.own o) → holds → stores (.atomic g t) r new
          (fun o => { y o with mode := .wait, waiting := .loads })) ∧
        (¬ holds → stores (.atomic g t) r new y) ∧ refused (.atomic g t) a r))) ∧
  (∀ (u : State) (g t a : Nat) (p : Place) (f : AmbFlit) (l : Landing) (isLoad : Bool),
    let c := u.cell g
    let x := u.ctx g t
    (pcOk (x.pc.toNat + 4) = false → issueAccess u g t a p f l isLoad = raise u g t 0x07 0) ∧
    (pcOk (x.pc.toNat + 4) = true → freeTracker c.trackers 128 = none →
      issueAccess u g t a p f l isLoad = u.modCtx g t fun x => { x with mode := .wait, waiting := .tracker }) ∧
    (∀ k, pcOk (x.pc.toNat + 4) = true → freeTracker c.trackers 128 = some k →
      let epoch := (tget Tracker.fresh c.trackers k).epoch
      let req := placeReq p { f with
        vnet := 0, prio := 2, chapel := u.chapelIx g, src := g, txn := k, epoch := epoch }
      ∃ v : State, issueAccess u g t a p f l isLoad = pumpCell v g ∧ v = { u with cells := v.cells } ∧
        (∀ h, h ≠ g → v.cell h = u.cell h) ∧ (∀ j, j ≠ t → v.ctx g j = u.ctx g j) ∧
        tget Tracker.fresh (v.cell g).trackers k = { epoch := epoch, busy := true, tid := t, pc := x.pc, addr := a
                                                     landing := l, isLoad := isLoad, req := req, order := c.issued } ∧
        (∀ j, j ≠ k → tget Tracker.fresh (v.cell g).trackers j = tget Tracker.fresh c.trackers j) ∧
        (v.ctx g t).pc = x.pc + 4#19 ∧ (v.ctx g t).s = x.s ∧ (v.ctx g t).v = x.v ∧
        (v.cell g).store = c.store))

/-- TALLY.CLAIM of a free tally makes the thread its owner with the initial CRC and answers 0, of its own tally answers 0
and ends a release, of another's answers 1 and changes nothing (R224). Every other tally instruction of a thread that does
not own it raises TALLY_NOT_OWNED; of the owner it joins the queue of four, or waits for a place (R395), and TALLY.RELEASE
frees the tally once the queue is empty (R398). TALLY_PERFORM of a clocked cell performs the oldest: INIT sets the initial
CRC, FOLD the CRC of four bytes, FEED goes on with the bytes fed, and RD writes the finished CRC to its rd (R394, R396).
CHOIR.GO with an address not 64-byte aligned, or past the store, raises ADDR_ALIGN or ADDR_UNMAPPED; else it copies the
descriptor's 64 bytes into the queue, or waits while four are held (R225, R239). CHOIR_PASS_START begins the oldest.
CHOIR_PASS_END of a descriptor with failing fields answers 1 + 256 times the lowest failing offset and writes nothing;
else it writes the rows of C, from the store or with free bytes where a local store hit an operand (R244), and
answers 0. -/
def Obligations.TallyAndChoir : Prop :=
  (∀ (s : State) (g t : Nat) (i : Ins), s.Ready g t i →
    let x := s.ctx g t
    let y := (s.cell g).tally
    let put (f : Tally → Tally) (v : State) := v.modCell g fun c => { c with tally := f c.tally }
    let push (c : Instr) (op : TallyOp) (k : State → State) : Prop :=
      (y.owner ≠ some t → s.Raises g t i c 0x0A 0) ∧
      (y.owner = some t → 4 ≤ y.queue.length → s.WaitsFor g t i c .tallySlot) ∧
      (y.owner = some t → y.queue.length < 4 →
        s.Goes g t i c fun v => k (put (fun z => { z with queue := z.queue ++ [op] }) v))
    let awaited (rd : Nat) (v : State) :=
      if rd = 0 then v else v.modCtx g t fun x => { x with awaits := x.awaits ++ [rd] }
    (∀ rd, i = .tallyClaim rd →
      (y.owner = none → s.Goes g t i (.tallyClaim g t) fun v => (put (fun z =>
        { z with owner := some t, crc := 0xFFFFFFFF#32, releasing := false }) v).modCtx g t (·.setS rd 0#64)) ∧
      (y.owner = some t → s.Goes g t i (.tallyClaim g t) fun v =>
        (put (fun z => { z with releasing := false }) v).modCtx g t (·.setS rd 0#64)) ∧
      (∀ o, y.owner = some o → o ≠ t → s.Goes g t i (.tallyClaim g t) fun v => v.modCtx g t (·.setS rd 1#64))) ∧
    (i = .tallyRelease →
      (y.owner ≠ some t → s.Raises g t i (.tallyRelease g t) 0x0A 0) ∧
      (y.owner = some t → y.queue = [] → s.Goes g t i (.tallyRelease g t)
        (put fun z => { z with owner := none, releasing := false })) ∧
      (y.owner = some t → y.queue ≠ [] → s.Goes g t i (.tallyRelease g t) (put fun z => { z with releasing := true }))) ∧
    (i = .tallyInit → push (.tallyInit g t) .init id) ∧
    (∀ ra, i = .tallyFold ra → push (.tallyFold g t) (.fold (le 4 (x.getS ra).toNat)) id) ∧
    (∀ n ra, i = .tallyFeed n ra → push (.tallyFeed g t) (.feed (le n (x.getS ra).toNat)) id) ∧
    (∀ rd, i = .tallyRd rd → push (.tallyRd g t) (.rd t rd) (awaited rd)) ∧
    (∀ rd ra, i = .choirGo rd ra →
      let off := (x.getS ra).toNat
      let ch := (s.cell g).choir
      let held := ch.queue.length + ch.running.toList.length
      (off % 64 ≠ 0 → s.Raises g t i (.choirGo g t) 0x04 (ownAddr s g off)) ∧
      (off % 64 = 0 → 524288 ≤ off → s.Raises g t i (.choirGo g t) 0x02 (ownAddr s g off)) ∧
      (off % 64 = 0 → off < 524288 → 4 ≤ held → s.WaitsFor g t i (.choirGo g t) .choirSlot) ∧
      (off % 64 = 0 → off < 524288 → held < 4 → s.Goes g t i (.choirGo g t) fun v =>
        awaited rd (v.modCell g fun c => { c with choir := { c.choir with
          queue := c.choir.queue ++ [⟨Memory.readBytes (v.cell g).store off 64, t, rd, false⟩] } })))) ∧
  (∀ (s : State) (g : Nat), let u := { s with emitted := [] }
    (∀ op rest, (s.cell g).tally.queue = op :: rest → s.cellClocked g = true →
      let v := u.modCell g fun c => { c with tally := { c.tally with queue := rest } }
      let sets (crc : BitVec 32) := v.modCell g fun c => { c with tally := { c.tally with crc := crc } }
      exec (.tallyPerform g) s = .next (afterTally (match op with
        | .init => sets 0xFFFFFFFF#32
        | .fold bs => sets (crcFeed 0xFFFFFFFF#32 bs)
        | .feed bs => sets (crcFeed (s.cell g).tally.crc bs)
        | .rd k rd => v.modCtx g k fun x =>
          { (x.setS rd (((s.cell g).tally.crc ^^^ 0xFFFFFFFF#32).zeroExtend 64)) with awaits := x.awaits.erase rd })
        g)) ∧
    (∀ j rest, g < 3072 → s.cellRuns g = true → (s.cell g).choir.running = none → (s.cell g).choir.queue = j :: rest →
      exec (.choirPassStart g) s = .next (u.modCell g fun c => { c with choir := ⟨some j, rest⟩ })) ∧
    (∀ j, g < 3072 → (s.bay (bayOf g)).st = .on → (s.cell g).choir.running = some j →
      let v := u.modCell g fun c => { c with choir := { c.choir with running := none } }
      let d := choirDesc j.desc
      let written (m : Memory) := (List.zip d.cRows (choirResult m d)).foldl (fun m e => m.writeBytes e.1.1 e.2) m
      (∀ off, lowest (choirBad j.desc) = some off →
        exec (.choirPassEnd g) s = .next (v.modCell g fun c => c.choirAnswer j (256 * off + 1))) ∧
      (lowest (choirBad j.desc) = none → j.spoiled = false → exec (.choirPassEnd g) s =
        .next ((v.modCell g fun c => { c with store := written c.store }).modCell g fun c => c.choirAnswer j 0)) ∧
      (lowest (choirBad j.desc) = none → j.spoiled = true → exec (.choirPassEnd g) s =
        .next ((spoilRows v g d.cRows).modCell g fun c => c.choirAnswer j 0))))

/-- SLYPE.GO with a misaligned address or a bad length raises ADDR_ALIGN; while an access of the thread is outstanding it
waits; of a busy engine it answers 1 and changes nothing else, of an idle one it answers 0 and the engine holds the copy,
with nothing moved (R190-R192, R226). SLYPE.WAIT answers the status word of an idle engine and waits for a busy one
(R194). SLYPE_UNIT_ISSUE of a BUSY engine sends its next unit under the lowest free tracker: a READ of the source, or a
WRITE of the own store's 64 bytes; a unit whose source is refused stops the copy MALFORMED at its address; with every
tracker busy nothing changes. The mover's unit is a READ of HBM, or a host memory read under a free tag (R192, Table
04-12). SUM.C and SUM.W raise what the checks at issue find and change nothing else; SUM.C waits for the thread's accesses
and for its queue, and then queues the contribution: the bytes of the own store, the group, the slice and the round. SUM.W
takes a landed result at once, writes its bytes unless it FAILED, and answers its status; with none landed it posts the
wait (R223, R331, R343-R345). -/
def Obligations.SlypeAndSumsAtACell : Prop :=
  (∀ (s : State) (g t : Nat) (i : Ins), s.Ready g t i →
    let x := s.ctx g t
    let out := (s.cell g).outstanding t
    let answers (c : Instr) (rd : Nat) (v : Word) : Prop := s.Goes g t i c fun u => u.modCtx g t (·.setS rd v)
    (∀ rd ra rb rc e, i = .slypeGo rd ra rb rc e →
      let src := (x.getS ra).toNat
      let dst := (x.getS rb).toNat
      let len := (x.getS rc).toNat
      let sound := src % 64 = 0 ∧ dst % 64 = 0 ∧ 0 < len ∧ len % 64 = 0 ∧ len ≤ 2 ^ 40
      (¬ sound → s.Raises g t i (.slypeGo g t) 0x04 (if src % 64 = 0 ∧ dst % 64 ≠ 0 then dst else src)) ∧
      (sound → out = true → s.WaitsFor g t i (.slypeGo g t) .release) ∧
      (sound → out = false → ((s.cell g).eng e).mode ≠ 0 → answers (.slypeGo g t) rd 1#64) ∧
      (sound → out = false → ((s.cell g).eng e).mode = 0 → s.Goes g t i (.slypeGo g t) fun u =>
        (u.modEng g e fun y => { y with
          mode := 1, moved := 0, err := 0, src := src, dst := dst, len := len, tid := t, host := none, nextUnit := 0
          units := [], ended := [], unacked := [], failed := none }).modCtx g t (·.setS rd 0#64))) ∧
    (∀ rd e, i = .slypeWait rd e →
      (((s.cell g).eng e).mode = 0 → answers (.slypeWait g t) rd ((s.cell g).eng e).stat) ∧
      (((s.cell g).eng e).mode ≠ 0 → s.WaitsFor g t i (.slypeWait g t) (.slype e))) ∧
    (∀ rl ra rb, i = .sumC rl ra rb →
      let w := x.getS ra
      let off := (x.getS rb).toNat
      let len := (x.getS rl).toNat
      let r := sumCheck (s.issued g t i) g w off (some len)
      (∀ code a, r = some (code, a) → s.Raises g t i (.sumC g t) code a) ∧
      (r = none → out = true → s.WaitsFor g t i (.sumC g t) .release) ∧
      (r = none → out = false → (s.cell g).aisle.injHold = true → s.WaitsFor g t i (.sumC g t) .aisleQueue) ∧
      (r = none → out = false → (s.cell g).aisle.injHold = false → s.Goes g t i (.sumC g t) fun u =>
        let p : AislePkt :=
          { cls := 3, kind := 2, chapel := s.chapelIx g, dest := g, src := g, seq := swRound w
            units := len / 64 - 1
            kindBytes := sumFields (swGroup w) (swSlice w) ((s.chapel (s.chapelIx g)).sum (swGroup w)).op 0 1 0
            payload := Memory.readBytes (s.cell g).store off len }
        aislePush u g none p.sealed)) ∧
    (∀ rd ra rb, i = .sumW rd ra rb →
      let w := x.getS ra
      let off := (x.getS rb).toNat
      let r := sumCheck (s.issued g t i) g w off none
      let landed := (s.cell g).sum.landing.find? (·.fits (swGroup w) (swRound w) (swSlice w))
      (∀ code a, r = some (code, a) → s.Raises g t i (.sumW g t) code a) ∧
      (∀ d, r = none → landed = some d → s.Goes g t i (.sumW g t) fun u =>
        let v := u.modCell g fun c => { c with sum := { c.sum with landing := c.sum.landing.erase d } }
        let v := if d.failed then v else v.modCell g fun c => { c with store := c.store.writeBytes off d.bytes }
        v.modCtx g t (·.setS rd (if d.failed then 1#64 else 0#64))) ∧
      (r = none → landed = none → pcOk (x.pc.toNat + 4) = false → s.Raises g t i (.sumW g t) 0x07 0) ∧
      (r = none → landed = none → pcOk (x.pc.toNat + 4) = true → s.Ends g t (.sumW g t)
        (((s.issued g t i).modCell g fun c => { c with sum := { c.sum with
          posted := c.sum.posted ++ [⟨swGroup w, swRound w, swSlice w, off, t⟩] } }).modCtx g t fun y =>
          { y with mode := .wait, waiting := .sum rd })))) ∧
  (∀ (s : State) (g e : Nat), s.cellClocked g = true → e < 2 →
    let u := { s with emitted := [] }
    let x := (s.cell g).eng e
    let n := x.nextUnit
    let srcAt := (x.src + 64 * n) % 2 ^ 48
    let dstAt := (x.dst + 64 * n) % 2 ^ 48
    let place (kind : Access) (a : Nat) := checkAddr u g kind 64 a
    x.mode = 1 → x.failed = none → x.units = [] → n < x.total →
    (∀ code, place .load (x.src + 64 * n) = .error code →
      exec (.slypeUnitIssue (.engine g e)) s = .next (settleEngine (u.modEng g e fun y =>
        { y with failed := some (1, srcAt), units := [] }) g e)) ∧
    (∀ p d, place .load (x.src + 64 * n) = .ok p → place .store (x.dst + 64 * n) = .ok d → x.host = none →
      x.dst < 2 ^ 48 → cellPlace (u.chapel (u.chapelIx g)) g d = none →
      (freeTracker x.trackers 192 = none → exec (.slypeUnitIssue (.engine g e)) s = .next s) ∧
      (∀ k, freeTracker x.trackers 192 = some k →
        let v := u.modEng g e fun y => { y with nextUnit := n + 1, units := y.units ++ [⟨n, none, some k⟩] }
        (∀ o, p = .own o → exec (.slypeUnitIssue (.engine g e)) s =
          .next (engSend v g e k n dstAt d { op := .write, data := Memory.readBytes (s.cell g).store o 64 })) ∧
        ((∀ o, p ≠ .own o) → exec (.slypeUnitIssue (.engine g e)) s =
          .next (engSend v g e k n srcAt p { op := .read }))))) ∧
  (∀ (s : State), let u := { s with emitted := [] }
    let x := s.amb.mover
    let n := x.nextUnit
    let p := portOf s.amb.moverPort
    let taken (k : Nat) := u.modMover fun y => { y with nextUnit := n + 1, units := y.units ++ [⟨n, none, some k⟩] }
    s.mainOn = true → s.pw.state = .active → x.mode = 1 → x.failed = none →
    (x.total ≤ n ∨ freeTracker x.trackers 256 = none → exec (.slypeUnitIssue .sacristy) s = .next s) ∧
    (∀ k, n < x.total → freeTracker x.trackers 256 = some k →
      (s.amb.moverOut = true → exec (.slypeUnitIssue .sacristy) s =
        .next (moverSend (taken k) k n (x.src + 64 * n) { op := .read })) ∧
      (∀ tag, s.amb.moverOut = false → freeTag u p = some tag →
        ∃ v : State, exec (.slypeUnitIssue .sacristy) s = .next v ∧
          v.emitted = [.memRead p 0 (x.src + 64 * n) 64 tag] ∧
          v.amb.mover.nextUnit = n + 1 ∧ v.amb.mover.units = x.units ++ [⟨n, none, some k⟩] ∧
          (tget Tracker.fresh v.amb.mover.trackers k).landing = .unit n ∧
          v.cells = s.cells ∧ v.chapels = s.chapels ∧ v.hbm = s.hbm ∧ v.pw = s.pw) ∧
      (s.amb.moverOut = false → freeTag u p = none → exec (.slypeUnitIssue .sacristy) s = .next s)))

/-- A SEND checks the payload's alignment, its place and its length, in this order, then its message word or its channel,
and raises ADDR_ALIGN, ADDR_UNMAPPED, MSG_LEN or MSG_DEST with no other effect (R222, R283); the forms with release wait
first while an access of the thread is outstanding (R186). A message of up to 48 bytes joins the cell's chantry queue, a
longer one leaves as an aisle packet of whole units, both with the payload's bytes of the own store; where its queue takes
none the thread waits; one to a slot with no port up ends at its source, logged (R263, R325). A SEND.ch uses one credit and
the next CHSEQ of its channel, waits with no credit, and closes a handle whose slot has no port up (R284, R287). CHAN.OPEN
with a bad word raises MSG_LEN or MSG_DEST, answers all ones with no handle free, and else queues the open and waits
(R281). CHAN.CLOSE of an open handle waits, and frees it at once where every credit is back (R286). TURN.WAIT naming no
enabled turn raises MSG_DEST; else the thread waits last in line, and a waiting record is dispatched at once (R275). HRET
with s28 naming no record of the thread raises MSG_DEST; else the record is retired and the thread goes on at s29, or exits
where s29 is 0 (R279). -/
def Obligations.SendsChannelsAndTurns : Prop :=
  (∀ (s : State) (g t : Nat) (i : Ins), s.Ready g t i →
    let x := s.ctx g t
    let u := s.issued g t i
    let own := s.cell g
    let c := s.chapelIx g
    let h := s.chapel c
    let out := own.outstanding t
    let carried (ins : Instr) (r : SendReq) (k : State → State) : Prop :=
      let data := Memory.readBytes own.store r.off r.len
      let dest := h.globalOf (mwDest r.word)
      let down := mwRemote r.word = true ∧ slotUp s c (mwSpan r.word) = false
      let n := (r.len + 63) / 64 * 64
      let full := own.aisle.injHold = true ∨ own.assuredRoom (uniKey (mwRemote r.word) (mwSpan r.word) dest) n = false
      (r.len ≤ 48 → own.chantryRoom = false → s.WaitsFor g t i ins .chantryQueue) ∧
      (r.len ≤ 48 → own.chantryRoom = true → s.Goes g t i ins fun v =>
        let p := padFree (k v) 48 data
        let f : ChFlit :=
          { kind := 0, remote := mwRemote r.word, channel := r.chan.isSome, chapel := c, dest := dest, tid := t, src := g
            turn := mwTurn r.word, span := mwSpan r.word, len := r.len, handler := mwHandler r.word
            tag := match r.chan with
              | some (ch, n) => BitVec.ofNat 32 (n % 65536 + 65536 * (ch % 64))
              | none => mwTag r.word
            payload := p.1 }
        p.2.modCell g fun y => { y with ch := { y.ch with injQ := y.ch.injQ ++ [f] } }) ∧
      (48 < r.len → down → s.Goes g t i ins fun v => let w := k v
        logC w 0 0x011B (locCell g) (w.chapelIx g) (messageDetail (mwTurn r.word) (mwHandler r.word) g
          ((w.chapel (w.chapelIx g)).globalOf (mwDest r.word)) (mwSpan r.word) t (mwTag r.word))) ∧
      (48 < r.len → ¬ down → full → s.WaitsFor g t i ins .aisleQueue) ∧
      (48 < r.len → ¬ down → ¬ full → s.Goes g t i ins fun v =>
        let p := padFree (k v) n data
        sendUniA p.2 g (messagePacket s g t r p.1))
    let checked (ins : Instr) (rl rb : Nat) (k : Nat → Nat → Prop) : Prop :=
      let len := (x.getS rl).toNat
      let off := (x.getS rb).toNat
      (off % 8 ≠ 0 → s.Raises g t i ins 0x04 (ownAddr s g off)) ∧
      (off % 8 = 0 → 524288 < off + len → s.Raises g t i ins 0x02 (ownAddr s g off)) ∧
      (off % 8 = 0 → off + len ≤ 524288 → 8192 < len ∨ len % 8 ≠ 0 → s.Raises g t i ins 0x09 0) ∧
      (off % 8 = 0 → off + len ≤ 524288 → len ≤ 8192 → len % 8 = 0 → k len off)
    let word (ins : Instr) (rl ra rb : Nat) : Prop := checked ins rl rb fun len off =>
      (wordOk s c (x.getS ra) = false → s.Raises g t i ins 0x08 0) ∧
      (wordOk s c (x.getS ra) = true → carried ins ⟨x.getS ra, len, off, none⟩ id)
    let chan (ins : Instr) (rl ra rb : Nat) : Prop := checked ins rl rb fun len off =>
      let n := (x.getS ra).toNat
      let y := own.tx n
      let bad := 64 ≤ n ∨ y.phase ≠ 1
      let down := mwRemote y.peer = true ∧ slotUp s c (mwSpan y.peer) = false
      (bad → s.Raises g t i ins 0x08 0) ∧
      (¬ bad → y.maxLen < len → s.Raises g t i ins 0x09 0) ∧
      (¬ bad → len ≤ y.maxLen → down → s.Goes g t i ins fun v =>
        let v := v.modCell g (·.closeTx n)
        if len ≤ 48 then v else logC v 0 0x011B (locCell g) c (messageDetail (mwTurn y.peer) (mwHandler y.peer) g
          (h.globalOf (mwDest y.peer)) (mwSpan y.peer) t (mwTag y.peer))) ∧
      (¬ bad → len ≤ y.maxLen → ¬ down → y.credits = 0 → s.WaitsFor g t i ins (.chanCredit n)) ∧
      (¬ bad → len ≤ y.maxLen → ¬ down → y.credits ≠ 0 → carried ins ⟨y.peer, len, off, some (y.chan, y.nextSeq)⟩ fun v =>
        v.modCell g (·.modTx n fun z => { z with
          credits := z.credits - 1, nextSeq := (z.nextSeq + 1) % 65536, sent := (z.sent + 1) % 65536 }))
    (∀ rl ra rb, i = .send false false rl ra rb → word (.send g t) rl ra rb) ∧
    (∀ rl ra rb, i = .send false true rl ra rb →
      (out = true → s.WaitsFor g t i (.sendRel g t) .release) ∧ (out = false → word (.sendRel g t) rl ra rb)) ∧
    (∀ rl ra rb, i = .send true false rl ra rb → chan (.sendCh g t) rl ra rb) ∧
    (∀ rl ra rb, i = .send true true rl ra rb →
      (out = true → s.WaitsFor g t i (.sendChRel g t) .release) ∧ (out = false → chan (.sendChRel g t) rl ra rb)) ∧
    (∀ rd ra rb, i = .chanOpen rd ra rb →
      let w := x.getS ra
      let v := (x.getS rb).toNat
      let credits := v % 256
      let maxLen := v / 65536 % 16384
      let sound := v = credits + 65536 * maxLen ∧ 1 ≤ credits ∧ credits ≤ 64 ∧ maxLen ≤ 8192 ∧ maxLen % 8 = 0
      let free := (List.range 64).find? fun n => decide ((own.tx n).phase = 3)
      (¬ sound → s.Raises g t i (.chanOpen g t) 0x09 0) ∧
      (sound → wordOk s c w = false → s.Raises g t i (.chanOpen g t) 0x08 0) ∧
      (sound → wordOk s c w = true → free = none →
        s.Goes g t i (.chanOpen g t) fun z => z.modCtx g t (·.setS rd (BitVec.allOnes 64))) ∧
      (∀ n, sound → wordOk s c w = true → free = some n →
        let y : ChanTx := { phase := 0, peer := w, tid := t, maxLen := maxLen, total := credits }
        (pcOk (x.pc.toNat + 4) = false → s.Raises g t i (.chanOpen g t) 0x07 0) ∧
        (pcOk (x.pc.toNat + 4) = true → s.Ends g t (.chanOpen g t)
          ((((u.modCell g (·.modTx n fun _ => y)).modCell g fun z =>
            { z with ch := { z.ch with sysQ := z.ch.sysQ ++ [openFlit s g n y] } })).modCtx g t fun z =>
              { z with mode := .wait, waiting := .chanOpen n rd })))) ∧
    (∀ ra, i = .chanClose ra →
      let n := (x.getS ra).toNat
      let y := own.tx n
      (64 ≤ n ∨ y.phase ≠ 1 → s.Raises g t i (.chanClose g t) 0x08 0) ∧
      (n < 64 → y.phase = 1 → pcOk (x.pc.toNat + 4) = false → s.Raises g t i (.chanClose g t) 0x07 0) ∧
      (n < 64 → y.phase = 1 → pcOk (x.pc.toNat + 4) = true →
        let v := (u.modCell g (·.modTx n fun z => { z with phase := 2 })).modCtx g t fun z =>
          { z with mode := .wait, waiting := .chanClose n }
        s.Ends g t (.chanClose g t) (if y.credits = y.total then finishClose v g n else v))) ∧
    (∀ rd ra, i = .turnWait rd ra →
      let mask : BitVec 8 := (x.getS ra).truncate 8
      let named := (List.range 8).filter fun n => mask.getLsbD n && (own.turn n).enabled
      (named = [] → s.Raises g t i (.turnWait g t) 0x08 0) ∧
      (named ≠ [] → pcOk (x.pc.toNat + 4) = false → s.Raises g t i (.turnWait g t) 0x07 0) ∧
      (named ≠ [] → pcOk (x.pc.toNat + 4) = true →
        let v := (u.modCtx g t fun z => { z with mode := .wait, waiting := .turn mask rd }).modCell g fun z =>
          { z with waiters := z.waiters ++ [t] }
        (named.find? (fun n => (own.turn n).oldest.isSome) = none → s.Ends g t (.turnWait g t) v) ∧
        (∀ n, named.find? (fun n => (own.turn n).oldest.isSome) = some n →
          s.Ends g t (.turnWait g t) (dispatchTurn v g n)))) ∧
    (i = .hret →
      let to_ := (x.getS 29).toNat
      let taken := own.takenBy t (x.getS 28).toNat
      (taken = none → s.Raises g t i (.hret g t) 0x08 0) ∧
      (∀ n r, taken = some (n, r) →
        (to_ = 0 → s.Ends g t (.hret g t) (exitThread (retireRecord u g n r) g t)) ∧
        (to_ ≠ 0 → pcOk to_ = true → s.Ends g t (.hret g t) ((retireRecord u g n r).modCtx g t (·.at_ to_))) ∧
        (to_ ≠ 0 → pcOk to_ = false → s.Raises g t i (.hret g t) 0x07 0)))) ∧
  (∀ (s : State) (g t : Nat) (r : Record),
    let v := s.modCell g fun c => (c.modTurn t (·.retire r)).showTurn t
    (r.chan = none → retireRecord s g t r = v) ∧
    (∀ n, r.chan = some n →
      let x := (s.cell g).rx n
      ∃ w : State, retireRecord s g t r = w.modCell g (fun c => { c with ch := { c.ch with sysQ := c.ch.sysQ ++
          [{ kind := 2, remote := decide (x.srcSpan ≠ 255), chapel := s.chapelIx g, dest := x.src, src := g
             span := if x.srcSpan = 255 then 0 else x.srcSpan
             tag := BitVec.ofNat 32 ((x.retired + 1) % 65536 + 65536 * x.handle) }] } }) ∧
        w = (v.modCell g (·.modRx n fun y => { y with retired := (y.retired + 1) % 65536 })).modCell g
          (·.modRx n fun y => { y with creditOut := true })))

/-- MESSAGE_ARRIVAL takes the oldest message off: in an EVICTING chapel, or in none, it is discarded; for a turn not enabled
it is logged; else its record joins the ring, or with the ring full or a spill under way the spill region, its header and
payload in the store and every byte outside the record and the turn's status entry unchanged; with neither free it is a
class K fault (R272, R273). A channel message is written into its reserved slot and joins its turn in CHSEQ order, or is
discarded where no reservation or free slot is named (R284). RECORD_DISPATCH gives a turn's oldest record to the longest
waiting thread, which goes on at the handler with s26 to s29 and its rd written, or to a FREE context started there; with
no VALID handler entry the record is retired and logged (R268, R276-R278). CHANNEL_OPEN reserves a channel number and a
base, or answers 63, and repeats its first answer to a repeat (R282, R360). CHANNEL_OPEN_REPLY opens the handle with all
credits, or frees it and answers all ones. CHANNEL_CREDIT sets the handle's credits from the count of retired messages,
and frees a closing handle with every credit back (R285, R286). CREDIT_REPEAT sends the latest credit again, OPEN_REPEAT
the open up to 8 times, and CHANNEL_OPEN_GIVE_UP then frees the handle and answers all ones (R360). -/
def Obligations.MessagesAndChannels : Prop :=
  (∀ (s : State) (g : Nat) (m : Message) (rest : List Message), s.cellClocked g = true →
    (s.cell g).arrivals = m :: rest →
    let u := { s with emitted := [] }.modCell g fun c => { c with arrivals := rest }
    let c := s.chapelIx g
    let size := recordSize m.len
    let lost := (s.chapel c).state = .evicting ∨ s.chapelOfCell g = none
    let tu := (s.cell g).turn m.turn
    let written (v : State) (turn at_ n : Nat) (bs : List Byte) : Prop :=
      v = { u with cells := v.cells, freeCount := v.freeCount } ∧ (∀ h, h ≠ g → v.cell h = u.cell h) ∧
      (∀ b, b < at_ ∨ at_ + max n bs.length ≤ b → b < 0x7F500 + 16 * turn ∨ 0x7F500 + 16 * turn + 16 ≤ b →
        (v.cell g).store.read b = (s.cell g).store.read b) ∧
      (∀ k, (h : k < bs.length) → at_ + k < 0x7F500 + 16 * turn ∨ 0x7F500 + 16 * turn + 16 ≤ at_ + k →
        (v.cell g).store.read (at_ + k) = bs[k])
    let placed (spill : Bool) (off skip : Nat) : Prop := ∃ v : State, exec (.messageArrival g) s = .next v ∧
      let at_ := (if spill then tu.spillBase else tu.ringBase) + off
      let header := recordHeader m (m.rel (s.chapel c)) spill
      written v m.turn at_ size (header ++ m.payload) ∧
      (∀ n, n ≠ m.turn → (v.cell g).turn n = (s.cell g).turn n) ∧
      (v.cell g).turn m.turn =
        let r : Record := ⟨at_, size, size + skip, header, spill, none, none, false⟩
        let y := { tu with records := tu.records ++ [r] }
        if spill then { y with
          spillTail := (off + size) % tu.spillSize, spillHeld := tu.spillHeld + size + skip, spillActive := true
          spilledTotal := satInc 0xFFFFFFFF tu.spilledTotal }
        else { y with ringTail := (off + size) % tu.ringSize, ringHeld := tu.ringHeld + size + skip }
    let ring := if tu.spillActive then none
      else regionPlace tu.ringSize (tu.regionHead false) tu.ringTail tu.ringHeld size
    let spill := if tu.spillUsed + size ≤ tu.spillSize
      then regionPlace tu.spillSize (tu.regionHead true) tu.spillTail tu.spillHeld size else none
    let detail := messageDetail m.turn m.handler m.src g m.srcSpan m.tid m.tag
    (lost → exec (.messageArrival g) s = .next u) ∧
    (¬ lost → m.chan = none → tu.ringSize = 0 →
      exec (.messageArrival g) s = .next (logC u 0 0x0118 (locCell g) c detail)) ∧
    (∀ off skip, ¬ lost → m.chan = none → tu.ringSize ≠ 0 → ring = some (off, skip) → placed false off skip) ∧
    (∀ off skip, ¬ lost → m.chan = none → tu.ringSize ≠ 0 → ring = none → spill = some (off, skip) →
      placed true off skip) ∧
    (¬ lost → m.chan = none → tu.ringSize ≠ 0 → ring = none → spill = none → exec (.messageArrival g) s =
      .next (faultK (u.modCell g fun x => (x.modTurn m.turn fun y => { y with overflowed := true }).showTurn m.turn) c
        0x011A (locCell g) detail false false)) ∧
    (∀ n seq, ¬ lost → m.chan = some (n, seq) →
      let x := (s.cell g).rx n
      let turned := x.used = false ∨ x.credits ≤ (seq + 65536 - x.next) % 65536 ∨ ∃ e ∈ x.early, e.1 = seq
      let m' := { m with turn := x.turn, handler := x.handler, tag := x.tag, chan := some (n, seq) }
      let header := recordHeader m' (m'.rel (s.chapel c)) false
      let at_ := x.base + seq % max 1 x.credits * x.slotSize
      (turned → exec (.messageArrival g) s = .next u) ∧
      (¬ turned → ∃ v w : State, exec (.messageArrival g) s = .next v ∧
        v = w.modCell g (fun y => ((releaseEarly 64 (y.modRx n fun z =>
          { z with early := z.early ++ [(seq, m')], creditOut := false }) n).showTurn x.turn)) ∧
        w.cell g = { u.cell g with store := (w.cell g).store } ∧
        (∀ t, written (w.modCell g id) t at_ x.slotSize (header ++ m.payload))))) ∧
  (∀ (s : State) (g t u : Nat) (started : Bool) (r : Record),
    let h := fieldN r.header 2 1
    let e := leNat (Memory.readBytes (s.cell g).store (0x7F000 + 4 * h) 4)
    let pc := e % 524288
    let z := { s with emitted := [] }
    ((s.cell g).turn t).oldest = some r → s.taker g t = some (u, started) → g < 3072 → t < 8 → s.cellRuns g = true →
    let marked (c : Cell) := (c.modTurn t fun y => { y with
      records := y.records.map fun q => if q = r then { q with taken := some u } else q })
    let dispatched (x : Ctx) (s29 : Word) := (((x.setS 26 (BitVec.ofNat 64 (fieldN r.header 0 8))).setS 27
      (BitVec.ofNat 64 (fieldN r.header 8 4))).setS 28 (BitVec.ofNat 64 (r.offset + 16))).setS 29 s29
    let x := s.ctx g u
    (e < 2 ^ 31 → exec (.recordDispatch g t) s = .next (logC (retireRecord z g t r) 0 0x0119 (locCell g)
      (s.chapelIx g) (messageDetail t h ((s.chapel (s.chapelIx g)).globalOf (fieldN r.header 4 2 % 4096)) g
        (fieldN r.header 6 1) (fieldN r.header 7 1 % 16) (BitVec.ofNat 32 (fieldN r.header 8 4))))) ∧
    (2 ^ 31 ≤ e → started = false →
      let v := (z.modCell g fun c => { c with waiters := c.waiters.erase u }).modCtx g u fun y =>
        { y with waiting := .none, mode := if y.mode = .wait then .ready else y.mode }
      (pcOk pc = true → exec (.recordDispatch g t) s = .next (((v.modCell g marked).modCtx g u fun y =>
        dispatched (y.setS x.waiting.turnRd (BitVec.ofNat 64 t)) (BitVec.ofNat 64 (x.pc.toNat + 4))).modCtx g u
          (·.at_ pc))) ∧
      (pcOk pc = false → exec (.recordDispatch g t) s = .next (raise v g u 0x07 0))) ∧
    (2 ^ 31 ≤ e → started = true →
      let v := ((z.modCtx g u fun _ => Ctx.started pc 0#64 (s.chapel (s.chapelIx g)).cycles.toNat).modCell g
        marked).modCtx g u fun y => dispatched y 0#64
      exec (.recordDispatch g t) s = .next (if pcOk pc then v else raise v g u 0x07 0))) ∧
  (∀ (s : State) (g : Nat) (f : ChFlit) (rest : List ChFlit), s.cellClocked g = true → (s.cell g).sysIn = f :: rest →
    let u := { s with emitted := [] }.modCell g fun c => { c with sysIn := rest }
    let tag := f.tag.toNat
    let queued (v : State) (q : ChFlit) := v.modCell g fun c => { c with ch := { c.ch with sysQ := c.ch.sysQ ++ [q] } }
    (f.kind = 3 →
      let handle := tag / 2 ^ 22 % 64
      let bytes := tag % 256 * recordSize (tag / 256 % 2 ^ 14)
      let old := (s.cell g).chanRx.find? fun e =>
        e.2.used && decide (e.2.src = f.src ∧ e.2.srcSpan = f.srcSpan ∧ e.2.handle = handle)
      let reply (v : State) (n : Nat) := queued v
        { kind := 4, remote := decide (f.srcSpan ≠ 255), chapel := s.chapelIx g, dest := f.src, src := g
          span := if f.srcSpan = 255 then 0 else f.srcSpan, tag := BitVec.ofNat 32 (n + 64 * handle) }
      (∀ e, old = some e → exec (.channelOpen g) s = .next (reply u e.1)) ∧
      (old = none → (s.cell g).reserve f.turn bytes = none → exec (.channelOpen g) s = .next (reply u 63)) ∧
      (∀ n base, old = none → (s.cell g).reserve f.turn bytes = some (n, base) →
        exec (.channelOpen g) s = .next (reply (u.modCell g (·.modRx n fun _ =>
          { used := true, src := f.src, srcSpan := f.srcSpan, handle := handle, turn := f.turn, handler := f.handler
            tag := BitVec.ofNat 32 (fieldN f.payload 0 4), base := base, slotSize := recordSize (tag / 256 % 2 ^ 14)
            credits := tag % 256 })) n))) ∧
    (f.kind = 4 →
      let h := tag / 64 % 64
      let x := (s.cell g).tx h
      (x.phase ≠ 0 → exec (.channelOpenReply g) s = .next u) ∧
      (x.phase = 0 → tag % 64 = 63 → exec (.channelOpenReply g) s =
        .next (u.modCell g fun c => (c.modTx h fun _ => ChanTx.fresh).openAnswer h (BitVec.allOnes 64))) ∧
      (x.phase = 0 → tag % 64 ≠ 63 → exec (.channelOpenReply g) s = .next (u.modCell g fun c =>
        (c.modTx h fun y => { y with phase := 1, chan := tag % 64, credits := y.total }).openAnswer h
          (BitVec.ofNat 64 h)))) ∧
    (f.kind = 2 →
      let count := tag % 65536
      let h := tag / 65536 % 64
      let x := (s.cell g).tx h
      let credits := x.total - (x.sent + 65536 - count) % 65536
      let v := u.modCell g fun c => (c.modTx h fun y => { y with retired := count, credits := credits }).retryWhere
        fun w => decide (w = Waiting.chanCredit h ∧ credits ≠ 0)
      (x.phase ≠ 1 → x.phase ≠ 2 → exec (.channelCredit g) s = .next u) ∧
      (x.phase = 1 ∨ x.phase = 2 → exec (.channelCredit g) s =
        .next (if x.phase = 2 ∧ credits = x.total then finishClose v g h else v)))) ∧
  (∀ (s : State) (g : Nat), s.cellClocked g = true → let u := { s with emitted := [] }
    (∀ n, n < 64 → ((s.cell g).rx n).used = true → ((s.cell g).rx n).creditOut = true →
      exec (.creditRepeat g n) s = .next (sendCredit u g n)) ∧
    (∀ h, h < 64 → ((s.cell g).tx h).phase = 0 →
      let x := (s.cell g).tx h
      (x.repeats < 8 → exec (.openRepeat g h) s = .next
        ((u.modCell g (·.modTx h fun y => { y with repeats := y.repeats + 1 })).modCell g fun c =>
          { c with ch := { c.ch with sysQ := c.ch.sysQ ++ [openFlit s g h x] } })) ∧
      (x.repeats = 8 → exec (.channelOpenGiveUp g h) s =
        .next (u.modCell g fun c => (c.modTx h fun _ => ChanTx.fresh).openAnswer h (BitVec.allOnes 64)))))

/-- AISLE_PACKET_ARRIVAL takes the head of the link: a damaged header is dropped, damaged payload goes on flipped, a packet
of an EVICTING chapel is dropped, one whose chapel does not own the router or its next output is logged and dropped, any
other joins the input's slots with its outputs (R295, R319, R320). Dimension order sends a packet along its row first
(R302). OUTPUT_GRANT puts the best port's head on the output's link; INJECTION_CLAIM notes the claim (R297-R300).
AISLE_EJECTION: a bad trailer is counted and logged; an assured packet inside the window and not seen is delivered and
acknowledged, a seen or older one counted and acknowledged, any other logged (R318, R322); a plain one is delivered, a gap
logged (R326); a cast's data is written and counted; a result is held, an operand joins the slots' inbox. A data packet
changes exactly its bytes of the store. CAST_TRACKER_TIMEOUT closes the tracker and posts its record where NOTIFY is set
(R315). UNI_A_ACK drops the copy it names, and completes an engine's units; UNI_A_RETRANSMIT queues the copy again, counted
(R321); UNI_A_EXHAUSTED drops it, counted, and stops the engine with TIMEOUT or raises a class K fault (R324). -/
def Obligations.AisleTraffic : Prop :=
  (∀ (s : State) (g : Nat) (d : Dir) (damage : Damage) (p : AislePkt) (rest : List AislePkt),
    s.cellClocked g = true → (s.cell g).aisle.wire d = p :: rest →
    let u := { s with emitted := [] }.modCell g fun c => { c with aisle := c.aisle.modWire d fun _ => rest }
    let c := p.chapel
    let h := s.chapel c
    let runs (v : State) : Prop := exec (.aislePacketArrival g d damage) s = .next v
    let q := match damage with
      | .payload i b => { p with payload := p.payload.set i (byteAt p.payload i ^^^ b) }
      | _ => p
    let st := h.steer g (some d) q
    let astray := st.outs.find? fun o => !(h.folds g o || h.holds (stepDir g o))
    (damage = .header ∨ h.state = .evicting → runs u) ∧
    (damage ≠ .header → h.state ≠ .evicting → s.chapelOfCell g ≠ some c → runs (logC u 0 0x0120
      (locAisle ((s.chapel (s.chapelIx g)).linkFrom g d)) c (fabricDetail (dirCode d) 0 q.src q.dest q.seq 0))) ∧
    (damage ≠ .header → h.state ≠ .evicting → s.chapelOfCell g = some c →
      (∀ o, astray = some o → runs (logC u 0 0x0120 (locAisle g) c
        (fabricDetail (dirCode o) 0 st.pkt.src st.pkt.dest st.pkt.seq 0))) ∧
      (astray = none → st.outs = [] → st.eject = false → runs u) ∧
      (astray = none → st.outs ≠ [] ∨ st.eject = true → runs (u.modCell g fun y =>
        { y with aisle := y.aisle.modLane d fun l => l ++ [⟨st.pkt, st.outs, st.eject⟩] })))) ∧
  (∀ (h : Chapel) (g : Nat) (lane : Option Dir) (p : AislePkt), p.route = 0 → p.outbound = false →
    (h.steer g lane p).pkt = p ∧ (h.steer g lane p).eject = decide (cellX g = cellX p.dest ∧ cellY g = cellY p.dest) ∧
    (h.steer g lane p).outs =
      if cellX g ≠ cellX p.dest then
        [if (if h.width ≠ 16 then cellX g < cellX p.dest else (cellX p.dest + 64 - cellX g) % 64 ≤ 32) then .e else .w]
      else if cellY g ≠ cellY p.dest then
        [if (if h.height ≠ 12 then cellY g < cellY p.dest else (cellY p.dest + 48 - cellY g) % 48 ≤ 24) then .s else .n]
      else []) ∧
  (∀ (s : State) (g : Nat) (out : Dir), s.cellClocked g = true → let u := { s with emitted := [] }
    (∀ p more x slots, grantOrder s g out = p :: more → (s.cell g).aisle.port p = x :: slots →
      let far := (s.chapel x.pkt.chapel).far g out
      let v := u.modCell g fun c => (c.serve p fun y =>
        { y with outs := y.outs.filter fun d => decide (d ≠ out) }).modAisle fun a => a.granted p out
      ((s.chapel x.pkt.chapel).state = .evicting → exec (.outputGrant g out) s = .next v) ∧
      ((s.chapel x.pkt.chapel).state ≠ .evicting → exec (.outputGrant g out) s =
        .next (v.modCell far.1 fun c => { c with aisle := c.aisle.modWire far.2 fun l => l ++ [x.pkt] }))) ∧
    (grantOrder s g out = [] → exec (.outputGrant g out) s = .next s) ∧
    (∀ gate : Bool, (s.cell g).aisle.wants (if gate then .gate else .injection) out = true →
      exec (.injectionClaim g out gate) s = .next (u.modCell g fun c => { c with aisle :=
        if gate then { c.aisle with claimGate := dirSet c.aisle.claimGate out true }
        else { c.aisle with claimInj := dirSet c.aisle.claimInj out true } }))) ∧
  (∀ (s : State) (g : Nat) (src : AisleSrc) (x : Slot) (slots : List Slot), s.cellClocked g = true →
    (s.cell g).aisle.port (ejectPort src) = x :: slots → x.eject = true → contribWaits (s.cell g) x.pkt src = false →
    s.mayInject g = true ∨ src ≠ .injection →
    let p := x.pkt
    let u := { s with emitted := [] }.modCell g fun c => c.serve (ejectPort src) fun y => { y with eject := false }
    let ends (v : State) : Prop := exec (.aisleEjection g src) s = .next v
    let good := trailerGood s g p
    let local_ := (s.chapel p.chapel).state ≠ .evicting ∧ p.outbound = false
    let bad := checkFailed u g p
    let put (v : State) (m : Message) := v.modCell g fun c => { c with arrivals := c.arrivals ++ [m] }
    let acked (v : State) := v.modCell g fun c => { c with ch := { c.ch with sysQ := c.ch.sysQ ++
      [{ kind := 1, remote := decide (p.srcSpan ≠ 255), chapel := v.chapelIx g, dest := p.src, src := g
         span := if p.srcSpan = 255 then 0 else p.srcSpan
         tag := BitVec.ofNat 32 (p.seq + if p.engine then 65536 else 0) }] } }
    let key := uniKey p.remote p.srcSpan p.src
    let w := tget RxWin.fresh (u.cell g).uni.rx key
    let n := (p.seq + 65536 - w.ne) % 65536
    let logged (cause : Nat) := logC u 0 cause (locCell g) (s.chapelIx g) (fabricDetail 0 0 p.src g p.seq 0)
    ((s.chapel p.chapel).state = .evicting → ends u) ∧
    ((s.chapel p.chapel).state ≠ .evicting → p.outbound = true → ends (if slotUp s p.chapel p.span then
      u.modCell g fun c => { c with aisle := { c.aisle with gateOut := c.aisle.gateOut ++ [p] } } else u)) ∧
    (local_ → p.cls = 0 →
      (good = false → ends bad) ∧
      (good = true → n < 64 → w.bitmap.getLsbD n = false → ends (acked ((deliver u g p).modCell g (·.modUni fun y =>
        { y with rx := tput RxWin.fresh y.rx key (RxWin.slide 64 { w with bitmap := w.bitmap ||| (1#64 <<< n) }) })))) ∧
      (good = true → (n < 64 ∧ w.bitmap.getLsbD n = true) ∨ 32768 ≤ n →
        ends (acked (u.modBayAisle g fun b => { b with duplicates := satInc 0xFFFFFFFF b.duplicates }))) ∧
      (good = true → 64 ≤ n → n < 32768 → ends (logged 0x0122))) ∧
    (local_ → p.cls = 1 →
      (good = false → ends bad) ∧
      (good = true → ends (deliver ((if tget 0 (u.cell g).uni.pRx key = p.seq then u else logged 0x0123).modCell g
        (·.modUni fun y => { y with pRx := tput 0 y.pRx key ((p.seq + 1) % 65536) })) g p))) ∧
    (local_ → p.cls = 2 → p.kind = 2 → ends (if good then holdResult u g p.result p.remote else bad)) ∧
    (local_ → p.cls = 2 → p.kind ≠ 2 → ends (countCast (if good then deliver u g p else bad) g p good)) ∧
    (local_ → p.cls = 3 → ends (if good then u.modCell g fun c =>
      { c with sum := { c.sum with inbox := c.sum.inbox ++ [p] } } else releaseDamaged bad g p))) ∧
  (∀ (s : State) (g : Nat) (p : AislePkt), p.kind ≠ 1 → let off := fieldN p.kindBytes 0 4 % 524288
    deliver s g p = { s with cells := (deliver s g p).cells } ∧
    (∀ h, h ≠ g → (deliver s g p).cell h = s.cell h) ∧
    (deliver s g p).cell g = { s.cell g with store := ((deliver s g p).cell g).store } ∧
    (∀ b, b < off ∨ off + p.payload.length ≤ b → ((deliver s g p).cell g).store.read b = (s.cell g).store.read b) ∧
    (∀ k, (h : k < p.payload.length) → ((deliver s g p).cell g).store.read (off + k) = p.payload[k])) ∧
  (∀ (s : State) (g i : Nat), s.fabricRuns g = true → let u := { s with emitted := [] }
    (∀ t, (s.cell g).uni.casts[i]? = some t →
      let v := u.modCell g (·.modUni fun y => { y with casts := y.casts.erase t })
      let tag := t.copySeq + (if t.engine then 65536 else 0) + 131072
      exec (.castTrackerTimeout g i) s = .next (if t.notify then v.modCell g fun c => { c with arrivals := c.arrivals ++
        [⟨8, t.handler, true, t.src, t.srcSpan, t.turn, 0, BitVec.ofNat 32 tag, none,
          le 4 (t.lastIndex + 1) ++ le 4 t.count⟩] } else v)) ∧
    (∀ y, (s.cell g).uni.assured[i]? = some y →
      let dropped (v : State) := v.modCell g fun c =>
        (c.modUni fun z => { z with assured := z.assured.erase y }).aisleHold
      (y.sends < 8 →
        let p := AislePkt.sealed { y.pkt with resend := true }
        exec (.uniARetransmit g i) s = .next (aislePush ((u.modCell g (·.modUni fun z =>
          { z with assured := z.assured.set i ⟨p, y.sends + 1⟩ })).modBayAisle g fun b =>
            { b with resends := satInc 0xFFFFFFFF b.resends, lastResendDest := p.dest }) g none p)) ∧
      (y.sends = 8 →
        let v := (dropped u).modBayAisle g fun b => { b with exhausted := satInc 0xFFFFFFFF b.exhausted }
        (y.pkt.kind = 0 → exec (.uniAExhausted g i) s =
          .next (uniUnitsFail v g (if y.pkt.engine then 1 else 0) (y.pkt.destKey * 65536 + y.pkt.seq) 6)) ∧
        (y.pkt.kind ≠ 0 → exec (.uniAExhausted g i) s = .next (faultK v (s.chapelIx g) 0x0124 (locCell g)
          (fabricDetail 0 0 y.pkt.src y.pkt.dest y.pkt.seq 0) true false))))) ∧
  (∀ (s : State) (g : Nat) (f : ChFlit) (rest : List ChFlit), s.cellClocked g = true → (s.cell g).sysIn = f :: rest →
    f.kind = 1 →
    let u := { s with emitted := [] }.modCell g fun c => { c with sysIn := rest }
    let named := (s.cell g).uni.assured.find? fun y => decide (y.pkt.seq = f.tag.toNat % 65536 ∧
      y.pkt.engine = bitN f.tag.toNat 16 ∧ y.pkt.destKey = uniKey (decide (f.srcSpan ≠ 255)) f.srcSpan f.src)
    (named = none → exec (.uniAAck g) s = .next u) ∧
    (∀ y, named = some y →
      let v := u.modCell g fun c => (c.modUni fun z => { z with assured := z.assured.erase y }).aisleHold
      exec (.uniAAck g) s = .next (if y.pkt.kind = 0 then
        uniUnitsDone v g (if y.pkt.engine then 1 else 0) (y.pkt.destKey * 65536 + y.pkt.seq) else v)))

/-- SUM_OPERAND_ARRIVAL takes the oldest operand: one from no input of the entry, or for a slot that holds an operand, is
discarded; the operand of an instance already passed flips its slot's release toggle and is logged unless it says FAILED;
one that opens or joins the present instance enters its slot; one of a later instance first fails the present one with
SUM_MISMATCH; a FAILED operand fails its instance (R346, R348, R349). SUM_COMBINE_DONE of an instance with every input
present folds the operands in the port order E, W, S, N after the contribution, releases the slots, advances NEXT and sends
the partial sum to the parent, or at the root makes the result (R336-R338). SUM_SLOT_TIMEOUT fails an instance that lacks
an operand (R347). A failed instance releases its slots, sets NEXT, logs one entry and goes on as FAILED with no data.
SUM_RELEASE_TOGGLE and SUM_RELEASE_WAIT_TIMEOUT send the oldest packet that waits for the parent, or end the wait (R340).
SUM_RESULT_ARRIVAL ends every posted wait the result fits, writing its bytes unless it FAILED, else it takes one of two
landing buffers, else it is logged (R343, R345). SUM_WAIT_TIMEOUT ends the wait with status 1 (R344). -/
def Obligations.SumsInTheFabric : Prop :=
  (∀ (s : State) (g : Nat) (p : AislePkt) (rest : List AislePkt), s.fabricRuns g = true →
    (s.cell g).sum.inbox = p :: rest →
    let u := { s with emitted := [] }.modCell g fun c => { c with sum := { c.sum with inbox := rest } }
    let h := s.chapel (s.chapelIx g)
    let grp := p.sumGroup
    let sg := h.sum grp
    let x := (s.cell g).sumInst grp
    let inst := (p.seq, p.sumSlice)
    let ends (v : State) : Prop := exec (.sumOperandArrival g) s = .next v
    let entered (v : State) (i : Nat) := v.modCell g (·.modSum grp fun y => { y with operands := y.operands ++
      [⟨i, p.seq, p.sumSlice, p.sumCount, sumElems sg i p.payload⟩] })
    let flipped (v : State) (i : Nat) := v.modCell g (·.modSum grp (·.flip i))
    let failed (v : State) (i : Nat) := failInst (flipped v i) g grp inst (failCause p.sumCause) (nextInst sg inst)
    let opened := u.modCell g (·.modSum grp fun y => { y with next := some inst })
    (p.sumInput g = none → ends u) ∧
    (∀ i, p.sumInput g = some i →
      let named := sg.kind ≠ 0 ∧ i ∈ sumInputs h sg g ∧ x.operand i = none
      let passed := ∃ n, x.next = some n ∧ olderInst inst n = true
      (¬ named → ends u) ∧
      (named → passed → p.sumFailed = true → ends (flipped u i)) ∧
      (named → passed → p.sumFailed = false → ends (logC (flipped u i) 0 0x0074 (locCell g) (s.chapelIx g)
        (fabricDetail 0 grp p.src g p.seq p.sumSlice))) ∧
      (named → ¬ passed → x.next = none ∨ x.operands = [] →
        ends (if p.sumFailed then failed opened i else entered opened i)) ∧
      (named → ¬ passed → x.next = some inst → x.operands ≠ [] →
        ends (if p.sumFailed then failed u i else entered u i)) ∧
      (∀ n, named → ¬ passed → x.next = some n → n ≠ inst → x.operands ≠ [] →
        let v := failInst u g grp n 0x72 inst
        ends (if p.sumFailed then failed v i else entered v i)))) ∧
  (∀ (s : State) (g grp : Nat), s.fabricRuns g = true →
    let u := { s with emitted := [] }
    let h := s.chapel (s.chapelIx g)
    let sg := h.sum grp
    let x := (s.cell g).sumInst grp
    let inputs := sumInputs h sg g
    let inst := x.next.getD (0, 0)
    let next_ := if inst.2 + 1 < sg.slices then (inst.1, inst.2 + 1) else ((inst.1 + 1) % 65536, 0)
    (sg.kind ≠ 0 → x.complete inputs = true →
      let os := inputs.filterMap x.operand
      ∃ first rest, os = first :: rest ∧
        let elems := rest.foldl (fun acc y => List.zipWith (sumStep sg.op) acc y.elems) first.elems
        exec (.sumCombineDone g grp) s = .next (sumOutcome (u.modCell g (·.modSum grp fun y =>
          { y.release with next := some next_ })) g grp inst false ((os.map SumOperand.count).sum % 65536) 0
          (elems.flatMap fun v => le 4 v.toNat))) ∧
    (x.operands ≠ [] → x.complete inputs = false →
      exec (.sumSlotTimeout g grp) s = .next (failInst u g grp inst 0x71 next_)) ∧
    (∀ b, parentToggle s g grp = some b → x.seen ≠ b →
      let v := u.modCell g (·.modSum grp fun y => { y with seen := b })
      (x.ready = [] → exec (.sumReleaseToggle g grp) s =
        .next (v.modCell g (·.modSum grp fun y => { y with sentWaits := false }))) ∧
      (∀ p rest, x.ready = p :: rest → exec (.sumReleaseToggle g grp) s =
        .next (sumPush (v.modCell g (·.modSum grp fun y => { y with sentWaits := true, ready := rest })) g p))) ∧
    (x.sentWaits = true →
      (x.ready = [] → exec (.sumReleaseWaitTimeout g grp) s =
        .next (u.modCell g (·.modSum grp fun y => { y with sentWaits := false }))) ∧
      (∀ p rest, x.ready = p :: rest → exec (.sumReleaseWaitTimeout g grp) s =
        .next (sumPush (u.modCell g (·.modSum grp fun y => { y with sentWaits := true, ready := rest })) g p)))) ∧
  (∀ (v : State) (g grp cause : Nat) (inst next_ : Nat × Nat),
    failInst v g grp inst cause next_ = sumOutcome (logKeyed (v.modCell g (·.modSum grp fun y =>
      { y.release with next := some next_ })) (2 ^ 40 + grp * 4096 + g) oneMs cause (locCell g) (v.chapelIx g)
        (fabricDetail 0 grp 0 0 inst.1 inst.2)) g grp inst true 0 cause (zeros 64)) ∧
  (∀ (v : State) (g grp count cause : Nat) (inst : Nat × Nat) (failed : Bool) (payload : List Byte),
    let sg := (v.chapel (v.chapelIx g)).sum grp
    let parent := bitsN ((v.chapel (v.chapelIx g)).sumEntry sg g) 8 6
    (parent = 0 → sumOutcome v g grp inst failed count cause payload =
      rootResult v g ⟨grp, inst.1, inst.2, failed, cause, count, payload⟩) ∧
    (parent ≠ 0 →
      let p := parentPacket v g grp inst ((if failed then 2 else 0) + if sg.op = 1 ∧ failed = false then 4 else 0) count
        cause payload
      sumOutcome v g grp inst failed count cause payload =
        if ((v.cell g).sumInst grp).sentWaits then v.modCell g (·.modSum grp fun y => { y with ready := y.ready ++ [p] })
        else sumPush (v.modCell g (·.modSum grp fun y => { y with sentWaits := true })) g p)) ∧
  (∀ (s : State) (g : Nat) (r : SumResult) (rest : List SumResult), s.fabricRuns g = true →
    (s.cell g).sum.results = r :: rest →
    let u := { s with emitted := [] }.modCell g fun c => { c with sum := { c.sum with results := rest } }
    let hits := (s.cell g).sum.posted.filter fun p => decide (r.group = p.group ∧ r.round = p.round ∧ r.slice = p.slice)
    let landing := (s.cell g).sum.landing
    let ended (v : State) (p : SumWait) :=
      let v := if r.failed then v else v.modCell g fun c => { c with store := c.store.writeBytes p.offset r.bytes }
      (v.modCell g fun c => { c with sum := { c.sum with posted := c.sum.posted.erase p } }).modCtx g p.tid fun x =>
        x.leave x.waiting.sumRd (if r.failed then 1#64 else 0#64)
    (hits ≠ [] → exec (.sumResultArrival g) s = .next (hits.foldl ended u)) ∧
    (hits = [] → landing.length < 2 → exec (.sumResultArrival g) s =
      .next (u.modCell g fun c => { c with sum := { c.sum with landing := c.sum.landing ++ [r] } })) ∧
    (hits = [] → 2 ≤ landing.length → exec (.sumResultArrival g) s = .next (logC u 0 0x0075 (locCell g) (s.chapelIx g)
      (fabricDetail 0 r.group 0 g r.round r.slice)))) ∧
  (∀ (s : State) (g t : Nat) (p : SumWait), s.fabricRuns g = true →
    (s.cell g).sum.posted.find? (fun p => decide (p.tid = t)) = some p →
    exec (.sumWaitTimeout g t) s = .next (({ s with emitted := [] }.modCell g fun c =>
      { c with sum := { c.sum with posted := c.sum.posted.erase p } }).modCtx g p.tid fun x =>
        x.leave x.waiting.sumRd 1#64))

/-- CHANTRY_FLIT_ARRIVAL: the flits at the head of the named links that fail the hop check, or whose chapel does not own the
router, are taken off and logged; the others are placed in the order of rank, AGE first (R352, R353, R355). A flit placed
at its destination ejects, at the gate cell leaves, else takes the first free productive output, else any free one of the
chapel, one hop older, and nothing changes where none is free. CHANTRY_INJECTION lets the gate entry or the injection port
in, in turn; nothing enters under HOLD but a starved port's flit (R354, R361). CHANTRY_HOLD asserts HOLD. AMB_FLIT_ARRIVAL
moves the flit of a link into its channel, or discards and logs a malformed one, and runs the node for one cycle, in which
every output sends the best flit for it (R369, R378). AMB_REQUEST_AT_TARGET answers ABORTED for a bay that is not ON,
refuses what fails the target check (R385), and performs the rest: a WRITE changes exactly its bytes of the cell's store, a
READ answers them, an atomic does both; HBM, a host port and a Transept port take theirs. AMB_RESPONSE ends the access of
the tracker that waits for it, and logs any other as late (R380). TRACKER_TIMEOUT ends a sent access with TIMEOUT and zero
data (R381). -/
def Obligations.ChantryAndAmbulatory : Prop :=
  (∀ (s : State) (g : Nat) (ins bad : List Dir), s.cellClocked g = true →
    let u := { s with emitted := [] }.modCell g fun c =>
      { c with ch := { c.ch with taken := [], ejTaken := false, exitTaken := false } }
    let heads := (dirs.filter ins.contains).filterMap fun d => ((s.cell g).ch.wire d).head?.map fun f => (d, f)
    let sound (e : Dir × ChFlit) : Bool := !bad.contains e.1 && decide (s.chapelOfCell g = some e.2.chapel)
    let drop (v : State) (d : Dir) := v.modCell g fun c => { c with ch := c.ch.modWire d fun l => l.drop 1 }
    let refused (v : State) (e : Dir × ChFlit) :=
      let from_ := stepDir g (dirOpp e.1)
      let detail := fabricDetail (dirCode e.1) 0 e.2.src e.2.dest 0 0
      if bad.contains e.1 then
        logKeyed (drop v e.1) (2 ^ 41 + bayOf g) oneMs 0x0128 (locChantry from_) (v.chapelIx g) detail
      else logC (drop v e.1) 0 0x0129 (locChantry from_) e.2.chapel detail
    let v := (heads.filter fun e => !sound e).foldl refused u
    ∃ ranked : List (Dir × ChFlit), ranked.Perm (heads.filter sound) ∧
      ranked.Pairwise (fun a b => flitRank a.1 a.2 ≤ flitRank b.1 b.2) ∧
      exec (.chantryFlitArrival g ins bad) s = .next (settleHold
        (ranked.foldl (fun v e => (placeFlit (drop v e.1) g e.2).getD v) v) g)) ∧
  (∀ (v : State) (g : Nat) (f : ChFlit),
    let h := v.chapel f.chapel
    let n := (v.cell g).ch
    let target := if f.outbound then h.globalOf 0 else f.dest
    let ejects := f.outbound = false ∧ f.dest = g ∧ n.ejTaken = false
    let exits := f.outbound = true ∧ h.globalOf 0 = g ∧ n.exitTaken = false ∧ n.gateOut.length < 16
    let near := n.freeOut (h.productive g target)
    let any := n.freeOut ([Dir.e, .s, .w, .n].filter (h.ownsLink g))
    (ejects → placeFlit v g f = some (ejectFlit (v.modCell g (·.modCh fun n => { n with ejTaken := true })) g f)) ∧
    (exits → placeFlit v g f = some (v.modCell g (·.modCh fun n => { n with
      exitTaken := true, gateOut := if slotUp v f.chapel f.span then n.gateOut ++ [f] else n.gateOut }))) ∧
    (∀ d, ¬ ejects → ¬ exits → near = some d ∨ (near = none ∧ any = some d) → placeFlit v g f =
      some ((v.modCell g (·.modCh fun n => { n with taken := n.taken ++ [d] })).modCell (stepDir g d) (·.modCh fun m =>
        { (m.modWire d fun l => l ++ [{ f with age := satInc 255 f.age }]) with
          holdAge := m.holdAge || (n.holdAge && decide (f.age = 255)) }))) ∧
    (¬ ejects → ¬ exits → near = none → any = none → placeFlit v g f = none)) ∧
  (∀ (s : State) (g : Nat), s.cellClocked g = true →
    let u := { s with emitted := [] }
    let n := (s.cell g).ch
    let held := s.held (s.chapelIx g)
    let gated := if held then none else n.gateIn.head?.bind fun f =>
      placeFlit (u.modCell g (·.modCh fun n => { n with gateIn := n.gateIn.drop 1, lastGate := true })) g f
    let ported := if s.mayInject g = true ∧ (held = true → n.holdOwn = true) then
        (n.sysQ.head?.orElse fun _ => n.injQ.head?).bind fun f =>
          placeFlit (u.modCell g Cell.chantryPop) g { f with inj := n.injCount }
      else none
    let first := if n.lastGate then ported else gated
    let second := if n.lastGate then gated else ported
    (∀ v, first = some v → exec (.chantryInjection g) s = .next v) ∧
    (∀ v, first = none → second = some v → exec (.chantryInjection g) s = .next v) ∧
    (first = none → second = none → exec (.chantryInjection g) s = .next s) ∧
    ((∃ d f, f ∈ n.wire d ∧ f.age = 255) → exec (.chantryHold g false) s =
      .next (u.modCell g fun c => { c with ch := { c.ch with holdAge := true } })) ∧
    (n.offer ≠ none → exec (.chantryHold g true) s =
      .next (u.modCell g fun c => { c with ch := { c.ch with holdOwn := true } }))) ∧
  (∀ (s : State) (l : AmbLane) (pos v : Nat) (f : AmbFlit) (rest : List (Nat × AmbFlit)),
    s.mainOn = true → laneValid l = true → pos < laneSize l → (s.laneIn l pos).link = (v, f) :: rest →
    let u := { s with emitted := [] }.modLane l pos fun i => { i with link := rest }
    let arrives (w : State) (f' : AmbFlit) := (nodeOf l pos).cycle
      (w.modLane l pos (·.modVc v (· ++ [{ f' with arrived := s.ts }])))
    exec (.ambFlitArrival (.lane l pos) none) s = .next (arrives u f) ∧
    (∀ h : List Byte, h.length = 16 →
      (flitOf h f = none → exec (.ambFlitArrival (.lane l pos) (some h)) s = .next ((nodeOf l pos).cycle
        (logC u 0 0x0130 (nodeLoc (nodeOf l pos)) 255 (le 2 (fieldN h 2 2 % 4096) ++ le 2 (fieldN h 4 2 % 4096) ++
          [BitVec.ofNat 8 (fieldN h 13 1 % 128), 0#8] ++ le 5 (fieldN h 8 5))))) ∧
      (∀ f', flitOf h f = some f' → f'.op.hasData = false → exec (.ambFlitArrival (.lane l pos) (some h)) s =
        .next (arrives u { f' with data := [] })) ∧
      (∀ f', flitOf h f = some f' → f'.op.hasData = true → f.data ≠ [] →
        exec (.ambFlitArrival (.lane l pos) (some h)) s = .next (arrives u f')))) ∧
  (∀ (s : State) (ep : Nat) (f : AmbFlit) (rest : List AmbFlit), s.mainOn = true → ambEndpoint ep = true →
    (s.endq ep).inject = f :: rest →
    exec (.ambFlitArrival (.inject ep) none) s = .next ((injectStop ep f).node.cycle
      ({ s with emitted := [] }.modEnd ep fun q => { q with inject := f :: rest }))) ∧
  (∀ (s : State) (ep : Nat) (f : AmbFlit) (rest : List AmbFlit), s.mainOn = true → targetTakes s ep = true →
    (s.endq ep).reqs = f :: rest → f.dest = ep →
    let u := { s with emitted := [] }.modEnd ep fun q => { q with reqs := rest }
    let runs (v : State) : Prop := exec (.ambRequestAtTarget ep) s = .next v
    let off := ep < 0xC00 ∧ (s.bay (bayOf ep)).st ≠ .on
    let passes := targetCheck u f
    let m := (s.cell ep).store
    let at_ := f.addr % 524288
    let n := sizeBytes f.size
    let old := Memory.readBytes m at_ n
    let answered (v : State) (data : List Byte) := inject v ep { f with
      vnet := 1, op := if f.op = .write then .done else .data, src := ep, dest := f.src, aop := 0, status := 0
      synth := false, poison := false, data := if f.op = .write then [] else padTo 64 data, via := 0 }
    let stores (data bs : List Byte) : Prop := ∃ v : State, runs (answered v data) ∧ v = { u with cells := v.cells } ∧
      (∀ g, g ≠ ep → v.cell g = s.cell g) ∧ v.cell ep = { s.cell ep with store := (v.cell ep).store } ∧
      (∀ b, b < at_ ∨ at_ + bs.length ≤ b ∨ 524288 ≤ b → (v.cell ep).store.read b = m.read b) ∧
      (∀ k, (h : k < bs.length) → at_ + k < 524288 → (v.cell ep).store.read (at_ + k) = bs[k])
    (off → runs (respondErr u f 7 false)) ∧
    (¬ off → passes = false → runs (refuseReq u f)) ∧
    (¬ off → passes = true → ep < 0xC00 →
      (f.op = .write → stores [] (sliceB f.data (at_ % 64) n)) ∧
      (f.op = .atomic → stores old (le n (atomicNew f.aop n (leNat old) (fieldN f.data 0 8) (fieldN f.data 8 8)))) ∧
      (f.op = .read → runs (answered u old))) ∧
    (¬ off → passes = true → 0xC00 ≤ ep → ep < 0xC08 → runs (hbmAccept u (ep - 0xC00) f)) ∧
    (¬ off → passes = true → 0xC08 ≤ ep → ep < 0xC12 →
      runs (u.modHp (portOf (ep - 0xC10)) fun h => { h with reqs := h.reqs ++ [f] })) ∧
    (¬ off → passes = true → 0xC12 ≤ ep → runs (forwardReq u (ep - 0xC20) f))) ∧
  (∀ (s : State) (ep : Nat) (f : AmbFlit) (rest : List AmbFlit), s.mainOn = true → (s.endq ep).rsps = f :: rest →
    let u := { s with emitted := [] }.modEnd ep fun q => { q with rsps := rest }
    let runs (v : State) : Prop := exec (.ambResponse ep) s = .next v
    let late : Prop := runs (logC u oneMs 0x0131 (epLoc f.dest) f.chapel (ambDetail f f.status))
    let waits (ts : Tbl Tracker) (k : Nat) : Prop :=
      let t := tget Tracker.fresh ts k
      t.busy = true ∧ t.sent = true ∧ t.epoch = f.epoch ∧ t.req.chapel = f.chapel
    let p := ep - 0xC20
    (ep < 0xC00 → f.txn < 128 →
      (waits (s.cell ep).trackers f.txn → runs (completeAccess u ep f.txn f.status f.data false)) ∧
      (¬ waits (s.cell ep).trackers f.txn → late)) ∧
    (∀ e k, ep < 0xC00 → f.txn = 128 + 192 * e + k → e < 2 → k < 192 →
      (waits ((s.cell ep).eng e).trackers k → runs (engineResponse u ep e k f.status f.data false)) ∧
      (¬ waits ((s.cell ep).eng e).trackers k → late)) ∧
    (ep < 0xC00 → 512 ≤ f.txn → late) ∧
    (0xC20 ≤ ep → ep < 0xC2C →
      (waits (s.link p).trackers f.txn → runs (relayDone u p f.txn f.status f.synth f.poison f.data false)) ∧
      (¬ waits (s.link p).trackers f.txn → late)) ∧
    (ep = 0xC30 → (waits s.amb.mover.trackers f.txn → runs (moverResponse u f.txn f.status f.data false)) ∧
      (¬ waits s.amb.mover.trackers f.txn → late))) ∧
  (∀ (s : State) (o : TrackerOwner) (k : Nat), let u := { s with emitted := [] }
    let t := tget Tracker.fresh (ownerTrackers s o) k
    s.mainOn = true → t.busy = true → t.sent = true → exec (.trackerTimeout o k) s = .next (match o with
      | .threads g => completeAccess u g k 6 (zeros 64) true
      | .engine g e => engineResponse u g e k 6 (zeros 64) true
      | .mover => moverResponse u k 6 (zeros 64) true
      | .relay p => relayDone u p k 6 true false (zeros 64) true))

/-- BAY_FENCE starts the drain of an ON bay that is wanted off; BAY_DRAINED fences one with nothing left;
BAY_DRAIN_FORCED aborts every tracker of its cells, fences it and logs it; FENCE_ACK opens the switch: its cells are at
their reset value, and a power-on that waited runs; BAY_POWER_ON_REQUEST wakes an OFF bay and otherwise waits;
BAY_POWER_GOOD turns it ON (R389-R391). A request that has passed its check is answered ABORTED by a controller that has
lost its stack, joins its block's open entry or opens one where it is a lectern read, and else queues in arrival order
(R255, R409, R594). HBM_ACCESS_DONE: a WRITE of 64 bytes changes exactly its sector and clears its mark; any other access
reads its sector: a poisoned or uncorrectable one answers HBM_POISON, else a READ answers the bytes, a WRITE or an atomic
writes its bytes into them (R411, R412); the counts, log entries and repair candidates of an ECC outcome are Table 15-2's
(R417). A block read serves every request of its entry from one decode (R258). HBM_SCRUB reads the next sector and marks
one found uncorrectable outside every lectern, with its data zero (R414). COALESCE_ENTRY_EXPIRY shuts the block's entry. -/
def Obligations.BaysAndHbm : Prop :=
  (∀ (s : State) (b : Nat), b < 192 → let u := { s with emitted := [] }
    let now (st : BayState) := u.modBay b fun y => { y with st := st }
    (s.mainOn = true → (s.bay b).offWanted = true → (s.bay b).st = .on →
      exec (.bayFence b) s = .next (now .draining)) ∧
    ((s.bay b).st = .draining → bayQuiet s b = true → exec (.bayDrained b) s = .next (now .fenced)) ∧
    ((s.bay b).st = .draining → exec (.bayDrainForced b) s =
      .next (logC (((bayCells b).foldl abortTrackers u).modBay b fun y => { y with st := .fenced }) 0 0x0135 (locBay b)
        255 [])) ∧
    ((s.bay b).st = .fenced → ∃ v : State, exec (.fenceAck b) s = .next v ∧
      v = { s with cells := v.cells, amb := v.amb, emitted := [] } ∧
      (∀ g, bayOf g = b → v.cell g = Cell.fresh) ∧ (∀ g, bayOf g ≠ b → v.cell g = s.cell g) ∧
      v.bay b = { st := if (s.bay b).onWanted then .waking else .off, offWanted := false, onWanted := false } ∧
      (∀ j, j ≠ b → v.bay j = s.bay j)) ∧
    (s.mainOn = true → (s.bay b).st = .off → exec (.bayPowerOnRequest b) s = .next (now .waking)) ∧
    (s.mainOn = true → (s.bay b).st = .draining ∨ (s.bay b).st = .fenced → exec (.bayPowerOnRequest b) s =
      .next (u.modBay b fun y => { y with onWanted := true })) ∧
    ((s.bay b).st = .waking → exec (.bayPowerGood b) s = .next (now .on))) ∧
  (∀ (v : State) (m : Nat) (f : AmbFlit),
    let b := f.addr / 2048
    let joins := (v.stack m).entries.find? (·.takes v b)
    (v.hbmDead m = true → hbmAccept v m f = respond v f 7 []) ∧
    (v.hbmDead m = false → ¬ (64 ≤ f.win ∧ f.win < 72) →
      hbmAccept v m f = v.modStack m fun x => { x with queue := x.queue ++ [.req f] }) ∧
    (v.hbmDead m = false → 64 ≤ f.win → f.win < 72 →
      (∀ e bs, joins = some e → e.data = some bs → hbmAccept v m f = respond (v.modStack m fun x => { x with
        reqServed := (x.reqServed + 1) % 2 ^ 64, reqCoalesced := (x.reqCoalesced + 1) % 2 ^ 64 }) f 0
          (sliceB bs (f.addr % 2048) (sizeBytes f.size))) ∧
      (∀ e, joins = some e → e.data = none → hbmAccept v m f = v.modStack m fun x => { x with
        entries := x.entries.map fun y =>
          if y.block = b ∧ y.opened = e.opened then { y with waiting := y.waiting ++ [⟨f, false⟩] } else y }) ∧
      (joins = none → hbmAccept v m f = v.modStack m fun x => { x with
        entries := x.entries.map (fun y => if y.block = b then { y with shut := true } else y) ++
          [{ block := b, opened := v.pw.tstamp, waiting := [⟨f, true⟩] }]
        queue := x.queue ++ [.block b v.pw.tstamp]
        blockReads := (x.blockReads + 1) % 2 ^ 64 }))) ∧
  (∀ (s : State) (m : Nat) (q : HbmAccess) (rest : List HbmAccess) (onDie : OnDie) (dec : EccDecode), m < 8 →
    s.mainOn = true → s.hbmDead m = false → (s.stack m).queue = q :: rest →
    let u := { s with emitted := [] }.modStack m fun x => { x with queue := rest }
    let runs (v : State) : Prop := exec (.hbmAccessDone m onDie dec) s = .next v
    (∀ f, q = .req f →
      let a := f.addr / 64 * 64
      let o := f.addr % 64
      let n := sizeBytes f.size
      let writes (v : State) (bs data : List Byte) : Prop := ∃ w : State, runs (respond w f 0 data) ∧
        w = { v with hbm := w.hbm } ∧ a ∉ w.hbm.poison ∧ w.hbm.zeroRows = v.hbm.zeroRows ∧
        (∀ c, c < a ∨ a + bs.length ≤ c → w.hbm.mem.read? c = v.hbm.mem.read? c) ∧
        (∀ k, (h : k < bs.length) → w.hbm.mem.read? (a + k) = some bs[k])
      let r := stackRead u m a onDie dec
      (f.op = .write → f.size = 4 → writes u (padTo 64 f.data) []) ∧
      (¬ (f.op = .write ∧ f.size = 4) →
        (r.1 = none → runs (respondErr r.2 f 0x22 true)) ∧
        (∀ bs, r.1 = some bs → f.op = .read → runs (respond r.2 f 0 (sliceB bs o n))) ∧
        (∀ bs, r.1 = some bs → f.op = .write → writes r.2 (patch bs o (sliceB f.data o n)) []) ∧
        (∀ bs, r.1 = some bs → f.op = .atomic →
          let old := leNat (sliceB bs o n)
          writes r.2 (patch bs o (le n (atomicNew f.aop n old (fieldN f.data 0 8) (fieldN f.data 8 8)))) (le n old)))) ∧
    (∀ b opened, q = .block b opened →
      let marked := (List.range 32).any fun i => u.hbm.marked (2048 * b + 64 * i)
      let r := readBlock b 32 u
      let v := noteRead r.2 m (2048 * b) onDie dec marked
      let data := if dec = .uncorrectable then none else r.1
      let mine (e : Coalesce) := decide (e.block = b ∧ e.opened = opened)
      runs (((((v.stack m).entries.filter mine).flatMap (·.waiting)).foldl (serveJoined m data) v).modStack m fun x =>
        Stack.prune { x with
          blockErrors := (x.blockErrors + if data.isSome then 0 else 1) % 2 ^ 64
          entries := match data with
            | some bs => x.entries.map fun e => if mine e then { e with data := some bs, waiting := [] } else e
            | none => x.entries.filter fun e => !mine e }))) ∧
  (∀ (v : State) (m a : Nat) (onDie : OnDie) (dec : EccDecode),
    let marked := a ∈ v.hbm.poison
    let r := stackRead v m a onDie dec
    (marked ∨ dec = .uncorrectable → r.1 = none) ∧
    (¬ marked → v.hbm.known a = true → dec ≠ .uncorrectable → r.1 = some (v.hbm.sector a)) ∧
    (¬ marked → v.hbm.known a = true → dec = .clean → onDie = .clean → r.2 = v) ∧
    (∀ j, noteRead v m a onDie dec j =
      if j then logC v oneMs 0x0142 (locHbm m) 255 (hbmDetail a)
      else match dec, onDie with
        | .uncorrectable, _ => logC (addCandidate (v.modStack m fun x => { x with ue := (x.ue + 1) % 2 ^ 64 }) m a) oneMs
            0x0142 (locHbm m) 255 (hbmDetail a)
        | .singleBit, _ => logC (noteCorrected (v.modStack m fun x => { x with ce := (x.ce + 1) % 2 ^ 64 }) m a) oneMs
            0x0140 (locHbm m) 255 (hbmDetail a)
        | .clean, .clean => v
        | .clean, .corrected => v.modStack m fun x => { x with odeCorr := satInc 0xFFFFFFFF x.odeCorr }
        | .clean, .uncorrected => logC (addCandidate (v.modStack m fun x =>
            { x with odeCorr := satInc 0xFFFFFFFF x.odeCorr }) m a) 0 0x0141 (locHbm m) 255 (hbmDetail a))) ∧
  (∀ (s : State) (m : Nat) (onDie : OnDie) (dec : EccDecode), m < 8 → 6 ≤ s.pw.phase.rank → s.awake = true →
    s.hbmDead m = false →
    let k := (s.stack m).scrub
    let a := scrubAddr m k
    let v := (noteRead { s with emitted := [] } m a onDie dec (s.hbm.marked a)).modStack m fun x =>
      { x with scrub := (k + 1) % 603979776 }
    (dec ≠ .uncorrectable ∨ v.inLectern a = true → exec (.hbmScrub m onDie dec) s = .next v) ∧
    (dec = .uncorrectable → v.inLectern a = false → ∃ w : State, exec (.hbmScrub m onDie dec) s = .next w ∧
      w = { v with hbm := w.hbm } ∧ a ∈ w.hbm.poison ∧
      (∀ c, c < a ∨ a + 64 ≤ c → w.hbm.mem.read? c = v.hbm.mem.read? c) ∧
      (∀ j, j < 64 → w.hbm.mem.read? (a + j) = some 0#8))) ∧
  (∀ (s : State) (m b : Nat), m < 8 → (∃ e ∈ (s.stack m).entries, e.block = b ∧ e.shut = false) →
    exec (.coalesceEntryExpiry m b) s = .next ({ s with emitted := [] }.modStack m fun x => { x with
      entries := (x.entries.map fun (e : Coalesce) => if e.block = b ∧ e.shut = false then { e with shut := true } else e).filter
        fun e => !(e.shut && e.data.isSome) }))

/-- TRANSEPT_FRAME_SEND of an UP port sends, in this order, the next frame of a replay as it was but for its control field,
a new traffic frame of seven blocks, numbered and kept for replay, or an idle frame; with 96 frames kept, while a control
operation with a body is repeated, or in another state, an idle frame (R430-R433, R439). TRANSEPT_FRAME_RECEIVED: a
codeword beyond the FEC, a bad FCRC or a bad FMARK is a failure, counted where a counter counts it, and asks for a NAK; of
a good frame an ACK or CREDIT that breaks the rules takes the link down with cause 5, else its control operation takes
effect, an idle frame changes nothing more, and a traffic frame is fed to its streams where it is the one expected,
dropped where it is older, and a failure where one is missing (R432, R452). An ACK drops exactly the frames it covers from
replay. A unit beyond the port's credits is a violation; one whose chapel does not own the port is discarded, counted and
logged; else it enters the gate with SRC_SPAN, or goes on (R429, R447). REPLAY_TIMER starts a replay of every frame kept,
counted; REPLAY_EXHAUSTED takes the link down with cause 3, PEER_SILENT with cause 4 (R433, R445). -/
def Obligations.TranseptFrames : Prop :=
  (∀ (s : State) (t : Nat), t < 12 → s.mainOn = true → s.awake = true → (s.link t).sends = true →
    let u := { s with emitted := [] }
    let l := s.link t
    let sent (v : State) (f : Frame) : Prop := ∃ w : State, exec (.transeptFrameSend t) s = .next w ∧
      w = { v with links := w.links, emitted := [.frame t f] } ∧ (∀ j, j ≠ t → w.link j = v.link j) ∧
      w.link t = (let y := v.link t
        let rel (x : Stream) : Stream := { x with released := x.got }
        { y with
          a := rel y.a, c := rel y.c, q := rel y.q, s := rel y.s, e := rel y.e, nakDue := false
          nakAt := if f.nak then some s.pw.tstamp else y.nakAt
          counters := if f.nak then { y.counters with nakSent := cnt32 y.counters.nakSent } else y.counters })
    let traffic := nextBlocks 7 u t
    let y := traffic.2.link t
    let new : Frame := y.control { emptyFrame y with
      idle := false, classes := traffic.1.map Prod.fst, body := traffic.1.flatMap Prod.snd }
    (l.state ≠ 2 ∨ l.bodyOp = true → sent u (idleFrame l)) ∧
    (l.state = 2 → l.bodyOp = false → 0 < l.resend →
      sent (u.modLink t fun l => { l with resend := l.resend - 1 })
        (l.control (l.replay.getD (l.replay.length - l.resend) (emptyFrame l)))) ∧
    (l.state = 2 → l.bodyOp = false → l.resend = 0 → 96 ≤ l.replay.length → sent u (idleFrame l)) ∧
    (l.state = 2 → l.bodyOp = false → l.resend = 0 → l.replay.length < 96 → (∀ b ∈ traffic.1, b.1 = 0) →
      sent u (idleFrame l)) ∧
    (l.state = 2 → l.bodyOp = false → l.resend = 0 → l.replay.length < 96 → (∃ b ∈ traffic.1, b.1 ≠ 0) →
      traffic.2.emitted = [] → traffic.2.pw = s.pw →
      sent (traffic.2.modLink t fun l => { l with txSeq := l.txSeq + 1, replay := l.replay ++ [new] }) new)) ∧
  (∀ (s : State) (t : Nat), t < 12 → s.mainOn = true → s.awake = true →
    let u := { s with emitted := [] }
    let runs (rx : FrameRx) (v : State) : Prop := exec (.transeptFrameReceived t rx) s = .next v
    runs .uncorrectable (frameFails (u.countLink t fun k => { k with cwUncorrectable := cnt32 k.cwUncorrectable }) t) ∧
    (∀ errs f, errs.length = 8 → f.body.length = 616 → f.classes.length = 7 → f.credit.length = 5 →
      let v := countErrors u t errs
      let st := (v.link t).state
      (∀ b, runs (.decoded errs b false f) (frameFails (v.countLink t fun k => { k with fcrcFail := cnt32 k.fcrcFail }) t)) ∧
      runs (.decoded errs false true f) (frameFails v t) ∧
      (st ≠ 0 → takeControl v t f = none → runs (.decoded errs true true f) (linkDown v t 5)) ∧
      (∀ w, st ≠ 0 → takeControl v t f = some w →
        let z := ctrlReceived w t f.ctrlOp f.ctrlArg.toNat (if ctrlHasBody f.ctrlOp then f.body.take 32 else [])
        let y := z.link t
        let behind := (y.rxSeq + 4096 - f.fseq % 4096) % 4096
        let taken := z.modLink t fun l => { l with rxSeq := (l.rxSeq + 1) % 4096, ackValid := true, nakAt := none }
        (f.idle = true ∨ y.state < 2 ∨ y.state = 5 → runs (.decoded errs true true f) z) ∧
        (f.idle = false → 2 ≤ y.state → y.state ≠ 5 →
          (f.fseq % 4096 = y.rxSeq → runs (.decoded errs true true f)
            ((feedBlocks (frameBlocks f) taken t).getD (linkDown taken t 5))) ∧
          (f.fseq % 4096 ≠ y.rxSeq → behind ≤ 2048 → runs (.decoded errs true true f) z) ∧
          (f.fseq % 4096 ≠ y.rxSeq → 2048 < behind → runs (.decoded errs true true f) (frameFails z t)))))) ∧
  (∀ (l : TPort) (f : Frame), let d := (l.txSeq + 4095 - f.ack) % 4096
    (f.ackValid = false → takeAck l f = some l) ∧
    (f.ackValid = true → l.txSeq ≤ d ∨ 2048 ≤ d → takeAck l f = none) ∧
    (f.ackValid = true → d < l.txSeq → d < 2048 → l.replay.length ≤ d → takeAck l f = some l) ∧
    (f.ackValid = true → d < l.txSeq → d < 2048 → d < l.replay.length →
      takeAck l f = some { l with replay := l.replay.drop (l.replay.length - d), resend := min l.resend d, replays := 0 })) ∧
  (∀ (s : State) (t k : Nat) (unit : List Byte),
    let l := s.link t
    let x := l.stream k
    let n := unitCredits k unit.length
    let c := fieldN unit 1 1
    let within := (x.got + n + 256 - x.released) % 256 ≤ pool k
    let v := s.modLink t (·.modStream k fun x => { x with got := (x.got + n) % 256 })
    (¬ within → unitIn s t k unit = none) ∧
    (within → l.owner = 255 ∨ c ≠ l.owner → unitIn s t k unit = some (logLink
      (v.countLink t fun k => { k with screenDiscards := cnt32 k.screenDiscards }) t oneMs 0x0152 0 0xFF)) ∧
    (within → l.owner ≠ 255 → c = l.owner → unitIn s t k unit = some (match k with
      | 1 => if (s.chapel c).state = .empty then v else gateEnterPacket v c l.span (aisleOfBytes unit)
      | 2 => if (s.chapel c).state = .empty then v else gateEnterFlit v c l.span (chFlitOfBytes unit)
      | _ => flitIn v t k unit))) ∧
  (∀ (s : State) (t : Nat), linkLive s t = true → let u := { s with emitted := [] }
    let l := s.link t
    (l.state = 2 → l.replay ≠ [] → l.replays < 16 → ∃ v : State, exec (.replayTimer t) s = .next v ∧
      v = { u with links := v.links } ∧ (∀ j, j ≠ t → v.link j = s.link j) ∧
      v.link t = { l with
        resend := l.replay.length, replays := l.replays + 1
        counters := { l.counters with replayTimeouts := cnt32 l.counters.replayTimeouts } }) ∧
    (l.replay ≠ [] → 16 ≤ l.replays → exec (.replayExhausted t) s = .next (linkDown u t 3)) ∧
    (2 ≤ l.state → exec (.peerSilent t) s = .next (linkDown u t 4)))

/-- LANE_LOSS of an active lane during a restripe waits; else it tells the peer LANE_DROP with the mask left, counts the
loss, and restripes on that mask, or takes the link down with cause 2 where fewer than two lanes are left (R440-R443).
The eighth loss of a lane retires it and is logged (R444). RESTRIPE_COMPLETE replays every frame kept, notes the moment,
and the port is UP or OWNER_MISMATCH again; a loss that waited runs its own restripe. LANE_RETRAIN_TIMER asks the peer to
retrain the first lost lane that is neither retired nor restorable. LANE_RETRAIN_DONE ends it, makes the lane restorable
where it succeeded, and goes on to the next. LANE_RESTORE_START, at a moment R444 allows, tells the peer and restripes on
the wider mask, its new lanes no longer lost. From the peer: LANE_DROP shrinks the set to the AND of the masks, answered
outside a restripe; LANE_RESTORE waits for the moment R444 allows; LANE_RETRAIN names a lost lane to retrain. A repeat of
the operation before has no further effect, and a port that is DOWN or FENCED takes none (R439). -/
def Obligations.TranseptLanes : Prop :=
  (∀ (s : State) (t : Nat), linkLive s t = true →
    let u := { s with emitted := [] }
    let l := s.link t
    let gone (v : State) (m : BitVec 8) := ((lanesOf (v.link t).mask).filter fun y => !m.getLsbD y).foldl
      (fun v y => loseLane v t y) v
    let drops (v : State) (m : BitVec 8) := startRestripe (gone v m) t m
    (∀ x, x < 8 → l.mask.getLsbD x = true →
      (l.state = 3 → exec (.laneLoss t x) s = .next
        (u.modLink t fun y => { y with waitingLosses := setInsert x y.waitingLosses })) ∧
      (2 ≤ l.state → l.state ≠ 3 →
        let m := l.mask &&& ~~~(1#8 <<< x)
        exec (.laneLoss t x) s = .next (drops (sendCtrl u t 3 m.toNat []) m))) ∧
    (l.state = 3 →
      let v := u.modLink t fun y => { y with
        resend := if y.replay = [] then y.resend else y.replay.length
        replays := if y.replay = [] then y.replays else y.replays + 1
        lastRestripe := some s.pw.tstamp }
      let w := setLinkState v t (v.link t).upState
      let waits := (w.link t).waitingLosses.filter fun x => (w.link t).mask.getLsbD x
      let z := w.modLink t fun y => { y with waitingLosses := waits.drop 1 }
      exec (.restripeComplete t) s = .next (match waits with
        | x :: _ => ownLoss z t x
        | [] => settleRestore z t)) ∧
    (l.up = true → l.retraining = [] →
      let xs := l.lost.filter fun x => !l.retired.contains x && !l.restorable.contains x
      (xs = [] → exec (.laneRetrainTimer t) s = .next u) ∧
      (∀ x rest, xs = x :: rest → exec (.laneRetrainTimer t) s =
        .next (sendCtrl (u.modLink t fun y => { y with retraining := xs }) t 5 x []))) ∧
    (∀ x rest ok, l.retraining = x :: rest →
      let v := u.modLink t fun y => { y with
        retraining := rest, restorable := if ok then setInsert x y.restorable else y.restorable }
      let w := match rest with
        | y :: _ => sendCtrl v t 5 y []
        | [] => v
      exec (.laneRetrainDone t x ok) s = .next (settleRestore w t)) ∧
    (l.wantsRestore = true → l.mayRestore s = true →
      let m := match l.restoreMask with
        | some p => l.ownRestore ||| (p &&& l.trained)
        | none => l.ownRestore
      let v := if l.restorable = [] then u else sendCtrl u t 4 m.toNat []
      let new := (lanesOf m).filter fun x => !(v.link t).mask.getLsbD x
      exec (.laneRestoreStart t) s = .next (startRestripe (v.modLink t fun y => { y with
        lost := y.lost.filter fun x => !new.contains x
        counters := { y.counters with laneRestores := new.foldl (fun n _ => cnt32 n) y.counters.laneRestores } }) t m)) ∧
    (let told (op arg : Nat) (body : List Byte) := u.modLink t fun y => { y with echo := op, lastCtrl := some (arg, body) }
     (∀ m, ¬ (l.echo = 3 ∧ l.lastCtrl = some (m.toNat, [])) →
      let v := told 3 m.toNat []
      let new := l.mask &&& m
      (l.state = 3 → new = l.mask → exec (.laneDrop t m) s = .next v) ∧
      (l.state = 3 → new ≠ l.mask → exec (.laneDrop t m) s = .next (drops v new)) ∧
      (l.state = 2 ∨ l.state = 4 → exec (.laneDrop t m) s = .next (drops (sendCtrl v t 3 new.toNat []) new)) ∧
      (l.state = 1 → exec (.laneDrop t m) s = .next v)) ∧
     (∀ m, ¬ (l.echo = 4 ∧ l.lastCtrl = some (m.toNat, [])) →
      exec (.laneRestore t m) s = .next (if l.up then
        settleRestore ((told 4 m.toNat []).modLink t fun y => { y with restoreMask := some m }) t
        else told 4 m.toNat [])) ∧
     (∀ x, x < 8 → ¬ (l.echo = 5 ∧ l.lastCtrl = some (x, [])) →
      exec (.laneRetrain t x) s = .next (if x ∈ l.lost ∧ x ∉ l.retraining then
        (told 5 x []).modLink t fun y => { y with retraining := y.retraining ++ [x] } else told 5 x [])) ∧
     (∀ m, l.echo = 3 → l.lastCtrl = some (m.toNat, []) → exec (.laneDrop t m) s = .next (told 3 m.toNat [])) ∧
     (∀ m, l.echo = 4 → l.lastCtrl = some (m.toNat, []) → exec (.laneRestore t m) s = .next (told 4 m.toNat [])) ∧
     (∀ x, x < 8 → l.echo = 5 → l.lastCtrl = some (x, []) → exec (.laneRetrain t x) s = .next (told 5 x [])))) ∧
  (∀ (v : State) (t x : Nat), let n := tget 0 (v.link t).losses x + 1
    let w := v.modLink t fun y => { y with
      losses := tput 0 y.losses x n, lost := setInsert x y.lost, restorable := y.restorable.erase x
      retired := if 8 ≤ n then setInsert x y.retired else y.retired
      counters := { y.counters with laneDrops := cnt32 y.counters.laneDrops } }
    loseLane v t x = if n = 8 then logLink w t 0 0x0154 0 x else w) ∧
  (∀ (v : State) (t : Nat) (m : BitVec 8),
    (laneCount m < 2 → startRestripe v t m = linkDown v t 2) ∧
    (2 ≤ laneCount m → startRestripe v t m =
      setLinkState (v.modLink t fun y => { y with mask := m, restorable := [], restoreMask := none }) t 3)) ∧
  (∀ (v : State) (t : Nat), let l := v.link t
    settleRestore v t = if l.wantsRestore = true ∧ l.mayRestore v = true then startRestore v t else v)

/-- HELLO notes the peer's asset ID: one that differs from a nonzero PEER_ASSET takes the link down with cause 6; in
training the peer's mask is noted, and fewer than two common lanes take the link down with cause 8 (R438). OWNER notes the
peer's owner, and the port becomes UP or OWNER_MISMATCH (R446). DEPART with a reserved byte set takes the link down with
cause 5; of scope 1 the peer has departed; of scope 0 it faults the chapel it names where that owns the port. DOWN takes
the link down with cause 7. UNKNOWN ends the operation it names. A repeat of the operation before has no further effect
(R439). CTRL_OP_REPEAT_EXPIRY ends the operation sent and starts the next. PORTS_FENCED fences every port of a departure
(R462). A class P fault latches, is logged and reported, and but for HBM_TRAIN_FAIL the package departs; then comes its
capsule. SACRISTY_LOCKSTEP halts the sacristy and departs, posts nothing but vector 65, and the cloister makes the capsule
(R471). SCREEN_PARITY is the class P fault 0x0104. CAPSULE_PERIODIC makes a capsule of the next generation with trigger 0,
and CAPSULE_TAG_WRITE writes the one owed to the tag blocks 128-191 and swaps the halves (R479, R504). -/
def Obligations.PeerOperationsAndDeparture : Prop :=
  (∀ (s : State) (t : Nat), linkLive s t = true →
    let u := { s with emitted := [] }
    let l := s.link t
    let told (op arg : Nat) (body : List Byte) := u.modLink t fun y => { y with echo := op, lastCtrl := some (arg, body) }
    let again (op arg : Nat) (body : List Byte) := l.echo = op ∧ l.lastCtrl = some (arg, body)
    (∀ (asset : BitVec 64) (peer : Nat) (mask : BitVec 8), peer < 256 →
      let body := padTo 32 (le 8 asset.toNat ++ [BitVec.ofNat 8 peer, mask])
      let v := (told 1 0 body).modLink t fun y => { y with peerAsset := asset.toNat }
      let w := v.modLink t fun y => { y with peerMask := some mask }
      let want := (s.portRec t).peer
      (again 1 0 body → exec (.hello t asset peer mask) s = .next (told 1 0 body)) ∧
      (¬ again 1 0 body →
        (want ≠ 0 → want ≠ asset.toNat → exec (.hello t asset peer mask) s = .next (linkDown v t 6)) ∧
        ((want = 0 ∨ want = asset.toNat) → l.state ≠ 1 → exec (.hello t asset peer mask) s = .next v) ∧
        ((want = 0 ∨ want = asset.toNat) → l.state = 1 → exec (.hello t asset peer mask) s =
          .next (if l.good ≠ 0#8 ∧ laneCount (l.good &&& mask) < 2 then linkDown w t 8 else w)))) ∧
    (∀ c, c < 256 →
      let v := (told 2 c []).modLink t fun y => { y with peerOwner := c }
      let st := (v.link t).upState
      (again 2 c [] → exec (.owner t c) s = .next (told 2 c [])) ∧
      (¬ again 2 c [] →
        (l.state = 1 ∨ l.state = 3 ∨ st = l.state → exec (.owner t c) s = .next v) ∧
        (l.state = 2 ∨ l.state = 4 → st ≠ l.state → exec (.owner t c) s = .next (
          let w := setLinkState v t st
          if st = 4 then settleSlot (dropRequests w t) l.owner l.span else w)))) ∧
    (∀ body : List Byte, body.length = 32 →
      let v := told 6 0 body
      let b (i : Nat) := (byteAt body i).toNat
      let bad := 1 < b 8 ∨ ∃ i ∈ [11, 14, 15, 28, 29, 30, 31], b i ≠ 0
      (again 6 0 body → exec (.depart t body) s = .next v) ∧
      (¬ again 6 0 body →
        (bad → exec (.depart t body) s = .next (linkDown v t 5)) ∧
        (¬ bad → b 8 = 1 → exec (.depart t body) s = .next (peerDeparted v t 0)) ∧
        (¬ bad → b 8 = 0 → b 9 = l.owner → b 9 < 192 → exec (.depart t body) s =
          .next (faultK v (b 9) 0x0160 (locPort t) ((v.link t).detail 0 0xFF) false true)) ∧
        (¬ bad → b 8 = 0 → ¬ (b 9 = l.owner ∧ b 9 < 192) → exec (.depart t body) s = .next v))) ∧
    (∀ c, c < 256 →
      (again 7 c [] → exec (.down t c) s = .next (told 7 c [])) ∧
      (¬ again 7 c [] → exec (.down t c) s = .next (linkDown (told 7 c []) t 7))) ∧
    (∀ op, op < 256 →
      let v := told 15 op []
      (again 15 op [] → exec (.unknown t op) s = .next v) ∧
      (¬ again 15 op [] → (∀ c, l.ctrl = some c → c.op ≠ op) → exec (.unknown t op) s = .next v) ∧
      (∀ c, ¬ again 15 op [] → l.ctrl = some c → c.op = op → exec (.unknown t op) s =
        .next (v.modLink t fun y => { y with ctrl := y.ctrlQueue.head?, ctrlQueue := y.ctrlQueue.tail })))) ∧
  (∀ (s : State) (t : Nat) (c : CtrlOp), t < 12 → (s.link t).ctrl = some c →
    exec (.ctrlOpRepeatExpiry t) s = .next ({ s with emitted := [] }.modLink t fun y =>
      { y with ctrl := y.ctrlQueue.head?, ctrlQueue := y.ctrlQueue.tail })) ∧
  (∀ s : State, s.mainOn = true →
    let u := { s with emitted := [] }
    let gen := s.flash.capsuleGen + 1#32
    (∀ d, s.flt.departing = some d →
      exec .portsFenced s = .next (d.ports.foldl fencePort { u with flt := { u.flt with departing := none } })) ∧
    (s.flt.halted = false →
      (let v := latchP u 0x0103
       let v := logEntry { v with flt := { v.flt with halted := true, pkgFaulted := true } }
         ⟨s.pw.tstamp, 2, 255, 0x0103, 0x7000, 0, zeros 16⟩
       exec .sacristyLockstep s = .next (cloisterCapsule (depart (signal (signal v .h0 0 65) .h1 0 65) 2 0x0103) 0x0103)) ∧
      (∀ loc, tableHolder loc = true → exec (.screenParity loc) s = .next (faultP u 0x0104 loc [])) ∧
      (s.pw.state = .active → exec .capsulePeriodic s = .next { u with
        flash := { u.flash with capsuleGen := gen, capsule := some (capsuleBytes u gen 0 0) }
        clo := { u.clo with tagOwed := true } }))) ∧
  (∀ (s : State) (bytes : List Byte), s.flash.capsule = some bytes → s.pw.porDone = true → s.clo.tagOwed = true →
    exec .capsuleTagWrite s = .next { s with
      emitted := []
      clo := { s.clo with
        tagOwed := false
        tag := { s.clo.tag.putBlocks 128 64 bytes with swapped := !(s.clo.tag.putBlocks 128 64 bytes).swapped } } }) ∧
  (∀ (s : State) (cause loc : Nat) (detail : List Byte),
    let v := logEntry (latchP s cause) ⟨s.pw.tstamp, 2, 255, cause, loc, 0, padTo 16 detail⟩
    let v := postFaultP v ([2#8, 0#8] ++ le 2 cause ++ le 2 loc ++ padTo 10 detail)
    let v := signal (signal v .h0 0 65) .h1 0 65
    faultP s cause loc detail = makeCapsule
      (if cause = 0x0146 then v else depart { v with flt := { v.flt with pkgFaulted := true } } 2 cause) 2 cause) ∧
  (∀ (s : State) (cls cause : Nat),
    let v := (chapelIds.filter fun c => (s.chapel c).state.active).foldl (fun s c => faultKHere s c 0x0162 0xA000 []) s
    depart s cls cause =
      let w := (v.upPorts fun _ => true).foldl (fun s t => sendCtrl s t 6 0 (departBody v 1 255 cls cause)) v
      { w with flt := { w.flt with departing := some ⟨cls, cause, List.range 12⟩ } }) ∧
  (∀ (s : State) (t : Nat),
    ((s.link t).state = 5 → fencePort s t = s) ∧
    ((s.link t).state ≠ 5 → ∀ c, trainCmd (stopTraffic s t 5) t = some c →
      fencePort s t = failCmd (stopTraffic s t 5) c 0x0F 0) ∧
    ((s.link t).state ≠ 5 → trainCmd (stopTraffic s t 5) t = none → fencePort s t = stopTraffic s t 5))

/-- With the cloister's supply up: KEY_SET of a port byte and 32 bytes answers OK, sets the port's key and resets its last
nonce to 0 where the key is empty, else NOT_PERMITTED with no effect; any other length answers MALFORMED (R498), and so
does a port byte above 1 (the model's choice, log entry 63). KEY_CLEAR empties the key while fewer than two parties are
enrolled, else NOT_PERMITTED (R499). ALERT_RESPONSE answers 0x5C while SMB_ALERT_N is low. The TSTAMP read gives TSTAMP,
in CRYPT the one R32 would give now (R485). TAG_READ of 1 to 7 blocks answers OK and the blocks, MALFORMED for another
count and NO_SUCH_OBJECT past the memory (log entry 64); TAG_WRITE stages whole blocks of 192-255, answers NOT_PERMITTED
for others, and MALFORMED for no whole number of 1 to 7 blocks (R502). TAG_COMMIT commits SVC_TAG_WRITE before SMBus
writes, the oldest first, and answers it OK (R506, R508). WIRE_ACCESS_BUSY answers BUSY and writes nothing; a capsule
write waits without limit (R507). Nothing else changes. -/
def Obligations.SmbusAndKeys : Prop :=
  ∀ s : State, s.pw.porDone = true →
    let u := { s with emitted := [] }
    let tag := s.clo.tag
    let withTag (x : Tag) : State := { u with clo := { u.clo with tag := x } }
    let answers (c : Instr) (v : State) (bytes : List Byte) := exec c s = .next (v.emit (.smbus bytes))
    (∀ key : List Byte, key.length = 32 →
      (s.flash.keyH0 = none → answers (.keySet (0#8 :: key))
        { u with flash := { u.flash with keyH0 := some key, nonceH0 := 0 } } [0#8]) ∧
      (s.flash.keyH1 = none → answers (.keySet (1#8 :: key))
        { u with flash := { u.flash with keyH1 := some key, nonceH1 := 0 } } [0#8]) ∧
      (s.flash.keyH0 ≠ none → answers (.keySet (0#8 :: key)) u [3#8]) ∧
      (s.flash.keyH1 ≠ none → answers (.keySet (1#8 :: key)) u [3#8]) ∧
      (∀ p, 1#8 < p → answers (.keySet (p :: key)) u [1#8])) ∧
    (∀ bytes : List Byte, bytes.length ≠ 33 → answers (.keySet bytes) u [1#8]) ∧
    (s.partyCount < 2 →
      answers (.keyClear [0#8]) { u with flash := { u.flash with keyH0 := none } } [0#8] ∧
      answers (.keyClear [1#8]) { u with flash := { u.flash with keyH1 := none } } [0#8]) ∧
    (∀ p, p ≤ 1#8 → 2 ≤ s.partyCount → answers (.keyClear [p]) u [3#8]) ∧
    (∀ bytes : List Byte, bytes.length ≠ 1 ∨ 1#8 < byteAt bytes 0 → answers (.keyClear bytes) u [1#8]) ∧
    (s.clo.alertCause &&& s.clo.alertEn ≠ 0#32 → answers .alertResponse u [0x5C#8]) ∧
    (s.pw.pll = true → answers .smbTstampRead u (le 8 s.pw.tstamp.toNat)) ∧
    (s.pw.pll = false →
      answers .smbTstampRead u (le 8 (s.pw.tstamp + BitVec.ofNat 64 (s.pw.k * 2500 / 678)).toNat)) ∧
    ((∀ x ∈ tag.staged, x.cmd ≠ none) →
      (∀ first count, 1 ≤ count → count ≤ 7 → first + count ≤ 256 → answers (.smbTagRead first count) u
        (0#8 :: (List.range count).flatMap fun k => tag.mem.readBytes (32 * tag.place (first + k)) 32)) ∧
      (∀ first count, count = 0 ∨ 7 < count → answers (.smbTagRead first count) u [1#8]) ∧
      (∀ first count, 1 ≤ count → count ≤ 7 → 256 < first + count → answers (.smbTagRead first count) u [5#8]) ∧
      (∀ first data, (∀ count, 1 ≤ count → count ≤ 7 → data.length ≠ 32 * count) →
        answers (.smbTagWrite first data) u [1#8]) ∧
      (∀ first data count, 1 ≤ count → count ≤ 7 → data.length = 32 * count →
        (first < 192 ∨ 256 < first + count → answers (.smbTagWrite first data) u [3#8]) ∧
        (192 ≤ first → first + count ≤ 256 → exec (.smbTagWrite first data) s =
          .next (withTag { tag with staged := tag.staged ++ [⟨first, data, none⟩] })))) ∧
    (∀ x, tag.staged.find? (fun y => y.cmd.isSome) = some x ∨
        (tag.staged.find? (fun y => y.cmd.isSome) = none ∧ tag.staged.head? = some x) →
      let done := tag.putBlocks x.first (x.data.length / 32) x.data
      let v := withTag { done with staged := done.staged.erase x }
      (x.cmd = none → answers .tagCommit v [0#8]) ∧
      (∀ n c, x.cmd = some n → s.cmd n = some c → exec .tagCommit s = .next (doneCmd v c [])) ∧
      (∀ n, x.cmd = some n → s.cmd n = none → exec .tagCommit s = .next v)) ∧
    (∀ x n c, tag.staged.find? (fun y => y.cmd.isSome) = some x → x.cmd = some n → s.cmd n = some c →
      exec (.wireAccessBusy .svcTagWrite) s =
        .next (failCmd (withTag { tag with staged := tag.staged.erase x }) c 0x0E 0)) ∧
    (∀ x, tag.staged.find? (fun y => decide (y.cmd = none)) = some x →
      answers (.wireAccessBusy .smbus) (withTag { tag with staged := tag.staged.erase x }) [0x0E#8]) ∧
    ((∀ x ∈ tag.staged, x.cmd ≠ none) → answers (.wireAccessBusy .smbus) u [0x0E#8]) ∧
    exec (.wireAccessBusy .capsule) s = .next s

/-- A request makes the tag sense the field and is answered, unless the package's own gatehouse drives it (R534). The tag
hears a request by its UID, an unaddressed one unless quiet, and a Select-mode one while selected; one it does not hear has
no effect, but that another tag's SELECT returns a selected tag to Ready (ISO/IEC 15693-3, log entry 5). Inventory answers
the UID where the mask meets it and the tag is not quiet. Reads give whole blocks, with their security status where asked;
past the memory, or more than 32, error 0x10. Writes of blocks 192-255 write them and, while the cloister has power, set
NOTE_WRITTEN; other blocks get error 0x12 and nothing is written (R503, R509). Other commands, and writes of more than
four blocks, get error 0x01 (log entry 65). FIELD_DROP leaves free values in the note blocks a write addressed and every
other block as it was (R510). FD_N's falling edge is wake source 0x11 (R505). Writing a block changes that block alone. -/
def Obligations.TagFieldCommands : Prop :=
  (∀ s : State,
    let u := { s with emitted := [] }
    let tag := s.clo.tag
    let own := leNat (tag.mem.readBytes 60 8)
    let id := le 8 own
    let sensed (x : Tag) : Tag := if s.gate.field then x else { x with field := true }
    let withTag (x : Tag) : State := { u with clo := { u.clo with tag := sensed x } }
    let silent (c : Instr) (x : Tag) := exec c s = .next (withTag x)
    let answers (c : Instr) (x : Tag) (bytes : List Byte) :=
      exec c s = .next (if s.gate.field then withTag x else (withTag x).emit (.tagAnswer bytes))
    let heard (a : TagAddr) := (a = .all ∧ tag.state ≠ .quiet) ∨ (∃ x, a = .uid x ∧ x.toNat = own) ∨
      (a = .selected ∧ tag.state = .selected)
    let entry (option : Bool) (b : Nat) : List Byte :=
      if option then (if b < 192 then 1#8 else 0#8) :: tag.block b else tag.block b
    let noted (c : Instr) (x : Tag) :=
      let v := withTag x
      let w := if s.pw.porDone then { v with clo := { v.clo with alertCause := v.clo.alertCause ||| 64#32 } } else v
      exec c s = .next (if s.gate.field then w else w.emit (.tagAnswer [0#8]))
    (∀ slots len (mask : BitVec 64),
      (tag.state ≠ .quiet → own % 2 ^ len = mask.toNat % 2 ^ len →
        answers (.tagInventory slots len mask) tag ([0#8, 0#8] ++ id)) ∧
      (tag.state = .quiet ∨ own % 2 ^ len ≠ mask.toNat % 2 ^ len → silent (.tagInventory slots len mask) tag)) ∧
    (∀ x : BitVec 64,
      (x.toNat = own → silent (.stayQuiet x) { tag with state := .quiet }) ∧
      (x.toNat ≠ own → silent (.stayQuiet x) tag) ∧
      (x.toNat = own → answers (.select x) { tag with state := .selected } [0#8]) ∧
      (x.toNat ≠ own → silent (.select x) { tag with state := if tag.state = .selected then .ready else tag.state })) ∧
    (∀ a, heard a →
      answers (.resetToReady a) { tag with state := .ready } [0#8] ∧
      answers (.getSystemInformation a) tag ([0#8, 4#8] ++ id ++ [0xFF#8, 0x1F#8]) ∧
      (∀ code, answers (.tagOtherCommand a code) tag [1#8, 1#8]) ∧
      (∀ option b, b ≤ 255 → answers (.readSingleBlock a option b) tag (0#8 :: entry option b)) ∧
      (∀ option b, 255 < b → answers (.readSingleBlock a option b) tag [1#8, 0x10#8]) ∧
      (∀ option first n, 1 ≤ n → n ≤ 32 → first + n ≤ 256 → answers (.readMultipleBlocks a option first n) tag
        (0#8 :: (List.range n).flatMap fun k => entry option (first + k))) ∧
      (∀ option first n, n = 0 ∨ 32 < n ∨ 256 < first + n →
        answers (.readMultipleBlocks a option first n) tag [1#8, 0x10#8]) ∧
      (∀ b data, data.length = 32 → 192 ≤ b → b ≤ 255 → noted (.writeSingleBlock a b data) (tag.putBlock b data)) ∧
      (∀ b data, data.length = 32 → b < 192 ∨ 255 < b → answers (.writeSingleBlock a b data) tag [1#8, 0x12#8]) ∧
      (∀ first n data, data.length = 32 * n → 1 ≤ n → n ≤ 4 →
        (192 ≤ first → first + n ≤ 256 → noted (.writeMultipleBlocks a first n data) (tag.putBlocks first n data)) ∧
        (first < 192 ∨ 256 < first + n → answers (.writeMultipleBlocks a first n data) tag [1#8, 0x12#8])) ∧
      (∀ first n data, data.length = 32 * n → 4 < n → answers (.writeMultipleBlocks a first n data) tag [1#8, 1#8])) ∧
    (∀ a, ¬ heard a →
      silent (.resetToReady a) tag ∧ silent (.getSystemInformation a) tag ∧
      (∀ code, silent (.tagOtherCommand a code) tag) ∧ (∀ option b, silent (.readSingleBlock a option b) tag) ∧
      (∀ option first n, silent (.readMultipleBlocks a option first n) tag) ∧
      (∀ b data, data.length = 32 → silent (.writeSingleBlock a b data) tag) ∧
      (∀ first n data, data.length = 32 * n → 1 ≤ n → silent (.writeMultipleBlocks a first n data) tag)) ∧
    (∀ blocks : List Nat, (∀ b ∈ blocks, 192 ≤ b ∧ b ≤ 255) →
      ∃ m n, exec (.fieldDrop blocks) s = .next { u with
          freeCount := n, clo := { u.clo with tag := { tag with mem := m, field := false, state := .ready } } } ∧
        (∀ c, c < 256 → c ∉ blocks → { tag with mem := m }.block c = tag.block c) ∧
        (∀ b, blocks = [b] →
          { tag with mem := m }.block b = (List.range 32).map fun k => Config.freeByte (s.freeCount + k))) ∧
    (s.pw.porDone = true → tag.fdLow = false → s.gate.field = false →
      exec .fdNAssert s = .next (wakeSource { u with
        clo := { u.clo with tag := { tag with field := true, fdLow := true } } } 0x11)) ∧
    (s.pw.porDone = true → tag.fdLow = true → exec .fdNRelease s = .next { u with
      clo := { u.clo with tag := { tag with fdLow := false, field := false, state := .ready } } })) ∧
  (∀ (t : Tag) (b c : Nat) (data : List Byte), b < 256 → c < 256 → data.length = 32 →
    (t.putBlock b data).block c = if c = b then data else t.block c) ∧
  (∀ (t : Tag) (first n k : Nat) (data : List Byte), first + n ≤ 256 → data.length = 32 * n → k < 256 →
    (t.putBlocks first n data).block k =
      if first ≤ k ∧ k < first + n then (data.drop (32 * (k - first))).take 32 else t.block k)

/-- FIELD_TURN_ON at a current of 20 to 300 mA (log entry 66) clears ANT_FAULT's bit and puts the field at the antenna its
user needs; else the bit is set and the user ends. FIELD_SETTLE sends the first request. ANTENNA_FAULT_RETRY sets or clears
the bit. A PING counts; a code at least max(1, THRESHOLD) off the baseline asks for a confirmation, once until a ping falls
within; for OP 3 it is one of 16 codes. SWEEP_COMPLETE replaces the bank table without the reliquary's own tag; where it
confirms a ping, a changed table is a detect. A WUPA outside an approval: answered, it gets HLTA and confirms a detect or
refuses an OP 3 with 0xB3; unanswered twice, the detect is false, or OP 3 pings. In a badge approval WUPA_POLL, each answer
in its stage, a silent window and the 10 s limit do what R517-R521 and Table 19-6 say; a malformed answer is counted. For
cable tags an inventory takes its slots, a system information gives the block size (4 without one), a read gives its
blocks, each write one more, an error code ends the command with 0x100 plus the code; a silent window repeats a request
twice (R518). -/
def Obligations.GatehouseReader : Prop :=
  (∀ s : State,
    let u := { s with emitted := [] }
    let g := s.gate
    let gate (x : Gatehouse) : State := { u with gate := x }
    let bit (a : Nat) : BitVec 3 := 1#3 <<< a
    let counted : Gatehouse := { g with protoErrors := satInc 0xFFFFFFFF g.protoErrors }
    (∀ a mA, s.pw.porDone = true → g.wants = some a → g.field = false → s.clo.tag.field = false →
      (20 ≤ mA → mA ≤ 300 → exec (.fieldTurnOn a mA) s = .next (gate { g with
        antFault := g.antFault &&& ~~~(bit a), antsel := a, field := true, settled := false, tries := 0 })) ∧
      (mA < 20 ∨ 300 < mA →
        exec (.fieldTurnOn a mA) s = .next (faultUser (gate { g with antFault := g.antFault ||| bit a })))) ∧
    (g.field = true → g.settled = false →
      let v := gate { g with settled := true }
      (v.gate.polls = true → exec .fieldSettle s = .next (radioFrame v [0x52#8])) ∧
      (v.gate.polls = false → g.sweeping ≠ [] → exec .fieldSettle s = .next (radioFrame v [0x06#8, 0x01#8, 0#8])) ∧
      (∀ o, v.gate.polls = false → g.sweeping = [] → g.op = some o →
        exec .fieldSettle s = .next (radioFrame v (opFrame v o))) ∧
      (v.gate.polls = false → g.sweeping = [] → g.op = none → exec .fieldSettle s = .next v)) ∧
    (∀ a mA, s.pw.porDone = true → g.antFault.getLsbD a = true → g.free = true → g.approval = none →
      s.clo.tag.field = false → exec (.antennaFaultRetry a mA) s = .next (gate { g with
        antFault := if 20 ≤ mA ∧ mA ≤ 300 then g.antFault &&& ~~~(bit a) else g.antFault ||| bit a })) ∧
    (∀ a code : Nat, s.pw.porDone = true → a < 3 → code < 4096 → g.pingEn.getLsbD a = true → g.antFault.getLsbD a = false →
      s.clo.tag.field = false →
      let p := { g with pings := (g.pings + 1) % 2 ^ 32, lastPing := code }
      (∀ base, g.free = true → g.approval = none → g.base a = some base →
        let off := (code : Int) - base
        (off.natAbs < max 1 g.threshold.toNat →
          exec (.ping a code) s = .next (gate { p with spent := setErase a p.spent })) ∧
        (max 1 g.threshold.toNat ≤ off.natAbs → a ∈ g.spent → exec (.ping a code) s = .next (gate p)) ∧
        (max 1 g.threshold.toNat ≤ off.natAbs → a ∉ g.spent → exec (.ping a code) s =
          .next (gate { p with confirming := some a, sweeping := if a = 0 then [] else [a] }))) ∧
      (∀ b, g.baseline = some b → b.polled = true → b.due g.pinged = some a → g.wants = none → s.flt.halted = false →
        exec (.ping a code) s = .next (settleBaseline (gate p)
          { b with codes := tput [] b.codes a (tget [] b.codes a ++ [code]) }))) ∧
    (∀ a tags more, g.ready a = true → g.sweeping.head? = some a → tags.length ≤ 32 →
      let new := (tags.filter fun t => decide (t.uid ≠ s.tagUid)).foldl
        (fun l t => insertTag { t with bytes := padTo 20 t.bytes } l) []
      let v := gate { g with
        banks := tput [] g.banks a new, sweeping := g.sweeping.drop 1
        antsel := 3, field := false, settled := false, tries := 0 }
      (g.confirming ≠ some a → exec (.sweepComplete a tags more) s = .next v) ∧
      (g.confirming = some a → new = tget [] g.banks a → exec (.sweepComplete a tags more) s = .next (falseDetect v)) ∧
      (g.confirming = some a → new ≠ tget [] g.banks a → exec (.sweepComplete a tags more) s = .next (cardDetect v a))) ∧
    (g.polls = true →
      let quiet (x : Gatehouse) : Gatehouse := { x with antsel := 3, field := false, settled := false, tries := 0 }
      let heard (x : Gatehouse) : State := { radioFrame (gate x) [0x50#8, 0#8] with gate := quiet x }
      let answers (c : Instr) (x : Gatehouse) :=
        (∀ a, x.confirming = some a → exec c s = .next (cardDetect (heard x) a)) ∧
        (∀ b c', x.confirming = none → x.baseline = some b → s.cmd b.cmd = some c' → exec c s =
          .next (failCmd { heard x with gate := { quiet x with baseline := none } } c' 3 0xB3))
      let silent (c : Instr) (x : Gatehouse) :=
        (x.tries = 0 → exec c s = .next (radioFrame (gate { x with tries := 1 }) [0x52#8])) ∧
        (x.tries ≠ 0 → x.confirming ≠ none → exec c s = .next (falseDetect (gate (quiet x)))) ∧
        (∀ b, x.tries ≠ 0 → x.confirming = none → x.baseline = some b →
          exec c s = .next (settleBaseline (gate (quiet x)) { b with polled := true }))
      answers (.cardAnswer (.atqa true)) g ∧ silent (.cardAnswer .badFrame) counted ∧
      (∀ ans, ans ≠ .atqa true → ans ≠ .badFrame → answers (.cardAnswer ans) counted) ∧
      (∀ ok, silent (.answerWindowExpiry ok) g)) ∧
    (∀ r, g.approval = some r → g.ready 0 = true → g.polls = false → s.flt.halted = false →
      let fresh := { r with tries := 0 }
      let goes (a : CardAnswer) (v : State) := exec (.cardAnswer a) s = .next v
      let broken (a : CardAnswer) (uid frame : List Byte) := goes a (cardBroken u r uid frame)
      (r.stage = .polling → g.op = none → g.baseline = none → g.confirming = none →
        exec .wupaPoll s = .next (badgeSend u { r with stage := .atqa, tries := 0 })) ∧
      (r.stage ≠ .polling →
        (r.stage ≠ .deselect → goes .badFrame (cardUnanswered (gate counted) r)) ∧
        (r.stage = .atqa → goes (.atqa true) (badgeSend u { fresh with stage := .select }) ∧
          ∀ a, a ≠ .atqa true → a ≠ .badFrame → broken a [] [0x50#8, 0#8]) ∧
        (r.stage = .select →
          (∀ bytes last, r.uid ++ bytes ∈ r.barred →
            goes (.uidPart bytes true last) (cardGone (radioFrame u [0x50#8, 0#8]) r)) ∧
          (∀ bytes last, r.uid ++ bytes ∉ r.barred → goes (.uidPart bytes true last) (badgeSend u
            { fresh with uid := r.uid ++ bytes, stage := if last then .rats else .select })) ∧
          (∀ bytes last, broken (.uidPart bytes false last) (r.uid ++ bytes) [0x50#8, 0#8])) ∧
        (r.stage = .rats →
          (∀ k, k < 212 → goes (.ats true k) (badgeSend u { fresh with rate := 106, stage := .byName })) ∧
          (∀ k, 212 ≤ k → goes (.ats true k) (badgeSend u
            { fresh with rate := if 424 ≤ k then 424 else 212, stage := .pps })) ∧
          (∀ k, broken (.ats false k) r.uid [0xC2#8])) ∧
        (r.stage = .pps → goes .ppsAnswer (badgeSend u { fresh with stage := .byName }) ∧
          ∀ a, a ≠ .ppsAnswer → a ≠ .badFrame → goes a (cardGone (radioFrame (gate counted) [0xC2#8]) r)) ∧
        (r.stage = .byName ∨ r.stage = .authenticate →
          goes .sWtx (radioFrame u [0xF2#8]) ∧
          goes .rAck (radioFrame u (cardFrame r (badgeMessage s))) ∧
          (∀ bytes, let longer := { r with answer := r.answer ++ bytes, tries := 0 }
            goes (.iBlock bytes true) (radioFrame (gate { g with approval := some longer }) [0xA2#8])) ∧
          (∀ bytes, r.stage = .byName → r.answer ++ bytes = [0x90#8, 0#8] → goes (.iBlock bytes false)
            (badgeSend u { r with answer := [], tries := 0, stage := .authenticate })) ∧
          (∀ bytes, r.stage = .byName → r.answer ++ bytes ≠ [0x90#8, 0#8] →
            goes (.iBlock bytes false) (failBadge (gate counted) 3 0x48)) ∧
          (∀ bytes, let all := r.answer ++ bytes
            r.stage = .authenticate → all.length = 98 → all.drop 96 = [0x90#8, 0#8] → goes (.iBlock bytes false)
              (badgeSend u { r with answer := [], tries := 0, stage := .deselect, signature := all.take 96 })) ∧
          (∀ bytes, let all := r.answer ++ bytes
            r.stage = .authenticate → ¬ (all.length = 98 ∧ all.drop 96 = [0x90#8, 0#8]) →
              goes (.iBlock bytes false) (failBadge (gate counted) 3 0x48))) ∧
        (r.stage = .deselect → ∀ a, goes a (finishBadge u r)) ∧
        (g.op = none → ∀ ok, exec (.answerWindowExpiry ok) s = .next (cardUnanswered u r)) ∧
        (r.stage ≠ .atqa → r.stage ≠ .select →
          let v := radioFrame (gate counted) [0xC2#8]
          let w := cardGone v r
          exec .cardHoldLimit s = .next (if r.stage = .deselect then finishBadge v r else
            { w with gate := { w.gate with antsel := 3, field := false, settled := false, tries := 0 } })))) ∧
    (∀ o ok, g.op = some o → g.ready o.bank = true → g.sweeping = [] → g.polls = false → s.flt.halted = false →
      let goes (a : BankAnswer) (v : State) := exec (.bankTagAnswer a ok) s = .next v
      exec (.answerWindowExpiry ok) s = .next (opUnanswered u o ok) ∧
      goes .invalid (opUnanswered (gate counted) o ok) ∧
      (∀ len mask xs, o.stage = .inventory len mask → goes (.slots xs) (takeRound u o len mask xs ok)) ∧
      (o.stage = .systemInfo → (∀ b, goes (.systemInfo b) (opBlocks u o b)) ∧ ∀ code, goes (.error code) (opBlocks u o 4)) ∧
      (o.stage = .read →
        (∀ data, data.length = o.blockSize * o.count → goes (.blocks data)
          (finishOp u o 0 0 (blockEntries data o.blockSize o.count) o.count false ok)) ∧
        (∀ data, data.length ≠ o.blockSize * o.count → goes (.blocks data) (opUnanswered (gate counted) o ok))) ∧
      (o.stage = .write →
        let more := { o with moved := o.moved + 1, tries := 0 }
        goes .written (if o.moved + 1 < o.count then opSend u more else finishOp u more 0 0 [] (o.moved + 1) false ok)) ∧
      (o.stage = .read ∨ o.stage = .write → ∀ code, code < 256 → goes (.error code)
        (finishOp (gate counted) o 3 (0x100 + code) [] o.moved false ok)))) ∧
  (∀ (v : State) (o : ReaderOp) (ok : Bool),
    let w := if o.stage = .write then
      { v with gate := { v.gate with writeRetries := satInc 0xFFFFFFFF v.gate.writeRetries } } else v
    (o.tries < 2 → opUnanswered v o ok = opSend w { o with tries := o.tries + 1 }) ∧
    (2 ≤ o.tries → o.stage = .systemInfo → opUnanswered v o ok = opBlocks v o 4) ∧
    (2 ≤ o.tries → o.stage = .read ∨ o.stage = .write → opUnanswered v o ok = finishOp v o 6 0 [] o.moved false ok) ∧
    (∀ len mask, 2 ≤ o.tries → o.stage = .inventory len mask → opUnanswered v o ok = nextRound v o ok)) ∧
  (∀ (v : State) (r : BadgeRun) (uid frame : List Byte),
    let w := radioFrame { v with gate := { v.gate with protoErrors := satInc 0xFFFFFFFF v.gate.protoErrors } } frame
    let r' := { r with barred := if uid = [] then r.barred else r.barred ++ [uid] }
    cardBroken v r uid frame = { w with gate := { w.gate with
      approval := some { cmd := r.cmd, slot := r.slot, barred := r'.barred } } }) ∧
  (∀ (v : State) (r : BadgeRun),
    let block := r.stage = .byName ∨ r.stage = .authenticate ∨ r.stage = .deselect
    let again := { v with gate := { v.gate with approval := some { r with tries := r.tries + 1 } } }
    (block → r.tries < 2 → cardUnanswered v r = radioFrame again [0xB2#8]) ∧
    (¬ block → r.tries < 1 → cardUnanswered v r =
      radioFrame again (cardFrame { r with tries := r.tries + 1 } (badgeMessage v))) ∧
    (2 ≤ r.tries → r.stage = .deselect → cardUnanswered v r = finishBadge v r) ∧
    ((1 ≤ r.tries ∧ ¬ block) ∨ (2 ≤ r.tries ∧ r.stage ≠ .deselect) → cardUnanswered v r = { v with gate :=
      { v.gate with approval := some { cmd := r.cmd, slot := r.slot, barred := r.barred } } })) ∧
  (∀ (v : State) (b : BaselineRun),
    (b.due v.gate.pinged ≠ none → settleBaseline v b = { v with gate := { v.gate with baseline := some b } }) ∧
    (∀ c, b.due v.gate.pinged = none → v.cmd b.cmd = some c →
      let w := v.gate.pinged.foldl (fun s a =>
        let n := (tget [] b.codes a).sum
        storeBase { s with freeCount := s.freeCount + 1 } a
          (n / 16 + if n % 16 = 0 then 0 else Config.freeNat s.freeCount % 2)) v
      settleBaseline v b = doneCmd { w with gate := { w.gate with baseline := none } } c [0#8]))

/-- BREW_SAMPLE_PERIOD takes one period's modulator bits: the INDEX advances by one, modulo 2^64; the three samples, zero
for a disabled channel, stand at the old INDEX of the brew ring and that of 26,484 periods before is lost; every 256th
completes an ADPCM block, zeros while disabled, and that of 414 blocks before is lost; every 1,024th ends a drip frame,
which waits with the configuration that then takes effect; nothing else of the belfry changes. A frame not yet decided is
decided first where a new configuration or the next frame end comes (log entry 67). DRIP_FRAME_END decides the frame:
nothing in the two frames excluded, else the enabled patterns in ascending order; then the configuration takes effect with
zero histories, detectors armed, and two frames excluded (R546). An armed pattern with HIT matches in its last WIN frames
wakes, is disarmed and forgets; disarmed, it is armed again after REARM frames without a match (R549). A wake unseals a
sealed carafe, noting its INDEX; asleep it is wake source 0x13, else an event with ORDER 0 (R551, R552). RESEAL_TIMEOUT
seals the carafe and ends the synthetic mark. -/
def Obligations.BelfryPeriodsAndWakes : Prop :=
  (∀ (s : State) (x y z : BitVec 96), s.pw.porDone = true →
    let u := { s with emitted := [] }
    let late := ∃ f, s.bel.due = some f ∧ (f.cfg ≠ none ∨ s.bel.live % 1024 = 1023)
    (¬ late → exec (.brewSamplePeriod x y z) s = .next { u with bel := s.bel.period x y z }) ∧
    (late → exec (.brewSamplePeriod x y z) s =
      .next { decideFrame u with bel := (decideFrame u).bel.period x y z })) ∧
  (∀ (b : Belfry) (x y z : BitVec 96),
    let v := b.period x y z
    let sample (c : Nat) (bits : BitVec 96) : BitVec 16 :=
      if cfgChannel b.cfg c then ((tget {} b.channels c).period b.live bits).2 else 0#16
    let zeroSamples : List (BitVec 16) := [0#16, 0#16, 0#16]
    let k := v.live / 256 - 1
    v.live = (b.live + 1) % 2 ^ 64 ∧
    tget zeroSamples v.brew b.live = [sample 0 x, sample 1 y, sample 2 z] ∧
    (26484 ≤ b.live → tget zeroSamples v.brew (b.live - 26484) = zeroSamples) ∧
    (∀ i, i ≠ b.live → i + 26484 ≠ b.live → tget zeroSamples v.brew i = tget zeroSamples b.brew i) ∧
    (v.live % 256 ≠ 0 → v.blocks = b.blocks) ∧
    (v.live % 256 = 0 →
      (cfgOn b.cfg = false → tget (zeros 396) v.blocks k = zeros 396) ∧
      (414 ≤ k → tget (zeros 396) v.blocks (k - 414) = zeros 396) ∧
      (∀ j, j ≠ k → j + 414 ≠ k → tget (zeros 396) v.blocks j = tget (zeros 396) b.blocks j)) ∧
    (v.live % 1024 ≠ 0 → v.due = b.due ∧ v.next = b.next) ∧
    (v.live % 1024 = 0 → v.next = none ∧
      ∃ samples, samples.length = 3 ∧ v.due = some ⟨v.live / 1024 - 1, samples, b.next⟩) ∧
    v = { b with
      live := v.live, brew := v.brew, blocks := v.blocks, due := v.due, next := v.next, channels := v.channels }) ∧
  (∀ (s : State) (f : FrameDue), s.bel.due = some f →
    let u := { s with emitted := [], bel := { s.bel with due := none } }
    let behind (t : State) : State := match f.cfg with
      | some c => { t with bel := { t.bel with
          cfg := c, brew := [], blocks := [], excluded := 2
          patterns := ((List.range 4).filter fun i => (cfgPattern c i).enabled).map fun i => (i, ⟨true, [], 0⟩) } }
      | none => t
    (s.bel.excluded ≠ 0 → exec .dripFrameEnd s =
      .next (behind { u with bel := { u.bel with excluded := s.bel.excluded - 1 } })) ∧
    (s.bel.excluded = 0 → exec .dripFrameEnd s = .next (behind ([0, 1, 2, 3].foldl (decidePattern f) u)))) ∧
  (∀ (f : FrameDue) (s : State) (i : Nat),
    let p := cfgPattern s.bel.cfg i
    let r := (tget {} s.bel.patterns i).next p (p.matched f.samples)
    let v := { s with bel := { s.bel with patterns := tput {} s.bel.patterns i r.1 } }
    (p.enabled = false → decidePattern f s i = s) ∧
    (p.enabled = true → r.2 = false → decidePattern f s i = v) ∧
    (p.enabled = true → r.2 = true → decidePattern f s i = patternWake v i (4 * (256 * f.number + 256)) false)) ∧
  (∀ (d : PatState) (p : Pattern) (m : Bool),
    let hist := (m :: d.hist).take p.win
    let quiet := if m then 0 else d.quiet + 1
    (d.armed = true → p.hit ≤ hist.count true → d.next p m = (⟨false, [], 0⟩, true)) ∧
    (d.armed = true → hist.count true < p.hit → d.next p m = ({ d with hist := hist }, false)) ∧
    (d.armed = false → p.rearm ≤ quiet → d.next p m = (⟨true, hist, 0⟩, false)) ∧
    (d.armed = false → quiet < p.rearm → d.next p m = (⟨false, hist, quiet⟩, false))) ∧
  (∀ (s : State) (i index : Nat) (synthetic : Bool),
    let b := { s.bel with
      wakes := satInc 0xFFFFFFFF s.bel.wakes, lastPattern := i, lastSynthetic := synthetic }
    let v := { s with
      bel := if s.bel.sealed then { b with sealed := false, wakeIndex := index, synthetic := synthetic } else b }
    (s.pw.recording = true → patternWake s i index synthetic = wakeSource v 0x13) ∧
    (s.pw.recording = false → patternWake s i index synthetic =
      post v wakeCode 255 ([0x13#8, 0#8] ++ zeros 6 ++ le 8 s.tsNow.toNat))) ∧
  (∀ (s : State) (total : Bool), s.pw.porDone = true → s.bel.sealed = false →
    exec (.resealTimeout total) s =
      .next { s with emitted := [], bel := { s.bel with sealed := true, synthetic := false } })
end

