-- ==== Sys2Proof/Laws/Table.lean ====
section
/-! SUPPORT. Laws of the two sparse containers: what a lookup gives after an update, and that every update keeps the
canonical form. -/

namespace Sys2Proof.Machine

variable {α : Type}

/-! ### Tables -/

@[simp] theorem tget_nil (d : α) (k : Nat) : tget d [] k = d := rfl

theorem tget_cons (d : α) (j : Nat) (v : α) (t : Tbl α) (k : Nat) :
    tget d ((j, v) :: t) k = if k = j then v else tget d t k := rfl

theorem trising_mono {t : Tbl α} {b c : Nat} (h : trising c t = true) (hb : b ≤ c) : trising b t = true := by
  cases t with
  | nil => rfl
  | cons e t =>
    simp only [trising, Bool.and_eq_true, decide_eq_true_eq] at h ⊢
    exact ⟨by omega, h.2⟩

/-- In a rising table a key below the bound is not listed. -/
theorem tget_below (d : α) {t : Tbl α} {b k : Nat} (h : trising b t = true) (hk : k < b) : tget d t k = d := by
  induction t generalizing b with
  | nil => rfl
  | cons e t ih =>
    simp only [trising, Bool.and_eq_true, decide_eq_true_eq] at h
    rw [tget_cons, if_neg (by omega)]
    exact ih h.2 (by omega)

theorem tget_tins_self (d : α) (t : Tbl α) (k : Nat) (v : α) : tget d (tins t k v) k = v := by
  induction t with
  | nil => simp [tins, tget]
  | cons e t ih =>
    unfold tins
    split
    · simp [tget]
    · split
      · simp [tget]
      · rw [tget_cons, if_neg (by assumption)]
        exact ih

theorem tget_tins_ne (d : α) (t : Tbl α) {k j : Nat} (v : α) (h : j ≠ k) : tget d (tins t k v) j = tget d t j := by
  induction t with
  | nil => simp [tins, tget, h]
  | cons e t ih =>
    unfold tins
    split
    · subst_vars
      simp [tget, h]
    · split
      · rw [tget_cons, if_neg h]
      · rw [tget_cons, tget_cons, ih]

theorem tget_tdel_ne (d : α) (t : Tbl α) {k j : Nat} (h : j ≠ k) : tget d (tdel t k) j = tget d t j := by
  induction t with
  | nil => rfl
  | cons e t ih =>
    unfold tdel
    split
    · subst_vars
      rw [tget_cons, if_neg h, ih]
    · rw [tget_cons, tget_cons, ih]

theorem tget_tdel_self (d : α) (t : Tbl α) (k : Nat) : tget d (tdel t k) k = d := by
  induction t with
  | nil => rfl
  | cons e t ih =>
    unfold tdel
    split
    · exact ih
    · rw [tget_cons, if_neg (by assumption)]
      exact ih

theorem trising_tins {t : Tbl α} {b k : Nat} (v : α) (h : trising b t = true) (hb : b ≤ k) :
    trising b (tins t k v) = true := by
  induction t generalizing b with
  | nil => simp [tins, trising, hb]
  | cons e t ih =>
    simp only [trising, Bool.and_eq_true, decide_eq_true_eq] at h
    unfold tins
    split
    · subst_vars
      simp [trising, h.1, h.2]
    · split
      · simp only [trising, Bool.and_eq_true, decide_eq_true_eq]
        exact ⟨hb, by omega, h.2⟩
      · simp only [trising, Bool.and_eq_true, decide_eq_true_eq]
        exact ⟨h.1, ih h.2 (by omega)⟩

theorem trising_tdel {t : Tbl α} {b : Nat} (k : Nat) (h : trising b t = true) : trising b (tdel t k) = true := by
  induction t generalizing b with
  | nil => rfl
  | cons e t ih =>
    simp only [trising, Bool.and_eq_true, decide_eq_true_eq] at h
    unfold tdel
    split
    · exact trising_mono (ih h.2) (by omega)
    · simp only [trising, Bool.and_eq_true, decide_eq_true_eq]
      exact ⟨h.1, ih h.2⟩

theorem trising_filter {t : Tbl α} {b : Nat} (p : Nat × α → Bool) (h : trising b t = true) :
    trising b (t.filter p) = true := by
  induction t generalizing b with
  | nil => rfl
  | cons e t ih =>
    simp only [trising, Bool.and_eq_true, decide_eq_true_eq] at h
    rw [List.filter_cons]
    split
    · simp only [trising, Bool.and_eq_true, decide_eq_true_eq]
      exact ⟨h.1, ih h.2⟩
    · exact trising_mono (ih h.2) (by omega)

theorem mem_tins {t : Tbl α} {k : Nat} {v : α} {e : Nat × α} (h : e ∈ tins t k v) : e = (k, v) ∨ e ∈ t := by
  induction t with
  | nil => simpa [tins] using h
  | cons x t ih =>
    unfold tins at h
    split at h
    · rcases List.mem_cons.1 h with h | h
      · exact .inl h
      · exact .inr (List.mem_cons_of_mem _ h)
    · split at h
      · rcases List.mem_cons.1 h with h | h
        · exact .inl h
        · exact .inr h
      · rcases List.mem_cons.1 h with h | h
        · exact .inr (h ▸ List.mem_cons_self ..)
        · exact (ih h).imp id (List.mem_cons_of_mem _)

theorem mem_tdel {t : Tbl α} {k : Nat} {e : Nat × α} (h : e ∈ tdel t k) : e ∈ t := by
  induction t with
  | nil => simp [tdel] at h
  | cons x t ih =>
    unfold tdel at h
    split at h
    · exact List.mem_cons_of_mem _ (ih h)
    · rcases List.mem_cons.1 h with h | h
      · exact h ▸ List.mem_cons_self ..
      · exact List.mem_cons_of_mem _ (ih h)

/-- What holds of every listed record and of the default holds of every record. -/
theorem tget_all {P : α → Prop} {d : α} {t : Tbl α} (hd : P d) (h : ∀ e ∈ t, P e.2) (k : Nat) : P (tget d t k) := by
  induction t with
  | nil => exact hd
  | cons e t ih =>
    rw [tget_cons]
    split
    · exact h e (List.mem_cons_self ..)
    · exact ih fun x hx => h x (List.mem_cons_of_mem _ hx)

variable [DecidableEq α]

theorem tget_tput_ne (d : α) (t : Tbl α) {k j : Nat} (v : α) (h : j ≠ k) : tget d (tput d t k v) j = tget d t j := by
  unfold tput
  split
  · exact tget_tdel_ne d t h
  · exact tget_tins_ne d t v h

@[simp] theorem tget_tput_self (d : α) (t : Tbl α) (k : Nat) (v : α) : tget d (tput d t k v) k = v := by
  unfold tput
  split
  · subst_vars
    exact tget_tdel_self _ t k
  · exact tget_tins_self d t k v

theorem tget_tput (d : α) (t : Tbl α) (k j : Nat) (v : α) :
    tget d (tput d t k v) j = if j = k then v else tget d t j := by
  split
  · subst_vars
    exact tget_tput_self ..
  · exact tget_tput_ne d t v (by assumption)

theorem trising_tput {d : α} {t : Tbl α} (k : Nat) (v : α) (h : trising 0 t = true) :
    trising 0 (tput d t k v) = true := by
  unfold tput
  split
  · exact trising_tdel k h
  · exact trising_tins v h (Nat.zero_le k)

theorem mem_tput {d : α} {t : Tbl α} {k : Nat} {v : α} {e : Nat × α} (h : e ∈ tput d t k v) : e = (k, v) ∨ e ∈ t := by
  unfold tput at h
  split at h
  · exact .inr (mem_tdel h)
  · exact mem_tins h

theorem Tbl.wf_iff (d : α) (t : Tbl α) : Tbl.wf d t = true ↔ trising 0 t = true ∧ ∀ e ∈ t, e.2 ≠ d := by
  simp [Tbl.wf]

/-- An update keeps the canonical form of a table. -/
theorem Tbl.wf_tput {d : α} {t : Tbl α} (k : Nat) (v : α) (h : Tbl.wf d t = true) : Tbl.wf d (tput d t k v) = true := by
  rw [Tbl.wf_iff] at h ⊢
  refine ⟨trising_tput k v h.1, fun e he => ?_⟩
  unfold tput at he
  split at he
  · exact h.2 e (mem_tdel he)
  · rcases mem_tins he with rfl | he
    · assumption
    · exact h.2 e he

/-- Leaving entries out keeps the canonical form of a table. -/
theorem Tbl.wf_filter {d : α} {t : Tbl α} (p : Nat × α → Bool) (h : Tbl.wf d t = true) :
    Tbl.wf d (t.filter p) = true := by
  rw [Tbl.wf_iff] at h ⊢
  exact ⟨trising_filter p h.1, fun e he => h.2 e (List.mem_of_mem_filter he)⟩

/-- Changing every record and leaving those out that have become the default keeps the canonical form. -/
theorem Tbl.wf_mapFilter {d : α} {t : Tbl α} (p : Nat × α → Bool) (f : α → α) (h : Tbl.wf d t = true)
    (hp : ∀ e, p e = true → e.2 ≠ d) : Tbl.wf d ((t.map fun e => (e.1, f e.2)).filter p) = true := by
  rw [Tbl.wf_iff] at h ⊢
  refine ⟨trising_filter p ?_, fun e he => hp e (List.of_mem_filter he)⟩
  have := h.1
  clear h hp p
  generalize (0 : Nat) = b at this
  induction t generalizing b with
  | nil => rfl
  | cons e t ih =>
    simp only [trising, List.map_cons, Bool.and_eq_true, decide_eq_true_eq] at this ⊢
    exact ⟨this.1, ih _ this.2⟩

/-! ### Byte memories -/

theorem Memory.wf_empty : Memory.wf [] = true := rfl

theorem Memory.read_write_ne (m : Memory) {a c : Nat} (b : Byte) (h : c ≠ a) : (m.write a b).read c = m.read c := by
  unfold Memory.write Memory.read tput
  split
  · exact tget_tdel_ne _ m h
  · exact tget_tins_ne _ m b h

@[simp] theorem Memory.read_write_self (m : Memory) (a : Nat) (b : Byte) : (m.write a b).read a = b :=
  tget_tput_self ..

theorem Memory.wf_write {m : Memory} (a : Nat) (b : Byte) (h : m.wf = true) : (m.write a b).wf = true := by
  simp only [Memory.wf, Bool.and_eq_true, List.all_eq_true, decide_eq_true_eq] at h ⊢
  refine ⟨trising_tput a b h.1, fun e he => ?_⟩
  unfold Memory.write tput at he
  split at he
  · exact h.2 e (mem_tdel he)
  · rename_i n
    rcases mem_tins he with rfl | he
    · exact n
    · exact h.2 e he

theorem Memory.wf_writeBytes {m : Memory} (a : Nat) (bs : List Byte) (h : m.wf = true) :
    (m.writeBytes a bs).wf = true := by
  induction bs generalizing m a with
  | nil => exact h
  | cons b bs ih => exact ih (a + 1) (Memory.wf_write a b h)

/-- A write of several bytes leaves every byte outside them. -/
theorem Memory.read_writeBytes_outside (m : Memory) (a : Nat) (bs : List Byte) {c : Nat}
    (h : c < a ∨ a + bs.length ≤ c) : (m.writeBytes a bs).read c = m.read c := by
  induction bs generalizing m a with
  | nil => rfl
  | cons b bs ih =>
    simp only [List.length_cons] at h
    rw [Memory.writeBytes, ih (m.write a b) (a + 1) (by omega), Memory.read_write_ne m b (by omega)]

/-- A write of several bytes puts each at its place. -/
theorem Memory.read_writeBytes_inside (m : Memory) (a : Nat) (bs : List Byte) {i : Nat} (hi : i < bs.length) :
    (m.writeBytes a bs).read (a + i) = bs[i] := by
  induction bs generalizing m a i with
  | nil => exact absurd hi (Nat.not_lt_zero i)
  | cons b bs ih =>
    rw [Memory.writeBytes]
    cases i with
    | zero =>
      rw [Memory.read_writeBytes_outside _ _ _ (by omega)]
      exact Memory.read_write_self m a b
    | succ i =>
      have := ih (m.write a b) (a + 1) (i := i) (by simpa using hi)
      rw [show a + (i + 1) = a + 1 + i by omega, this]
      rfl

@[simp] theorem Memory.length_readBytes (m : Memory) (a n : Nat) : (m.readBytes a n).length = n := by
  induction n generalizing a with
  | zero => rfl
  | succ n ih => simp [Memory.readBytes, ih]

theorem WrittenMemory.wf_writeBytes {m : WrittenMemory} (a : Nat) (bs : List Byte) (h : WrittenMemory.wf m = true) :
    WrittenMemory.wf (WrittenMemory.writeBytes m a bs) = true := by
  induction bs generalizing m a with
  | nil => exact h
  | cons b bs ih => exact ih (a + 1) (trising_tins b h (Nat.zero_le a))

theorem WrittenMemory.wf_filter {m : WrittenMemory} (p : Host.Cell → Bool) (h : WrittenMemory.wf m = true) :
    WrittenMemory.wf (m.filter p) = true := trising_filter p h

theorem find_tins_self {α : Type} (m : Tbl α) (a : Nat) (b : α) :
    (tins m a b).find? (fun e => e.1 == a) = some (a, b) := by
  induction m with
  | nil => simp [tins]
  | cons e m ih =>
    unfold tins
    split
    · simp
    · split
      · simp
      · rename_i h _
        rw [List.find?_cons_of_neg (by simpa using fun x => h x.symm)]
        exact ih

theorem find_tins_ne {α : Type} (m : Tbl α) {a c : Nat} (b : α) (h : c ≠ a) :
    (tins m a b).find? (fun e => e.1 == c) = m.find? (fun e => e.1 == c) := by
  induction m with
  | nil => simp [tins, h.symm]
  | cons e m ih =>
    unfold tins
    split
    · subst_vars
      simp [h.symm]
    · split
      · rw [List.find?_cons_of_neg (by simpa using h.symm)]
      · rw [List.find?_cons, List.find?_cons, ih]

theorem WrittenMemory.read_write_self (m : WrittenMemory) (a : Nat) (b : Byte) :
    WrittenMemory.read? (WrittenMemory.write m a b) a = some b := by
  unfold WrittenMemory.read? WrittenMemory.write
  rw [find_tins_self]
  rfl

theorem WrittenMemory.read_write_ne (m : WrittenMemory) {a c : Nat} (b : Byte) (h : c ≠ a) :
    WrittenMemory.read? (WrittenMemory.write m a b) c = WrittenMemory.read? m c := by
  unfold WrittenMemory.read? WrittenMemory.write
  rw [find_tins_ne m b h]

theorem WrittenMemory.read_writeBytes_outside (m : WrittenMemory) (a : Nat) (bs : List Byte) {c : Nat}
    (h : c < a ∨ a + bs.length ≤ c) :
    WrittenMemory.read? (WrittenMemory.writeBytes m a bs) c = WrittenMemory.read? m c := by
  induction bs generalizing m a with
  | nil => rfl
  | cons b bs ih =>
    simp only [List.length_cons] at h
    rw [WrittenMemory.writeBytes, ih (WrittenMemory.write m a b) (a + 1) (by omega),
      WrittenMemory.read_write_ne m b (by omega)]

end Sys2Proof.Machine
end

