-- ==== Sys2Proof/Laws/Bytes.lean ====
section
/-! SUPPORT. Byte strings, fields, free bytes and blocks: what reading after writing gives. -/

namespace Sys2Proof.Machine

/-- A field of `n` bytes is `n` bytes long (R1). -/
theorem length_le (n v : Nat) : (le n v).length = n :=
    by induction n generalizing v with | zero => rfl | succ n ih => simp [le, ih]

/-- Reading the bytes a number was written as gives the number, where they hold it (R1). -/
theorem leNat_le (n v : Nat) (h : v < 256 ^ n) : leNat (le n v) = v := by
  induction n generalizing v with
  | zero => simp at h; subst h; rfl
  | succ n ih =>
    simp only [le, leNat]; rw [ih (v/256) (by rw [pow_succ] at h; omega)]; simp; omega

/-- The first field of a string. -/
theorem sliceB_left (a c : List Byte) (n : Nat) (h : a.length = n) : sliceB (a ++ c) 0 n = a := by
  subst h; unfold sliceB; simp

/-- The field that follows the first. -/
theorem sliceB_right (a c : List Byte) (n m : Nat) (h : a.length = n) : sliceB (a ++ c) n m = sliceB c 0 m := by
  subst h; unfold sliceB; simp

/-- A slice of zeros is zeros. -/
theorem sliceB_zeros (n o m : Nat) : sliceB (zeros n) o m = zeros m := by
  unfold sliceB zeros; simp only [List.drop_replicate, List.take_replicate, List.length_replicate]
  rw [List.replicate_append_replicate]; congr 1; omega

/-- A padded string has the length asked for. -/
theorem length_padTo (n : Nat) (b : List Byte) : (padTo n b).length = n := by unfold padTo sliceB; simp

/-- A string does not differ from itself. -/
theorem firstDiff_self (n : Nat) (e : List Byte) : firstDiff n e e = none := by
  induction e generalizing n with | nil => rfl | cons a e ih => simp [firstDiff, ih]

/-- As many free bytes as asked for. -/
theorem length_freeBytes (n : Nat) (s : State) : (s.freeBytes n).1.length = n := by
  induction n generalizing s with
  | zero => rfl
  | succ n ih => unfold State.freeBytes; simp only [List.length_cons, ih]

/-- Drawing free bytes moves the draw counter alone. -/
theorem freeBytes_state (n : Nat) (s : State) : (s.freeBytes n).2 =
    { s with freeCount := (s.freeBytes n).2.freeCount } := by
  induction n generalizing s with
  | zero => rfl
  | succ n ih => unfold State.freeBytes; simp only []; rw [ih]

/-- The free bytes drawn are the next numbers' bytes, each its own. -/
theorem freeBytes_eq (n : Nat) : ∀ s : State, s.freeBytes n =
    ((List.range n).map fun k => Config.freeByte (s.freeCount + k), { s with freeCount := s.freeCount + n }) := by
  induction n with
  | zero => intro s; rfl
  | succ n ih => intro s; unfold State.freeBytes; simp only [ih]; rw [List.range_succ_eq_map]; simp [Function.comp_def]; constructor
                 · intro a _; congr 1; omega
                 · omega

/-- Padding with free bytes reaches at least `n` bytes. -/
theorem length_padFree (s : State) (n : Nat) (bs : List Byte) : (padFree s n bs).1.length = max n bs.length := by
  unfold padFree; simp only [List.length_append, length_freeBytes]; omega

/-- Padding with free bytes moves the draw counter alone. -/
theorem padFree_state (s : State) (n : Nat) (bs : List Byte) : (padFree s n bs).2 =
    { s with freeCount := (padFree s n bs).2.freeCount } := freeBytes_state _ _

/-- Padding leaves the bytes there were. -/
theorem getElem_padFree (s : State) (n : Nat) (bs : List Byte) (k : Nat) (h : k < bs.length)
    (h' : k < (padFree s n bs).1.length) : (padFree s n bs).1[k] = bs[k] :=
  List.getElem_append_left h

/-- Memories that agree on a range read alike there. -/
theorem Memory.readBytes_congr {m m' : Memory} : ∀ (n a : Nat), (∀ i, i < n → m.read (a + i) = m'.read (a + i)) →
    m.readBytes a n = m'.readBytes a n := by
  intro n; induction n with
  | zero => intros; rfl
  | succ n ih => intro a h; unfold Memory.readBytes; rw [show m.read a = m'.read a from h 0 (by omega), ih (a + 1) (fun i hi => by have := h (i + 1) (by omega); rwa [show a + (i + 1) = a + 1 + i by omega] at this)]

/-- Each byte of a read is the byte at its address. -/
theorem Memory.getElem_readBytes (m : Memory) : ∀ (n a i : Nat)
    (h : i < (m.readBytes a n).length), (m.readBytes a n)[i] = m.read (a + i) := by
  intro n; induction n with
  | zero => intro a i h; simp [Memory.readBytes] at h
  | succ n ih => intro a i h; cases i with
    | zero => rfl
    | succ i => show (m.readBytes (a+1) n)[i]'(by simpa [Memory.readBytes] using h) = _; rw [ih]; congr 1; omega

/-- What was written is read back. -/
theorem Memory.readBytes_writeBytes (m : Memory) (a : Nat) (bs : List Byte) (n : Nat) (h : bs.length = n)
    : (m.writeBytes a bs).readBytes a n = bs := by
  apply List.ext_getElem
  · simp [h]
  · intro i h1 h2; rw [Memory.getElem_readBytes, Memory.read_writeBytes_inside m a bs h2]

/-- Written HBM reads as it was written (R408). -/
theorem WrittenMemory.read_writeBytes_inside (bs : List Byte) (m : WrittenMemory) (a k : Nat) (h : k < bs.length)
    : (m.writeBytes a bs).read? (a + k) = some bs[k] := by
  induction bs generalizing m a k with
  | nil => cases h
  | cons b bs ih =>
    cases k with
    | zero =>
      show (WrittenMemory.writeBytes (m.write a b) (a + 1) bs).read? a = _
      rw [WrittenMemory.read_writeBytes_outside _ _ _ (Or.inl (Nat.lt_succ_self a))]
      exact WrittenMemory.read_write_self _ _ _
    | succ k =>
      show (WrittenMemory.writeBytes (m.write a b) (a + 1) bs).read? (a + (k + 1)) = _
      have := ih (m.write a b) (a + 1) k (by simpa using h)
      rw [show a + (k + 1) = a + 1 + k by omega]; exact this

/-- A tag block stays within the memory of 256 blocks (R501). -/
theorem Tag.place_lt (t : Tag) (b : Nat) (h : b < 256) : t.place b < 256 :=
    by unfold Tag.place; simp; (repeat' split) <;> omega

/-- Different blocks of the tag lie in different places, whichever half holds the capsule (R504). -/
theorem Tag.place_inj (t : Tag) (b c : Nat) (h : t.place b = t.place c) : b = c := by
  unfold Tag.place at h; cases hs : t.swapped <;> simp only [hs, Bool.true_and, Bool.false_and, decide_eq_true_eq, if_false, Bool.false_eq_true] at h
  · exact h
  · (repeat' split at h) <;> omega

/-- Writing a block of 32 bytes changes that block alone (R501). -/
theorem Tag.block_putBlock (t : Tag) (b c : Nat) (data : List Byte) (hd : data.length = 32) :
    (t.putBlock b data).block c = if c = b then data else t.block c := by
  have e : padTo 32 data = data := by unfold padTo; simp [hd, sliceB, zeros]
  unfold Tag.putBlock Tag.block
  show Memory.readBytes (t.mem.writeBytes (32 * t.place b) (padTo 32 data)) (32 * t.place c) 32 = _
  rw [e]
  split
  · rename_i h; subst h; exact Memory.readBytes_writeBytes _ _ _ _ hd
  · rename_i h
    have n : t.place c ≠ t.place b := fun q => h (Tag.place_inj t c b q)
    exact Memory.readBytes_congr _ _ (fun i hi => Memory.read_writeBytes_outside _ _ _ (by omega))

/-- Writing several blocks changes those blocks alone (R501). -/
theorem Tag.block_putBlocks (t : Tag) (first : Nat) (data : List Byte) : ∀ (n : Nat), 32 * n ≤ data.length → ∀ k,
    (t.putBlocks first n data).block k = if first ≤ k ∧
    k < first + n then (data.drop (32 * (k - first))).take 32 else t.block k := by
  intro n; induction n with
  | zero => intro h k; rw [if_neg (by omega)]; rfl
  | succ n ih =>
    intro h k
    have : t.putBlocks first (n + 1) data = (t.putBlocks first n data).putBlock (first + n) (sliceB data (32 * n) 32) := by
      unfold Tag.putBlocks; rw [List.range_succ, List.foldl_append]; rfl
    have e : sliceB data (32 * n) 32 = (data.drop (32 * n)).take 32 := by
      unfold sliceB; simp [zeros]; omega
    rw [this, Tag.block_putBlock _ _ _ _ (by rw [e]; simp; omega), e, ih (by omega)]
    by_cases hk : k = first + n
    · subst hk; rw [if_pos rfl, if_pos (by omega)]; congr 2; omega
    · rw [if_neg hk]; by_cases h2 : first ≤ k ∧ k < first + n
      · rw [if_pos h2, if_pos (by omega)]
      · rw [if_neg h2, if_neg (by omega)]

end Sys2Proof.Machine
end

