-- ==== Sys2Proof/Laws/State.lean ====
section
/-! SUPPORT. One lemma for each field of the state and each named update of it, and what the parts read as after an
update. The updates of a host port split on the port, so theirs are by cases. -/

namespace Sys2Proof.Machine

variable (s : State)

/-! ### `State.emit` -/

@[simp] theorem State.emit_pending (e : Emission) : (s.emit e).pending = s.pending := rfl
@[simp] theorem State.emit_freeCount (e : Emission) : (s.emit e).freeCount = s.freeCount := rfl
@[simp] theorem State.emit_now (e : Emission) : (s.emit e).now = s.now := rfl
@[simp] theorem State.emit_pw (e : Emission) : (s.emit e).pw = s.pw := rfl
@[simp] theorem State.emit_heat (e : Emission) : (s.emit e).heat = s.heat := rfl
@[simp] theorem State.emit_flt (e : Emission) : (s.emit e).flt = s.flt := rfl
@[simp] theorem State.emit_clo (e : Emission) : (s.emit e).clo = s.clo := rfl
@[simp] theorem State.emit_flash (e : Emission) : (s.emit e).flash = s.flash := rfl
@[simp] theorem State.emit_h0 (e : Emission) : (s.emit e).h0 = s.h0 := rfl
@[simp] theorem State.emit_h1 (e : Emission) : (s.emit e).h1 = s.h1 := rfl
@[simp] theorem State.emit_feb (e : Emission) : (s.emit e).feb = s.feb := rfl
@[simp] theorem State.emit_chapels (e : Emission) : (s.emit e).chapels = s.chapels := rfl
@[simp] theorem State.emit_cells (e : Emission) : (s.emit e).cells = s.cells := rfl
@[simp] theorem State.emit_amb (e : Emission) : (s.emit e).amb = s.amb := rfl
@[simp] theorem State.emit_aisleBays (e : Emission) : (s.emit e).aisleBays = s.aisleBays := rfl
@[simp] theorem State.emit_hbmStacks (e : Emission) : (s.emit e).hbmStacks = s.hbmStacks := rfl
@[simp] theorem State.emit_hbm (e : Emission) : (s.emit e).hbm = s.hbm := rfl
@[simp] theorem State.emit_links (e : Emission) : (s.emit e).links = s.links := rfl
@[simp] theorem State.emit_gate (e : Emission) : (s.emit e).gate = s.gate := rfl
@[simp] theorem State.emit_bel (e : Emission) : (s.emit e).bel = s.bel := rfl

/-! ### `State.modChapel` -/

@[simp] theorem State.modChapel_pending (c : Nat) (f : Chapel → Chapel) : (s.modChapel c f).pending = s.pending := rfl
@[simp] theorem State.modChapel_emitted (c : Nat) (f : Chapel → Chapel) : (s.modChapel c f).emitted = s.emitted := rfl
@[simp] theorem State.modChapel_freeCount (c : Nat) (f : Chapel → Chapel) : (s.modChapel c f).freeCount = s.freeCount := rfl
@[simp] theorem State.modChapel_now (c : Nat) (f : Chapel → Chapel) : (s.modChapel c f).now = s.now := rfl
@[simp] theorem State.modChapel_pw (c : Nat) (f : Chapel → Chapel) : (s.modChapel c f).pw = s.pw := rfl
@[simp] theorem State.modChapel_heat (c : Nat) (f : Chapel → Chapel) : (s.modChapel c f).heat = s.heat := rfl
@[simp] theorem State.modChapel_flt (c : Nat) (f : Chapel → Chapel) : (s.modChapel c f).flt = s.flt := rfl
@[simp] theorem State.modChapel_clo (c : Nat) (f : Chapel → Chapel) : (s.modChapel c f).clo = s.clo := rfl
@[simp] theorem State.modChapel_flash (c : Nat) (f : Chapel → Chapel) : (s.modChapel c f).flash = s.flash := rfl
@[simp] theorem State.modChapel_h0 (c : Nat) (f : Chapel → Chapel) : (s.modChapel c f).h0 = s.h0 := rfl
@[simp] theorem State.modChapel_h1 (c : Nat) (f : Chapel → Chapel) : (s.modChapel c f).h1 = s.h1 := rfl
@[simp] theorem State.modChapel_feb (c : Nat) (f : Chapel → Chapel) : (s.modChapel c f).feb = s.feb := rfl
@[simp] theorem State.modChapel_cells (c : Nat) (f : Chapel → Chapel) : (s.modChapel c f).cells = s.cells := rfl
@[simp] theorem State.modChapel_amb (c : Nat) (f : Chapel → Chapel) : (s.modChapel c f).amb = s.amb := rfl
@[simp] theorem State.modChapel_aisleBays (c : Nat) (f : Chapel → Chapel) : (s.modChapel c f).aisleBays = s.aisleBays := rfl
@[simp] theorem State.modChapel_hbmStacks (c : Nat) (f : Chapel → Chapel) : (s.modChapel c f).hbmStacks = s.hbmStacks := rfl
@[simp] theorem State.modChapel_hbm (c : Nat) (f : Chapel → Chapel) : (s.modChapel c f).hbm = s.hbm := rfl
@[simp] theorem State.modChapel_links (c : Nat) (f : Chapel → Chapel) : (s.modChapel c f).links = s.links := rfl
@[simp] theorem State.modChapel_gate (c : Nat) (f : Chapel → Chapel) : (s.modChapel c f).gate = s.gate := rfl
@[simp] theorem State.modChapel_bel (c : Nat) (f : Chapel → Chapel) : (s.modChapel c f).bel = s.bel := rfl

/-! ### `State.modCell` -/

@[simp] theorem State.modCell_pending (g : Nat) (f : Cell → Cell) : (s.modCell g f).pending = s.pending := rfl
@[simp] theorem State.modCell_emitted (g : Nat) (f : Cell → Cell) : (s.modCell g f).emitted = s.emitted := rfl
@[simp] theorem State.modCell_freeCount (g : Nat) (f : Cell → Cell) : (s.modCell g f).freeCount = s.freeCount := rfl
@[simp] theorem State.modCell_now (g : Nat) (f : Cell → Cell) : (s.modCell g f).now = s.now := rfl
@[simp] theorem State.modCell_pw (g : Nat) (f : Cell → Cell) : (s.modCell g f).pw = s.pw := rfl
@[simp] theorem State.modCell_heat (g : Nat) (f : Cell → Cell) : (s.modCell g f).heat = s.heat := rfl
@[simp] theorem State.modCell_flt (g : Nat) (f : Cell → Cell) : (s.modCell g f).flt = s.flt := rfl
@[simp] theorem State.modCell_clo (g : Nat) (f : Cell → Cell) : (s.modCell g f).clo = s.clo := rfl
@[simp] theorem State.modCell_flash (g : Nat) (f : Cell → Cell) : (s.modCell g f).flash = s.flash := rfl
@[simp] theorem State.modCell_h0 (g : Nat) (f : Cell → Cell) : (s.modCell g f).h0 = s.h0 := rfl
@[simp] theorem State.modCell_h1 (g : Nat) (f : Cell → Cell) : (s.modCell g f).h1 = s.h1 := rfl
@[simp] theorem State.modCell_feb (g : Nat) (f : Cell → Cell) : (s.modCell g f).feb = s.feb := rfl
@[simp] theorem State.modCell_chapels (g : Nat) (f : Cell → Cell) : (s.modCell g f).chapels = s.chapels := rfl
@[simp] theorem State.modCell_amb (g : Nat) (f : Cell → Cell) : (s.modCell g f).amb = s.amb := rfl
@[simp] theorem State.modCell_aisleBays (g : Nat) (f : Cell → Cell) : (s.modCell g f).aisleBays = s.aisleBays := rfl
@[simp] theorem State.modCell_hbmStacks (g : Nat) (f : Cell → Cell) : (s.modCell g f).hbmStacks = s.hbmStacks := rfl
@[simp] theorem State.modCell_hbm (g : Nat) (f : Cell → Cell) : (s.modCell g f).hbm = s.hbm := rfl
@[simp] theorem State.modCell_links (g : Nat) (f : Cell → Cell) : (s.modCell g f).links = s.links := rfl
@[simp] theorem State.modCell_gate (g : Nat) (f : Cell → Cell) : (s.modCell g f).gate = s.gate := rfl
@[simp] theorem State.modCell_bel (g : Nat) (f : Cell → Cell) : (s.modCell g f).bel = s.bel := rfl

/-! ### `State.modCtx` -/

@[simp] theorem State.modCtx_pending (g t : Nat) (f : Ctx → Ctx) : (s.modCtx g t f).pending = s.pending := rfl
@[simp] theorem State.modCtx_emitted (g t : Nat) (f : Ctx → Ctx) : (s.modCtx g t f).emitted = s.emitted := rfl
@[simp] theorem State.modCtx_freeCount (g t : Nat) (f : Ctx → Ctx) : (s.modCtx g t f).freeCount = s.freeCount := rfl
@[simp] theorem State.modCtx_now (g t : Nat) (f : Ctx → Ctx) : (s.modCtx g t f).now = s.now := rfl
@[simp] theorem State.modCtx_pw (g t : Nat) (f : Ctx → Ctx) : (s.modCtx g t f).pw = s.pw := rfl
@[simp] theorem State.modCtx_heat (g t : Nat) (f : Ctx → Ctx) : (s.modCtx g t f).heat = s.heat := rfl
@[simp] theorem State.modCtx_flt (g t : Nat) (f : Ctx → Ctx) : (s.modCtx g t f).flt = s.flt := rfl
@[simp] theorem State.modCtx_clo (g t : Nat) (f : Ctx → Ctx) : (s.modCtx g t f).clo = s.clo := rfl
@[simp] theorem State.modCtx_flash (g t : Nat) (f : Ctx → Ctx) : (s.modCtx g t f).flash = s.flash := rfl
@[simp] theorem State.modCtx_h0 (g t : Nat) (f : Ctx → Ctx) : (s.modCtx g t f).h0 = s.h0 := rfl
@[simp] theorem State.modCtx_h1 (g t : Nat) (f : Ctx → Ctx) : (s.modCtx g t f).h1 = s.h1 := rfl
@[simp] theorem State.modCtx_feb (g t : Nat) (f : Ctx → Ctx) : (s.modCtx g t f).feb = s.feb := rfl
@[simp] theorem State.modCtx_chapels (g t : Nat) (f : Ctx → Ctx) : (s.modCtx g t f).chapels = s.chapels := rfl
@[simp] theorem State.modCtx_amb (g t : Nat) (f : Ctx → Ctx) : (s.modCtx g t f).amb = s.amb := rfl
@[simp] theorem State.modCtx_aisleBays (g t : Nat) (f : Ctx → Ctx) : (s.modCtx g t f).aisleBays = s.aisleBays := rfl
@[simp] theorem State.modCtx_hbmStacks (g t : Nat) (f : Ctx → Ctx) : (s.modCtx g t f).hbmStacks = s.hbmStacks := rfl
@[simp] theorem State.modCtx_hbm (g t : Nat) (f : Ctx → Ctx) : (s.modCtx g t f).hbm = s.hbm := rfl
@[simp] theorem State.modCtx_links (g t : Nat) (f : Ctx → Ctx) : (s.modCtx g t f).links = s.links := rfl
@[simp] theorem State.modCtx_gate (g t : Nat) (f : Ctx → Ctx) : (s.modCtx g t f).gate = s.gate := rfl
@[simp] theorem State.modCtx_bel (g t : Nat) (f : Ctx → Ctx) : (s.modCtx g t f).bel = s.bel := rfl

/-! ### `State.modEng` -/

@[simp] theorem State.modEng_pending (g e : Nat) (f : Slype → Slype) : (s.modEng g e f).pending = s.pending := rfl
@[simp] theorem State.modEng_emitted (g e : Nat) (f : Slype → Slype) : (s.modEng g e f).emitted = s.emitted := rfl
@[simp] theorem State.modEng_freeCount (g e : Nat) (f : Slype → Slype) : (s.modEng g e f).freeCount = s.freeCount := rfl
@[simp] theorem State.modEng_now (g e : Nat) (f : Slype → Slype) : (s.modEng g e f).now = s.now := rfl
@[simp] theorem State.modEng_pw (g e : Nat) (f : Slype → Slype) : (s.modEng g e f).pw = s.pw := rfl
@[simp] theorem State.modEng_heat (g e : Nat) (f : Slype → Slype) : (s.modEng g e f).heat = s.heat := rfl
@[simp] theorem State.modEng_flt (g e : Nat) (f : Slype → Slype) : (s.modEng g e f).flt = s.flt := rfl
@[simp] theorem State.modEng_clo (g e : Nat) (f : Slype → Slype) : (s.modEng g e f).clo = s.clo := rfl
@[simp] theorem State.modEng_flash (g e : Nat) (f : Slype → Slype) : (s.modEng g e f).flash = s.flash := rfl
@[simp] theorem State.modEng_h0 (g e : Nat) (f : Slype → Slype) : (s.modEng g e f).h0 = s.h0 := rfl
@[simp] theorem State.modEng_h1 (g e : Nat) (f : Slype → Slype) : (s.modEng g e f).h1 = s.h1 := rfl
@[simp] theorem State.modEng_feb (g e : Nat) (f : Slype → Slype) : (s.modEng g e f).feb = s.feb := rfl
@[simp] theorem State.modEng_chapels (g e : Nat) (f : Slype → Slype) : (s.modEng g e f).chapels = s.chapels := rfl
@[simp] theorem State.modEng_amb (g e : Nat) (f : Slype → Slype) : (s.modEng g e f).amb = s.amb := rfl
@[simp] theorem State.modEng_aisleBays (g e : Nat) (f : Slype → Slype) : (s.modEng g e f).aisleBays = s.aisleBays := rfl
@[simp] theorem State.modEng_hbmStacks (g e : Nat) (f : Slype → Slype) : (s.modEng g e f).hbmStacks = s.hbmStacks := rfl
@[simp] theorem State.modEng_hbm (g e : Nat) (f : Slype → Slype) : (s.modEng g e f).hbm = s.hbm := rfl
@[simp] theorem State.modEng_links (g e : Nat) (f : Slype → Slype) : (s.modEng g e f).links = s.links := rfl
@[simp] theorem State.modEng_gate (g e : Nat) (f : Slype → Slype) : (s.modEng g e f).gate = s.gate := rfl
@[simp] theorem State.modEng_bel (g e : Nat) (f : Slype → Slype) : (s.modEng g e f).bel = s.bel := rfl

/-! ### `State.modStack` -/

@[simp] theorem State.modStack_pending (m : Nat) (f : Stack → Stack) : (s.modStack m f).pending = s.pending := rfl
@[simp] theorem State.modStack_emitted (m : Nat) (f : Stack → Stack) : (s.modStack m f).emitted = s.emitted := rfl
@[simp] theorem State.modStack_freeCount (m : Nat) (f : Stack → Stack) : (s.modStack m f).freeCount = s.freeCount := rfl
@[simp] theorem State.modStack_now (m : Nat) (f : Stack → Stack) : (s.modStack m f).now = s.now := rfl
@[simp] theorem State.modStack_pw (m : Nat) (f : Stack → Stack) : (s.modStack m f).pw = s.pw := rfl
@[simp] theorem State.modStack_heat (m : Nat) (f : Stack → Stack) : (s.modStack m f).heat = s.heat := rfl
@[simp] theorem State.modStack_flt (m : Nat) (f : Stack → Stack) : (s.modStack m f).flt = s.flt := rfl
@[simp] theorem State.modStack_clo (m : Nat) (f : Stack → Stack) : (s.modStack m f).clo = s.clo := rfl
@[simp] theorem State.modStack_flash (m : Nat) (f : Stack → Stack) : (s.modStack m f).flash = s.flash := rfl
@[simp] theorem State.modStack_h0 (m : Nat) (f : Stack → Stack) : (s.modStack m f).h0 = s.h0 := rfl
@[simp] theorem State.modStack_h1 (m : Nat) (f : Stack → Stack) : (s.modStack m f).h1 = s.h1 := rfl
@[simp] theorem State.modStack_feb (m : Nat) (f : Stack → Stack) : (s.modStack m f).feb = s.feb := rfl
@[simp] theorem State.modStack_chapels (m : Nat) (f : Stack → Stack) : (s.modStack m f).chapels = s.chapels := rfl
@[simp] theorem State.modStack_cells (m : Nat) (f : Stack → Stack) : (s.modStack m f).cells = s.cells := rfl
@[simp] theorem State.modStack_amb (m : Nat) (f : Stack → Stack) : (s.modStack m f).amb = s.amb := rfl
@[simp] theorem State.modStack_aisleBays (m : Nat) (f : Stack → Stack) : (s.modStack m f).aisleBays = s.aisleBays := rfl
@[simp] theorem State.modStack_hbm (m : Nat) (f : Stack → Stack) : (s.modStack m f).hbm = s.hbm := rfl
@[simp] theorem State.modStack_links (m : Nat) (f : Stack → Stack) : (s.modStack m f).links = s.links := rfl
@[simp] theorem State.modStack_gate (m : Nat) (f : Stack → Stack) : (s.modStack m f).gate = s.gate := rfl
@[simp] theorem State.modStack_bel (m : Nat) (f : Stack → Stack) : (s.modStack m f).bel = s.bel := rfl

/-! ### `State.modLink` -/

@[simp] theorem State.modLink_pending (t : Nat) (f : TPort → TPort) : (s.modLink t f).pending = s.pending := rfl
@[simp] theorem State.modLink_emitted (t : Nat) (f : TPort → TPort) : (s.modLink t f).emitted = s.emitted := rfl
@[simp] theorem State.modLink_freeCount (t : Nat) (f : TPort → TPort) : (s.modLink t f).freeCount = s.freeCount := rfl
@[simp] theorem State.modLink_now (t : Nat) (f : TPort → TPort) : (s.modLink t f).now = s.now := rfl
@[simp] theorem State.modLink_pw (t : Nat) (f : TPort → TPort) : (s.modLink t f).pw = s.pw := rfl
@[simp] theorem State.modLink_heat (t : Nat) (f : TPort → TPort) : (s.modLink t f).heat = s.heat := rfl
@[simp] theorem State.modLink_flt (t : Nat) (f : TPort → TPort) : (s.modLink t f).flt = s.flt := rfl
@[simp] theorem State.modLink_clo (t : Nat) (f : TPort → TPort) : (s.modLink t f).clo = s.clo := rfl
@[simp] theorem State.modLink_flash (t : Nat) (f : TPort → TPort) : (s.modLink t f).flash = s.flash := rfl
@[simp] theorem State.modLink_h0 (t : Nat) (f : TPort → TPort) : (s.modLink t f).h0 = s.h0 := rfl
@[simp] theorem State.modLink_h1 (t : Nat) (f : TPort → TPort) : (s.modLink t f).h1 = s.h1 := rfl
@[simp] theorem State.modLink_feb (t : Nat) (f : TPort → TPort) : (s.modLink t f).feb = s.feb := rfl
@[simp] theorem State.modLink_chapels (t : Nat) (f : TPort → TPort) : (s.modLink t f).chapels = s.chapels := rfl
@[simp] theorem State.modLink_cells (t : Nat) (f : TPort → TPort) : (s.modLink t f).cells = s.cells := rfl
@[simp] theorem State.modLink_amb (t : Nat) (f : TPort → TPort) : (s.modLink t f).amb = s.amb := rfl
@[simp] theorem State.modLink_aisleBays (t : Nat) (f : TPort → TPort) : (s.modLink t f).aisleBays = s.aisleBays := rfl
@[simp] theorem State.modLink_hbmStacks (t : Nat) (f : TPort → TPort) : (s.modLink t f).hbmStacks = s.hbmStacks := rfl
@[simp] theorem State.modLink_hbm (t : Nat) (f : TPort → TPort) : (s.modLink t f).hbm = s.hbm := rfl
@[simp] theorem State.modLink_gate (t : Nat) (f : TPort → TPort) : (s.modLink t f).gate = s.gate := rfl
@[simp] theorem State.modLink_bel (t : Nat) (f : TPort → TPort) : (s.modLink t f).bel = s.bel := rfl

/-! ### `State.modBay` -/

@[simp] theorem State.modBay_pending (b : Nat) (f : Bay → Bay) : (s.modBay b f).pending = s.pending := rfl
@[simp] theorem State.modBay_emitted (b : Nat) (f : Bay → Bay) : (s.modBay b f).emitted = s.emitted := rfl
@[simp] theorem State.modBay_freeCount (b : Nat) (f : Bay → Bay) : (s.modBay b f).freeCount = s.freeCount := rfl
@[simp] theorem State.modBay_now (b : Nat) (f : Bay → Bay) : (s.modBay b f).now = s.now := rfl
@[simp] theorem State.modBay_pw (b : Nat) (f : Bay → Bay) : (s.modBay b f).pw = s.pw := rfl
@[simp] theorem State.modBay_heat (b : Nat) (f : Bay → Bay) : (s.modBay b f).heat = s.heat := rfl
@[simp] theorem State.modBay_flt (b : Nat) (f : Bay → Bay) : (s.modBay b f).flt = s.flt := rfl
@[simp] theorem State.modBay_clo (b : Nat) (f : Bay → Bay) : (s.modBay b f).clo = s.clo := rfl
@[simp] theorem State.modBay_flash (b : Nat) (f : Bay → Bay) : (s.modBay b f).flash = s.flash := rfl
@[simp] theorem State.modBay_h0 (b : Nat) (f : Bay → Bay) : (s.modBay b f).h0 = s.h0 := rfl
@[simp] theorem State.modBay_h1 (b : Nat) (f : Bay → Bay) : (s.modBay b f).h1 = s.h1 := rfl
@[simp] theorem State.modBay_feb (b : Nat) (f : Bay → Bay) : (s.modBay b f).feb = s.feb := rfl
@[simp] theorem State.modBay_chapels (b : Nat) (f : Bay → Bay) : (s.modBay b f).chapels = s.chapels := rfl
@[simp] theorem State.modBay_cells (b : Nat) (f : Bay → Bay) : (s.modBay b f).cells = s.cells := rfl
@[simp] theorem State.modBay_aisleBays (b : Nat) (f : Bay → Bay) : (s.modBay b f).aisleBays = s.aisleBays := rfl
@[simp] theorem State.modBay_hbmStacks (b : Nat) (f : Bay → Bay) : (s.modBay b f).hbmStacks = s.hbmStacks := rfl
@[simp] theorem State.modBay_hbm (b : Nat) (f : Bay → Bay) : (s.modBay b f).hbm = s.hbm := rfl
@[simp] theorem State.modBay_links (b : Nat) (f : Bay → Bay) : (s.modBay b f).links = s.links := rfl
@[simp] theorem State.modBay_gate (b : Nat) (f : Bay → Bay) : (s.modBay b f).gate = s.gate := rfl
@[simp] theorem State.modBay_bel (b : Nat) (f : Bay → Bay) : (s.modBay b f).bel = s.bel := rfl

/-! ### `State.modEnd` -/

@[simp] theorem State.modEnd_pending (e : Nat) (f : EndQ → EndQ) : (s.modEnd e f).pending = s.pending := rfl
@[simp] theorem State.modEnd_emitted (e : Nat) (f : EndQ → EndQ) : (s.modEnd e f).emitted = s.emitted := rfl
@[simp] theorem State.modEnd_freeCount (e : Nat) (f : EndQ → EndQ) : (s.modEnd e f).freeCount = s.freeCount := rfl
@[simp] theorem State.modEnd_now (e : Nat) (f : EndQ → EndQ) : (s.modEnd e f).now = s.now := rfl
@[simp] theorem State.modEnd_pw (e : Nat) (f : EndQ → EndQ) : (s.modEnd e f).pw = s.pw := rfl
@[simp] theorem State.modEnd_heat (e : Nat) (f : EndQ → EndQ) : (s.modEnd e f).heat = s.heat := rfl
@[simp] theorem State.modEnd_flt (e : Nat) (f : EndQ → EndQ) : (s.modEnd e f).flt = s.flt := rfl
@[simp] theorem State.modEnd_clo (e : Nat) (f : EndQ → EndQ) : (s.modEnd e f).clo = s.clo := rfl
@[simp] theorem State.modEnd_flash (e : Nat) (f : EndQ → EndQ) : (s.modEnd e f).flash = s.flash := rfl
@[simp] theorem State.modEnd_h0 (e : Nat) (f : EndQ → EndQ) : (s.modEnd e f).h0 = s.h0 := rfl
@[simp] theorem State.modEnd_h1 (e : Nat) (f : EndQ → EndQ) : (s.modEnd e f).h1 = s.h1 := rfl
@[simp] theorem State.modEnd_feb (e : Nat) (f : EndQ → EndQ) : (s.modEnd e f).feb = s.feb := rfl
@[simp] theorem State.modEnd_chapels (e : Nat) (f : EndQ → EndQ) : (s.modEnd e f).chapels = s.chapels := rfl
@[simp] theorem State.modEnd_cells (e : Nat) (f : EndQ → EndQ) : (s.modEnd e f).cells = s.cells := rfl
@[simp] theorem State.modEnd_aisleBays (e : Nat) (f : EndQ → EndQ) : (s.modEnd e f).aisleBays = s.aisleBays := rfl
@[simp] theorem State.modEnd_hbmStacks (e : Nat) (f : EndQ → EndQ) : (s.modEnd e f).hbmStacks = s.hbmStacks := rfl
@[simp] theorem State.modEnd_hbm (e : Nat) (f : EndQ → EndQ) : (s.modEnd e f).hbm = s.hbm := rfl
@[simp] theorem State.modEnd_links (e : Nat) (f : EndQ → EndQ) : (s.modEnd e f).links = s.links := rfl
@[simp] theorem State.modEnd_gate (e : Nat) (f : EndQ → EndQ) : (s.modEnd e f).gate = s.gate := rfl
@[simp] theorem State.modEnd_bel (e : Nat) (f : EndQ → EndQ) : (s.modEnd e f).bel = s.bel := rfl

/-! ### `State.modSensor` -/

@[simp] theorem State.modSensor_pending (i : Nat) (f : Sensor → Sensor) : (s.modSensor i f).pending = s.pending := rfl
@[simp] theorem State.modSensor_emitted (i : Nat) (f : Sensor → Sensor) : (s.modSensor i f).emitted = s.emitted := rfl
@[simp] theorem State.modSensor_freeCount (i : Nat) (f : Sensor → Sensor) : (s.modSensor i f).freeCount = s.freeCount := rfl
@[simp] theorem State.modSensor_now (i : Nat) (f : Sensor → Sensor) : (s.modSensor i f).now = s.now := rfl
@[simp] theorem State.modSensor_pw (i : Nat) (f : Sensor → Sensor) : (s.modSensor i f).pw = s.pw := rfl
@[simp] theorem State.modSensor_flt (i : Nat) (f : Sensor → Sensor) : (s.modSensor i f).flt = s.flt := rfl
@[simp] theorem State.modSensor_clo (i : Nat) (f : Sensor → Sensor) : (s.modSensor i f).clo = s.clo := rfl
@[simp] theorem State.modSensor_flash (i : Nat) (f : Sensor → Sensor) : (s.modSensor i f).flash = s.flash := rfl
@[simp] theorem State.modSensor_h0 (i : Nat) (f : Sensor → Sensor) : (s.modSensor i f).h0 = s.h0 := rfl
@[simp] theorem State.modSensor_h1 (i : Nat) (f : Sensor → Sensor) : (s.modSensor i f).h1 = s.h1 := rfl
@[simp] theorem State.modSensor_feb (i : Nat) (f : Sensor → Sensor) : (s.modSensor i f).feb = s.feb := rfl
@[simp] theorem State.modSensor_chapels (i : Nat) (f : Sensor → Sensor) : (s.modSensor i f).chapels = s.chapels := rfl
@[simp] theorem State.modSensor_cells (i : Nat) (f : Sensor → Sensor) : (s.modSensor i f).cells = s.cells := rfl
@[simp] theorem State.modSensor_amb (i : Nat) (f : Sensor → Sensor) : (s.modSensor i f).amb = s.amb := rfl
@[simp] theorem State.modSensor_aisleBays (i : Nat) (f : Sensor → Sensor) : (s.modSensor i f).aisleBays = s.aisleBays := rfl
@[simp] theorem State.modSensor_hbmStacks (i : Nat) (f : Sensor → Sensor) : (s.modSensor i f).hbmStacks = s.hbmStacks := rfl
@[simp] theorem State.modSensor_hbm (i : Nat) (f : Sensor → Sensor) : (s.modSensor i f).hbm = s.hbm := rfl
@[simp] theorem State.modSensor_links (i : Nat) (f : Sensor → Sensor) : (s.modSensor i f).links = s.links := rfl
@[simp] theorem State.modSensor_gate (i : Nat) (f : Sensor → Sensor) : (s.modSensor i f).gate = s.gate := rfl
@[simp] theorem State.modSensor_bel (i : Nat) (f : Sensor → Sensor) : (s.modSensor i f).bel = s.bel := rfl

/-! ### `State.modGate` -/

@[simp] theorem State.modGate_pending (f : Gatehouse → Gatehouse) : (s.modGate f).pending = s.pending := rfl
@[simp] theorem State.modGate_emitted (f : Gatehouse → Gatehouse) : (s.modGate f).emitted = s.emitted := rfl
@[simp] theorem State.modGate_freeCount (f : Gatehouse → Gatehouse) : (s.modGate f).freeCount = s.freeCount := rfl
@[simp] theorem State.modGate_now (f : Gatehouse → Gatehouse) : (s.modGate f).now = s.now := rfl
@[simp] theorem State.modGate_pw (f : Gatehouse → Gatehouse) : (s.modGate f).pw = s.pw := rfl
@[simp] theorem State.modGate_heat (f : Gatehouse → Gatehouse) : (s.modGate f).heat = s.heat := rfl
@[simp] theorem State.modGate_flt (f : Gatehouse → Gatehouse) : (s.modGate f).flt = s.flt := rfl
@[simp] theorem State.modGate_clo (f : Gatehouse → Gatehouse) : (s.modGate f).clo = s.clo := rfl
@[simp] theorem State.modGate_flash (f : Gatehouse → Gatehouse) : (s.modGate f).flash = s.flash := rfl
@[simp] theorem State.modGate_h0 (f : Gatehouse → Gatehouse) : (s.modGate f).h0 = s.h0 := rfl
@[simp] theorem State.modGate_h1 (f : Gatehouse → Gatehouse) : (s.modGate f).h1 = s.h1 := rfl
@[simp] theorem State.modGate_feb (f : Gatehouse → Gatehouse) : (s.modGate f).feb = s.feb := rfl
@[simp] theorem State.modGate_chapels (f : Gatehouse → Gatehouse) : (s.modGate f).chapels = s.chapels := rfl
@[simp] theorem State.modGate_cells (f : Gatehouse → Gatehouse) : (s.modGate f).cells = s.cells := rfl
@[simp] theorem State.modGate_amb (f : Gatehouse → Gatehouse) : (s.modGate f).amb = s.amb := rfl
@[simp] theorem State.modGate_aisleBays (f : Gatehouse → Gatehouse) : (s.modGate f).aisleBays = s.aisleBays := rfl
@[simp] theorem State.modGate_hbmStacks (f : Gatehouse → Gatehouse) : (s.modGate f).hbmStacks = s.hbmStacks := rfl
@[simp] theorem State.modGate_hbm (f : Gatehouse → Gatehouse) : (s.modGate f).hbm = s.hbm := rfl
@[simp] theorem State.modGate_links (f : Gatehouse → Gatehouse) : (s.modGate f).links = s.links := rfl
@[simp] theorem State.modGate_bel (f : Gatehouse → Gatehouse) : (s.modGate f).bel = s.bel := rfl

/-! ### `State.modTag` -/

@[simp] theorem State.modTag_pending (f : Tag → Tag) : (s.modTag f).pending = s.pending := rfl
@[simp] theorem State.modTag_emitted (f : Tag → Tag) : (s.modTag f).emitted = s.emitted := rfl
@[simp] theorem State.modTag_freeCount (f : Tag → Tag) : (s.modTag f).freeCount = s.freeCount := rfl
@[simp] theorem State.modTag_now (f : Tag → Tag) : (s.modTag f).now = s.now := rfl
@[simp] theorem State.modTag_pw (f : Tag → Tag) : (s.modTag f).pw = s.pw := rfl
@[simp] theorem State.modTag_heat (f : Tag → Tag) : (s.modTag f).heat = s.heat := rfl
@[simp] theorem State.modTag_flt (f : Tag → Tag) : (s.modTag f).flt = s.flt := rfl
@[simp] theorem State.modTag_flash (f : Tag → Tag) : (s.modTag f).flash = s.flash := rfl
@[simp] theorem State.modTag_h0 (f : Tag → Tag) : (s.modTag f).h0 = s.h0 := rfl
@[simp] theorem State.modTag_h1 (f : Tag → Tag) : (s.modTag f).h1 = s.h1 := rfl
@[simp] theorem State.modTag_feb (f : Tag → Tag) : (s.modTag f).feb = s.feb := rfl
@[simp] theorem State.modTag_chapels (f : Tag → Tag) : (s.modTag f).chapels = s.chapels := rfl
@[simp] theorem State.modTag_cells (f : Tag → Tag) : (s.modTag f).cells = s.cells := rfl
@[simp] theorem State.modTag_amb (f : Tag → Tag) : (s.modTag f).amb = s.amb := rfl
@[simp] theorem State.modTag_aisleBays (f : Tag → Tag) : (s.modTag f).aisleBays = s.aisleBays := rfl
@[simp] theorem State.modTag_hbmStacks (f : Tag → Tag) : (s.modTag f).hbmStacks = s.hbmStacks := rfl
@[simp] theorem State.modTag_hbm (f : Tag → Tag) : (s.modTag f).hbm = s.hbm := rfl
@[simp] theorem State.modTag_links (f : Tag → Tag) : (s.modTag f).links = s.links := rfl
@[simp] theorem State.modTag_gate (f : Tag → Tag) : (s.modTag f).gate = s.gate := rfl
@[simp] theorem State.modTag_bel (f : Tag → Tag) : (s.modTag f).bel = s.bel := rfl

/-! ### `State.modIlk` -/

@[simp] theorem State.modIlk_pending (f : Interlock → Interlock) : (s.modIlk f).pending = s.pending := rfl
@[simp] theorem State.modIlk_emitted (f : Interlock → Interlock) : (s.modIlk f).emitted = s.emitted := rfl
@[simp] theorem State.modIlk_freeCount (f : Interlock → Interlock) : (s.modIlk f).freeCount = s.freeCount := rfl
@[simp] theorem State.modIlk_now (f : Interlock → Interlock) : (s.modIlk f).now = s.now := rfl
@[simp] theorem State.modIlk_pw (f : Interlock → Interlock) : (s.modIlk f).pw = s.pw := rfl
@[simp] theorem State.modIlk_heat (f : Interlock → Interlock) : (s.modIlk f).heat = s.heat := rfl
@[simp] theorem State.modIlk_flt (f : Interlock → Interlock) : (s.modIlk f).flt = s.flt := rfl
@[simp] theorem State.modIlk_flash (f : Interlock → Interlock) : (s.modIlk f).flash = s.flash := rfl
@[simp] theorem State.modIlk_h0 (f : Interlock → Interlock) : (s.modIlk f).h0 = s.h0 := rfl
@[simp] theorem State.modIlk_h1 (f : Interlock → Interlock) : (s.modIlk f).h1 = s.h1 := rfl
@[simp] theorem State.modIlk_feb (f : Interlock → Interlock) : (s.modIlk f).feb = s.feb := rfl
@[simp] theorem State.modIlk_chapels (f : Interlock → Interlock) : (s.modIlk f).chapels = s.chapels := rfl
@[simp] theorem State.modIlk_cells (f : Interlock → Interlock) : (s.modIlk f).cells = s.cells := rfl
@[simp] theorem State.modIlk_amb (f : Interlock → Interlock) : (s.modIlk f).amb = s.amb := rfl
@[simp] theorem State.modIlk_aisleBays (f : Interlock → Interlock) : (s.modIlk f).aisleBays = s.aisleBays := rfl
@[simp] theorem State.modIlk_hbmStacks (f : Interlock → Interlock) : (s.modIlk f).hbmStacks = s.hbmStacks := rfl
@[simp] theorem State.modIlk_hbm (f : Interlock → Interlock) : (s.modIlk f).hbm = s.hbm := rfl
@[simp] theorem State.modIlk_links (f : Interlock → Interlock) : (s.modIlk f).links = s.links := rfl
@[simp] theorem State.modIlk_gate (f : Interlock → Interlock) : (s.modIlk f).gate = s.gate := rfl
@[simp] theorem State.modIlk_bel (f : Interlock → Interlock) : (s.modIlk f).bel = s.bel := rfl

/-! ### `State.modMover` -/

@[simp] theorem State.modMover_pending (f : Slype → Slype) : (s.modMover f).pending = s.pending := rfl
@[simp] theorem State.modMover_emitted (f : Slype → Slype) : (s.modMover f).emitted = s.emitted := rfl
@[simp] theorem State.modMover_freeCount (f : Slype → Slype) : (s.modMover f).freeCount = s.freeCount := rfl
@[simp] theorem State.modMover_now (f : Slype → Slype) : (s.modMover f).now = s.now := rfl
@[simp] theorem State.modMover_pw (f : Slype → Slype) : (s.modMover f).pw = s.pw := rfl
@[simp] theorem State.modMover_heat (f : Slype → Slype) : (s.modMover f).heat = s.heat := rfl
@[simp] theorem State.modMover_flt (f : Slype → Slype) : (s.modMover f).flt = s.flt := rfl
@[simp] theorem State.modMover_clo (f : Slype → Slype) : (s.modMover f).clo = s.clo := rfl
@[simp] theorem State.modMover_flash (f : Slype → Slype) : (s.modMover f).flash = s.flash := rfl
@[simp] theorem State.modMover_h0 (f : Slype → Slype) : (s.modMover f).h0 = s.h0 := rfl
@[simp] theorem State.modMover_h1 (f : Slype → Slype) : (s.modMover f).h1 = s.h1 := rfl
@[simp] theorem State.modMover_feb (f : Slype → Slype) : (s.modMover f).feb = s.feb := rfl
@[simp] theorem State.modMover_chapels (f : Slype → Slype) : (s.modMover f).chapels = s.chapels := rfl
@[simp] theorem State.modMover_cells (f : Slype → Slype) : (s.modMover f).cells = s.cells := rfl
@[simp] theorem State.modMover_aisleBays (f : Slype → Slype) : (s.modMover f).aisleBays = s.aisleBays := rfl
@[simp] theorem State.modMover_hbmStacks (f : Slype → Slype) : (s.modMover f).hbmStacks = s.hbmStacks := rfl
@[simp] theorem State.modMover_hbm (f : Slype → Slype) : (s.modMover f).hbm = s.hbm := rfl
@[simp] theorem State.modMover_links (f : Slype → Slype) : (s.modMover f).links = s.links := rfl
@[simp] theorem State.modMover_gate (f : Slype → Slype) : (s.modMover f).gate = s.gate := rfl
@[simp] theorem State.modMover_bel (f : Slype → Slype) : (s.modMover f).bel = s.bel := rfl

/-! ### `State.modCmd` -/

@[simp] theorem State.modCmd_pending (n : Nat) (f : Cmd → Cmd) : (s.modCmd n f).pending = s.pending := rfl
@[simp] theorem State.modCmd_emitted (n : Nat) (f : Cmd → Cmd) : (s.modCmd n f).emitted = s.emitted := rfl
@[simp] theorem State.modCmd_freeCount (n : Nat) (f : Cmd → Cmd) : (s.modCmd n f).freeCount = s.freeCount := rfl
@[simp] theorem State.modCmd_now (n : Nat) (f : Cmd → Cmd) : (s.modCmd n f).now = s.now := rfl
@[simp] theorem State.modCmd_pw (n : Nat) (f : Cmd → Cmd) : (s.modCmd n f).pw = s.pw := rfl
@[simp] theorem State.modCmd_heat (n : Nat) (f : Cmd → Cmd) : (s.modCmd n f).heat = s.heat := rfl
@[simp] theorem State.modCmd_flt (n : Nat) (f : Cmd → Cmd) : (s.modCmd n f).flt = s.flt := rfl
@[simp] theorem State.modCmd_clo (n : Nat) (f : Cmd → Cmd) : (s.modCmd n f).clo = s.clo := rfl
@[simp] theorem State.modCmd_flash (n : Nat) (f : Cmd → Cmd) : (s.modCmd n f).flash = s.flash := rfl
@[simp] theorem State.modCmd_h0 (n : Nat) (f : Cmd → Cmd) : (s.modCmd n f).h0 = s.h0 := rfl
@[simp] theorem State.modCmd_h1 (n : Nat) (f : Cmd → Cmd) : (s.modCmd n f).h1 = s.h1 := rfl
@[simp] theorem State.modCmd_chapels (n : Nat) (f : Cmd → Cmd) : (s.modCmd n f).chapels = s.chapels := rfl
@[simp] theorem State.modCmd_cells (n : Nat) (f : Cmd → Cmd) : (s.modCmd n f).cells = s.cells := rfl
@[simp] theorem State.modCmd_amb (n : Nat) (f : Cmd → Cmd) : (s.modCmd n f).amb = s.amb := rfl
@[simp] theorem State.modCmd_aisleBays (n : Nat) (f : Cmd → Cmd) : (s.modCmd n f).aisleBays = s.aisleBays := rfl
@[simp] theorem State.modCmd_hbmStacks (n : Nat) (f : Cmd → Cmd) : (s.modCmd n f).hbmStacks = s.hbmStacks := rfl
@[simp] theorem State.modCmd_hbm (n : Nat) (f : Cmd → Cmd) : (s.modCmd n f).hbm = s.hbm := rfl
@[simp] theorem State.modCmd_links (n : Nat) (f : Cmd → Cmd) : (s.modCmd n f).links = s.links := rfl
@[simp] theorem State.modCmd_gate (n : Nat) (f : Cmd → Cmd) : (s.modCmd n f).gate = s.gate := rfl
@[simp] theorem State.modCmd_bel (n : Nat) (f : Cmd → Cmd) : (s.modCmd n f).bel = s.bel := rfl

/-! ### `State.dropCmd` -/

@[simp] theorem State.dropCmd_pending (n : Nat) : (s.dropCmd n).pending = s.pending := rfl
@[simp] theorem State.dropCmd_emitted (n : Nat) : (s.dropCmd n).emitted = s.emitted := rfl
@[simp] theorem State.dropCmd_freeCount (n : Nat) : (s.dropCmd n).freeCount = s.freeCount := rfl
@[simp] theorem State.dropCmd_now (n : Nat) : (s.dropCmd n).now = s.now := rfl
@[simp] theorem State.dropCmd_pw (n : Nat) : (s.dropCmd n).pw = s.pw := rfl
@[simp] theorem State.dropCmd_heat (n : Nat) : (s.dropCmd n).heat = s.heat := rfl
@[simp] theorem State.dropCmd_flt (n : Nat) : (s.dropCmd n).flt = s.flt := rfl
@[simp] theorem State.dropCmd_clo (n : Nat) : (s.dropCmd n).clo = s.clo := rfl
@[simp] theorem State.dropCmd_flash (n : Nat) : (s.dropCmd n).flash = s.flash := rfl
@[simp] theorem State.dropCmd_h0 (n : Nat) : (s.dropCmd n).h0 = s.h0 := rfl
@[simp] theorem State.dropCmd_h1 (n : Nat) : (s.dropCmd n).h1 = s.h1 := rfl
@[simp] theorem State.dropCmd_chapels (n : Nat) : (s.dropCmd n).chapels = s.chapels := rfl
@[simp] theorem State.dropCmd_cells (n : Nat) : (s.dropCmd n).cells = s.cells := rfl
@[simp] theorem State.dropCmd_amb (n : Nat) : (s.dropCmd n).amb = s.amb := rfl
@[simp] theorem State.dropCmd_aisleBays (n : Nat) : (s.dropCmd n).aisleBays = s.aisleBays := rfl
@[simp] theorem State.dropCmd_hbmStacks (n : Nat) : (s.dropCmd n).hbmStacks = s.hbmStacks := rfl
@[simp] theorem State.dropCmd_hbm (n : Nat) : (s.dropCmd n).hbm = s.hbm := rfl
@[simp] theorem State.dropCmd_links (n : Nat) : (s.dropCmd n).links = s.links := rfl
@[simp] theorem State.dropCmd_gate (n : Nat) : (s.dropCmd n).gate = s.gate := rfl
@[simp] theorem State.dropCmd_bel (n : Nat) : (s.dropCmd n).bel = s.bel := rfl

/-! ### `State.modBayAisle` -/

@[simp] theorem State.modBayAisle_pending (g : Nat) (f : BayAisle → BayAisle) : (s.modBayAisle g f).pending = s.pending := rfl
@[simp] theorem State.modBayAisle_emitted (g : Nat) (f : BayAisle → BayAisle) : (s.modBayAisle g f).emitted = s.emitted := rfl
@[simp] theorem State.modBayAisle_freeCount (g : Nat) (f : BayAisle → BayAisle) : (s.modBayAisle g f).freeCount = s.freeCount := rfl
@[simp] theorem State.modBayAisle_now (g : Nat) (f : BayAisle → BayAisle) : (s.modBayAisle g f).now = s.now := rfl
@[simp] theorem State.modBayAisle_pw (g : Nat) (f : BayAisle → BayAisle) : (s.modBayAisle g f).pw = s.pw := rfl
@[simp] theorem State.modBayAisle_heat (g : Nat) (f : BayAisle → BayAisle) : (s.modBayAisle g f).heat = s.heat := rfl
@[simp] theorem State.modBayAisle_flt (g : Nat) (f : BayAisle → BayAisle) : (s.modBayAisle g f).flt = s.flt := rfl
@[simp] theorem State.modBayAisle_clo (g : Nat) (f : BayAisle → BayAisle) : (s.modBayAisle g f).clo = s.clo := rfl
@[simp] theorem State.modBayAisle_flash (g : Nat) (f : BayAisle → BayAisle) : (s.modBayAisle g f).flash = s.flash := rfl
@[simp] theorem State.modBayAisle_h0 (g : Nat) (f : BayAisle → BayAisle) : (s.modBayAisle g f).h0 = s.h0 := rfl
@[simp] theorem State.modBayAisle_h1 (g : Nat) (f : BayAisle → BayAisle) : (s.modBayAisle g f).h1 = s.h1 := rfl
@[simp] theorem State.modBayAisle_feb (g : Nat) (f : BayAisle → BayAisle) : (s.modBayAisle g f).feb = s.feb := rfl
@[simp] theorem State.modBayAisle_chapels (g : Nat) (f : BayAisle → BayAisle) : (s.modBayAisle g f).chapels = s.chapels := rfl
@[simp] theorem State.modBayAisle_cells (g : Nat) (f : BayAisle → BayAisle) : (s.modBayAisle g f).cells = s.cells := rfl
@[simp] theorem State.modBayAisle_amb (g : Nat) (f : BayAisle → BayAisle) : (s.modBayAisle g f).amb = s.amb := rfl
@[simp] theorem State.modBayAisle_hbmStacks (g : Nat) (f : BayAisle → BayAisle) : (s.modBayAisle g f).hbmStacks = s.hbmStacks := rfl
@[simp] theorem State.modBayAisle_hbm (g : Nat) (f : BayAisle → BayAisle) : (s.modBayAisle g f).hbm = s.hbm := rfl
@[simp] theorem State.modBayAisle_links (g : Nat) (f : BayAisle → BayAisle) : (s.modBayAisle g f).links = s.links := rfl
@[simp] theorem State.modBayAisle_gate (g : Nat) (f : BayAisle → BayAisle) : (s.modBayAisle g f).gate = s.gate := rfl
@[simp] theorem State.modBayAisle_bel (g : Nat) (f : BayAisle → BayAisle) : (s.modBayAisle g f).bel = s.bel := rfl

/-! ### `State.modLane` -/

@[simp] theorem State.modLane_pending (l : AmbLane) (pos : Nat) (f : LaneIn → LaneIn) : (s.modLane l pos f).pending = s.pending := rfl
@[simp] theorem State.modLane_emitted (l : AmbLane) (pos : Nat) (f : LaneIn → LaneIn) : (s.modLane l pos f).emitted = s.emitted := rfl
@[simp] theorem State.modLane_freeCount (l : AmbLane) (pos : Nat) (f : LaneIn → LaneIn) : (s.modLane l pos f).freeCount = s.freeCount := rfl
@[simp] theorem State.modLane_now (l : AmbLane) (pos : Nat) (f : LaneIn → LaneIn) : (s.modLane l pos f).now = s.now := rfl
@[simp] theorem State.modLane_pw (l : AmbLane) (pos : Nat) (f : LaneIn → LaneIn) : (s.modLane l pos f).pw = s.pw := rfl
@[simp] theorem State.modLane_heat (l : AmbLane) (pos : Nat) (f : LaneIn → LaneIn) : (s.modLane l pos f).heat = s.heat := rfl
@[simp] theorem State.modLane_flt (l : AmbLane) (pos : Nat) (f : LaneIn → LaneIn) : (s.modLane l pos f).flt = s.flt := rfl
@[simp] theorem State.modLane_clo (l : AmbLane) (pos : Nat) (f : LaneIn → LaneIn) : (s.modLane l pos f).clo = s.clo := rfl
@[simp] theorem State.modLane_flash (l : AmbLane) (pos : Nat) (f : LaneIn → LaneIn) : (s.modLane l pos f).flash = s.flash := rfl
@[simp] theorem State.modLane_h0 (l : AmbLane) (pos : Nat) (f : LaneIn → LaneIn) : (s.modLane l pos f).h0 = s.h0 := rfl
@[simp] theorem State.modLane_h1 (l : AmbLane) (pos : Nat) (f : LaneIn → LaneIn) : (s.modLane l pos f).h1 = s.h1 := rfl
@[simp] theorem State.modLane_feb (l : AmbLane) (pos : Nat) (f : LaneIn → LaneIn) : (s.modLane l pos f).feb = s.feb := rfl
@[simp] theorem State.modLane_chapels (l : AmbLane) (pos : Nat) (f : LaneIn → LaneIn) : (s.modLane l pos f).chapels = s.chapels := rfl
@[simp] theorem State.modLane_cells (l : AmbLane) (pos : Nat) (f : LaneIn → LaneIn) : (s.modLane l pos f).cells = s.cells := rfl
@[simp] theorem State.modLane_aisleBays (l : AmbLane) (pos : Nat) (f : LaneIn → LaneIn) : (s.modLane l pos f).aisleBays = s.aisleBays := rfl
@[simp] theorem State.modLane_hbmStacks (l : AmbLane) (pos : Nat) (f : LaneIn → LaneIn) : (s.modLane l pos f).hbmStacks = s.hbmStacks := rfl
@[simp] theorem State.modLane_hbm (l : AmbLane) (pos : Nat) (f : LaneIn → LaneIn) : (s.modLane l pos f).hbm = s.hbm := rfl
@[simp] theorem State.modLane_links (l : AmbLane) (pos : Nat) (f : LaneIn → LaneIn) : (s.modLane l pos f).links = s.links := rfl
@[simp] theorem State.modLane_gate (l : AmbLane) (pos : Nat) (f : LaneIn → LaneIn) : (s.modLane l pos f).gate = s.gate := rfl
@[simp] theorem State.modLane_bel (l : AmbLane) (pos : Nat) (f : LaneIn → LaneIn) : (s.modLane l pos f).bel = s.bel := rfl

/-! ### `State.modHp` -/

@[simp] theorem State.modHp_pending (p : HPort) (f : HostPort → HostPort) : (s.modHp p f).pending = s.pending := by cases p <;> rfl
@[simp] theorem State.modHp_emitted (p : HPort) (f : HostPort → HostPort) : (s.modHp p f).emitted = s.emitted := by cases p <;> rfl
@[simp] theorem State.modHp_freeCount (p : HPort) (f : HostPort → HostPort) : (s.modHp p f).freeCount = s.freeCount := by cases p <;> rfl
@[simp] theorem State.modHp_now (p : HPort) (f : HostPort → HostPort) : (s.modHp p f).now = s.now := by cases p <;> rfl
@[simp] theorem State.modHp_pw (p : HPort) (f : HostPort → HostPort) : (s.modHp p f).pw = s.pw := by cases p <;> rfl
@[simp] theorem State.modHp_heat (p : HPort) (f : HostPort → HostPort) : (s.modHp p f).heat = s.heat := by cases p <;> rfl
@[simp] theorem State.modHp_flt (p : HPort) (f : HostPort → HostPort) : (s.modHp p f).flt = s.flt := by cases p <;> rfl
@[simp] theorem State.modHp_clo (p : HPort) (f : HostPort → HostPort) : (s.modHp p f).clo = s.clo := by cases p <;> rfl
@[simp] theorem State.modHp_flash (p : HPort) (f : HostPort → HostPort) : (s.modHp p f).flash = s.flash := by cases p <;> rfl
@[simp] theorem State.modHp_feb (p : HPort) (f : HostPort → HostPort) : (s.modHp p f).feb = s.feb := by cases p <;> rfl
@[simp] theorem State.modHp_chapels (p : HPort) (f : HostPort → HostPort) : (s.modHp p f).chapels = s.chapels := by cases p <;> rfl
@[simp] theorem State.modHp_cells (p : HPort) (f : HostPort → HostPort) : (s.modHp p f).cells = s.cells := by cases p <;> rfl
@[simp] theorem State.modHp_amb (p : HPort) (f : HostPort → HostPort) : (s.modHp p f).amb = s.amb := by cases p <;> rfl
@[simp] theorem State.modHp_aisleBays (p : HPort) (f : HostPort → HostPort) : (s.modHp p f).aisleBays = s.aisleBays := by cases p <;> rfl
@[simp] theorem State.modHp_hbmStacks (p : HPort) (f : HostPort → HostPort) : (s.modHp p f).hbmStacks = s.hbmStacks := by cases p <;> rfl
@[simp] theorem State.modHp_hbm (p : HPort) (f : HostPort → HostPort) : (s.modHp p f).hbm = s.hbm := by cases p <;> rfl
@[simp] theorem State.modHp_links (p : HPort) (f : HostPort → HostPort) : (s.modHp p f).links = s.links := by cases p <;> rfl
@[simp] theorem State.modHp_gate (p : HPort) (f : HostPort → HostPort) : (s.modHp p f).gate = s.gate := by cases p <;> rfl
@[simp] theorem State.modHp_bel (p : HPort) (f : HostPort → HostPort) : (s.modHp p f).bel = s.bel := by cases p <;> rfl

/-! ### `State.modRing` -/

@[simp] theorem State.modRing_pending (p : HPort) (i : Nat) (f : Ring → Ring) : (s.modRing p i f).pending = s.pending := by cases p <;> rfl
@[simp] theorem State.modRing_emitted (p : HPort) (i : Nat) (f : Ring → Ring) : (s.modRing p i f).emitted = s.emitted := by cases p <;> rfl
@[simp] theorem State.modRing_freeCount (p : HPort) (i : Nat) (f : Ring → Ring) : (s.modRing p i f).freeCount = s.freeCount := by cases p <;> rfl
@[simp] theorem State.modRing_now (p : HPort) (i : Nat) (f : Ring → Ring) : (s.modRing p i f).now = s.now := by cases p <;> rfl
@[simp] theorem State.modRing_pw (p : HPort) (i : Nat) (f : Ring → Ring) : (s.modRing p i f).pw = s.pw := by cases p <;> rfl
@[simp] theorem State.modRing_heat (p : HPort) (i : Nat) (f : Ring → Ring) : (s.modRing p i f).heat = s.heat := by cases p <;> rfl
@[simp] theorem State.modRing_flt (p : HPort) (i : Nat) (f : Ring → Ring) : (s.modRing p i f).flt = s.flt := by cases p <;> rfl
@[simp] theorem State.modRing_clo (p : HPort) (i : Nat) (f : Ring → Ring) : (s.modRing p i f).clo = s.clo := by cases p <;> rfl
@[simp] theorem State.modRing_flash (p : HPort) (i : Nat) (f : Ring → Ring) : (s.modRing p i f).flash = s.flash := by cases p <;> rfl
@[simp] theorem State.modRing_feb (p : HPort) (i : Nat) (f : Ring → Ring) : (s.modRing p i f).feb = s.feb := by cases p <;> rfl
@[simp] theorem State.modRing_chapels (p : HPort) (i : Nat) (f : Ring → Ring) : (s.modRing p i f).chapels = s.chapels := by cases p <;> rfl
@[simp] theorem State.modRing_cells (p : HPort) (i : Nat) (f : Ring → Ring) : (s.modRing p i f).cells = s.cells := by cases p <;> rfl
@[simp] theorem State.modRing_amb (p : HPort) (i : Nat) (f : Ring → Ring) : (s.modRing p i f).amb = s.amb := by cases p <;> rfl
@[simp] theorem State.modRing_aisleBays (p : HPort) (i : Nat) (f : Ring → Ring) : (s.modRing p i f).aisleBays = s.aisleBays := by cases p <;> rfl
@[simp] theorem State.modRing_hbmStacks (p : HPort) (i : Nat) (f : Ring → Ring) : (s.modRing p i f).hbmStacks = s.hbmStacks := by cases p <;> rfl
@[simp] theorem State.modRing_hbm (p : HPort) (i : Nat) (f : Ring → Ring) : (s.modRing p i f).hbm = s.hbm := by cases p <;> rfl
@[simp] theorem State.modRing_links (p : HPort) (i : Nat) (f : Ring → Ring) : (s.modRing p i f).links = s.links := by cases p <;> rfl
@[simp] theorem State.modRing_gate (p : HPort) (i : Nat) (f : Ring → Ring) : (s.modRing p i f).gate = s.gate := by cases p <;> rfl
@[simp] theorem State.modRing_bel (p : HPort) (i : Nat) (f : Ring → Ring) : (s.modRing p i f).bel = s.bel := by cases p <;> rfl

/-! ### `State.freeWord` -/

@[simp] theorem State.freeWord_pending : s.freeWord.2.pending = s.pending := rfl
@[simp] theorem State.freeWord_emitted : s.freeWord.2.emitted = s.emitted := rfl
@[simp] theorem State.freeWord_now : s.freeWord.2.now = s.now := rfl
@[simp] theorem State.freeWord_pw : s.freeWord.2.pw = s.pw := rfl
@[simp] theorem State.freeWord_heat : s.freeWord.2.heat = s.heat := rfl
@[simp] theorem State.freeWord_flt : s.freeWord.2.flt = s.flt := rfl
@[simp] theorem State.freeWord_clo : s.freeWord.2.clo = s.clo := rfl
@[simp] theorem State.freeWord_flash : s.freeWord.2.flash = s.flash := rfl
@[simp] theorem State.freeWord_h0 : s.freeWord.2.h0 = s.h0 := rfl
@[simp] theorem State.freeWord_h1 : s.freeWord.2.h1 = s.h1 := rfl
@[simp] theorem State.freeWord_feb : s.freeWord.2.feb = s.feb := rfl
@[simp] theorem State.freeWord_chapels : s.freeWord.2.chapels = s.chapels := rfl
@[simp] theorem State.freeWord_cells : s.freeWord.2.cells = s.cells := rfl
@[simp] theorem State.freeWord_amb : s.freeWord.2.amb = s.amb := rfl
@[simp] theorem State.freeWord_aisleBays : s.freeWord.2.aisleBays = s.aisleBays := rfl
@[simp] theorem State.freeWord_hbmStacks : s.freeWord.2.hbmStacks = s.hbmStacks := rfl
@[simp] theorem State.freeWord_hbm : s.freeWord.2.hbm = s.hbm := rfl
@[simp] theorem State.freeWord_links : s.freeWord.2.links = s.links := rfl
@[simp] theorem State.freeWord_gate : s.freeWord.2.gate = s.gate := rfl
@[simp] theorem State.freeWord_bel : s.freeWord.2.bel = s.bel := rfl
@[simp] theorem State.freeWord_freeCount : s.freeWord.2.freeCount = s.freeCount + 1 := rfl

/-! ### `State.freeNat` -/

@[simp] theorem State.freeNat_pending : s.freeNat.2.pending = s.pending := rfl
@[simp] theorem State.freeNat_emitted : s.freeNat.2.emitted = s.emitted := rfl
@[simp] theorem State.freeNat_now : s.freeNat.2.now = s.now := rfl
@[simp] theorem State.freeNat_pw : s.freeNat.2.pw = s.pw := rfl
@[simp] theorem State.freeNat_heat : s.freeNat.2.heat = s.heat := rfl
@[simp] theorem State.freeNat_flt : s.freeNat.2.flt = s.flt := rfl
@[simp] theorem State.freeNat_clo : s.freeNat.2.clo = s.clo := rfl
@[simp] theorem State.freeNat_flash : s.freeNat.2.flash = s.flash := rfl
@[simp] theorem State.freeNat_h0 : s.freeNat.2.h0 = s.h0 := rfl
@[simp] theorem State.freeNat_h1 : s.freeNat.2.h1 = s.h1 := rfl
@[simp] theorem State.freeNat_feb : s.freeNat.2.feb = s.feb := rfl
@[simp] theorem State.freeNat_chapels : s.freeNat.2.chapels = s.chapels := rfl
@[simp] theorem State.freeNat_cells : s.freeNat.2.cells = s.cells := rfl
@[simp] theorem State.freeNat_amb : s.freeNat.2.amb = s.amb := rfl
@[simp] theorem State.freeNat_aisleBays : s.freeNat.2.aisleBays = s.aisleBays := rfl
@[simp] theorem State.freeNat_hbmStacks : s.freeNat.2.hbmStacks = s.hbmStacks := rfl
@[simp] theorem State.freeNat_hbm : s.freeNat.2.hbm = s.hbm := rfl
@[simp] theorem State.freeNat_links : s.freeNat.2.links = s.links := rfl
@[simp] theorem State.freeNat_gate : s.freeNat.2.gate = s.gate := rfl
@[simp] theorem State.freeNat_bel : s.freeNat.2.bel = s.bel := rfl
@[simp] theorem State.freeNat_freeCount : s.freeNat.2.freeCount = s.freeCount + 1 := rfl

/-! ### Reading a part after an update -/

@[simp] theorem State.emitted_emit (e : Emission) : (s.emit e).emitted = s.emitted ++ [e] := rfl

theorem State.chapel_modChapel (c j : Nat) (f : Chapel → Chapel) :
    (s.modChapel c f).chapel j = if j = c then f (s.chapel c) else s.chapel j := tget_tput _ _ _ _ _

theorem State.cell_modCell (g j : Nat) (f : Cell → Cell) :
    (s.modCell g f).cell j = if j = g then f (s.cell g) else s.cell j := tget_tput _ _ _ _ _

theorem State.stack_modStack (m j : Nat) (f : Stack → Stack) :
    (s.modStack m f).stack j = if j = m then f (s.stack m) else s.stack j := tget_tput _ _ _ _ _

theorem State.link_modLink (t j : Nat) (f : TPort → TPort) :
    (s.modLink t f).link j = if j = t then f (s.link t) else s.link j := tget_tput _ _ _ _ _

theorem State.bay_modBay (b j : Nat) (f : Bay → Bay) :
    (s.modBay b f).bay j = if j = b then f (s.bay b) else s.bay j := tget_tput _ _ _ _ _

theorem State.endq_modEnd (e j : Nat) (f : EndQ → EndQ) :
    (s.modEnd e f).endq j = if j = e then f (s.endq e) else s.endq j := tget_tput _ _ _ _ _

theorem State.sensor_modSensor (i j : Nat) (f : Sensor → Sensor) :
    (s.modSensor i f).sensor j = if j = i then f (s.sensor i) else s.sensor j := tget_tput _ _ _ _ _

@[simp] theorem State.hp_modHp (p : HPort) (f : HostPort → HostPort) : (s.modHp p f).hp p = f (s.hp p) := by
  cases p <;> rfl

theorem State.hp_modHp_ne {p q : HPort} (f : HostPort → HostPort) (h : q ≠ p) : (s.modHp p f).hp q = s.hp q := by
  cases p <;> cases q <;> first | rfl | exact absurd rfl h

@[simp] theorem State.ring_modRing (p : HPort) (i : Nat) (f : Ring → Ring) :
    (s.modRing p i f).ring p i = f (s.ring p i) := by
  cases p <;> simp [State.modRing, State.modHp, State.ring, State.hp]

theorem State.ring_modRing_ne {p q : HPort} {i j : Nat} (f : Ring → Ring) (h : (q, j) ≠ (p, i)) :
    (s.modRing p i f).ring q j = s.ring q j := by
  cases p <;> cases q <;> simp only [State.modRing, State.modHp, State.ring, State.hp] <;>
    first | rfl | (rw [tget_tput_ne]; intro e; exact h (by rw [e]))

end Sys2Proof.Machine
end

