-- ==== Sys2Proof/Laws/Commands.lean ====
section
/-! SUPPORT. When a command takes its effect: the guard of every row, and the turn of a sacristy command. -/

namespace Sys2Proof.Machine

/-- A command whose event can happen takes its effect. -/
theorem possible_pos {c : Bool} {s : State} {k : State → State} (h : c = true) :
    possible c s k = .next (k { s with emitted := [] }) := by simp [possible, h]

theorem when_pos {s : State} {c : Bool} {f : State → State} (h : c = true) : s.when c f = f s :=
    by simp [State.when, h]

theorem when_neg {s : State} {c : Bool} {f : State → State} (h : c = false) : s.when c f = s :=
    by simp [State.when, h]

/-- A command found by its number has that number. -/
theorem cmd_number {s : State} {n : Nat} {c : Cmd} (h : s.cmd n = some c) : c.n = n := by
  have := List.find?_some h; simpa using this

/-- A sacristy command whose turn it is and whose checks pass has its effect, from the state in which its execution has begun (R106, R115). -/
theorem runCmdPre_runs {s : State} {n op : Nat} {c : Cmd} (h : s.Turn n op c) (pre) (k : State → Cmd → State)
    (hp : pre (s.begin c) (s.started c) = none) :
    runCmdPre n op s pre k = .next (k (s.begin c) (s.started c)) := by
  unfold runCmdPre; simp only [h.held]
  have e : ({ s with emitted := [] }.modCmd n fun _ => s.started c) = s.begin c := by
    unfold State.begin; rw [cmd_number h.held]
  rw [possible_pos (by simp [h.opcode, h.turn])]
  show Host.Outcome.next (match pre ({ s with emitted := [] }.modCmd n fun _ => s.started c) (s.started c) with
    | some (status, detail) => _
    | none => gated ({ s with emitted := [] }.modCmd n fun _ => s.started c) (s.started c) k) = _
  rw [e, hp]
  simp only [gated]
  have h1 : (s.begin c).flt = s.flt := rfl
  have h2 : (s.started c).allowedFaulted = c.allowedFaulted := rfl
  have h3 : (s.started c).faultChapel = c.faultChapel := rfl
  have h4 : ∀ x, (s.begin c).chapel x = s.chapel x := fun _ => rfl
  rw [h1, h2, if_neg (by rcases h.unblocked with u | u <;> simp [u]), h3]
  cases hf : c.faultChapel with
  | none => rfl
  | some x =>
    simp only [h4]
    rw [if_neg]
    rintro ⟨a, b⟩; exact h.sound x hf a b

/-- A sacristy command whose turn it is and whose checks fail completes with the failure's status and detail (R106). -/
theorem runCmdPre_fails {s : State} {n op : Nat} {c : Cmd} (h : s.Turn n op c) (pre) (k : State → Cmd → State)
    {a b : Nat} (hp : pre (s.begin c) (s.started c) = some (a, b)) :
    runCmdPre n op s pre k = .next (failCmd (s.begin c) (s.started c) a b) := by
  unfold runCmdPre; simp only [h.held]
  have e : ({ s with emitted := [] }.modCmd n fun _ => s.started c) = s.begin c := by
    unfold State.begin; rw [cmd_number h.held]
  rw [possible_pos (by simp [h.opcode, h.turn])]
  show Host.Outcome.next (match pre ({ s with emitted := [] }.modCmd n fun _ => s.started c) (s.started c) with
    | some (status, detail) => failCmd ({ s with emitted := [] }.modCmd n fun _ => s.started c) (s.started c) status detail
    | none => gated ({ s with emitted := [] }.modCmd n fun _ => s.started c) (s.started c) k) = _
  rw [e, hp]

/-- A sacristy command whose turn it is has its effect, where it has no checks of its own. -/
theorem runCmd_runs {s : State} {n op : Nat} {c : Cmd} (h : s.Turn n op c) (k : State → Cmd → State) :
    runCmd n op s k = .next (k (s.begin c) (s.started c)) := runCmdPre_runs h _ k rfl

/-- The end of a running command happens when its condition holds. -/
theorem runningCmd_runs {s : State} {n op : Nat} {c : Cmd} (h : s.Running n op c) (c? : State → Cmd → Bool)
    (hc : c? s c = true) (k : State → Cmd → State) :
    runningCmd n op s c? k = .next (k { s with emitted := [] } c) := by
  unfold runningCmd; simp only [h.held]
  rw [possible_pos (by simp [h.opcode, h.stage, h.live, hc])]

/-- Changing the cells of a chapel changes cells alone. -/
theorem modCells_state (s : State) (l : Nat) (f : Cell → Cell) : s.modCells l f =
    { s with cells := (s.modCells l f).cells } := by
  unfold State.modCells
  suffices H : ∀ (l : List Nat) (s t : State), t = { s with cells := t.cells } → l.foldl (fun s g => s.modCell g f) t = { s with cells := (l.foldl (fun s g => s.modCell g f) t).cells } by exact H _ s s rfl
  intro l; induction l with
  | nil => intro s t h; exact h
  | cons a l ih => intro s t h; exact ih s _ (by rw [h]; rfl)

/-- Changing bays changes the bay domains alone. -/
theorem foldl_modBay_state (l : List Nat) (f : Nat → Bay → Bay) (s : State) : l.foldl (fun (s : State)
    b => s.modBay b (f b)) s = { s with amb := (l.foldl (fun (s : State) b => s.modBay b (f b)) s).amb } := by
  suffices H : ∀ (l : List Nat) (s t : State), t = { s with amb := t.amb } → l.foldl (fun (s : State) b => s.modBay b (f b)) t = { s with amb := (l.foldl (fun (s : State) b => s.modBay b (f b)) t).amb } by exact H _ s s rfl
  intro l; induction l with
  | nil => intro s t h; exact h
  | cons a l ih => intro s t h; exact ih s _ (by rw [h]; rfl)

/-- A reader's request reaches the tag, with the field recorded where it is an outside one (R505). -/
theorem tagRequest_runs (s : State) (k : State → State) : tagRequest s k =
    .next (k { s with emitted := [], clo := { s.clo with tag := if s.gate.field then s.clo.tag else { s.clo.tag with field := true } } }) := by
  unfold tagRequest; rw [possible_pos rfl]; refine congrArg Host.Outcome.next (congrArg k ?_)
  simp only []
  cases h : s.gate.field <;> simp [State.modTag]

end Sys2Proof.Machine
end

