-- ==== Sys2Proof/Laws/Cells.lean ====
section
/-! SUPPORT. Issuing an instruction: what the issue changes, and what the shared results (a register written, a jump, a wait, an access) make of the thread. -/

namespace Sys2Proof.Machine

/-- Changing one thread's context changes that one. -/
theorem Cell.ctx_modCtx (c : Cell) (t j : Nat) (f : Ctx → Ctx) : (c.modCtx t f).ctx j = if j = t then f (c.ctx t)
    else c.ctx j := tget_tput _ _ _ _ _

/-- An instruction that is ready has its effect, from the state in which it has been issued (R159, R162). -/
theorem issueIns_runs {row : Row} {s : State} {g t : Nat} {i : Ins} (h : s.Ready g t i) (r : i.row = row)
    (k : State → Ins → State) :
    issueIns row g t s k = .next (settleStop (k (s.issued g t i) i) g t) := by
  unfold issueIns; rw [h.spelled]; simp only []; rw [possible_pos (by simp [r, h.issues])]; rfl

/-- Issuing an instruction changes the thread's own context and the cell's round robin alone (R159). -/
theorem became_issued (s : State) (g t : Nat) (i : Ins) : s.Became (s.issued g t i) g t ((s.ctx g t).issued i) := by
  have e : (s.issued g t i).cell g = { ((s.cell g).modCtx t fun x => x.issued i) with lastTid := t } := by
    unfold State.issued startIns; rw [State.cell_modCell, if_pos rfl]; rfl
  refine ⟨rfl, fun h hh => by unfold State.issued startIns; rw [State.cell_modCell, if_neg hh]; rfl, by rw [e]; rfl, fun j hj => ?_, ?_⟩
  · rw [e]; exact (Cell.ctx_modCtx (s.cell g) t j fun x => x.issued i).trans (if_neg hj)
  · rw [e]; exact (Cell.ctx_modCtx (s.cell g) t t fun x => x.issued i).trans (if_pos rfl)

theorem Became.mod {s u : State} {g t : Nat} {y : Ctx} (h : s.Became u g t y) (f : Ctx → Ctx)
    : s.Became (u.modCtx g t f) g t (f y) := by
  have e : (u.modCtx g t f).cell g = (u.cell g).modCtx t f := by unfold State.modCtx; rw [State.cell_modCell, if_pos rfl]
  refine ⟨?_, fun k hk => ?_, ?_, fun j hj => ?_, ?_⟩
  · have := h.outside; rw [this]; rfl
  · unfold State.modCtx; rw [State.cell_modCell, if_neg hk, h.others k hk]
  · rw [e]; unfold Cell.modCtx; have := h.inside; generalize u.cell g = a at *; rw [this]
  · rw [e, Cell.ctx_modCtx, if_neg hj, h.threads j hj]
  · rw [e, Cell.ctx_modCtx, if_pos rfl, h.thread]

theorem Became.ctx_eq {s u : State} {g t : Nat} {y : Ctx} (h : s.Became u g t y) : u.ctx g t = y := h.thread

theorem ctx_issued (s : State) (g t : Nat) (i : Ins) : (s.issued g t i).ctx g t = (s.ctx g t).issued i :=
    (became_issued s g t i).thread

/-- A jump to a legal address. -/
theorem Became.goTo {s u : State} {g t pc : Nat} {y z : Ctx} {k : State → State} (hp : pcOk pc = true)
    (h : s.Became (k u) g t z) :
    s.Became (Sys2Proof.Machine.goTo u g t pc k) g t (z.at_ pc) := by
  unfold Sys2Proof.Machine.goTo; rw [if_pos hp]; exact Became.mod h _

/-- A scalar result, with the PC moved on. -/
theorem Became.setRd {s u : State} {g t rd : Nat} {y : Ctx} {v : Word} (h : s.Became u g t y)
    (hp : pcOk (y.pc.toNat + 4) = true) :
    s.Became (Sys2Proof.Machine.setRd u g t rd v) g t ((y.setS rd v).at_ (y.pc.toNat + 4)) := by
  unfold Sys2Proof.Machine.setRd Sys2Proof.Machine.next; rw [show u.ctx g t = y from h.thread]
  exact Became.goTo (y := y) hp (Became.mod h _)

/-- A vector result, with the PC moved on. -/
theorem Became.setVd {s u : State} {g t rd : Nat} {y : Ctx} {v : VWord} (h : s.Became u g t y)
    (hp : pcOk (y.pc.toNat + 4) = true) :
    s.Became (Sys2Proof.Machine.setVd u g t rd v) g t ((y.setV rd v).at_ (y.pc.toNat + 4)) := by
  unfold Sys2Proof.Machine.setVd Sys2Proof.Machine.next; rw [show u.ctx g t = y from h.thread]
  exact Became.goTo (y := y) hp (Became.mod h _)

/-- A jump outside the store raises PC_RANGE (Table 07-18). -/
theorem goTo_range {u : State} {g t pc : Nat} {k : State → State} (hp : pcOk pc = false) : goTo u g t pc k =
    raise u g t 7 0 := by
  unfold goTo; rw [if_neg (by rw [hp]; decide)]

theorem setRd_range {u : State} {g t rd : Nat} {v : Word} {y : Ctx} (h : u.ctx g t = y) (hp : pcOk (y.pc.toNat + 4)
    = false) : setRd u g t rd v = raise u g t 7 0 := by
  unfold setRd next; rw [h]; exact goTo_range hp

theorem setVd_range {u : State} {g t rd : Nat} {v : VWord} {y : Ctx} (h : u.ctx g t = y)
    (hp : pcOk (y.pc.toNat + 4) = false) : setVd u g t rd v = raise u g t 7 0 := by
  unfold setVd next; rw [h]; exact goTo_range hp

/-- A thread that waits only has its mode and reason changed. -/
theorem waitsFor_of {s : State} {g t : Nat} {i : Ins} {c : Instr} {w : Waiting} (e : exec c s =
    .next (settleStop (Sys2Proof.Machine.wait (s.issued g t i) g t w) g t)) : s.WaitsFor g t i c w :=
  ⟨_, e, Became.mod (became_issued s g t i) fun y => { y with mode := .wait, waiting := w }⟩

/-- Issuing changes the cell's contexts and round robin alone. -/
theorem cell_issued (s : State) (g t : Nat) (i : Ins) : (s.issued g t i).cell g =
    { s.cell g with ctxs := ((s.issued g t i).cell g).ctxs, lastTid := t } := (became_issued s g t i).inside

/-- An address the checks refuse raises its exception with the address (R175, R229). -/
theorem access_raises {u : State} {g t a w kind f l own code} (r : Placed) (hr : checkAddr u g kind w a = r)
    (e : r = .error code) : access u g t a w kind f l own = raise u g t code a := by
  unfold access; rw [hr, e]

/-- An address in the cell's own store is accessed at once (R180). -/
theorem access_own {u : State} {g t a w kind f l own o} (r : Placed) (hr : checkAddr u g kind w a = r) (e : r =
    .ok (.own o)) : access u g t a w kind f l own = next u g t fun s => own s o := by
  unfold access; rw [hr, e]

/-- Any other address becomes an outstanding access (R181). -/
theorem access_issued {u : State} {g t a w kind f l own p} (r : Placed) (hr : checkAddr u g kind w a = r) (e : r =
    .ok p) (n : ∀ o, p ≠ .own o) : access u g t a w kind f l own =
    issueAccess u g t a p { f with size := sizeCode w } l (decide (kind ≠ .store)) := by
  unfold access; rw [hr, e]; cases p <;> first | rfl | exact absurd rfl (n _)

end Sys2Proof.Machine
end

