-- ==== Sys2Proof/Laws/Keep.lean ====
section
/-! SUPPORT. `State.Keeps s t`: from `s` to `t` the queue of commands is untouched and the invariant is kept. One lemma
per way of changing the state; every later law about a shared operation is a chain of these. -/

namespace Sys2Proof.Machine

/-- From `s` to `t` the queue is untouched and the invariant kept. -/
def State.Keeps (s t : State) : Prop := t.pending = s.pending ∧ (s.Inv → t.Inv)

theorem State.Keeps.refl (s : State) : s.Keeps s := ⟨rfl, id⟩

theorem State.Keeps.trans {s t u : State} (h : s.Keeps t) (k : t.Keeps u) : s.Keeps u :=
  ⟨k.1.trans h.1, k.2 ∘ h.2⟩

variable {s s0 : State}

theorem keeps_ite {c : Prop} [Decidable c] {a b : State} (ha : s0.Keeps a) (hb : s0.Keeps b) :
    s0.Keeps (if c then a else b) := by
  split <;> assumption

theorem keeps_dite {c : Prop} [Decidable c] {a : c → State} {b : ¬c → State} (ha : ∀ h, s0.Keeps (a h))
    (hb : ∀ h, s0.Keeps (b h)) : s0.Keeps (if h : c then a h else b h) := by
  split <;> simp [*]

theorem keeps_when {f : State → State} (c : Bool) (h : s0.Keeps s) (hf : ∀ s, s0.Keeps s → s0.Keeps (f s)) :
    s0.Keeps (s.when c f) := by
  unfold State.when
  split
  · exact hf s h
  · exact h

theorem keeps_foldl {α : Type} {f : State → α → State} (l : List α) (h : s0.Keeps s)
    (hf : ∀ s x, s0.Keeps s → s0.Keeps (f s x)) : s0.Keeps (l.foldl f s) := by
  induction l generalizing s with
  | nil => exact h
  | cons x l ih => exact ih (hf s x h)

/-- The general update: the parts the invariant speaks of are as before. -/
theorem keeps_mk {pending : List Instr} {emitted : List Emission} {freeCount now : Nat} {pw : Power} {heat : Heat}
    {flt : Faults} {clo : Cloister} {flash : Flash} {h0 h1 : HostPort} {feb : Febupor} {chapels : Tbl Chapel}
    {cells : Tbl Cell} {amb : Amb} {aisleBays : Tbl BayAisle} {hbmStacks : Tbl Stack} {hbm : Hbm} {links : Tbl TPort}
    {gate : Gatehouse} {bel : Belfry}
    (h : s0.Keeps s) (hq : pending = s.pending) (h2 : pw.limitW = s.pw.limitW) (h3 : heat.rate = s.heat.rate)
    (h4 : flt.logN = s.flt.logN ∧ flt.logS = s.flt.logS ∧ flt.history = s.flt.history)
    (h5 : clo.alertCause = s.clo.alertCause ∧ clo.alertEn = s.clo.alertEn ∧ clo.wakeSrcEn = s.clo.wakeSrcEn ∧
      clo.ilk = s.clo.ilk ∧ clo.tag.mem = s.clo.tag.mem)
    (h6 : chapels = s.chapels) (h7 : cells = s.cells) (h8 : amb.timeoutUs = s.amb.timeoutUs)
    (h9 : aisleBays = s.aisleBays) (h10 : hbmStacks = s.hbmStacks) (h11 : hbm.mem = s.hbm.mem)
    (h12 : links = s.links) :
    s0.Keeps ⟨pending, emitted, freeCount, now, pw, heat, flt, clo, flash, h0, h1, feb, chapels, cells, amb, aisleBays,
      hbmStacks, hbm, links, gate, bel⟩ := by
  obtain ⟨a1, a2, a3⟩ := h4
  obtain ⟨b1, b2, b3, b4, b5⟩ := h5
  refine h.trans ⟨hq, fun i => ?_⟩
  constructor <;> simp only [h2, h3, a1, a2, a3, b1, b2, b3, b4, b5, h6, h7, h8, h9, h10, h11, h12]
  exacts [i.limit, i.rate, i.timeout, i.alertCause, i.alertEn, i.wakeSrcEn, i.interlock, i.logs, i.history, i.stores,
    i.hbm, i.tag, i.chapels, i.cells, i.hbmStacks, i.links, i.aisleBays]

/-- The cell's store is in its canonical form. -/
def Cell.ok (c : Cell) : Prop := c.store.wf = true

theorem Cell.ok_fresh : Cell.fresh.ok := show Memory.wf [] = true from rfl

/-- A change of one cell that keeps its store canonical. -/
theorem keeps_modCell {g : Nat} {f : Cell → Cell} (h : s0.Keeps s) (hf : ∀ c, c.ok → (f c).ok) :
    s0.Keeps (s.modCell g f) := by
  refine h.trans ⟨rfl, fun i => ?_⟩
  have hc : (s.cell g).ok := tget_all (P := Cell.ok) Cell.ok_fresh i.stores g
  refine { i with stores := fun e he => ?_, cells := Tbl.wf_tput _ _ i.cells }
  rcases mem_tput he with rfl | he
  · exact hf _ hc
  · exact i.stores e he

theorem keeps_modCtx {g t : Nat} {f : Ctx → Ctx} (h : s0.Keeps s) : s0.Keeps (s.modCtx g t f) :=
  keeps_modCell h fun _ hc => hc

theorem keeps_modEng {g e : Nat} {f : Slype → Slype} (h : s0.Keeps s) : s0.Keeps (s.modEng g e f) :=
  keeps_modCell h fun c hc => by
    unfold Cell.modEng
    split <;> exact hc

theorem keeps_modChapel {c : Nat} {f : Chapel → Chapel} (h : s0.Keeps s) : s0.Keeps (s.modChapel c f) :=
  h.trans ⟨rfl, fun i => { i with chapels := Tbl.wf_tput _ _ i.chapels }⟩

theorem keeps_modStack {m : Nat} {f : Stack → Stack} (h : s0.Keeps s) : s0.Keeps (s.modStack m f) :=
  h.trans ⟨rfl, fun i => { i with hbmStacks := Tbl.wf_tput _ _ i.hbmStacks }⟩

theorem keeps_modLink {m : Nat} {f : TPort → TPort} (h : s0.Keeps s) : s0.Keeps (s.modLink m f) :=
  h.trans ⟨rfl, fun i => { i with links := Tbl.wf_tput _ _ i.links }⟩

theorem keeps_modHp {p : HPort} {f : HostPort → HostPort} (h : s0.Keeps s) : s0.Keeps (s.modHp p f) := by
  cases p <;> exact h.trans ⟨rfl, fun i => { i with }⟩

theorem keeps_modRing {p : HPort} {k : Nat} {f : Ring → Ring} (h : s0.Keeps s) : s0.Keeps (s.modRing p k f) :=
  keeps_modHp h

theorem keeps_modBay {b : Nat} {f : Bay → Bay} (h : s0.Keeps s) : s0.Keeps (s.modBay b f) :=
  h.trans ⟨rfl, fun i => { i with }⟩

theorem keeps_modEnd {e : Nat} {f : EndQ → EndQ} (h : s0.Keeps s) : s0.Keeps (s.modEnd e f) :=
  h.trans ⟨rfl, fun i => { i with }⟩

theorem keeps_modSensor {n : Nat} {f : Sensor → Sensor} (h : s0.Keeps s) : s0.Keeps (s.modSensor n f) :=
  h.trans ⟨rfl, fun i => { i with }⟩

theorem keeps_emit {e : Emission} (h : s0.Keeps s) : s0.Keeps (s.emit e) :=
  h.trans ⟨rfl, fun i => { i with }⟩

theorem keeps_freeBytes {n : Nat} (h : s0.Keeps s) : s0.Keeps (s.freeBytes n).2 := by
  induction n generalizing s with
  | zero => exact h
  | succ n ih => exact ih (h.trans ⟨rfl, fun i => { i with }⟩)

theorem keeps_freeWord (h : s0.Keeps s) : s0.Keeps s.freeWord.2 := h.trans ⟨rfl, fun i => { i with }⟩

theorem keeps_freeNat (h : s0.Keeps s) : s0.Keeps s.freeNat.2 := h.trans ⟨rfl, fun i => { i with }⟩

end Sys2Proof.Machine
end

