-- ==== Sys2Proof/Laws/KeepReport.lean ====
section
/-! SUPPORT. The queue and the invariant under the shared operations of reporting, containment and power (Report,
Contain, PowerOps): one lemma per operation. -/

namespace Sys2Proof.Machine

variable {s s0 : State}

/-- Every state an optional step gives is kept. -/
def State.KeepsAll (s : State) (o : Option State) : Prop := ∀ t, o = some t → s.Keeps t

theorem keepsAll_none : s0.KeepsAll none := fun _ h => absurd h (by simp)

theorem keepsAll_some (h : s0.Keeps s) : s0.KeepsAll (some s) := fun _ e => Option.some.inj e ▸ h

theorem keepsAll_ite {c : Prop} [Decidable c] {a b : Option State} (ha : s0.KeepsAll a) (hb : s0.KeepsAll b) :
    s0.KeepsAll (if c then a else b) := by
  split <;> assumption

theorem keepsAll_map {α : Type} {o : Option α} {f : α → State} (h : ∀ x, s0.Keeps (f x)) : s0.KeepsAll (o.map f) := by
  intro t ht
  obtain ⟨x, -, rfl⟩ := Option.map_eq_some_iff.1 ht
  exact h x

theorem keepsAll_mapKept {o : Option State} {f : State → State} (ho : s0.KeepsAll o)
    (h : ∀ t, s0.Keeps t → s0.Keeps (f t)) : s0.KeepsAll (o.map f) := by
  intro t ht
  obtain ⟨x, hx, rfl⟩ := Option.map_eq_some_iff.1 ht
  exact h x (ho x hx)

theorem keepsAll_bind {α : Type} {o : Option α} {f : α → Option State} (h : ∀ x, s0.KeepsAll (f x)) :
    s0.KeepsAll (o.bind f) := by
  intro t ht
  obtain ⟨x, -, hx⟩ := Option.bind_eq_some_iff.1 ht
  exact h x t hx

theorem keepsAll_orElse {a : Option State} {b : Unit → Option State} (ha : s0.KeepsAll a) (hb : s0.KeepsAll (b ())) :
    s0.KeepsAll (a.orElse b) := by
  cases a with
  | none => exact hb
  | some x => exact ha

theorem keeps_getD {o : Option State} (ho : s0.KeepsAll o) (h : s0.Keeps s) : s0.Keeps (o.getD s) := by
  cases o with
  | none => exact h
  | some x => exact ho x rfl

theorem keeps_id (h : s0.Keeps s) : s0.Keeps (id s) := h

theorem keeps_hbm {x : Hbm} (h : s0.Keeps s)
    (hx : WrittenMemory.wf s.hbm.mem = true → WrittenMemory.wf x.mem = true) :
    s0.Keeps { s with hbm := x } := h.trans ⟨rfl, fun i => { i with hbm := hx i.hbm }⟩

theorem keeps_clo {x : Cloister} (h : s0.Keeps s)
    (hx : s.Inv → x.alertCause &&& 0xFFFFFF80#32 = 0#32 ∧ x.alertEn &&& 0xFFFFFF80#32 = 0#32 ∧
      x.wakeSrcEn &&& 0xFFFFFFF8#32 = 0#32 ∧ (x.ilk.state ≤ 2 ∧ x.ilk.disc ≤ 0xFFFF) ∧ x.tag.mem.wf = true) :
    s0.Keeps { s with clo := x } :=
  h.trans ⟨rfl, fun i => { i with
    alertCause := (hx i).1, alertEn := (hx i).2.1, wakeSrcEn := (hx i).2.2.1, interlock := (hx i).2.2.2.1
    tag := (hx i).2.2.2.2 }⟩

/-- The cells without some of them. -/
theorem keeps_filterCells {p : Nat × Cell → Bool} (h : s0.Keeps s) :
    s0.Keeps { s with cells := s.cells.filter p } :=
  h.trans ⟨rfl, fun i => { i with
    cells := Tbl.wf_filter p i.cells, stores := fun e he => i.stores e (List.mem_of_mem_filter he) }⟩

theorem addLog_length (log : List LogEntry) (n : Nat) (e : LogEntry) (h : log.length ≤ 4096) :
    (addLog log n e).1.length ≤ 4096 := by
  unfold addLog
  split <;> simp <;> omega

theorem Cell.ok_ite {c : Prop} [Decidable c] {a b : Cell} (ha : a.ok) (hb : b.ok) : (if c then a else b).ok := by
  split <;> assumption

theorem Cell.ok_foldl {α : Type} {f : Cell → α → Cell} {l : List α} {c : Cell} (h : c.ok)
    (hf : ∀ c x, c.ok → (f c x).ok) : (l.foldl f c).ok := by
  induction l generalizing c with
  | nil => exact h
  | cons x l ih => exact ih (hf c x h)

theorem keeps_alertOr {b : BitVec 32} (hb : b &&& 0xFFFFFF80#32 = 0#32) (h : s0.Keeps s) :
    s0.Keeps { s with clo := { s.clo with alertCause := s.clo.alertCause ||| b } } := by
  refine h.trans ⟨rfl, fun i => { i with alertCause := ?_ }⟩
  show (s.clo.alertCause ||| b) &&& 0xFFFFFF80#32 = 0#32
  rw [BitVec.and_comm, BitVec.and_or_distrib_left, BitVec.and_comm, i.alertCause, BitVec.and_comm, hb]
  rfl

theorem Cell.ok_mk {c : Cell} {ctxs : Tbl Ctx} {lastTid : Nat} {eng0 eng1 : Slype} {choir : Choir} {tally : Tally}
    {turns : Tbl Turn} {waiters : List Nat} {chanTx : Tbl ChanTx} {chanRx : Tbl ChanRx} {barrier : Option Barrier}
    {arrivals : List Message} {sysIn : List ChFlit} {aisle : AisleNode} {uni : UniState} {ch : ChNode}
    {sum : SumNode} {trackers : Tbl Tracker} {issued : Nat} (h : c.ok) :
    Cell.ok ⟨c.store, ctxs, lastTid, eng0, eng1, choir, tally, turns, waiters, chanTx, chanRx, barrier, arrivals, sysIn, aisle, uni, ch, sum, trackers, issued⟩ := h

theorem Cell.ok_write {c : Cell} {a : Nat} {bs : List Byte} {ctxs : Tbl Ctx} {lastTid : Nat} {eng0 eng1 : Slype}
    {choir : Choir} {tally : Tally} {turns : Tbl Turn} {waiters : List Nat} {chanTx : Tbl ChanTx}
    {chanRx : Tbl ChanRx} {barrier : Option Barrier} {arrivals : List Message} {sysIn : List ChFlit}
    {aisle : AisleNode} {uni : UniState} {ch : ChNode} {sum : SumNode} {trackers : Tbl Tracker} {issued : Nat}
    (h : c.ok) :
    Cell.ok ⟨c.store.writeBytes a bs, ctxs, lastTid, eng0, eng1, choir, tally, turns, waiters, chanTx, chanRx, barrier, arrivals, sysIn, aisle, uni, ch, sum, trackers, issued⟩ := Memory.wf_writeBytes a bs h

theorem rate_reset : 1 ≤ ({} : Heat).rate ∧ ({} : Heat).rate ≤ 16 := by decide

theorem timeout_reset : 10 ≤ ({} : Amb).timeoutUs ∧ ({} : Amb).timeoutUs ≤ 10000 := by decide

/-- Every next state an outcome gives is kept. -/
def State.Ran (s : State) (o : Res) : Prop := ∀ t, o = .next t → s.Keeps t

theorem ran_next (h : s0.Keeps s) : s0.Ran (.next s) := by
  intro t e
  cases e
  exact h

theorem ran_ite {c : Prop} [Decidable c] {a b : Res} (ha : s0.Ran a)
    (hb : s0.Ran b) : s0.Ran (if c then a else b) := by
  split <;> assumption

theorem ran_possible {c : Bool} {k : State → State} (h : s0.Keeps s) (hk : ∀ s, s0.Keeps s → s0.Keeps (k s)) :
    s0.Ran (possible c s k) :=
  ran_next (keeps_ite (hk _ (h.trans ⟨rfl, fun i => { i with }⟩)) h)

theorem Cell.ok_modCtx {c : Cell} {t : Nat} {f : Ctx → Ctx} (hc : c.ok) : (Cell.modCtx c t f).ok := by
  unfold Cell.modCtx
  try dsimp only
  repeat' first
    | with_reducible assumption
    | with_reducible intro _
    | with_reducible apply Cell.ok_ite
    | (with_reducible refine Cell.ok_mk ?_; with_reducible assumption)

theorem Cell.ok_modEng {c : Cell} {e : Nat} {f : Slype → Slype} (hc : c.ok) : (Cell.modEng c e f).ok := by
  unfold Cell.modEng
  try dsimp only
  repeat' first
    | with_reducible assumption
    | with_reducible intro _
    | with_reducible apply Cell.ok_ite
    | (with_reducible refine Cell.ok_mk ?_; with_reducible assumption)

theorem keeps_signal {p : HPort} {fn v : Nat} (hs : s0.Keeps s) :
    s0.Keeps (signal s p fn v) := by
  unfold signal
  try dsimp only
  repeat' first
    | with_reducible assumption
    | with_reducible intro _
    | with_reducible apply keeps_modHp
    | with_reducible apply keeps_emit
    | with_reducible apply keeps_ite

theorem keeps_signalChapel {c v : Nat} (hs : s0.Keeps s) :
    s0.Keeps (signalChapel s c v) := by
  unfold signalChapel
  try dsimp only
  repeat' first
    | with_reducible assumption
    | with_reducible intro _
    | with_reducible apply keeps_signal
    | with_reducible apply keeps_foldl _
    | with_reducible apply Cell.ok_foldl
    | with_reducible apply keeps_ite

theorem keeps_wakeLink {p : HPort} (hs : s0.Keeps s) :
    s0.Keeps (wakeLink s p) := by
  unfold wakeLink
  try dsimp only
  repeat' first
    | with_reducible assumption
    | with_reducible intro _
    | with_reducible apply keeps_modHp

theorem keeps_writeEvent {p : HPort} {e : Event} (hs : s0.Keeps s) :
    s0.Keeps (writeEvent s p e) := by
  unfold writeEvent
  try dsimp only
  repeat' first
    | with_reducible assumption
    | with_reducible intro _
    | with_reducible apply keeps_modHp
    | with_reducible apply keeps_emit
    | with_reducible apply keeps_signal
    | with_reducible apply keeps_wakeLink
    | with_reducible apply keeps_ite

theorem keeps_flushWaiting {p : HPort} {es : List Event} (h : s0.Keeps s) : s0.Keeps (flushWaiting p es s) := by
  induction es generalizing s with
  | nil => exact keeps_modHp h
  | cons e es ih => exact keeps_ite (ih (keeps_writeEvent h)) (keeps_modHp h)

theorem keeps_flushEvents {p : HPort} (hs : s0.Keeps s) :
    s0.Keeps (flushEvents s p) := by
  unfold flushEvents
  try dsimp only
  repeat' first
    | with_reducible assumption
    | with_reducible intro _
    | with_reducible apply keeps_modHp
    | with_reducible apply keeps_writeEvent
    | with_reducible apply keeps_flushWaiting
    | with_reducible apply keeps_ite

theorem keeps_postOn {p : HPort} {e : Event} {exempt : Bool} (hs : s0.Keeps s) :
    s0.Keeps (postOn s p e exempt) := by
  unfold postOn
  try dsimp only
  repeat' first
    | with_reducible assumption
    | with_reducible intro _
    | with_reducible apply keeps_modHp
    | with_reducible apply keeps_writeEvent
    | with_reducible apply keeps_ite

theorem keeps_post {code chapel : Nat} {detail : List Byte} (hs : s0.Keeps s) :
    s0.Keeps (post s code chapel detail) := by
  unfold post
  try dsimp only
  repeat' first
    | with_reducible assumption
    | with_reducible intro _
    | with_reducible apply keeps_postOn
    | with_reducible apply keeps_foldl _
    | with_reducible apply Cell.ok_foldl
    | with_reducible apply keeps_ite

theorem keeps_postPort {p : HPort} {code chapel : Nat} {detail : List Byte} (hs : s0.Keeps s) :
    s0.Keeps (postPort s p code chapel detail) := by
  unfold postPort
  try dsimp only
  repeat' first
    | with_reducible assumption
    | with_reducible intro _
    | with_reducible apply keeps_postOn
    | with_reducible apply keeps_ite

theorem keeps_postFaultP {detail : List Byte} (hs : s0.Keeps s) :
    s0.Keeps (postFaultP s detail) := by
  unfold postFaultP
  try dsimp only
  repeat' first
    | with_reducible assumption
    | with_reducible intro _
    | with_reducible apply keeps_modHp
    | with_reducible apply keeps_postOn
    | with_reducible apply keeps_foldl _
    | with_reducible apply Cell.ok_foldl
    | with_reducible apply keeps_ite

theorem keeps_logEntry {e : LogEntry} (h : s0.Keeps s) : s0.Keeps (logEntry s e) := by
  refine h.trans ⟨rfl, fun i => ?_⟩
  refine { i with logs := ⟨?_, ?_⟩, history := ?_ }
  · unfold logEntry
    generalize (if e.cls = 0 then logSides e.loc else (true, true)) = sides
    dsimp only
    split
    · exact addLog_length _ _ _ i.logs.1
    · exact i.logs.1
  · unfold logEntry
    generalize (if e.cls = 0 then logSides e.loc else (true, true)) = sides
    dsimp only
    split
    · exact addLog_length _ _ _ i.logs.2
    · exact i.logs.2
  · unfold logEntry
    dsimp only
    split
    · exact i.history
    · simp only [List.length_drop, List.length_append, List.length_singleton]
      omega

theorem keeps_setLimit {key : Nat} {l : Limit} (hs : s0.Keeps s) :
    s0.Keeps (setLimit s key l) := by
  unfold setLimit
  try dsimp only
  repeat' first
    | with_reducible assumption
    | with_reducible intro _
    | with_reducible apply keeps_ite
    | with_reducible apply keeps_id
    | with_reducible apply Cell.ok_ite
    | split
    | with_reducible refine Cell.ok_mk ?_
    | with_reducible refine Cell.ok_write ?_
    | with_reducible refine keeps_mk ?_ rfl rfl rfl ⟨rfl, rfl, rfl⟩ ⟨rfl, rfl, rfl, rfl, rfl⟩ rfl rfl rfl rfl rfl rfl rfl

theorem keeps_logKeyed {key period cause loc chapel : Nat} {detail : List Byte} (hs : s0.Keeps s) :
    s0.Keeps (logKeyed s key period cause loc chapel detail) := by
  unfold logKeyed
  try dsimp only
  repeat' first
    | with_reducible assumption
    | with_reducible intro _
    | with_reducible apply keeps_logEntry
    | with_reducible apply keeps_setLimit
    | with_reducible apply keeps_ite

theorem keeps_logC {period cause loc chapel : Nat} {detail : List Byte} (hs : s0.Keeps s) :
    s0.Keeps (logC s period cause loc chapel detail) := by
  unfold logC
  try dsimp only
  repeat' first
    | with_reducible assumption
    | with_reducible intro _
    | with_reducible apply keeps_logKeyed

theorem keeps_holdCapsule {gen : BitVec 32} {bytes : List Byte} (hs : s0.Keeps s) :
    s0.Keeps (holdCapsule s gen bytes) := by
  unfold holdCapsule
  try dsimp only
  repeat' first
    | with_reducible assumption
    | with_reducible intro _
    | with_reducible apply keeps_ite
    | with_reducible apply keeps_id
    | with_reducible apply Cell.ok_ite
    | split
    | with_reducible refine Cell.ok_mk ?_
    | with_reducible refine Cell.ok_write ?_
    | with_reducible refine keeps_mk ?_ rfl rfl rfl ⟨rfl, rfl, rfl⟩ ⟨rfl, rfl, rfl, rfl, rfl⟩ rfl rfl rfl rfl rfl rfl rfl

theorem keeps_makeCapsule {trigger cause : Nat} (hs : s0.Keeps s) :
    s0.Keeps (makeCapsule s trigger cause) := by
  unfold makeCapsule
  try dsimp only
  repeat' first
    | with_reducible assumption
    | with_reducible intro _
    | with_reducible apply keeps_holdCapsule

theorem keeps_cloisterCapsule {cause : Nat} (hs : s0.Keeps s) :
    s0.Keeps (cloisterCapsule s cause) := by
  unfold cloisterCapsule
  try dsimp only
  repeat' first
    | with_reducible assumption
    | with_reducible intro _
    | with_reducible apply keeps_holdCapsule
    | with_reducible apply keeps_ite
    | with_reducible apply keeps_id
    | with_reducible apply Cell.ok_ite
    | split

theorem keeps_reseal (hs : s0.Keeps s) :
    s0.Keeps (reseal s) := by
  unfold reseal
  try dsimp only
  repeat' first
    | with_reducible assumption
    | with_reducible intro _
    | with_reducible apply keeps_ite
    | with_reducible apply keeps_id
    | with_reducible apply Cell.ok_ite
    | split
    | with_reducible refine Cell.ok_mk ?_
    | with_reducible refine Cell.ok_write ?_
    | with_reducible refine keeps_mk ?_ rfl rfl rfl ⟨rfl, rfl, rfl⟩ ⟨rfl, rfl, rfl, rfl, rfl⟩ rfl rfl rfl rfl rfl rfl rfl

theorem keeps_goIdle (hs : s0.Keeps s) :
    s0.Keeps (goIdle s) := by
  unfold goIdle
  try dsimp only
  repeat' first
    | with_reducible assumption
    | with_reducible intro _
    | with_reducible apply keeps_reseal
    | with_reducible apply keeps_ite
    | with_reducible apply keeps_id
    | with_reducible apply Cell.ok_ite
    | split
    | with_reducible refine Cell.ok_mk ?_
    | with_reducible refine Cell.ok_write ?_
    | with_reducible refine keeps_mk ?_ rfl rfl rfl ⟨rfl, rfl, rfl⟩ ⟨rfl, rfl, rfl, rfl, rfl⟩ rfl rfl rfl rfl rfl rfl rfl

theorem keeps_beginCrypt (hs : s0.Keeps s) :
    s0.Keeps (beginCrypt s) := by
  unfold beginCrypt
  try dsimp only
  repeat' first
    | with_reducible assumption
    | with_reducible intro _
    | with_reducible apply keeps_makeCapsule
    | with_reducible apply keeps_reseal
    | with_reducible apply keeps_ite
    | with_reducible apply keeps_id
    | with_reducible apply Cell.ok_ite
    | split
    | with_reducible refine Cell.ok_mk ?_
    | with_reducible refine Cell.ok_write ?_
    | with_reducible refine keeps_mk ?_ rfl rfl rfl ⟨rfl, rfl, rfl⟩ ⟨rfl, rfl, rfl, rfl, rfl⟩ rfl rfl rfl rfl rfl rfl rfl

theorem keeps_afterPostRun {a : AfterPost} (hs : s0.Keeps s) :
    s0.Keeps (AfterPost.run a s) := by
  unfold AfterPost.run
  try dsimp only
  repeat' first
    | with_reducible assumption
    | with_reducible intro _
    | with_reducible apply keeps_goIdle
    | with_reducible apply keeps_beginCrypt
    | with_reducible apply keeps_ite
    | with_reducible apply keeps_id
    | with_reducible apply Cell.ok_ite
    | split

theorem keeps_writeCompletion {p : HPort} {i : Nat} {c : Completion} (hs : s0.Keeps s) :
    s0.Keeps (writeCompletion s p i c) := by
  unfold writeCompletion
  try dsimp only
  repeat' first
    | with_reducible assumption
    | with_reducible intro _
    | with_reducible apply keeps_modRing
    | with_reducible apply keeps_emit
    | with_reducible apply keeps_signal
    | with_reducible apply keeps_wakeLink
    | with_reducible apply keeps_afterPostRun
    | with_reducible apply keeps_ite

theorem keeps_flushList {p : HPort} {i : Nat} {cs : List Completion} (h : s0.Keeps s) :
    s0.Keeps (flushList p i cs s) := by
  induction cs generalizing s with
  | nil => exact keeps_modRing h
  | cons c cs ih => exact keeps_ite (ih (keeps_writeCompletion h)) (keeps_modRing h)

theorem keeps_flushRing {p : HPort} {i : Nat} (hs : s0.Keeps s) :
    s0.Keeps (flushRing s p i) := by
  unfold flushRing
  try dsimp only
  repeat' first
    | with_reducible assumption
    | with_reducible intro _
    | with_reducible apply keeps_flushList

theorem keeps_postCompletion {p : HPort} {i : Nat} {c : Completion} (hs : s0.Keeps s) :
    s0.Keeps (postCompletion s p i c) := by
  unfold postCompletion
  try dsimp only
  repeat' first
    | with_reducible assumption
    | with_reducible intro _
    | with_reducible apply keeps_modRing
    | with_reducible apply keeps_flushRing

theorem keeps_modCmd {n : Nat} {f : Cmd → Cmd} (hs : s0.Keeps s) :
    s0.Keeps (State.modCmd s n f) := by
  unfold State.modCmd
  try dsimp only
  repeat' first
    | with_reducible assumption
    | with_reducible intro _
    | with_reducible apply keeps_ite
    | with_reducible apply keeps_id
    | with_reducible apply Cell.ok_ite
    | split
    | with_reducible refine Cell.ok_mk ?_
    | with_reducible refine Cell.ok_write ?_
    | with_reducible refine keeps_mk ?_ rfl rfl rfl ⟨rfl, rfl, rfl⟩ ⟨rfl, rfl, rfl, rfl, rfl⟩ rfl rfl rfl rfl rfl rfl rfl

theorem keeps_dropCmd {n : Nat} (hs : s0.Keeps s) :
    s0.Keeps (State.dropCmd s n) := by
  unfold State.dropCmd
  try dsimp only
  repeat' first
    | with_reducible assumption
    | with_reducible intro _
    | with_reducible apply keeps_ite
    | with_reducible apply keeps_id
    | with_reducible apply Cell.ok_ite
    | split
    | with_reducible refine Cell.ok_mk ?_
    | with_reducible refine Cell.ok_write ?_
    | with_reducible refine keeps_mk ?_ rfl rfl rfl ⟨rfl, rfl, rfl⟩ ⟨rfl, rfl, rfl, rfl, rfl⟩ rfl rfl rfl rfl rfl rfl rfl

theorem keeps_completeCmd {c : Cmd} {status detail : Nat} {result : List Byte} {written : Bool}
    {after : AfterPost} (hs : s0.Keeps s) :
    s0.Keeps (completeCmd s c status detail result written after) := by
  unfold completeCmd
  try dsimp only
  repeat' first
    | with_reducible assumption
    | with_reducible intro _
    | with_reducible apply keeps_modRing
    | with_reducible apply keeps_logC
    | with_reducible apply keeps_afterPostRun
    | with_reducible apply keeps_postCompletion
    | with_reducible apply keeps_dropCmd
    | with_reducible apply keeps_foldl _
    | with_reducible apply Cell.ok_foldl
    | with_reducible apply keeps_ite

theorem keeps_failCmd {c : Cmd} {status detail : Nat} (hs : s0.Keeps s) :
    s0.Keeps (failCmd s c status detail) := by
  unfold failCmd
  try dsimp only
  repeat' first
    | with_reducible assumption
    | with_reducible intro _
    | with_reducible apply keeps_completeCmd

theorem keeps_okCmd {c : Cmd} {result : List Byte} (hs : s0.Keeps s) :
    s0.Keeps (okCmd s c result) := by
  unfold okCmd
  try dsimp only
  repeat' first
    | with_reducible assumption
    | with_reducible intro _
    | with_reducible apply keeps_completeCmd

theorem keeps_touch {n : Nat} {objs : List Obj} (hs : s0.Keeps s) :
    s0.Keeps (touch s n objs) := by
  unfold touch
  try dsimp only
  repeat' first
    | with_reducible assumption
    | with_reducible intro _
    | with_reducible apply keeps_ite
    | with_reducible apply keeps_id
    | with_reducible apply Cell.ok_ite
    | split
    | with_reducible refine Cell.ok_mk ?_
    | with_reducible refine Cell.ok_write ?_
    | with_reducible refine keeps_mk ?_ rfl rfl rfl ⟨rfl, rfl, rfl⟩ ⟨rfl, rfl, rfl, rfl, rfl⟩ rfl rfl rfl rfl rfl rfl rfl

theorem keeps_doneCmd {c : Cmd} {result : List Byte} (hs : s0.Keeps s) :
    s0.Keeps (doneCmd s c result) := by
  unfold doneCmd
  try dsimp only
  repeat' first
    | with_reducible assumption
    | with_reducible intro _
    | with_reducible apply keeps_okCmd
    | with_reducible apply keeps_touch

theorem keeps_writeBuffer {c : Cmd} {data : List Byte} {wrOk : Bool} (hs : s0.Keeps s) :
    s0.Keeps (writeBuffer s c data wrOk).1 := by
  unfold writeBuffer
  try dsimp only
  repeat' first
    | with_reducible assumption
    | with_reducible intro _
    | with_reducible apply keeps_emit
    | with_reducible apply keeps_wakeLink
    | with_reducible apply keeps_logC
    | with_reducible apply keeps_ite
    | with_reducible apply keeps_id
    | with_reducible apply Cell.ok_ite
    | split

theorem Cell.ok_retryWhere {c : Cell} {p : Waiting → Bool} (hc : c.ok) : (Cell.retryWhere c p).ok := by
  unfold Cell.retryWhere
  try dsimp only
  repeat' first
    | with_reducible assumption
    | with_reducible intro _
    | with_reducible apply Cell.ok_ite
    | (with_reducible refine Cell.ok_mk ?_; with_reducible assumption)

theorem Cell.ok_endBarrier {c : Cell} {v : Word} (hc : c.ok) : (Cell.endBarrier c v).ok := by
  unfold Cell.endBarrier
  try dsimp only
  repeat' first
    | with_reducible assumption
    | with_reducible intro _
    | with_reducible apply Cell.ok_retryWhere
    | with_reducible apply Cell.ok_ite
    | (with_reducible refine Cell.ok_mk ?_; with_reducible assumption)

theorem Cell.ok_barrierLoses {c : Cell} {t : Nat} (hc : c.ok) : (Cell.barrierLoses c t).ok := by
  unfold Cell.barrierLoses
  try dsimp only
  repeat' first
    | with_reducible assumption
    | with_reducible intro _
    | with_reducible apply Cell.ok_endBarrier
    | with_reducible apply Cell.ok_ite
    | split

theorem Cell.ok_stopCtx {c : Cell} {t : Nat} (hc : c.ok) : (Cell.stopCtx c t).ok := by
  unfold Cell.stopCtx
  try dsimp only
  repeat' first
    | with_reducible assumption
    | with_reducible intro _
    | with_reducible apply Cell.ok_modCtx
    | with_reducible apply Cell.ok_barrierLoses
    | with_reducible apply Cell.ok_ite

theorem Cell.ok_askStop {c : Cell} {t : Nat} (hc : c.ok) : (Cell.askStop c t).ok := by
  unfold Cell.askStop
  try dsimp only
  repeat' first
    | with_reducible assumption
    | with_reducible intro _
    | with_reducible apply Cell.ok_modCtx
    | with_reducible apply Cell.ok_stopCtx
    | with_reducible apply Cell.ok_ite

theorem keeps_modCells {c : Nat} {f : Cell → Cell} (h : s0.Keeps s) (hf : ∀ x, x.ok → (f x).ok) :
    s0.Keeps (s.modCells c f) := keeps_foldl _ h fun _ _ h => keeps_modCell h hf

theorem keeps_askStopChapel {c : Nat} (hs : s0.Keeps s) :
    s0.Keeps (askStopChapel s c) := by
  unfold askStopChapel
  try dsimp only
  repeat' first
    | with_reducible assumption
    | with_reducible intro _
    | with_reducible apply keeps_modChapel
    | with_reducible apply keeps_modCells
    | with_reducible apply Cell.ok_askStop
    | with_reducible apply keeps_foldl _
    | with_reducible apply Cell.ok_foldl
    | with_reducible apply keeps_ite
    | with_reducible apply keeps_id
    | with_reducible apply Cell.ok_ite
    | split
    | with_reducible refine Cell.ok_mk ?_

theorem keeps_hardStopChapel {c : Nat} (hs : s0.Keeps s) :
    s0.Keeps (hardStopChapel s c) := by
  unfold hardStopChapel
  try dsimp only
  repeat' first
    | with_reducible assumption
    | with_reducible intro _
    | with_reducible apply keeps_modCells
    | with_reducible apply Cell.ok_stopCtx
    | with_reducible apply keeps_foldl _
    | with_reducible apply Cell.ok_foldl

theorem Cell.ok_contain {x : Cell} (hc : x.ok) : (Cell.contain x).ok := by
  unfold Cell.contain
  try dsimp only
  repeat' first
    | with_reducible assumption
    | with_reducible intro _
    | with_reducible apply Cell.ok_stopCtx
    | with_reducible apply Cell.ok_foldl
    | with_reducible apply Cell.ok_ite
    | split
    | with_reducible refine Cell.ok_mk ?_

theorem Cell.ok_resume {x : Cell} (hc : x.ok) : (Cell.resume x).ok := by
  unfold Cell.resume
  try dsimp only
  repeat' first
    | with_reducible assumption
    | with_reducible intro _
    | with_reducible apply Cell.ok_ite
    | (with_reducible refine Cell.ok_mk ?_; with_reducible assumption)

theorem keeps_setChState {c : Nat} {new : ChState} (hs : s0.Keeps s) :
    s0.Keeps (setChState s c new) := by
  unfold setChState
  try dsimp only
  repeat' first
    | with_reducible assumption
    | with_reducible intro _
    | with_reducible apply keeps_modChapel
    | with_reducible apply keeps_signalChapel
    | with_reducible apply keeps_post
    | with_reducible apply keeps_ite

theorem keeps_setLinkState {t st : Nat} (hs : s0.Keeps s) :
    s0.Keeps (setLinkState s t st) := by
  unfold setLinkState
  try dsimp only
  repeat' first
    | with_reducible assumption
    | with_reducible intro _
    | with_reducible apply keeps_modLink
    | with_reducible apply keeps_post
    | with_reducible apply keeps_ite

theorem keeps_sendCtrl {t op arg : Nat} {body : List Byte} (hs : s0.Keeps s) :
    s0.Keeps (sendCtrl s t op arg body) := by
  unfold sendCtrl
  try dsimp only
  repeat' first
    | with_reducible assumption
    | with_reducible intro _
    | with_reducible apply keeps_modLink

theorem keeps_containCmds {c cause : Nat} (hs : s0.Keeps s) :
    s0.Keeps (containCmds s c cause) := by
  unfold containCmds
  try dsimp only
  repeat' first
    | with_reducible assumption
    | with_reducible intro _
    | with_reducible apply keeps_completeCmd
    | with_reducible apply keeps_foldl _

theorem keeps_spoilRows {g : Nat} {rows : List (Nat × Nat)} (hs : s0.Keeps s) :
    s0.Keeps (spoilRows s g rows) := by
  unfold spoilRows
  refine keeps_foldl _ hs fun s r h => keeps_modCell (keeps_freeBytes h) fun c hc => Cell.ok_write hc

theorem keeps_abandonPass {g : Nat} (hs : s0.Keeps s) : s0.Keeps (abandonPass s g) := by
  unfold abandonPass
  split
  · exact hs
  · exact keeps_ite (keeps_spoilRows hs) hs

theorem keeps_faultKHere {c cause loc : Nat} {detail : List Byte} (hs : s0.Keeps s) :
    s0.Keeps (faultKHere s c cause loc detail) := by
  unfold faultKHere
  try dsimp only
  repeat' first
    | with_reducible assumption
    | with_reducible intro _
    | with_reducible apply keeps_modChapel
    | with_reducible apply keeps_signalChapel
    | with_reducible apply keeps_post
    | with_reducible apply keeps_logEntry
    | with_reducible apply keeps_modCells
    | with_reducible apply keeps_setChState
    | with_reducible apply keeps_containCmds
    | with_reducible apply keeps_abandonPass
    | with_reducible apply keeps_foldl _
    | with_reducible apply Cell.ok_contain
    | with_reducible apply keeps_ite
    | with_reducible apply keeps_id
    | with_reducible apply Cell.ok_ite
    | split
    | with_reducible refine Cell.ok_mk ?_
    | with_reducible refine Cell.ok_write ?_
    | with_reducible refine keeps_mk ?_ rfl rfl rfl ⟨rfl, rfl, rfl⟩ ⟨rfl, rfl, rfl, rfl, rfl⟩ rfl rfl rfl rfl rfl rfl rfl

theorem keeps_capsuleK {cause : Nat} (hs : s0.Keeps s) :
    s0.Keeps (capsuleK s cause) := by
  unfold capsuleK
  try dsimp only
  repeat' first
    | with_reducible assumption
    | with_reducible intro _
    | with_reducible apply keeps_makeCapsule
    | with_reducible apply keeps_ite
    | with_reducible apply keeps_id
    | with_reducible apply Cell.ok_ite
    | split
    | with_reducible refine Cell.ok_mk ?_
    | with_reducible refine Cell.ok_write ?_
    | with_reducible refine keeps_mk ?_ rfl rfl rfl ⟨rfl, rfl, rfl⟩ ⟨rfl, rfl, rfl, rfl, rfl⟩ rfl rfl rfl rfl rfl rfl rfl

theorem keeps_depart {cls cause : Nat} (hs : s0.Keeps s) :
    s0.Keeps (depart s cls cause) := by
  unfold depart
  try dsimp only
  repeat' first
    | with_reducible assumption
    | with_reducible intro _
    | with_reducible apply keeps_sendCtrl
    | with_reducible apply keeps_faultKHere
    | with_reducible apply keeps_foldl _
    | with_reducible apply Cell.ok_foldl
    | with_reducible apply keeps_ite
    | with_reducible apply keeps_id
    | with_reducible apply Cell.ok_ite
    | split
    | with_reducible refine Cell.ok_mk ?_
    | with_reducible refine Cell.ok_write ?_
    | with_reducible refine keeps_mk ?_ rfl rfl rfl ⟨rfl, rfl, rfl⟩ ⟨rfl, rfl, rfl, rfl, rfl⟩ rfl rfl rfl rfl rfl rfl rfl

theorem keeps_faultK {c cause loc : Nat} {detail : List Byte} {hw quiet : Bool} (hs : s0.Keeps s) :
    s0.Keeps (faultK s c cause loc detail hw quiet) := by
  unfold faultK
  try dsimp only
  repeat' first
    | with_reducible assumption
    | with_reducible intro _
    | with_reducible apply keeps_sendCtrl
    | with_reducible apply keeps_faultKHere
    | with_reducible apply keeps_capsuleK
    | with_reducible apply keeps_depart
    | with_reducible apply keeps_foldl _
    | with_reducible apply Cell.ok_foldl
    | with_reducible apply keeps_ite

theorem keeps_latchP {cause : Nat} (hs : s0.Keeps s) : s0.Keeps (latchP s cause) := by
  have h := keeps_alertOr (b := 2#32) (by decide) hs
  exact keeps_ite h (h.trans ⟨rfl, fun i => { i with }⟩)

theorem keeps_faultP {cause loc : Nat} {detail : List Byte} (hs : s0.Keeps s) :
    s0.Keeps (faultP s cause loc detail) := by
  unfold faultP
  try dsimp only
  repeat' first
    | with_reducible assumption
    | with_reducible intro _
    | with_reducible apply keeps_signal
    | with_reducible apply keeps_postFaultP
    | with_reducible apply keeps_logEntry
    | with_reducible apply keeps_makeCapsule
    | with_reducible apply keeps_depart
    | with_reducible apply keeps_latchP
    | with_reducible apply keeps_foldl _
    | with_reducible apply Cell.ok_foldl
    | with_reducible apply keeps_ite
    | with_reducible apply keeps_id
    | with_reducible apply Cell.ok_ite
    | split
    | with_reducible refine Cell.ok_mk ?_
    | with_reducible refine Cell.ok_write ?_
    | with_reducible refine keeps_mk ?_ rfl rfl rfl ⟨rfl, rfl, rfl⟩ ⟨rfl, rfl, rfl, rfl, rfl⟩ rfl rfl rfl rfl rfl rfl rfl

theorem keeps_calSelect (hs : s0.Keeps s) : s0.Keeps (calSelect s) := by
  unfold calSelect
  dsimp only
  split <;>
    exact (keeps_when _ hs fun t h => keeps_alertOr (b := 16#32) (by decide) h).trans ⟨rfl, fun i => { i with }⟩

theorem keeps_freshPorts (hs : s0.Keeps s) :
    s0.Keeps (freshPorts s) := by
  unfold freshPorts
  try dsimp only
  repeat' first
    | with_reducible assumption
    | with_reducible intro _
    | with_reducible apply keeps_ite
    | with_reducible apply keeps_id
    | with_reducible apply Cell.ok_ite
    | split
    | with_reducible refine Cell.ok_mk ?_
    | with_reducible refine Cell.ok_write ?_
    | with_reducible refine keeps_mk ?_ rfl rfl rfl ⟨rfl, rfl, rfl⟩ ⟨rfl, rfl, rfl, rfl, rfl⟩ rfl rfl rfl rfl rfl rfl rfl

theorem keeps_mainReset {keepHbm : Bool} (hs : s0.Keeps s) : s0.Keeps (mainReset s keepHbm) := by
  refine hs.trans ⟨rfl, fun i => ?_⟩
  refine { i with
    rate := rate_reset, timeout := timeout_reset, stores := (fun _ h => nomatch h), chapels := rfl, cells := rfl
    links := rfl, aisleBays := rfl, hbm := ?_, hbmStacks := ?_ }
  · unfold mainReset
    dsimp only
    split
    · exact i.hbm
    · rfl
  · unfold mainReset
    dsimp only
    split
    · exact Tbl.wf_mapFilter _ _ i.hbmStacks fun _ h => of_decide_eq_true h
    · rfl

theorem keeps_unrequestedCrypt (hs : s0.Keeps s) :
    s0.Keeps (unrequestedCrypt s) := by
  unfold unrequestedCrypt
  try dsimp only
  repeat' first
    | with_reducible assumption
    | with_reducible intro _
    | with_reducible apply keeps_reseal
    | with_reducible apply keeps_mainReset
    | with_reducible apply keeps_ite
    | with_reducible apply keeps_id
    | with_reducible apply Cell.ok_ite
    | split
    | with_reducible refine Cell.ok_mk ?_
    | with_reducible refine Cell.ok_write ?_
    | with_reducible refine keeps_mk ?_ rfl rfl rfl ⟨rfl, rfl, rfl⟩ ⟨rfl, rfl, rfl, rfl, rfl⟩ rfl rfl rfl rfl rfl rfl rfl

theorem keeps_startBringUp (hs : s0.Keeps s) : s0.Keeps (startBringUp s) := by
  unfold startBringUp
  refine keeps_calSelect (hs.trans ⟨rfl, fun i => { i with limit := ?_ }⟩)
  dsimp only
  split
  · exact i.limit
  · decide

theorem keeps_newEpoch (hs : s0.Keeps s) :
    s0.Keeps (newEpoch s) := by
  unfold newEpoch
  try dsimp only
  repeat' first
    | with_reducible assumption
    | with_reducible intro _
    | with_reducible apply keeps_ite
    | with_reducible apply keeps_id
    | with_reducible apply Cell.ok_ite
    | split
    | with_reducible refine Cell.ok_mk ?_
    | with_reducible refine Cell.ok_write ?_
    | with_reducible refine keeps_mk ?_ rfl rfl rfl ⟨rfl, rfl, rfl⟩ ⟨rfl, rfl, rfl, rfl, rfl⟩ rfl rfl rfl rfl rfl rfl rfl

theorem keeps_leaveIdle (hs : s0.Keeps s) :
    s0.Keeps (leaveIdle s) := by
  unfold leaveIdle
  try dsimp only
  repeat' first
    | with_reducible assumption
    | with_reducible intro _
    | with_reducible apply keeps_modLink
    | with_reducible apply keeps_setLinkState
    | with_reducible apply keeps_foldl _
    | with_reducible apply Cell.ok_foldl
    | with_reducible apply keeps_ite
    | with_reducible apply keeps_id
    | with_reducible apply Cell.ok_ite
    | split
    | with_reducible refine Cell.ok_mk ?_
    | with_reducible refine Cell.ok_write ?_
    | with_reducible refine keeps_mk ?_ rfl rfl rfl ⟨rfl, rfl, rfl⟩ ⟨rfl, rfl, rfl, rfl, rfl⟩ rfl rfl rfl rfl rfl rfl rfl

theorem keeps_recordWake {src : Nat} (hs : s0.Keeps s) :
    s0.Keeps (recordWake s src) := by
  unfold recordWake
  try dsimp only
  repeat' first
    | with_reducible assumption
    | with_reducible intro _
    | with_reducible apply keeps_postOn
    | with_reducible apply keeps_foldl _
    | with_reducible apply Cell.ok_foldl
    | with_reducible apply keeps_ite
    | with_reducible apply keeps_id
    | with_reducible apply Cell.ok_ite
    | split
    | with_reducible refine Cell.ok_mk ?_
    | with_reducible refine Cell.ok_write ?_
    | with_reducible refine keeps_mk ?_ rfl rfl rfl ⟨rfl, rfl, rfl⟩ ⟨rfl, rfl, rfl, rfl, rfl⟩ rfl rfl rfl rfl rfl rfl rfl

theorem keeps_assertWakePins (hs : s0.Keeps s) :
    s0.Keeps (assertWakePins s) := by
  unfold assertWakePins
  try dsimp only
  repeat' first
    | with_reducible assumption
    | with_reducible intro _
    | with_reducible apply keeps_ite
    | with_reducible apply keeps_id
    | with_reducible apply Cell.ok_ite
    | split
    | with_reducible refine Cell.ok_mk ?_
    | with_reducible refine Cell.ok_write ?_
    | with_reducible refine keeps_mk ?_ rfl rfl rfl ⟨rfl, rfl, rfl⟩ ⟨rfl, rfl, rfl, rfl, rfl⟩ rfl rfl rfl rfl rfl rfl rfl

theorem keeps_wakeBringUp (hs : s0.Keeps s) : s0.Keeps (wakeBringUp s) :=
  keeps_ite hs (keeps_ite (keeps_startBringUp hs)
    ((keeps_alertOr (b := 1#32) (by decide) hs).trans ⟨rfl, fun i => { i with }⟩))

theorem keeps_wakeSource {src : Nat} (hs : s0.Keeps s) :
    s0.Keeps (wakeSource s src) := by
  unfold wakeSource
  try dsimp only
  repeat' first
    | with_reducible assumption
    | with_reducible intro _
    | with_reducible apply keeps_leaveIdle
    | with_reducible apply keeps_recordWake
    | with_reducible apply keeps_assertWakePins
    | with_reducible apply keeps_wakeBringUp
    | with_reducible apply keeps_when _
    | with_reducible apply keeps_ite

theorem keeps_shedRetiring {c : Nat} (hs : s0.Keeps s) :
    s0.Keeps (shedRetiring s c) := by
  unfold shedRetiring
  try dsimp only
  repeat' first
    | with_reducible assumption
    | with_reducible intro _
    | with_reducible apply keeps_modChapel
    | with_reducible apply keeps_modCells
    | with_reducible apply Cell.ok_askStop
    | with_reducible apply keeps_foldl _
    | with_reducible apply Cell.ok_foldl

theorem keeps_startShed (hs : s0.Keeps s) : s0.Keeps (startShed s) := by
  unfold startShed
  refine keeps_foldl _ (hs.trans ⟨rfl, fun i => { i with rate := ⟨Nat.le_refl 1, by simp⟩ }⟩) fun t c ht => ?_
  split
  · exact keeps_askStopChapel ht
  · exact keeps_shedRetiring ht
  · exact ht

theorem keeps_wantOff {bays : List Nat} (hs : s0.Keeps s) :
    s0.Keeps (wantOff s bays) := by
  unfold wantOff
  try dsimp only
  repeat' first
    | with_reducible assumption
    | with_reducible intro _
    | with_reducible apply keeps_modBay
    | with_reducible apply keeps_foldl _

theorem keeps_teardown {c : Nat} (hs : s0.Keeps s) : s0.Keeps (teardown s c) :=
  keeps_modChapel ((keeps_wantOff (keeps_filterCells (keeps_setChState hs))).trans ⟨rfl, fun i => { i with }⟩)

end Sys2Proof.Machine
end

