-- ==== Sys2Proof/Laws/KeepCells.lean ====
section
/-! SUPPORT. The queue and the invariant under the shared operations of the cells and their fabrics (Cells, Access,
Messages, Slype, Aisle, Sums, Chantry): one lemma per operation. -/

namespace Sys2Proof.Machine

variable {s s0 : State}

theorem keeps_settleChapel {c : Nat} (hs : s0.Keeps s) :
    s0.Keeps (settleChapel s c) := by
  unfold settleChapel
  try dsimp only
  repeat' first
    | with_reducible assumption
    | with_reducible intro _
    | with_reducible apply keeps_doneCmd
    | with_reducible apply keeps_teardown
    | with_reducible apply keeps_foldl _
    | with_reducible apply Cell.ok_foldl
    | with_reducible apply keeps_ite

theorem Cell.ok_settleStop {c : Cell} {t : Nat} (hc : c.ok) : (Cell.settleStop c t).ok := by
  unfold Cell.settleStop
  try dsimp only
  repeat' first
    | with_reducible assumption
    | with_reducible intro _
    | with_reducible apply Cell.ok_stopCtx
    | with_reducible apply Cell.ok_ite

theorem keeps_settleStop {g t : Nat} (hs : s0.Keeps s) :
    s0.Keeps (settleStop s g t) := by
  unfold settleStop
  try dsimp only
  repeat' first
    | with_reducible assumption
    | with_reducible intro _
    | with_reducible apply keeps_modCell
    | with_reducible apply Cell.ok_settleStop

theorem keeps_enterExc {g t : Nat} {resumable : Bool} {sub code pc addr : Nat} (hs : s0.Keeps s) :
    s0.Keeps (enterExc s g t resumable sub code pc addr) := by
  unfold enterExc
  try dsimp only
  repeat' first
    | with_reducible assumption
    | with_reducible intro _
    | with_reducible apply keeps_modCell
    | with_reducible apply keeps_modCtx
    | with_reducible apply keeps_faultK
    | with_reducible apply keeps_settleStop
    | with_reducible apply Cell.ok_modCtx
    | with_reducible apply Cell.ok_stopCtx
    | with_reducible apply Cell.ok_settleStop
    | with_reducible apply keeps_ite

theorem keeps_raise {g t code addr : Nat} (hs : s0.Keeps s) :
    s0.Keeps (raise s g t code addr) := by
  unfold raise
  try dsimp only
  repeat' first
    | with_reducible assumption
    | with_reducible intro _
    | with_reducible apply keeps_faultK
    | with_reducible apply keeps_enterExc
    | with_reducible apply keeps_ite

theorem keeps_goTo {g t pc : Nat} {k : State → State} (hs : s0.Keeps s) (hk : ∀ s, s0.Keeps s → s0.Keeps (k s)) :
    s0.Keeps (goTo s g t pc k) := by
  unfold goTo
  try dsimp only
  repeat' first
    | with_reducible assumption
    | with_reducible intro _
    | with_reducible apply keeps_modCtx
    | with_reducible apply keeps_raise
    | with_reducible apply Cell.ok_modCtx
    | with_reducible apply hk
    | with_reducible apply keeps_ite

theorem keeps_next {g t : Nat} {k : State → State} (hs : s0.Keeps s) (hk : ∀ s, s0.Keeps s → s0.Keeps (k s)) :
    s0.Keeps (next s g t k) := by
  unfold next
  try dsimp only
  repeat' first
    | with_reducible assumption
    | with_reducible intro _
    | with_reducible apply keeps_goTo

theorem keeps_setRd {g t rd : Nat} {v : Word} (hs : s0.Keeps s) :
    s0.Keeps (setRd s g t rd v) := by
  unfold setRd
  try dsimp only
  repeat' first
    | with_reducible assumption
    | with_reducible intro _
    | with_reducible apply keeps_modCtx
    | with_reducible apply keeps_next

theorem keeps_setVd {g t vd : Nat} {v : VWord} (hs : s0.Keeps s) :
    s0.Keeps (setVd s g t vd v) := by
  unfold setVd
  try dsimp only
  repeat' first
    | with_reducible assumption
    | with_reducible intro _
    | with_reducible apply keeps_modCtx
    | with_reducible apply keeps_next

theorem keeps_wait {g t : Nat} {w : Waiting} (hs : s0.Keeps s) :
    s0.Keeps (wait s g t w) := by
  unfold wait
  try dsimp only
  repeat' first
    | with_reducible assumption
    | with_reducible intro _
    | with_reducible apply keeps_modCtx

theorem keeps_startIns {g t : Nat} {i : Ins} (hs : s0.Keeps s) :
    s0.Keeps (startIns s g t i) := by
  unfold startIns
  try dsimp only
  repeat' first
    | with_reducible assumption
    | with_reducible intro _
    | with_reducible apply keeps_modCell
    | with_reducible apply keeps_modCtx
    | with_reducible apply Cell.ok_modCtx
    | with_reducible apply keeps_ite
    | with_reducible apply keeps_id
    | with_reducible apply Cell.ok_ite
    | split
    | with_reducible refine Cell.ok_mk ?_

theorem ran_issueIns {row : Row} {g t : Nat} {k : State → Ins → State} (hs : s0.Keeps s)
    (hk : ∀ s x0, s0.Keeps s → s0.Keeps (k s x0)) :
    s0.Ran (issueIns row g t s k) := by
  unfold issueIns
  try dsimp only
  repeat' first
    | with_reducible assumption
    | with_reducible intro _
    | with_reducible apply keeps_settleStop
    | with_reducible apply keeps_next
    | with_reducible apply keeps_startIns
    | with_reducible apply Cell.ok_settleStop
    | with_reducible apply hk
    | with_reducible apply keeps_ite
    | with_reducible apply ran_possible
    | with_reducible apply ran_next
    | with_reducible apply ran_ite
    | with_reducible apply keeps_id
    | with_reducible apply Cell.ok_ite
    | split

theorem keeps_jumpTo {cell tid rd target : Nat} (hs : s0.Keeps s) :
    s0.Keeps (jumpTo s cell tid rd target) := by
  unfold jumpTo
  try dsimp only
  repeat' first
    | with_reducible assumption
    | with_reducible intro _
    | with_reducible apply keeps_modCtx
    | with_reducible apply keeps_goTo

theorem keeps_startThread {g t pc : Nat} {arg : Word} (hs : s0.Keeps s) :
    s0.Keeps (startThread s g t pc arg) := by
  unfold startThread
  try dsimp only
  repeat' first
    | with_reducible assumption
    | with_reducible intro _
    | with_reducible apply keeps_modCtx

theorem keeps_leaveHandler {cell tid pc : Nat} (hs : s0.Keeps s) :
    s0.Keeps (leaveHandler s cell tid pc) := by
  unfold leaveHandler
  try dsimp only
  repeat' first
    | with_reducible assumption
    | with_reducible intro _
    | with_reducible apply keeps_modCtx
    | with_reducible apply keeps_goTo

theorem Cell.ok_localStore {c : Cell} {off : Nat} {bs : List Byte} (hc : c.ok) : (Cell.localStore c off bs).ok := by
  unfold Cell.localStore
  try dsimp only
  repeat' first
    | with_reducible assumption
    | with_reducible intro _
    | with_reducible apply Cell.ok_ite
    | split
    | with_reducible refine Cell.ok_mk ?_
    | with_reducible refine Cell.ok_write ?_

theorem keeps_inject {ep : Nat} {f : AmbFlit} (hs : s0.Keeps s) :
    s0.Keeps (inject s ep f) := by
  unfold inject
  try dsimp only
  repeat' first
    | with_reducible assumption
    | with_reducible intro _
    | with_reducible apply keeps_modEnd

theorem Cell.ok_modTracker {c : Cell} {k : Nat} {f : Tracker → Tracker} (hc : c.ok) : (Cell.modTracker c k f).ok := by
  unfold Cell.modTracker
  try dsimp only
  repeat' first
    | with_reducible assumption
    | with_reducible intro _
    | with_reducible apply Cell.ok_ite
    | (with_reducible refine Cell.ok_mk ?_; with_reducible assumption)

theorem Cell.ok_accessWaits {c : Cell} {t : Nat} (hc : c.ok) : (Cell.accessWaits c t).ok := by
  unfold Cell.accessWaits
  try dsimp only
  repeat' first
    | with_reducible assumption
    | with_reducible intro _
    | with_reducible apply Cell.ok_modCtx
    | with_reducible apply Cell.ok_ite
    | split

theorem Cell.ok_forget {c : Cell} {t : Nat} (hc : c.ok) : (Cell.forget c t).ok := by
  unfold Cell.forget
  try dsimp only
  repeat' first
    | with_reducible assumption
    | with_reducible intro _
    | with_reducible apply Cell.ok_ite
    | (with_reducible refine Cell.ok_mk ?_; with_reducible assumption)

theorem keeps_settleExit {g t : Nat} (hs : s0.Keeps s) :
    s0.Keeps (settleExit s g t) := by
  unfold settleExit
  try dsimp only
  repeat' first
    | with_reducible assumption
    | with_reducible intro _
    | with_reducible apply keeps_modCell
    | with_reducible apply keeps_modCtx
    | with_reducible apply keeps_settleChapel
    | with_reducible apply Cell.ok_modCtx
    | with_reducible apply Cell.ok_barrierLoses
    | with_reducible apply Cell.ok_forget
    | with_reducible apply keeps_ite

theorem Cell.ok_trackerFreed {c : Cell} (hc : c.ok) : (Cell.trackerFreed c).ok := by
  unfold Cell.trackerFreed
  try dsimp only
  repeat' first
    | with_reducible assumption
    | with_reducible intro _
    | with_reducible apply Cell.ok_retryWhere

theorem keeps_finishAccess {g k status : Nat} {data : List Byte} {advance : Bool} (hs : s0.Keeps s) :
    s0.Keeps (finishAccess s g k status data advance) := by
  unfold finishAccess
  try dsimp only
  repeat' first
    | with_reducible assumption
    | with_reducible intro _
    | with_reducible apply keeps_modCell
    | with_reducible apply keeps_modCtx
    | with_reducible apply keeps_logC
    | with_reducible apply keeps_settleStop
    | with_reducible apply keeps_settleExit
    | with_reducible apply Cell.ok_modCtx
    | with_reducible apply Cell.ok_settleStop
    | with_reducible apply Cell.ok_modTracker
    | with_reducible apply Cell.ok_accessWaits
    | with_reducible apply Cell.ok_trackerFreed
    | with_reducible apply keeps_ite

theorem keeps_pump {n g : Nat} (h : s0.Keeps s) : s0.Keeps (pump n s g) := by
  induction n generalizing s with
  | zero => exact h
  | succ n ih =>
    unfold pump
    refine keeps_ite h ?_
    split
    · exact h
    · dsimp only
      refine keeps_ite ?_ (ih (keeps_inject (keeps_modCell h fun _ hc => Cell.ok_modTracker hc)))
      split
      · exact ih (keeps_finishAccess h)
      · exact ih (keeps_inject (keeps_modCell h fun _ hc => Cell.ok_modTracker hc))

theorem keeps_pumpCell {g : Nat} (hs : s0.Keeps s) :
    s0.Keeps (pumpCell s g) := by
  unfold pumpCell
  try dsimp only
  repeat' first
    | with_reducible assumption
    | with_reducible intro _
    | with_reducible apply keeps_pump

theorem keeps_completeAccess {g k status : Nat} {data : List Byte} {advance : Bool} (hs : s0.Keeps s) :
    s0.Keeps (completeAccess s g k status data advance) := by
  unfold completeAccess
  try dsimp only
  repeat' first
    | with_reducible assumption
    | with_reducible intro _
    | with_reducible apply keeps_finishAccess
    | with_reducible apply keeps_pumpCell

theorem keeps_passes {g t : Nat} {k : State → State} (hs : s0.Keeps s) (hk : ∀ s, s0.Keeps s → s0.Keeps (k s)) :
    s0.Keeps (passes s g t k) := by
  unfold passes
  try dsimp only
  repeat' first
    | with_reducible assumption
    | with_reducible intro _
    | with_reducible apply keeps_raise
    | with_reducible apply hk
    | with_reducible apply keeps_ite

theorem keeps_issueAccess {g t a : Nat} {place : Place} {f : AmbFlit} {landing : Landing} {isLoad : Bool}
    (hs : s0.Keeps s) :
    s0.Keeps (issueAccess s g t a place f landing isLoad) := by
  unfold issueAccess
  try dsimp only
  repeat' first
    | with_reducible assumption
    | with_reducible intro _
    | with_reducible apply keeps_modCell
    | with_reducible apply keeps_modCtx
    | with_reducible apply keeps_wait
    | with_reducible apply keeps_pumpCell
    | with_reducible apply keeps_passes
    | with_reducible apply Cell.ok_modCtx
    | with_reducible apply Cell.ok_modTracker
    | with_reducible apply keeps_ite
    | with_reducible apply keeps_id
    | with_reducible apply Cell.ok_ite
    | split
    | with_reducible refine Cell.ok_mk ?_

theorem keeps_access {g t a width : Nat} {kind : Access} {f : AmbFlit} {landing : Landing}
    {own : State → Nat → State} (hs : s0.Keeps s) (hown : ∀ s x0, s0.Keeps s → s0.Keeps (own s x0)) :
    s0.Keeps (access s g t a width kind f landing own) := by
  unfold access
  try dsimp only
  repeat' first
    | with_reducible assumption
    | with_reducible intro _
    | with_reducible apply keeps_raise
    | with_reducible apply keeps_next
    | with_reducible apply keeps_issueAccess
    | with_reducible apply hown
    | with_reducible apply keeps_ite
    | with_reducible apply keeps_id
    | with_reducible apply Cell.ok_ite
    | split

theorem keeps_released {g t : Nat} {k : State → State} (hs : s0.Keeps s) (hk : ∀ s, s0.Keeps s → s0.Keeps (k s)) :
    s0.Keeps (released s g t k) := by
  unfold released
  try dsimp only
  repeat' first
    | with_reducible assumption
    | with_reducible intro _
    | with_reducible apply keeps_wait
    | with_reducible apply hk
    | with_reducible apply keeps_ite

theorem keeps_acquire {g t : Nat} (hs : s0.Keeps s) :
    s0.Keeps (acquire s g t) := by
  unfold acquire
  try dsimp only
  repeat' first
    | with_reducible assumption
    | with_reducible intro _
    | with_reducible apply keeps_wait
    | with_reducible apply keeps_ite

theorem keeps_ownAtomic {g t off width aop rd : Nat} {operand expected : Word} (hs : s0.Keeps s) :
    s0.Keeps (ownAtomic s g t off width aop rd operand expected) := by
  unfold ownAtomic
  try dsimp only
  repeat' first
    | with_reducible assumption
    | with_reducible intro _
    | with_reducible apply keeps_modCell
    | with_reducible apply keeps_modCtx
    | with_reducible apply Cell.ok_modCtx
    | with_reducible apply Cell.ok_localStore

theorem keeps_atomicBody {g t rd ra rb width aop : Nat} (hs : s0.Keeps s) :
    s0.Keeps (atomicBody s g t rd ra rb width aop) := by
  unfold atomicBody
  try dsimp only
  repeat' first
    | with_reducible assumption
    | with_reducible intro _
    | with_reducible apply keeps_access
    | with_reducible apply keeps_ownAtomic

theorem keeps_fenceAll {g t : Nat} (hs : s0.Keeps s) :
    s0.Keeps (fenceAll s g t) := by
  unfold fenceAll
  try dsimp only
  repeat' first
    | with_reducible assumption
    | with_reducible intro _
    | with_reducible apply keeps_next
    | with_reducible apply keeps_wait
    | with_reducible apply keeps_ite

theorem keeps_exitThread {g t : Nat} (hs : s0.Keeps s) :
    s0.Keeps (exitThread s g t) := by
  unfold exitThread
  try dsimp only
  repeat' first
    | with_reducible assumption
    | with_reducible intro _
    | with_reducible apply keeps_wait
    | with_reducible apply keeps_settleExit

theorem keeps_arriveBarrier {g t rd : Nat} {mask : BitVec 16} (hs : s0.Keeps s) :
    s0.Keeps (arriveBarrier s g t rd mask) := by
  unfold arriveBarrier
  try dsimp only
  repeat' first
    | with_reducible assumption
    | with_reducible intro _
    | with_reducible apply keeps_modCell
    | with_reducible apply keeps_wait
    | with_reducible apply Cell.ok_endBarrier
    | with_reducible apply keeps_ite
    | with_reducible apply keeps_id
    | with_reducible apply Cell.ok_ite
    | (with_reducible refine Cell.ok_mk ?_; with_reducible assumption)

theorem keeps_screenOuts {g : Nat} {st : Steer} (hs : s0.Keeps s) :
    s0.Keeps (screenOuts s g st).1 := by
  unfold screenOuts
  try dsimp only
  repeat' first
    | with_reducible assumption
    | with_reducible intro _
    | with_reducible apply keeps_logC
    | with_reducible apply keeps_ite
    | with_reducible apply keeps_id
    | with_reducible apply Cell.ok_ite
    | split

theorem Cell.ok_modAisle {c : Cell} {f : AisleNode → AisleNode} (hc : c.ok) : (Cell.modAisle c f).ok := by
  unfold Cell.modAisle
  try dsimp only
  repeat' first
    | with_reducible assumption
    | with_reducible intro _
    | with_reducible apply Cell.ok_ite
    | (with_reducible refine Cell.ok_mk ?_; with_reducible assumption)

theorem Cell.ok_modUni {c : Cell} {f : UniState → UniState} (hc : c.ok) : (Cell.modUni c f).ok := by
  unfold Cell.modUni
  try dsimp only
  repeat' first
    | with_reducible assumption
    | with_reducible intro _
    | with_reducible apply Cell.ok_ite
    | (with_reducible refine Cell.ok_mk ?_; with_reducible assumption)

theorem Cell.ok_aisleRetry {c : Cell} (hc : c.ok) : (Cell.aisleRetry c).ok := by
  unfold Cell.aisleRetry
  try dsimp only
  repeat' first
    | with_reducible assumption
    | with_reducible intro _
    | with_reducible apply Cell.ok_retryWhere

theorem Cell.ok_aisleHold {c : Cell} (hc : c.ok) : (Cell.aisleHold c).ok := by
  unfold Cell.aisleHold
  try dsimp only
  repeat' first
    | with_reducible assumption
    | with_reducible intro _
    | with_reducible apply Cell.ok_modAisle
    | with_reducible apply Cell.ok_aisleRetry
    | with_reducible apply Cell.ok_ite

theorem keeps_aislePush {g : Nat} {first : Option Dir} {p : AislePkt} (hs : s0.Keeps s) :
    s0.Keeps (aislePush s g first p) := by
  unfold aislePush
  try dsimp only
  repeat' first
    | with_reducible assumption
    | with_reducible intro _
    | with_reducible apply keeps_modCell
    | with_reducible apply keeps_modChapel
    | with_reducible apply keeps_screenOuts
    | with_reducible apply Cell.ok_modAisle
    | with_reducible apply Cell.ok_aisleHold
    | with_reducible apply keeps_ite
    | with_reducible apply keeps_id
    | with_reducible apply Cell.ok_ite
    | split

theorem keeps_sendUniA {g : Nat} {p : AislePkt} (hs : s0.Keeps s) :
    s0.Keeps (sendUniA s g p) := by
  unfold sendUniA
  try dsimp only
  repeat' first
    | with_reducible assumption
    | with_reducible intro _
    | with_reducible apply keeps_modCell
    | with_reducible apply keeps_aislePush
    | with_reducible apply Cell.ok_modUni

theorem keeps_padFree {n : Nat} {bs : List Byte} (hs : s0.Keeps s) :
    s0.Keeps (padFree s n bs).2 := by
  unfold padFree
  try dsimp only
  repeat' first
    | with_reducible assumption
    | with_reducible intro _
    | with_reducible apply keeps_freeBytes

theorem Cell.ok_modTally {c : Cell} {f : Tally → Tally} (hc : c.ok) : (Cell.modTally c f).ok := by
  unfold Cell.modTally
  try dsimp only
  repeat' first
    | with_reducible assumption
    | with_reducible intro _
    | with_reducible apply Cell.ok_ite
    | (with_reducible refine Cell.ok_mk ?_; with_reducible assumption)

theorem keeps_owned {g t : Nat} {k : State → State} (hs : s0.Keeps s) (hk : ∀ s, s0.Keeps s → s0.Keeps (k s)) :
    s0.Keeps (owned s g t k) := by
  unfold owned
  try dsimp only
  repeat' first
    | with_reducible assumption
    | with_reducible intro _
    | with_reducible apply keeps_raise
    | with_reducible apply hk
    | with_reducible apply keeps_ite

theorem keeps_tallyPush {g t : Nat} {op : TallyOp} {k : State → State} (hs : s0.Keeps s)
    (hk : ∀ s, s0.Keeps s → s0.Keeps (k s)) :
    s0.Keeps (tallyPush s g t op k) := by
  unfold tallyPush
  try dsimp only
  repeat' first
    | with_reducible assumption
    | with_reducible intro _
    | with_reducible apply keeps_modCell
    | with_reducible apply keeps_next
    | with_reducible apply keeps_wait
    | with_reducible apply keeps_owned
    | with_reducible apply Cell.ok_modTally
    | with_reducible apply hk
    | with_reducible apply keeps_ite

theorem keeps_performTally {g : Nat} {op : TallyOp} (hs : s0.Keeps s) :
    s0.Keeps (performTally s g op) := by
  unfold performTally
  try dsimp only
  repeat' first
    | with_reducible assumption
    | with_reducible intro _
    | with_reducible apply keeps_modCell
    | with_reducible apply keeps_modCtx
    | with_reducible apply Cell.ok_modCtx
    | with_reducible apply Cell.ok_modTally
    | with_reducible apply keeps_ite
    | with_reducible apply keeps_id
    | with_reducible apply Cell.ok_ite
    | split

theorem keeps_afterTally {g : Nat} (hs : s0.Keeps s) :
    s0.Keeps (afterTally s g) := by
  unfold afterTally
  try dsimp only
  repeat' first
    | with_reducible assumption
    | with_reducible intro _
    | with_reducible apply keeps_modCell
    | with_reducible apply keeps_settleExit
    | with_reducible apply keeps_released
    | with_reducible apply Cell.ok_retryWhere
    | with_reducible apply Cell.ok_modTally
    | with_reducible apply keeps_ite
    | with_reducible apply keeps_id
    | with_reducible apply Cell.ok_ite
    | split

theorem Cell.ok_modCh {c : Cell} {f : ChNode → ChNode} (hc : c.ok) : (Cell.modCh c f).ok := by
  unfold Cell.modCh
  try dsimp only
  repeat' first
    | with_reducible assumption
    | with_reducible intro _
    | with_reducible apply Cell.ok_ite
    | (with_reducible refine Cell.ok_mk ?_; with_reducible assumption)

theorem keeps_pushSystem {g : Nat} {f : ChFlit} (hs : s0.Keeps s) :
    s0.Keeps (pushSystem s g f) := by
  unfold pushSystem
  try dsimp only
  repeat' first
    | with_reducible assumption
    | with_reducible intro _
    | with_reducible apply keeps_modCell
    | with_reducible apply Cell.ok_modCh

theorem keeps_messageLinkDown {g t : Nat} {r : SendReq} (hs : s0.Keeps s) :
    s0.Keeps (messageLinkDown s g t r) := by
  unfold messageLinkDown
  try dsimp only
  repeat' first
    | with_reducible assumption
    | with_reducible intro _
    | with_reducible apply keeps_logC

theorem keeps_carry {g t : Nat} {r : SendReq} {k : State → State} (hs : s0.Keeps s)
    (hk : ∀ s, s0.Keeps s → s0.Keeps (k s)) :
    s0.Keeps (carry s g t r k) := by
  unfold carry
  try dsimp only
  repeat' first
    | with_reducible assumption
    | with_reducible intro _
    | with_reducible apply keeps_modCell
    | with_reducible apply keeps_next
    | with_reducible apply keeps_wait
    | with_reducible apply keeps_sendUniA
    | with_reducible apply keeps_padFree
    | with_reducible apply keeps_messageLinkDown
    | with_reducible apply Cell.ok_modCh
    | with_reducible apply hk
    | with_reducible apply keeps_ite

theorem keeps_sendChecks {g t : Nat} {rl rb : Word} {k : State → State} (hs : s0.Keeps s)
    (hk : ∀ s, s0.Keeps s → s0.Keeps (k s)) :
    s0.Keeps (sendChecks s g t rl rb k) := by
  unfold sendChecks
  try dsimp only
  repeat' first
    | with_reducible assumption
    | with_reducible intro _
    | with_reducible apply keeps_raise
    | with_reducible apply hk
    | with_reducible apply keeps_ite

theorem keeps_sendWord {g t rl ra rb : Nat} (hs : s0.Keeps s) :
    s0.Keeps (sendWord s g t rl ra rb) := by
  unfold sendWord
  try dsimp only
  repeat' first
    | with_reducible assumption
    | with_reducible intro _
    | with_reducible apply keeps_raise
    | with_reducible apply keeps_carry
    | with_reducible apply keeps_sendChecks
    | with_reducible apply keeps_ite
    | with_reducible apply keeps_id

theorem Cell.ok_modTx {c : Cell} {h : Nat} {f : ChanTx → ChanTx} (hc : c.ok) : (Cell.modTx c h f).ok := by
  unfold Cell.modTx
  try dsimp only
  repeat' first
    | with_reducible assumption
    | with_reducible intro _
    | with_reducible apply Cell.ok_ite
    | (with_reducible refine Cell.ok_mk ?_; with_reducible assumption)

theorem Cell.ok_modRx {c : Cell} {n : Nat} {f : ChanRx → ChanRx} (hc : c.ok) : (Cell.modRx c n f).ok := by
  unfold Cell.modRx
  try dsimp only
  repeat' first
    | with_reducible assumption
    | with_reducible intro _
    | with_reducible apply Cell.ok_ite
    | (with_reducible refine Cell.ok_mk ?_; with_reducible assumption)

theorem Cell.ok_closeWaiters {c : Cell} {h : Nat} (hc : c.ok) : (Cell.closeWaiters c h).ok := by
  unfold Cell.closeWaiters
  try dsimp only
  repeat' first
    | with_reducible assumption
    | with_reducible intro _
    | with_reducible apply Cell.ok_ite
    | (with_reducible refine Cell.ok_mk ?_; with_reducible assumption)

theorem Cell.ok_closeTx {c : Cell} {h : Nat} (hc : c.ok) : (Cell.closeTx c h).ok := by
  unfold Cell.closeTx
  try dsimp only
  repeat' first
    | with_reducible assumption
    | with_reducible intro _
    | with_reducible apply Cell.ok_retryWhere
    | with_reducible apply Cell.ok_modTx
    | with_reducible apply Cell.ok_closeWaiters

theorem keeps_sendChan {g t rl ra rb : Nat} (hs : s0.Keeps s) :
    s0.Keeps (sendChan s g t rl ra rb) := by
  unfold sendChan
  try dsimp only
  repeat' first
    | with_reducible assumption
    | with_reducible intro _
    | with_reducible apply keeps_modCell
    | with_reducible apply keeps_raise
    | with_reducible apply keeps_next
    | with_reducible apply keeps_wait
    | with_reducible apply keeps_messageLinkDown
    | with_reducible apply keeps_carry
    | with_reducible apply keeps_sendChecks
    | with_reducible apply Cell.ok_modTx
    | with_reducible apply Cell.ok_closeTx
    | with_reducible apply keeps_ite

theorem keeps_finishClose {g h : Nat} (hs : s0.Keeps s) :
    s0.Keeps (finishClose s g h) := by
  unfold finishClose
  try dsimp only
  repeat' first
    | with_reducible assumption
    | with_reducible intro _
    | with_reducible apply keeps_modCell
    | with_reducible apply Cell.ok_modRx
    | with_reducible apply Cell.ok_closeTx
    | with_reducible apply keeps_ite

theorem Cell.ok_modTurn {c : Cell} {t : Nat} {f : Turn → Turn} (hc : c.ok) : (Cell.modTurn c t f).ok := by
  unfold Cell.modTurn
  try dsimp only
  repeat' first
    | with_reducible assumption
    | with_reducible intro _
    | with_reducible apply Cell.ok_ite
    | (with_reducible refine Cell.ok_mk ?_; with_reducible assumption)

theorem Cell.ok_showTurn {c : Cell} {t : Nat} (hc : c.ok) : (Cell.showTurn c t).ok := by
  unfold Cell.showTurn
  try dsimp only
  repeat' first
    | with_reducible assumption
    | with_reducible intro _
    | with_reducible apply Cell.ok_ite
    | split
    | with_reducible refine Cell.ok_mk ?_
    | with_reducible refine Cell.ok_write ?_

theorem keeps_writeRecord {g off : Nat} {header : List Byte} {payload : List Byte} {size : Nat} (hs : s0.Keeps s) :
    s0.Keeps (writeRecord s g off header payload size) := by
  unfold writeRecord
  try dsimp only
  repeat' first
    | with_reducible assumption
    | with_reducible intro _
    | with_reducible apply keeps_modCell
    | with_reducible apply keeps_padFree
    | with_reducible apply keeps_ite
    | with_reducible apply keeps_id
    | with_reducible apply Cell.ok_ite
    | split
    | with_reducible refine Cell.ok_mk ?_
    | with_reducible refine Cell.ok_write ?_

theorem keeps_placeIn {g : Nat} {m : Message} {spill : Bool} {off skipped : Nat} (hs : s0.Keeps s) :
    s0.Keeps (placeIn s g m spill off skipped) := by
  unfold placeIn
  try dsimp only
  repeat' first
    | with_reducible assumption
    | with_reducible intro _
    | with_reducible apply keeps_modCell
    | with_reducible apply keeps_writeRecord
    | with_reducible apply Cell.ok_modTurn
    | with_reducible apply Cell.ok_showTurn

theorem keeps_placeRecord {g : Nat} {m : Message} (hs : s0.Keeps s) :
    s0.Keeps (placeRecord s g m) := by
  unfold placeRecord
  try dsimp only
  repeat' first
    | with_reducible assumption
    | with_reducible intro _
    | with_reducible apply keeps_modCell
    | with_reducible apply keeps_logC
    | with_reducible apply keeps_faultK
    | with_reducible apply keeps_placeIn
    | with_reducible apply Cell.ok_modTurn
    | with_reducible apply Cell.ok_showTurn
    | with_reducible apply keeps_ite
    | with_reducible apply keeps_id
    | with_reducible apply Cell.ok_ite
    | split

theorem Cell.ok_releaseEarly {c : Cell} {n ch : Nat} (hc : c.ok) : (releaseEarly n c ch).ok := by
  induction n generalizing c with
  | zero => exact hc
  | succ n ih =>
    unfold releaseEarly
    dsimp only
    split
    · exact hc
    · exact ih (Cell.ok_modRx (Cell.ok_modTurn hc))

theorem keeps_placeChannel {g : Nat} {m : Message} {n seq : Nat} (hs : s0.Keeps s) :
    s0.Keeps (placeChannel s g m n seq) :=
  keeps_ite hs (keeps_modCell (keeps_writeRecord hs) fun _ hc =>
    Cell.ok_showTurn (Cell.ok_releaseEarly (Cell.ok_modRx hc)))

theorem keeps_placeMessage {g : Nat} {m : Message} (hs : s0.Keeps s) :
    s0.Keeps (placeMessage s g m) := by
  unfold placeMessage
  try dsimp only
  repeat' first
    | with_reducible assumption
    | with_reducible intro _
    | with_reducible apply keeps_placeRecord
    | with_reducible apply keeps_placeChannel
    | with_reducible apply keeps_ite
    | with_reducible apply keeps_id
    | with_reducible apply Cell.ok_ite
    | split

theorem keeps_sendCredit {g n : Nat} (hs : s0.Keeps s) :
    s0.Keeps (sendCredit s g n) := by
  unfold sendCredit
  try dsimp only
  repeat' first
    | with_reducible assumption
    | with_reducible intro _
    | with_reducible apply keeps_modCell
    | with_reducible apply keeps_pushSystem
    | with_reducible apply Cell.ok_modRx

theorem keeps_retireRecord {g t : Nat} {r : Record} (hs : s0.Keeps s) :
    s0.Keeps (retireRecord s g t r) := by
  unfold retireRecord
  try dsimp only
  repeat' first
    | with_reducible assumption
    | with_reducible intro _
    | with_reducible apply keeps_modCell
    | with_reducible apply keeps_sendCredit
    | with_reducible apply Cell.ok_modRx
    | with_reducible apply Cell.ok_modTurn
    | with_reducible apply Cell.ok_showTurn
    | with_reducible apply keeps_ite
    | with_reducible apply keeps_id
    | with_reducible apply Cell.ok_ite
    | split

theorem keeps_dispatchTo {g t u : Nat} {started : Bool} {r : Record} {pc : Nat} (hs : s0.Keeps s) :
    s0.Keeps (dispatchTo s g t u started r pc) := by
  unfold dispatchTo
  try dsimp only
  repeat' first
    | with_reducible assumption
    | with_reducible intro _
    | with_reducible apply keeps_modCell
    | with_reducible apply keeps_modCtx
    | with_reducible apply keeps_raise
    | with_reducible apply keeps_goTo
    | with_reducible apply keeps_startThread
    | with_reducible apply Cell.ok_modCtx
    | with_reducible apply Cell.ok_modTurn
    | with_reducible apply keeps_ite
    | with_reducible apply keeps_id
    | with_reducible apply Cell.ok_ite
    | (with_reducible refine Cell.ok_mk ?_; with_reducible assumption)

theorem keeps_dispatchTurn {g t : Nat} (hs : s0.Keeps s) :
    s0.Keeps (dispatchTurn s g t) := by
  unfold dispatchTurn
  try dsimp only
  repeat' first
    | with_reducible assumption
    | with_reducible intro _
    | with_reducible apply keeps_logC
    | with_reducible apply keeps_retireRecord
    | with_reducible apply keeps_dispatchTo
    | with_reducible apply keeps_ite
    | with_reducible apply keeps_id
    | with_reducible apply Cell.ok_ite
    | split

theorem ran_consumeSystem {g kind : Nat} {k : State → ChFlit → State} (hs : s0.Keeps s)
    (hk : ∀ s x0, s0.Keeps s → s0.Keeps (k s x0)) :
    s0.Ran (consumeSystem g kind s k) := by
  unfold consumeSystem
  try dsimp only
  repeat' first
    | with_reducible assumption
    | with_reducible intro _
    | with_reducible apply keeps_modCell
    | with_reducible apply keeps_next
    | with_reducible apply hk
    | with_reducible apply keeps_ite
    | with_reducible apply ran_possible
    | with_reducible apply ran_next
    | with_reducible apply ran_ite
    | with_reducible apply keeps_id
    | with_reducible apply Cell.ok_ite
    | (with_reducible refine Cell.ok_mk ?_; with_reducible assumption)
    | split

theorem Cell.ok_openAnswer {c : Cell} {h : Nat} {v : Word} (hc : c.ok) : (Cell.openAnswer c h v).ok := by
  unfold Cell.openAnswer
  try dsimp only
  repeat' first
    | with_reducible assumption
    | with_reducible intro _
    | with_reducible apply Cell.ok_ite
    | (with_reducible refine Cell.ok_mk ?_; with_reducible assumption)

theorem Cell.ok_loadHandlers {c : Cell} {img : List Byte} (hc : c.ok) : (Cell.loadHandlers c img).ok := by
  unfold Cell.loadHandlers
  try dsimp only
  repeat' first
    | with_reducible assumption
    | with_reducible intro _
    | with_reducible apply Cell.ok_modTurn
    | with_reducible apply Cell.ok_showTurn
    | with_reducible apply Cell.ok_foldl
    | with_reducible apply Cell.ok_ite
    | split
    | with_reducible refine Cell.ok_mk ?_
    | with_reducible refine Cell.ok_write ?_

theorem keeps_endCopyCmd {n status detail moved : Nat} (hs : s0.Keeps s) :
    s0.Keeps (endCopyCmd s n status detail moved) := by
  unfold endCopyCmd
  try dsimp only
  repeat' first
    | with_reducible assumption
    | with_reducible intro _
    | with_reducible apply keeps_completeCmd
    | with_reducible apply keeps_doneCmd
    | with_reducible apply keeps_ite
    | with_reducible apply keeps_id
    | with_reducible apply Cell.ok_ite
    | split

theorem Cell.ok_slypeRetry {c : Cell} {e : Nat} (hc : c.ok) : (Cell.slypeRetry c e).ok := by
  unfold Cell.slypeRetry
  try dsimp only
  repeat' first
    | with_reducible assumption
    | with_reducible intro _
    | with_reducible apply Cell.ok_retryWhere

theorem keeps_settleEngine {g e : Nat} (hs : s0.Keeps s) :
    s0.Keeps (settleEngine s g e) := by
  unfold settleEngine
  try dsimp only
  repeat' first
    | with_reducible assumption
    | with_reducible intro _
    | with_reducible apply keeps_modCell
    | with_reducible apply keeps_modEng
    | with_reducible apply keeps_settleChapel
    | with_reducible apply keeps_endCopyCmd
    | with_reducible apply Cell.ok_modEng
    | with_reducible apply Cell.ok_slypeRetry
    | with_reducible apply keeps_ite
    | with_reducible apply keeps_getD
    | with_reducible apply keeps_id
    | with_reducible apply Cell.ok_ite
    | split

theorem keeps_unitDone {g e k : Nat} (hs : s0.Keeps s) :
    s0.Keeps (unitDone s g e k) := by
  unfold unitDone
  try dsimp only
  repeat' first
    | with_reducible assumption
    | with_reducible intro _
    | with_reducible apply keeps_modEng
    | with_reducible apply keeps_settleEngine

theorem keeps_unitFail {g e k status addr : Nat} (hs : s0.Keeps s) :
    s0.Keeps (unitFail s g e k status addr) := by
  unfold unitFail
  try dsimp only
  repeat' first
    | with_reducible assumption
    | with_reducible intro _
    | with_reducible apply keeps_modEng
    | with_reducible apply keeps_settleEngine

theorem keeps_refuseUnit {g e status addr : Nat} (hs : s0.Keeps s) :
    s0.Keeps (refuseUnit s g e status addr) := by
  unfold refuseUnit
  try dsimp only
  repeat' first
    | with_reducible assumption
    | with_reducible intro _
    | with_reducible apply keeps_modEng
    | with_reducible apply keeps_settleEngine

theorem keeps_uniUnitsDone {g e key : Nat} (hs : s0.Keeps s) :
    s0.Keeps (uniUnitsDone s g e key) := by
  unfold uniUnitsDone
  try dsimp only
  repeat' first
    | with_reducible assumption
    | with_reducible intro _
    | with_reducible apply keeps_modEng
    | with_reducible apply keeps_settleEngine

theorem keeps_uniUnitsFail {g e key status : Nat} (hs : s0.Keeps s) :
    s0.Keeps (uniUnitsFail s g e key status) := by
  unfold uniUnitsFail
  try dsimp only
  repeat' first
    | with_reducible assumption
    | with_reducible intro _
    | with_reducible apply keeps_modEng
    | with_reducible apply keeps_settleEngine

theorem keeps_engSend {g e k i a : Nat} {place : Place} {f : AmbFlit} (hs : s0.Keeps s) :
    s0.Keeps (engSend s g e k i a place f) := by
  unfold engSend
  try dsimp only
  repeat' first
    | with_reducible assumption
    | with_reducible intro _
    | with_reducible apply keeps_modEng
    | with_reducible apply keeps_inject
    | with_reducible apply keeps_unitFail
    | with_reducible apply Cell.ok_modEng
    | with_reducible apply Cell.ok_modTracker
    | with_reducible apply keeps_ite
    | with_reducible apply keeps_id
    | with_reducible apply Cell.ok_ite
    | split

theorem keeps_sendCast {g e grp off k n : Nat} {data : List Byte} (hs : s0.Keeps s) :
    s0.Keeps (sendCast s g e grp off k n data) := by
  unfold sendCast
  try dsimp only
  repeat' first
    | with_reducible assumption
    | with_reducible intro _
    | with_reducible apply keeps_modEng
    | with_reducible apply keeps_aislePush
    | with_reducible apply Cell.ok_modEng
    | with_reducible apply keeps_ite

theorem keeps_sendPacket {g e k n : Nat} {d : UnitDst} {data : List Byte} (hs : s0.Keeps s) :
    s0.KeepsAll (sendPacket s g e k n d data) := by
  unfold sendPacket
  try dsimp only
  repeat' first
    | with_reducible assumption
    | with_reducible intro _
    | with_reducible apply keeps_modCell
    | with_reducible apply keeps_modEng
    | with_reducible apply keeps_aislePush
    | with_reducible apply keeps_sendUniA
    | with_reducible apply keeps_settleEngine
    | with_reducible apply keeps_refuseUnit
    | with_reducible apply keeps_sendCast
    | with_reducible apply Cell.ok_modEng
    | with_reducible apply Cell.ok_modUni
    | with_reducible apply keeps_ite
    | with_reducible apply keepsAll_none
    | with_reducible apply keepsAll_some
    | with_reducible apply keepsAll_ite
    | with_reducible apply keepsAll_map
    | with_reducible apply keepsAll_bind
    | with_reducible apply keepsAll_orElse
    | with_reducible apply keeps_id
    | with_reducible apply Cell.ok_ite
    | split

theorem keeps_trySend {g e k n : Nat} {d : UnitDst} (hs : s0.Keeps s) :
    s0.KeepsAll (trySend s g e k n d) := by
  unfold trySend
  try dsimp only
  repeat' first
    | with_reducible assumption
    | with_reducible intro _
    | with_reducible apply keeps_sendPacket
    | with_reducible apply keeps_ite
    | with_reducible apply keepsAll_none
    | with_reducible apply keepsAll_some
    | with_reducible apply keepsAll_ite

theorem keeps_writeUnit {g e k i a : Nat} {p : Place} {data : List Byte} (hs : s0.Keeps s) :
    s0.Keeps (writeUnit s g e k i a p data) := by
  unfold writeUnit
  try dsimp only
  repeat' first
    | with_reducible assumption
    | with_reducible intro _
    | with_reducible apply keeps_modCell
    | with_reducible apply keeps_unitDone
    | with_reducible apply keeps_engSend
    | with_reducible apply keeps_ite
    | with_reducible apply keeps_id
    | with_reducible apply Cell.ok_ite
    | split
    | with_reducible refine Cell.ok_mk ?_
    | with_reducible refine Cell.ok_write ?_

theorem keeps_issueAmb {g e i : Nat} {x : Slype} {src dst : Place} (hs : s0.Keeps s) :
    s0.KeepsAll (issueAmb s g e i x src dst) := by
  unfold issueAmb
  try dsimp only
  repeat' first
    | with_reducible assumption
    | with_reducible intro _
    | with_reducible apply keeps_modEng
    | with_reducible apply keeps_engSend
    | with_reducible apply keeps_writeUnit
    | with_reducible apply Cell.ok_modEng
    | with_reducible apply keeps_ite
    | with_reducible apply keepsAll_none
    | with_reducible apply keepsAll_some
    | with_reducible apply keepsAll_ite
    | with_reducible apply keepsAll_map
    | with_reducible apply keepsAll_bind
    | with_reducible apply keepsAll_orElse
    | with_reducible apply keeps_id
    | with_reducible apply Cell.ok_ite
    | split

theorem keeps_gather {g e i stop : Nat} {x : Slype} {src : Place} (hs : s0.Keeps s) :
    s0.KeepsAll (gather s g e i stop x src) := by
  unfold gather
  try dsimp only
  repeat' first
    | with_reducible assumption
    | with_reducible intro _
    | with_reducible apply keeps_modEng
    | with_reducible apply keeps_engSend
    | with_reducible apply Cell.ok_modEng
    | with_reducible apply keeps_ite
    | with_reducible apply keepsAll_none
    | with_reducible apply keepsAll_some
    | with_reducible apply keepsAll_ite
    | with_reducible apply keepsAll_map
    | with_reducible apply keepsAll_bind
    | with_reducible apply keepsAll_orElse
    | with_reducible apply keeps_id
    | with_reducible apply Cell.ok_ite
    | split

theorem keeps_issueUnit {g e first i : Nat} (hs : s0.Keeps s) : s0.KeepsAll (issueUnit s g e first i) := by
  unfold issueUnit
  dsimp only
  split
  · exact keepsAll_some (keeps_refuseUnit hs)
  · exact keeps_issueAmb hs
  · exact keepsAll_mapKept (keeps_gather hs) fun t ht => keeps_getD (keeps_trySend ht) ht

theorem keeps_engineStep {g e : Nat} (hs : s0.Keeps s) : s0.KeepsAll (engineStep s g e) := by
  unfold engineStep
  dsimp only
  split
  · exact keepsAll_ite (keeps_issueUnit hs) keepsAll_none
  · exact keepsAll_ite (keeps_trySend hs) (keepsAll_ite (keeps_issueUnit hs) keepsAll_none)
  · exact keepsAll_ite (keepsAll_some (keeps_refuseUnit hs)) keepsAll_none

theorem keeps_engineResponse {g e k status : Nat} {data : List Byte} {advance : Bool} (hs : s0.Keeps s) :
    s0.Keeps (engineResponse s g e k status data advance) := by
  unfold engineResponse
  try dsimp only
  repeat' first
    | with_reducible assumption
    | with_reducible intro _
    | with_reducible apply keeps_modEng
    | with_reducible apply keeps_settleEngine
    | with_reducible apply keeps_unitDone
    | with_reducible apply keeps_unitFail
    | with_reducible apply keeps_writeUnit
    | with_reducible apply Cell.ok_modEng
    | with_reducible apply Cell.ok_modTracker
    | with_reducible apply keeps_ite
    | with_reducible apply keeps_id
    | with_reducible apply Cell.ok_ite
    | split

theorem keeps_modMover {f : Slype → Slype} (hs : s0.Keeps s) :
    s0.Keeps (State.modMover s f) := by
  unfold State.modMover
  try dsimp only
  repeat' first
    | with_reducible assumption
    | with_reducible intro _
    | with_reducible apply keeps_ite
    | with_reducible apply keeps_id
    | with_reducible apply Cell.ok_ite
    | split
    | with_reducible refine Cell.ok_mk ?_
    | with_reducible refine Cell.ok_write ?_
    | with_reducible refine keeps_mk ?_ rfl rfl rfl ⟨rfl, rfl, rfl⟩ ⟨rfl, rfl, rfl, rfl, rfl⟩ rfl rfl rfl rfl rfl rfl rfl

theorem keeps_settleMover (hs : s0.Keeps s) :
    s0.Keeps (settleMover s) := by
  unfold settleMover
  try dsimp only
  repeat' first
    | with_reducible assumption
    | with_reducible intro _
    | with_reducible apply keeps_endCopyCmd
    | with_reducible apply keeps_modMover
    | with_reducible apply keeps_ite
    | with_reducible apply keeps_getD
    | with_reducible apply keeps_id
    | with_reducible apply Cell.ok_ite
    | split

theorem keeps_moverDone {i : Nat} (hs : s0.Keeps s) :
    s0.Keeps (moverDone s i) := by
  unfold moverDone
  try dsimp only
  repeat' first
    | with_reducible assumption
    | with_reducible intro _
    | with_reducible apply keeps_modMover
    | with_reducible apply keeps_settleMover

theorem keeps_moverFail {i status detail : Nat} (hs : s0.Keeps s) :
    s0.Keeps (moverFail s i status detail) := by
  unfold moverFail
  try dsimp only
  repeat' first
    | with_reducible assumption
    | with_reducible intro _
    | with_reducible apply keeps_modMover
    | with_reducible apply keeps_settleMover

theorem keeps_moverSend {k i a : Nat} {f : AmbFlit} (hs : s0.Keeps s) :
    s0.Keeps (moverSend s k i a f) := by
  unfold moverSend
  try dsimp only
  repeat' first
    | with_reducible assumption
    | with_reducible intro _
    | with_reducible apply keeps_inject
    | with_reducible apply keeps_modMover

theorem keeps_moverStep (hs : s0.Keeps s) :
    s0.KeepsAll (moverStep s) := by
  unfold moverStep
  try dsimp only
  repeat' first
    | with_reducible assumption
    | with_reducible intro _
    | with_reducible apply keeps_modHp
    | with_reducible apply keeps_emit
    | with_reducible apply keeps_wakeLink
    | with_reducible apply keeps_modMover
    | with_reducible apply keeps_moverSend
    | with_reducible apply Cell.ok_modTracker
    | with_reducible apply keeps_ite
    | with_reducible apply keepsAll_none
    | with_reducible apply keepsAll_some
    | with_reducible apply keepsAll_ite
    | with_reducible apply keepsAll_map
    | with_reducible apply keepsAll_bind
    | with_reducible apply keepsAll_orElse
    | with_reducible apply keeps_id
    | with_reducible apply Cell.ok_ite
    | split

theorem keeps_moverResponse {k status : Nat} {data : List Byte} {advance : Bool} (hs : s0.Keeps s) :
    s0.Keeps (moverResponse s k status data advance) := by
  unfold moverResponse
  try dsimp only
  repeat' first
    | with_reducible assumption
    | with_reducible intro _
    | with_reducible apply keeps_emit
    | with_reducible apply keeps_wakeLink
    | with_reducible apply keeps_modMover
    | with_reducible apply keeps_moverDone
    | with_reducible apply keeps_moverFail
    | with_reducible apply Cell.ok_modTracker
    | with_reducible apply keeps_ite
    | with_reducible apply keeps_id
    | with_reducible apply Cell.ok_ite
    | split

theorem keeps_moverHostData {k i : Nat} {data : List Byte} (hs : s0.Keeps s) :
    s0.Keeps (moverHostData s k i data) := by
  unfold moverHostData
  try dsimp only
  repeat' first
    | with_reducible assumption
    | with_reducible intro _
    | with_reducible apply keeps_moverSend

theorem Cell.ok_serve {c : Cell} {p : PortSrc} {f : Slot → Slot} (hc : c.ok) : (Cell.serve c p f).ok := by
  unfold Cell.serve
  try dsimp only
  repeat' first
    | with_reducible assumption
    | with_reducible intro _
    | with_reducible apply Cell.ok_modAisle
    | with_reducible apply Cell.ok_aisleHold
    | with_reducible apply Cell.ok_ite

theorem keeps_aisleArrive {g : Nat} {d : Dir} {p : AislePkt} {damage : Damage} (hs : s0.Keeps s) :
    s0.Keeps (aisleArrive s g d p damage) := by
  unfold aisleArrive
  try dsimp only
  repeat' first
    | with_reducible assumption
    | with_reducible intro _
    | with_reducible apply keeps_modCell
    | with_reducible apply keeps_logC
    | with_reducible apply keeps_screenOuts
    | with_reducible apply Cell.ok_modAisle
    | with_reducible apply keeps_ite
    | with_reducible apply keeps_id
    | with_reducible apply Cell.ok_ite
    | split

theorem keeps_grant {g : Nat} {out : Dir} {p : PortSrc} (hs : s0.Keeps s) :
    s0.Keeps (grant s g out p) := by
  unfold grant
  try dsimp only
  repeat' first
    | with_reducible assumption
    | with_reducible intro _
    | with_reducible apply keeps_modCell
    | with_reducible apply Cell.ok_modAisle
    | with_reducible apply Cell.ok_serve
    | with_reducible apply keeps_ite
    | with_reducible apply keeps_id
    | with_reducible apply Cell.ok_ite
    | split

theorem keeps_modBayAisle {g : Nat} {f : BayAisle → BayAisle} (hs : s0.Keeps s) : s0.Keeps (s.modBayAisle g f) :=
  hs.trans ⟨rfl, fun i => { i with aisleBays := Tbl.wf_tput _ _ i.aisleBays }⟩

theorem keeps_checkFailed {g : Nat} {p : AislePkt} (hs : s0.Keeps s) :
    s0.Keeps (checkFailed s g p) := by
  unfold checkFailed
  try dsimp only
  repeat' first
    | with_reducible assumption
    | with_reducible intro _
    | with_reducible apply keeps_logC
    | with_reducible apply keeps_modBayAisle

theorem keeps_packetMessage {p : AislePkt} (hs : s0.Keeps s) :
    s0.Keeps (packetMessage s p).2 := by
  unfold packetMessage
  try dsimp only
  repeat' first
    | with_reducible assumption
    | with_reducible intro _
    | with_reducible apply keeps_freeNat
    | with_reducible apply keeps_ite
    | with_reducible apply keeps_id
    | with_reducible apply Cell.ok_ite
    | split

theorem keeps_deliver {g : Nat} {p : AislePkt} (hs : s0.Keeps s) :
    s0.Keeps (deliver s g p) := by
  unfold deliver
  try dsimp only
  repeat' first
    | with_reducible assumption
    | with_reducible intro _
    | with_reducible apply keeps_modCell
    | with_reducible apply keeps_packetMessage
    | with_reducible apply keeps_ite
    | with_reducible apply keeps_id
    | with_reducible apply Cell.ok_ite
    | (with_reducible refine Cell.ok_mk ?_; with_reducible assumption)
    | split
    | with_reducible refine Cell.ok_mk ?_
    | with_reducible refine Cell.ok_write ?_

theorem keeps_acknowledge {g : Nat} {p : AislePkt} (hs : s0.Keeps s) :
    s0.Keeps (acknowledge s g p) := by
  unfold acknowledge
  try dsimp only
  repeat' first
    | with_reducible assumption
    | with_reducible intro _
    | with_reducible apply keeps_pushSystem

theorem keeps_receiveUniA {g : Nat} {p : AislePkt} (hs : s0.Keeps s) :
    s0.Keeps (receiveUniA s g p) := by
  unfold receiveUniA
  try dsimp only
  repeat' first
    | with_reducible assumption
    | with_reducible intro _
    | with_reducible apply keeps_modCell
    | with_reducible apply keeps_logC
    | with_reducible apply keeps_modBayAisle
    | with_reducible apply keeps_deliver
    | with_reducible apply keeps_acknowledge
    | with_reducible apply Cell.ok_modUni
    | with_reducible apply keeps_ite

theorem keeps_receiveUniP {g : Nat} {p : AislePkt} (hs : s0.Keeps s) :
    s0.Keeps (receiveUniP s g p) := by
  unfold receiveUniP
  try dsimp only
  repeat' first
    | with_reducible assumption
    | with_reducible intro _
    | with_reducible apply keeps_modCell
    | with_reducible apply keeps_logC
    | with_reducible apply keeps_deliver
    | with_reducible apply Cell.ok_modUni
    | with_reducible apply keeps_ite

theorem keeps_closeCast {g : Nat} {t : CastTrk} {byTime : Bool} (hs : s0.Keeps s) :
    s0.Keeps (closeCast s g t byTime) := by
  unfold closeCast
  try dsimp only
  repeat' first
    | with_reducible assumption
    | with_reducible intro _
    | with_reducible apply keeps_modCell
    | with_reducible apply Cell.ok_modUni
    | with_reducible apply keeps_ite
    | with_reducible apply keeps_id
    | with_reducible apply Cell.ok_ite
    | (with_reducible refine Cell.ok_mk ?_; with_reducible assumption)

theorem keeps_countCast {g : Nat} {p : AislePkt} {good : Bool} (hs : s0.Keeps s) :
    s0.Keeps (countCast s g p good) := by
  unfold countCast
  try dsimp only
  repeat' first
    | with_reducible assumption
    | with_reducible intro _
    | with_reducible apply keeps_modCell
    | with_reducible apply keeps_closeCast
    | with_reducible apply Cell.ok_modUni
    | with_reducible apply keeps_ite
    | with_reducible apply keeps_id
    | with_reducible apply Cell.ok_ite
    | split

theorem keeps_sumPush {g : Nat} {p : AislePkt} (hs : s0.Keeps s) :
    s0.Keeps (sumPush s g p) := by
  unfold sumPush
  try dsimp only
  repeat' first
    | with_reducible assumption
    | with_reducible intro _
    | with_reducible apply keeps_modCell
    | with_reducible apply keeps_modChapel
    | with_reducible apply keeps_screenOuts
    | with_reducible apply Cell.ok_modAisle
    | with_reducible apply keeps_ite
    | with_reducible apply keeps_id
    | with_reducible apply Cell.ok_ite
    | split

theorem keeps_logSum {g grp round slice cause : Nat} (hs : s0.Keeps s) :
    s0.Keeps (logSum s g grp round slice cause) := by
  unfold logSum
  try dsimp only
  repeat' first
    | with_reducible assumption
    | with_reducible intro _
    | with_reducible apply keeps_logKeyed

theorem keeps_sendDown {g : Nat} {r : SumResult} (hs : s0.Keeps s) :
    s0.Keeps (sendDown s g r) := by
  unfold sendDown
  try dsimp only
  repeat' first
    | with_reducible assumption
    | with_reducible intro _
    | with_reducible apply keeps_sumPush
    | with_reducible apply keeps_logSum
    | with_reducible apply keeps_ite

theorem keeps_sendGates {g : Nat} {r : SumResult} (hs : s0.Keeps s) :
    s0.Keeps (sendGates s g r) := by
  unfold sendGates
  try dsimp only
  repeat' first
    | with_reducible assumption
    | with_reducible intro _
    | with_reducible apply keeps_sumPush
    | with_reducible apply keeps_foldl _
    | with_reducible apply Cell.ok_foldl
    | with_reducible apply keeps_ite

theorem keeps_holdResult {g : Nat} {r : SumResult} {down : Bool} (hs : s0.Keeps s) :
    s0.Keeps (holdResult s g r down) := by
  unfold holdResult
  try dsimp only
  repeat' first
    | with_reducible assumption
    | with_reducible intro _
    | with_reducible apply keeps_modCell
    | with_reducible apply keeps_sendDown
    | with_reducible apply keeps_sendGates
    | with_reducible apply keeps_ite
    | with_reducible apply keeps_id
    | with_reducible apply Cell.ok_ite
    | (with_reducible refine Cell.ok_mk ?_; with_reducible assumption)

theorem Cell.ok_modSum {c : Cell} {grp : Nat} {f : SumInst → SumInst} (hc : c.ok) : (Cell.modSum c grp f).ok := by
  unfold Cell.modSum
  try dsimp only
  repeat' first
    | with_reducible assumption
    | with_reducible intro _
    | with_reducible apply Cell.ok_ite
    | (with_reducible refine Cell.ok_mk ?_; with_reducible assumption)

theorem keeps_releaseDamaged {g : Nat} {p : AislePkt} (hs : s0.Keeps s) :
    s0.Keeps (releaseDamaged s g p) := by
  unfold releaseDamaged
  try dsimp only
  repeat' first
    | with_reducible assumption
    | with_reducible intro _
    | with_reducible apply keeps_modCell
    | with_reducible apply Cell.ok_modSum
    | with_reducible apply keeps_ite
    | with_reducible apply keeps_id
    | with_reducible apply Cell.ok_ite
    | split

theorem keeps_ejectPkt {g : Nat} {p : AislePkt} (hs : s0.Keeps s) :
    s0.Keeps (ejectPkt s g p) := by
  unfold ejectPkt
  try dsimp only
  repeat' first
    | with_reducible assumption
    | with_reducible intro _
    | with_reducible apply keeps_modCell
    | with_reducible apply keeps_checkFailed
    | with_reducible apply keeps_deliver
    | with_reducible apply keeps_receiveUniA
    | with_reducible apply keeps_receiveUniP
    | with_reducible apply keeps_countCast
    | with_reducible apply keeps_holdResult
    | with_reducible apply keeps_releaseDamaged
    | with_reducible apply Cell.ok_modAisle
    | with_reducible apply keeps_ite
    | with_reducible apply keeps_id
    | with_reducible apply Cell.ok_ite
    | (with_reducible refine Cell.ok_mk ?_; with_reducible assumption)
    | split

theorem keeps_dropCopy {g : Nat} {u : UniCopy} (hs : s0.Keeps s) :
    s0.Keeps (dropCopy s g u) := by
  unfold dropCopy
  try dsimp only
  repeat' first
    | with_reducible assumption
    | with_reducible intro _
    | with_reducible apply keeps_modCell
    | with_reducible apply Cell.ok_modUni
    | with_reducible apply Cell.ok_aisleHold

theorem keeps_ackCopy {g : Nat} {u : UniCopy} (hs : s0.Keeps s) :
    s0.Keeps (ackCopy s g u) := by
  unfold ackCopy
  try dsimp only
  repeat' first
    | with_reducible assumption
    | with_reducible intro _
    | with_reducible apply keeps_uniUnitsDone
    | with_reducible apply keeps_dropCopy
    | with_reducible apply keeps_ite

theorem keeps_copyLinkDown {g : Nat} {u : UniCopy} (hs : s0.Keeps s) :
    s0.Keeps (copyLinkDown s g u) := by
  unfold copyLinkDown
  try dsimp only
  repeat' first
    | with_reducible assumption
    | with_reducible intro _
    | with_reducible apply keeps_modCell
    | with_reducible apply keeps_logC
    | with_reducible apply keeps_uniUnitsFail
    | with_reducible apply keeps_dropCopy
    | with_reducible apply Cell.ok_closeTx
    | with_reducible apply keeps_ite
    | with_reducible apply keeps_id
    | with_reducible apply Cell.ok_ite
    | split

theorem keeps_slotLinkDown {c n : Nat} (hs : s0.Keeps s) :
    s0.Keeps (slotLinkDown s c n) := by
  unfold slotLinkDown
  try dsimp only
  repeat' first
    | with_reducible assumption
    | with_reducible intro _
    | with_reducible apply keeps_copyLinkDown
    | with_reducible apply keeps_foldl _

theorem Cell.ok_modSumNode {c : Cell} {f : SumNode → SumNode} (hc : c.ok) : (Cell.modSumNode c f).ok := by
  unfold Cell.modSumNode
  try dsimp only
  repeat' first
    | with_reducible assumption
    | with_reducible intro _
    | with_reducible apply Cell.ok_ite
    | (with_reducible refine Cell.ok_mk ?_; with_reducible assumption)

theorem keeps_writeResult {g off : Nat} {r : SumResult} (hs : s0.Keeps s) :
    s0.Keeps (writeResult s g off r) := by
  unfold writeResult
  try dsimp only
  repeat' first
    | with_reducible assumption
    | with_reducible intro _
    | with_reducible apply keeps_modCell
    | with_reducible apply keeps_ite
    | with_reducible apply keeps_id
    | with_reducible apply Cell.ok_ite
    | split
    | with_reducible refine Cell.ok_mk ?_
    | with_reducible refine Cell.ok_write ?_

theorem keeps_endSumWait {g : Nat} {p : SumWait} {v : Word} (hs : s0.Keeps s) :
    s0.Keeps (endSumWait s g p v) := by
  unfold endSumWait
  try dsimp only
  repeat' first
    | with_reducible assumption
    | with_reducible intro _
    | with_reducible apply keeps_modCell
    | with_reducible apply keeps_modCtx
    | with_reducible apply Cell.ok_modCtx
    | with_reducible apply Cell.ok_modSumNode

theorem keeps_takeResult {g : Nat} {r : SumResult} (hs : s0.Keeps s) :
    s0.Keeps (takeResult s g r) := by
  unfold takeResult
  try dsimp only
  repeat' first
    | with_reducible assumption
    | with_reducible intro _
    | with_reducible apply keeps_modCell
    | with_reducible apply keeps_logC
    | with_reducible apply keeps_writeResult
    | with_reducible apply keeps_endSumWait
    | with_reducible apply Cell.ok_modSumNode
    | with_reducible apply keeps_foldl _
    | with_reducible apply Cell.ok_foldl
    | with_reducible apply keeps_ite

theorem keeps_sendParent {g grp : Nat} {p : AislePkt} (hs : s0.Keeps s) :
    s0.Keeps (sendParent s g grp p) := by
  unfold sendParent
  try dsimp only
  repeat' first
    | with_reducible assumption
    | with_reducible intro _
    | with_reducible apply keeps_modCell
    | with_reducible apply keeps_sumPush
    | with_reducible apply Cell.ok_modSum
    | with_reducible apply keeps_ite

theorem keeps_rootResult {g : Nat} {r : SumResult} (hs : s0.Keeps s) :
    s0.Keeps (rootResult s g r) := by
  unfold rootResult
  try dsimp only
  repeat' first
    | with_reducible assumption
    | with_reducible intro _
    | with_reducible apply keeps_logSum
    | with_reducible apply keeps_holdResult
    | with_reducible apply keeps_ite

theorem keeps_sumOutcome {g grp : Nat} {inst : Nat × Nat} {failed : Bool} {count cause : Nat}
    {payload : List Byte} (hs : s0.Keeps s) :
    s0.Keeps (sumOutcome s g grp inst failed count cause payload) := by
  unfold sumOutcome
  try dsimp only
  repeat' first
    | with_reducible assumption
    | with_reducible intro _
    | with_reducible apply keeps_sendParent
    | with_reducible apply keeps_rootResult
    | with_reducible apply keeps_ite

theorem keeps_failInst {g grp : Nat} {inst : Nat × Nat} {cause : Nat} {next_ : Nat × Nat} (hs : s0.Keeps s) :
    s0.Keeps (failInst s g grp inst cause next_) := by
  unfold failInst
  try dsimp only
  repeat' first
    | with_reducible assumption
    | with_reducible intro _
    | with_reducible apply keeps_modCell
    | with_reducible apply keeps_next
    | with_reducible apply keeps_logSum
    | with_reducible apply keeps_sumOutcome
    | with_reducible apply Cell.ok_modSum

theorem keeps_enterSlot {g grp input : Nat} {sg : SumGroup} {p : AislePkt} (hs : s0.Keeps s) :
    s0.Keeps (enterSlot s g grp input sg p) := by
  unfold enterSlot
  try dsimp only
  repeat' first
    | with_reducible assumption
    | with_reducible intro _
    | with_reducible apply keeps_modCell
    | with_reducible apply keeps_logC
    | with_reducible apply keeps_next
    | with_reducible apply keeps_failInst
    | with_reducible apply Cell.ok_modSum
    | with_reducible apply keeps_ite
    | with_reducible apply keeps_id
    | with_reducible apply Cell.ok_ite
    | split

theorem keeps_parentReleased {g grp : Nat} (hs : s0.Keeps s) :
    s0.Keeps (parentReleased s g grp) := by
  unfold parentReleased
  try dsimp only
  repeat' first
    | with_reducible assumption
    | with_reducible intro _
    | with_reducible apply keeps_modCell
    | with_reducible apply keeps_sumPush
    | with_reducible apply Cell.ok_modSum
    | with_reducible apply keeps_ite
    | with_reducible apply keeps_id
    | with_reducible apply Cell.ok_ite
    | split

theorem keeps_ejectFlit {g : Nat} {f : ChFlit} (hs : s0.Keeps s) :
    s0.Keeps (ejectFlit s g f) := by
  unfold ejectFlit
  try dsimp only
  repeat' first
    | with_reducible assumption
    | with_reducible intro _
    | with_reducible apply keeps_modCell
    | with_reducible apply keeps_ite
    | with_reducible apply keeps_id
    | with_reducible apply Cell.ok_ite
    | (with_reducible refine Cell.ok_mk ?_; with_reducible assumption)

theorem keeps_placeFlit {g : Nat} {f : ChFlit} (hs : s0.Keeps s) :
    s0.KeepsAll (placeFlit s g f) := by
  unfold placeFlit
  try dsimp only
  repeat' first
    | with_reducible assumption
    | with_reducible intro _
    | with_reducible apply keeps_modCell
    | with_reducible apply keeps_ejectFlit
    | with_reducible apply Cell.ok_modCh
    | with_reducible apply keeps_ite
    | with_reducible apply keepsAll_none
    | with_reducible apply keepsAll_some
    | with_reducible apply keepsAll_ite
    | with_reducible apply keepsAll_map

theorem keeps_takeFlit {g : Nat} {d : Dir} (hs : s0.Keeps s) :
    s0.Keeps (takeFlit s g d) := by
  unfold takeFlit
  try dsimp only
  repeat' first
    | with_reducible assumption
    | with_reducible intro _
    | with_reducible apply keeps_modCell
    | with_reducible apply Cell.ok_modCh

theorem keeps_refuseFlit {g : Nat} {d : Dir} {f : ChFlit} {bad : Bool} (hs : s0.Keeps s) :
    s0.Keeps (refuseFlit s g d f bad) := by
  unfold refuseFlit
  try dsimp only
  repeat' first
    | with_reducible assumption
    | with_reducible intro _
    | with_reducible apply keeps_logKeyed
    | with_reducible apply keeps_logC
    | with_reducible apply keeps_takeFlit
    | with_reducible apply keeps_ite

theorem keeps_placeAll {g : Nat} {l : List (Dir × ChFlit)} (h : s0.Keeps s) : s0.Keeps (placeAll g l s) := by
  induction l generalizing s with
  | nil => exact h
  | cons e l ih =>
    refine ih ?_
    cases hp : placeFlit (takeFlit s g e.1) g e.2 with
    | none => exact h
    | some t => exact keeps_placeFlit (keeps_takeFlit h) t hp

theorem keeps_settleHold {g : Nat} (hs : s0.Keeps s) :
    s0.Keeps (settleHold s g) := by
  unfold settleHold
  try dsimp only
  repeat' first
    | with_reducible assumption
    | with_reducible intro _
    | with_reducible apply keeps_modCell
    | with_reducible apply Cell.ok_modCh

theorem Cell.ok_chantryPop {c : Cell} (hc : c.ok) : (Cell.chantryPop c).ok := by
  unfold Cell.chantryPop
  try dsimp only
  repeat' first
    | with_reducible assumption
    | with_reducible intro _
    | with_reducible apply Cell.ok_retryWhere
    | with_reducible apply Cell.ok_modCh
    | with_reducible apply Cell.ok_ite

theorem keeps_injectFlit {g : Nat} (hs : s0.Keeps s) :
    s0.KeepsAll (injectFlit s g) := by
  unfold injectFlit
  try dsimp only
  repeat' first
    | with_reducible assumption
    | with_reducible intro _
    | with_reducible apply keeps_modCell
    | with_reducible apply keeps_placeFlit
    | with_reducible apply Cell.ok_chantryPop
    | with_reducible apply keeps_ite
    | with_reducible apply keepsAll_none
    | with_reducible apply keepsAll_some
    | with_reducible apply keepsAll_ite
    | with_reducible apply keepsAll_map
    | with_reducible apply keepsAll_bind

theorem keeps_enterFlit {g : Nat} (hs : s0.Keeps s) :
    s0.KeepsAll (enterFlit s g) := by
  unfold enterFlit
  try dsimp only
  repeat' first
    | with_reducible assumption
    | with_reducible intro _
    | with_reducible apply keeps_modCell
    | with_reducible apply keeps_placeFlit
    | with_reducible apply Cell.ok_modCh
    | with_reducible apply keeps_ite
    | with_reducible apply keepsAll_none
    | with_reducible apply keepsAll_some
    | with_reducible apply keepsAll_ite
    | with_reducible apply keepsAll_map
    | with_reducible apply keepsAll_bind
    | with_reducible apply keepsAll_orElse
    | with_reducible apply keeps_id
    | with_reducible apply Cell.ok_ite
    | split

theorem keeps_chantryInject {g : Nat} (hs : s0.Keeps s) :
    s0.KeepsAll (chantryInject s g) := by
  unfold chantryInject
  try dsimp only
  repeat' first
    | with_reducible assumption
    | with_reducible intro _
    | with_reducible apply keeps_injectFlit
    | with_reducible apply keeps_enterFlit
    | with_reducible apply keeps_ite
    | with_reducible apply keepsAll_none
    | with_reducible apply keepsAll_some
    | with_reducible apply keepsAll_ite
    | with_reducible apply keepsAll_map
    | with_reducible apply keepsAll_bind
    | with_reducible apply keepsAll_orElse

end Sys2Proof.Machine
end

