-- ==== Sys2Proof/Laws/KeepNetworks.lean ====
section
/-! SUPPORT. The queue and the invariant under the shared operations of the rings and the networks (Rings, Febupor,
AmbCore, Amb, Hbm, Transept): one lemma per operation. -/

namespace Sys2Proof.Machine

variable {s s0 : State}

theorem Hbm.wf_markSector {h : Hbm} {a : Nat} (w : WrittenMemory.wf h.mem = true) :
    WrittenMemory.wf (h.markSector a).mem = true := by
  simp only [Hbm.markSector]
  with_reducible exact WrittenMemory.wf_writeBytes _ _ w

theorem Hbm.wf_writeSector {h : Hbm} {a : Nat} {bs : List Byte} (w : WrittenMemory.wf h.mem = true) :
    WrittenMemory.wf (h.writeSector a bs).mem = true := by
  simp only [Hbm.writeSector]
  with_reducible exact WrittenMemory.wf_writeBytes _ _ w

theorem keeps_modLane {l : AmbLane} {pos : Nat} {f : LaneIn → LaneIn} (hs : s0.Keeps s) :
    s0.Keeps (State.modLane s l pos f) := by
  unfold State.modLane
  try dsimp only
  repeat' first
    | with_reducible assumption
    | with_reducible intro _
    | with_reducible apply keeps_ite
    | with_reducible apply keeps_id
    | with_reducible apply Cell.ok_ite
    | split
    | with_reducible refine Cell.ok_mk ?_
    | with_reducible refine Cell.ok_write ?_
    | with_reducible refine keeps_mk ?_ rfl rfl rfl ⟨rfl, rfl, rfl⟩ ⟨rfl, rfl, rfl, rfl, rfl⟩ rfl rfl rfl rfl rfl rfl rfl

theorem keeps_ambTake {c : AmbCand} (hs : s0.Keeps s) :
    s0.Keeps (ambTake s c) := by
  unfold ambTake
  try dsimp only
  repeat' first
    | with_reducible assumption
    | with_reducible intro _
    | with_reducible apply keeps_modEnd
    | with_reducible apply keeps_inject
    | with_reducible apply keeps_modLane
    | with_reducible apply keeps_ite
    | with_reducible apply keeps_id
    | with_reducible apply Cell.ok_ite
    | split

theorem keeps_ambEject {ep : Nat} {f : AmbFlit} (hs : s0.Keeps s) :
    s0.Keeps (ambEject s ep f) := by
  unfold ambEject
  try dsimp only
  repeat' first
    | with_reducible assumption
    | with_reducible intro _
    | with_reducible apply keeps_modEnd
    | with_reducible apply keeps_ite
    | with_reducible apply keeps_id
    | with_reducible apply Cell.ok_ite
    | split

theorem keeps_ambSend {c : AmbCand} (hs : s0.Keeps s) :
    s0.Keeps (ambSend s c) := by
  unfold ambSend
  try dsimp only
  repeat' first
    | with_reducible assumption
    | with_reducible intro _
    | with_reducible apply keeps_modLane
    | with_reducible apply keeps_ambTake
    | with_reducible apply keeps_ambEject
    | with_reducible apply keeps_ite
    | with_reducible apply keeps_id
    | with_reducible apply Cell.ok_ite
    | split

theorem keeps_ambNodeCycle {n : AmbNode} (hs : s0.Keeps s) :
    s0.Keeps (AmbNode.cycle s n) := by
  unfold AmbNode.cycle
  try dsimp only
  repeat' first
    | with_reducible assumption
    | with_reducible intro _
    | with_reducible apply keeps_ambSend
    | with_reducible apply keeps_foldl _

theorem keeps_readFlit {f : AmbFlit} {h : Option (List Byte)} (hs : s0.Keeps s) : s0.Keeps (readFlit s f h).2 := by
  cases h with
  | none => exact hs
  | some h =>
    unfold readFlit
    dsimp only
    split
    · exact hs
    · split
      · exact keeps_freeBytes hs
      · exact hs

theorem keeps_ambMalformed {n : AmbNode} {h : List Byte} (hs : s0.Keeps s) :
    s0.Keeps (ambMalformed s n h) := by
  unfold ambMalformed
  try dsimp only
  repeat' first
    | with_reducible assumption
    | with_reducible intro _
    | with_reducible apply keeps_logC

theorem keeps_laneArrive {l : AmbLane} {pos : Nat} {corrupt : Option (List Byte)} (hs : s0.Keeps s) :
    s0.Keeps (laneArrive s l pos corrupt) := by
  unfold laneArrive
  try dsimp only
  repeat' first
    | with_reducible assumption
    | with_reducible intro _
    | with_reducible apply keeps_modLane
    | with_reducible apply keeps_readFlit
    | with_reducible apply keeps_ambMalformed
    | with_reducible apply keeps_ite
    | with_reducible apply keeps_getD
    | with_reducible apply keeps_id
    | with_reducible apply Cell.ok_ite
    | split

theorem keeps_injectArrive {ep : Nat} {corrupt : Option (List Byte)} (hs : s0.Keeps s) :
    s0.Keeps (injectArrive s ep corrupt) := by
  unfold injectArrive
  try dsimp only
  repeat' first
    | with_reducible assumption
    | with_reducible intro _
    | with_reducible apply keeps_modEnd
    | with_reducible apply keeps_inject
    | with_reducible apply keeps_readFlit
    | with_reducible apply keeps_ambMalformed
    | with_reducible apply keeps_ite
    | with_reducible apply keeps_getD
    | with_reducible apply keeps_id
    | with_reducible apply Cell.ok_ite
    | split

theorem keeps_respond {f : AmbFlit} {status : Nat} {data : List Byte} (hs : s0.Keeps s) :
    s0.Keeps (respond s f status data) := by
  unfold respond
  try dsimp only
  repeat' first
    | with_reducible assumption
    | with_reducible intro _
    | with_reducible apply keeps_inject

theorem keeps_respondErr {f : AmbFlit} {status : Nat} {poison : Bool} (hs : s0.Keeps s) :
    s0.Keeps (respondErr s f status poison) := by
  unfold respondErr
  try dsimp only
  repeat' first
    | with_reducible assumption
    | with_reducible intro _
    | with_reducible apply keeps_freeBytes
    | with_reducible apply keeps_inject

theorem keeps_refuseReq {f : AmbFlit} (hs : s0.Keeps s) :
    s0.Keeps (refuseReq s f) := by
  unfold refuseReq
  try dsimp only
  repeat' first
    | with_reducible assumption
    | with_reducible intro _
    | with_reducible apply keeps_logC
    | with_reducible apply keeps_faultK
    | with_reducible apply keeps_respondErr
    | with_reducible apply keeps_ite

theorem keeps_mainLoss {cause : Nat} (hs : s0.Keeps s) :
    s0.Keeps (mainLoss s cause) := by
  unfold mainLoss
  try dsimp only
  repeat' first
    | with_reducible assumption
    | with_reducible intro _
    | with_reducible apply keeps_cloisterCapsule
    | with_reducible apply keeps_latchP
    | with_reducible apply keeps_unrequestedCrypt
    | with_reducible apply keeps_ite
    | with_reducible apply keeps_id
    | with_reducible apply Cell.ok_ite
    | split
    | with_reducible refine Cell.ok_mk ?_
    | with_reducible refine Cell.ok_write ?_
    | with_reducible refine keeps_mk ?_ rfl rfl rfl ⟨rfl, rfl, rfl⟩ ⟨rfl, rfl, rfl, rfl, rfl⟩ rfl rfl rfl rfl rfl rfl rfl

theorem keeps_thermtripLow (hs : s0.Keeps s) : s0.Keeps (thermtripLow s) :=
  (keeps_alertOr (b := 32#32) (by decide) hs).trans ⟨rfl, fun i => { i with }⟩

theorem keeps_bayTrip {b : Nat} (hs : s0.Keeps s) :
    s0.Keeps (bayTrip s b) := by
  unfold bayTrip
  try dsimp only
  repeat' first
    | with_reducible assumption
    | with_reducible intro _
    | with_reducible apply keeps_modChapel
    | with_reducible apply keeps_logEntry
    | with_reducible apply keeps_faultK
    | with_reducible apply keeps_wantOff
    | with_reducible apply keeps_ite
    | with_reducible apply keeps_id
    | with_reducible apply Cell.ok_ite
    | split

theorem keeps_readSector {a : Nat} (hs : s0.Keeps s) :
    s0.Keeps (readSector s a).2 := by
  unfold readSector
  try dsimp only
  repeat' first
    | with_reducible assumption
    | with_reducible intro _
    | with_reducible apply keeps_freeBytes
    | with_reducible apply keeps_freeNat
    | with_reducible apply keeps_ite
    | with_reducible apply keeps_id
    | with_reducible apply Cell.ok_ite
    | split

theorem keeps_addCandidate {m a : Nat} (hs : s0.Keeps s) :
    s0.Keeps (addCandidate s m a) := by
  unfold addCandidate
  try dsimp only
  repeat' first
    | with_reducible assumption
    | with_reducible intro _
    | with_reducible apply keeps_logC
    | with_reducible apply keeps_ite
    | with_reducible apply keeps_id
    | with_reducible apply Cell.ok_ite
    | split
    | with_reducible refine Cell.ok_mk ?_
    | with_reducible refine Cell.ok_write ?_
    | with_reducible refine keeps_mk ?_ rfl rfl rfl ⟨rfl, rfl, rfl⟩ ⟨rfl, rfl, rfl, rfl, rfl⟩ rfl rfl rfl rfl rfl rfl rfl

theorem keeps_noteCorrected {m a : Nat} (hs : s0.Keeps s) :
    s0.Keeps (noteCorrected s m a) := by
  unfold noteCorrected
  try dsimp only
  repeat' first
    | with_reducible assumption
    | with_reducible intro _
    | with_reducible apply keeps_modStack
    | with_reducible apply keeps_addCandidate
    | with_reducible apply keeps_ite

theorem keeps_noteRead {m a : Nat} {onDie : OnDie} {dec : EccDecode} {marked : Bool} (hs : s0.Keeps s) :
    s0.Keeps (noteRead s m a onDie dec marked) := by
  unfold noteRead
  try dsimp only
  repeat' first
    | with_reducible assumption
    | with_reducible intro _
    | with_reducible apply keeps_modStack
    | with_reducible apply keeps_logC
    | with_reducible apply keeps_addCandidate
    | with_reducible apply keeps_noteCorrected
    | with_reducible apply keeps_when _
    | with_reducible apply keeps_ite

theorem keeps_stackRead {m a : Nat} {onDie : OnDie} {dec : EccDecode} (hs : s0.Keeps s) :
    s0.Keeps (stackRead s m a onDie dec).2 := by
  unfold stackRead
  try dsimp only
  repeat' first
    | with_reducible assumption
    | with_reducible intro _
    | with_reducible apply keeps_readSector
    | with_reducible apply keeps_noteRead

theorem keeps_respondDown {f : AmbFlit} (hs : s0.Keeps s) :
    s0.Keeps (respondDown s f) := by
  unfold respondDown
  try dsimp only
  repeat' first
    | with_reducible assumption
    | with_reducible intro _
    | with_reducible apply keeps_respond

theorem keeps_serveSector {f : AmbFlit} {bytes : Option (List Byte)} (hs : s0.Keeps s) :
    s0.Keeps (serveSector s f bytes) := by
  unfold serveSector
  dsimp only
  split
  · exact keeps_respondErr hs
  · split
    · exact keeps_respond (keeps_hbm hs Hbm.wf_writeSector)
    · exact keeps_respond (keeps_hbm hs Hbm.wf_writeSector)
    · exact keeps_respond hs

theorem keeps_performReq {m : Nat} {f : AmbFlit} {onDie : OnDie} {dec : EccDecode} (hs : s0.Keeps s) :
    s0.Keeps (performReq s m f onDie dec) :=
  keeps_ite (keeps_respond (keeps_hbm hs Hbm.wf_writeSector))
    (keeps_serveSector (keeps_stackRead hs))

theorem keeps_serveJoined {m : Nat} {data : Option (List Byte)} {j : Joined} (hs : s0.Keeps s) :
    s0.Keeps (serveJoined m data s j) := by
  unfold serveJoined
  try dsimp only
  repeat' first
    | with_reducible assumption
    | with_reducible intro _
    | with_reducible apply keeps_modStack
    | with_reducible apply keeps_respond
    | with_reducible apply keeps_respondErr
    | with_reducible apply keeps_ite
    | with_reducible apply keeps_id
    | with_reducible apply Cell.ok_ite
    | split

theorem keeps_coalesce {m : Nat} {f : AmbFlit} (hs : s0.Keeps s) :
    s0.Keeps (coalesce s m f) := by
  unfold coalesce
  try dsimp only
  repeat' first
    | with_reducible assumption
    | with_reducible intro _
    | with_reducible apply keeps_modStack
    | with_reducible apply keeps_serveJoined
    | with_reducible apply keeps_ite
    | with_reducible apply keeps_id
    | with_reducible apply Cell.ok_ite
    | split

theorem keeps_readBlock {b n : Nat} (hs : s0.Keeps s) : s0.Keeps (readBlock b n s).2 := by
  induction n with
  | zero => exact hs
  | succ n ih => exact keeps_readSector ih

theorem keeps_performBlock {m b : Nat} {opened : BitVec 64} {onDie : OnDie} {dec : EccDecode} (hs : s0.Keeps s) :
    s0.Keeps (performBlock s m b opened onDie dec) :=
  keeps_modStack (keeps_foldl _ (keeps_noteRead (keeps_readBlock hs)) fun _ _ h => keeps_serveJoined h)

theorem keeps_hbmAccept {m : Nat} {f : AmbFlit} (hs : s0.Keeps s) :
    s0.Keeps (hbmAccept s m f) := by
  unfold hbmAccept
  try dsimp only
  repeat' first
    | with_reducible assumption
    | with_reducible intro _
    | with_reducible apply keeps_modStack
    | with_reducible apply keeps_respondDown
    | with_reducible apply keeps_coalesce
    | with_reducible apply keeps_ite

theorem keeps_closeEntries {base size : Nat} (hs : s0.Keeps s) :
    s0.Keeps (closeEntries s base size) := by
  unfold closeEntries
  try dsimp only
  repeat' first
    | with_reducible assumption
    | with_reducible intro _
    | with_reducible apply keeps_modStack
    | with_reducible apply keeps_foldl _

theorem keeps_hbmFail {m : Nat} (hs : s0.Keeps s) :
    s0.Keeps (hbmFail s m) := by
  unfold hbmFail
  try dsimp only
  repeat' first
    | with_reducible assumption
    | with_reducible intro _
    | with_reducible apply keeps_modStack
    | with_reducible apply keeps_respondDown
    | with_reducible apply keeps_foldl _

theorem keeps_doorbellBad {p : HPort} {offset : Nat} {value : BitVec 64} (hs : s0.Keeps s) :
    s0.Keeps (doorbellBad s p offset value) := by
  unfold doorbellBad
  try dsimp only
  repeat' first
    | with_reducible assumption
    | with_reducible intro _
    | with_reducible apply keeps_postPort

theorem keeps_rsvWrite {p : HPort} (hs : s0.Keeps s) :
    s0.Keeps (rsvWrite s p) := by
  unfold rsvWrite
  try dsimp only
  repeat' first
    | with_reducible assumption
    | with_reducible intro _
    | with_reducible apply keeps_logC

theorem keeps_fetchCmd {c : Cmd} (hs : s0.Keeps s) :
    s0.Keeps (fetchCmd s c) := by
  unfold fetchCmd
  try dsimp only
  repeat' first
    | with_reducible assumption
    | with_reducible intro _
    | with_reducible apply keeps_emit
    | with_reducible apply keeps_wakeLink
    | with_reducible apply keeps_modCmd
    | with_reducible apply keeps_ite

theorem keeps_exposeEntries {p : HPort} {ring k slot : Nat} (h : s0.Keeps s) :
    s0.Keeps (exposeEntries p ring k slot s) := by
  induction k generalizing s slot with
  | zero => exact h
  | succ k ih => exact ih (keeps_fetchCmd (h.trans ⟨rfl, fun i => { i with }⟩))

theorem keeps_acceptTail {p : HPort} {offset : Nat} {value : BitVec 64} (hs : s0.Keeps s) :
    s0.Keeps (acceptTail s p offset value) := by
  unfold acceptTail
  try dsimp only
  repeat' first
    | with_reducible assumption
    | with_reducible intro _
    | with_reducible apply keeps_modRing
    | with_reducible apply keeps_doorbellBad
    | with_reducible apply keeps_exposeEntries
    | with_reducible apply keeps_ite

theorem keeps_acceptCplHead {p : HPort} {offset : Nat} {value : BitVec 64} (hs : s0.Keeps s) :
    s0.Keeps (acceptCplHead s p offset value) := by
  unfold acceptCplHead
  try dsimp only
  repeat' first
    | with_reducible assumption
    | with_reducible intro _
    | with_reducible apply keeps_modRing
    | with_reducible apply keeps_signal
    | with_reducible apply keeps_flushRing
    | with_reducible apply keeps_doorbellBad
    | with_reducible apply keeps_when _
    | with_reducible apply keeps_ite

theorem keeps_acceptEvHead {p : HPort} {offset : Nat} {value : BitVec 64} (hs : s0.Keeps s) :
    s0.Keeps (acceptEvHead s p offset value) := by
  unfold acceptEvHead
  try dsimp only
  repeat' first
    | with_reducible assumption
    | with_reducible intro _
    | with_reducible apply keeps_modHp
    | with_reducible apply keeps_signal
    | with_reducible apply keeps_flushEvents
    | with_reducible apply keeps_doorbellBad
    | with_reducible apply keeps_when _
    | with_reducible apply keeps_ite

theorem keeps_acceptBell {b : HeldDoorbell} (hs : s0.Keeps s) :
    s0.Keeps (acceptBell s b) := by
  unfold acceptBell
  try dsimp only
  repeat' first
    | with_reducible assumption
    | with_reducible intro _
    | with_reducible apply keeps_acceptTail
    | with_reducible apply keeps_acceptCplHead
    | with_reducible apply keeps_acceptEvHead
    | with_reducible apply keeps_ite

theorem keeps_ringBell {p : HPort} {offset size : Nat} {value : BitVec 64} (hs : s0.Keeps s) :
    s0.Keeps (ringBell s p offset size value) := by
  unfold ringBell
  try dsimp only
  repeat' first
    | with_reducible assumption
    | with_reducible intro _
    | with_reducible apply keeps_leaveIdle
    | with_reducible apply keeps_doorbellBad
    | with_reducible apply keeps_rsvWrite
    | with_reducible apply keeps_acceptBell
    | with_reducible apply keeps_when _
    | with_reducible apply keeps_ite
    | with_reducible apply keeps_id
    | with_reducible apply Cell.ok_ite
    | split
    | with_reducible refine Cell.ok_mk ?_
    | with_reducible refine Cell.ok_write ?_
    | with_reducible refine keeps_mk ?_ rfl rfl rfl ⟨rfl, rfl, rfl⟩ ⟨rfl, rfl, rfl, rfl, rfl⟩ rfl rfl rfl rfl rfl rfl rfl

theorem keeps_releaseBells (hs : s0.Keeps s) :
    s0.Keeps (releaseBells s) := by
  unfold releaseBells
  try dsimp only
  repeat' first
    | with_reducible assumption
    | with_reducible intro _
    | with_reducible apply keeps_acceptBell
    | with_reducible apply keeps_foldl _
    | with_reducible apply Cell.ok_foldl
    | with_reducible apply keeps_ite
    | with_reducible apply keeps_id
    | with_reducible apply Cell.ok_ite
    | split
    | with_reducible refine Cell.ok_mk ?_
    | with_reducible refine Cell.ok_write ?_
    | with_reducible refine keeps_mk ?_ rfl rfl rfl ⟨rfl, rfl, rfl⟩ ⟨rfl, rfl, rfl, rfl, rfl⟩ rfl rfl rfl rfl rfl rfl rfl

theorem keeps_ringErrPost {p : HPort} {ring cause : Nat} (hs : s0.Keeps s) :
    s0.Keeps (ringErrPost s p ring cause) := by
  unfold ringErrPost
  try dsimp only
  repeat' first
    | with_reducible assumption
    | with_reducible intro _
    | with_reducible apply keeps_postPort

theorem keeps_stopRingCmds {gone : Cmd → Bool} (hs : s0.Keeps s) :
    s0.Keeps (stopRingCmds s gone) := by
  unfold stopRingCmds
  try dsimp only
  repeat' first
    | with_reducible assumption
    | with_reducible intro _
    | with_reducible apply keeps_ite
    | with_reducible apply keeps_id
    | with_reducible apply Cell.ok_ite
    | split
    | with_reducible refine Cell.ok_mk ?_
    | with_reducible refine Cell.ok_write ?_
    | with_reducible refine keeps_mk ?_ rfl rfl rfl ⟨rfl, rfl, rfl⟩ ⟨rfl, rfl, rfl, rfl, rfl⟩ rfl rfl rfl rfl rfl rfl rfl

theorem keeps_dropWaiting {p : HPort} {cs : List Completion} (hs : s0.Keeps s) :
    s0.Keeps (dropWaiting s p cs) := by
  unfold dropWaiting
  try dsimp only
  repeat' first
    | with_reducible assumption
    | with_reducible intro _
    | with_reducible apply keeps_logC
    | with_reducible apply keeps_afterPostRun
    | with_reducible apply keeps_foldl _

theorem keeps_disableRing {p : HPort} {i : Nat} (hs : s0.Keeps s) :
    s0.Keeps (disableRing s p i) := by
  unfold disableRing
  try dsimp only
  repeat' first
    | with_reducible assumption
    | with_reducible intro _
    | with_reducible apply keeps_modRing
    | with_reducible apply keeps_stopRingCmds
    | with_reducible apply keeps_dropWaiting

theorem keeps_ringBlockWrite {p : HPort} {i off size : Nat} {value : BitVec 64} (hs : s0.Keeps s) :
    s0.Keeps (ringBlockWrite s p i off size value) := by
  unfold ringBlockWrite
  try dsimp only
  repeat' first
    | with_reducible assumption
    | with_reducible intro _
    | with_reducible apply keeps_modRing
    | with_reducible apply keeps_rsvWrite
    | with_reducible apply keeps_ringErrPost
    | with_reducible apply keeps_disableRing
    | with_reducible apply keeps_when _
    | with_reducible apply keeps_ite

theorem keeps_eventBlockWrite {p : HPort} {off size : Nat} {value : BitVec 64} (hs : s0.Keeps s) :
    s0.Keeps (eventBlockWrite s p off size value) := by
  unfold eventBlockWrite
  try dsimp only
  repeat' first
    | with_reducible assumption
    | with_reducible intro _
    | with_reducible apply keeps_modHp
    | with_reducible apply keeps_flushEvents
    | with_reducible apply keeps_postOn
    | with_reducible apply keeps_rsvWrite
    | with_reducible apply keeps_ringErrPost
    | with_reducible apply keeps_when _
    | with_reducible apply keeps_ite
    | with_reducible apply keeps_id
    | with_reducible apply Cell.ok_ite
    | split

theorem keeps_deliverPending {p : HPort} {fn v : Nat} (hs : s0.Keeps s) :
    s0.Keeps (deliverPending s p fn v) := by
  unfold deliverPending
  try dsimp only
  repeat' first
    | with_reducible assumption
    | with_reducible intro _
    | with_reducible apply keeps_modHp
    | with_reducible apply keeps_emit
    | with_reducible apply keeps_ite

theorem keeps_releasePf {p : HPort} (hs : s0.Keeps s) :
    s0.Keeps (releasePf s p) := by
  unfold releasePf
  try dsimp only
  repeat' first
    | with_reducible assumption
    | with_reducible intro _
    | with_reducible apply keeps_flushEvents
    | with_reducible apply keeps_flushRing
    | with_reducible apply keeps_fetchCmd
    | with_reducible apply keeps_foldl _

theorem keeps_refuse {c : Cmd} {detail : Nat} (hs : s0.Keeps s) :
    s0.Keeps (refuse s c detail) := by
  unfold refuse
  try dsimp only
  repeat' first
    | with_reducible assumption
    | with_reducible intro _
    | with_reducible apply keeps_failCmd
    | with_reducible apply keeps_ite

theorem keeps_gated {c : Cmd} {k : State → Cmd → State} (hs : s0.Keeps s)
    (hk : ∀ s x0, s0.Keeps s → s0.Keeps (k s x0)) :
    s0.Keeps (gated s c k) := by
  unfold gated
  try dsimp only
  repeat' first
    | with_reducible assumption
    | with_reducible intro _
    | with_reducible apply keeps_failCmd
    | with_reducible apply keeps_refuse
    | with_reducible apply hk
    | with_reducible apply keeps_ite
    | with_reducible apply keeps_id
    | with_reducible apply Cell.ok_ite
    | split

theorem ran_runCmdPre {n op : Nat} {pre : State → Cmd → Option (Nat × Nat)} {k : State → Cmd → State}
    (hs : s0.Keeps s) (hk : ∀ s x0, s0.Keeps s → s0.Keeps (k s x0)) :
    s0.Ran (runCmdPre n op s pre k) := by
  unfold runCmdPre
  try dsimp only
  repeat' first
    | with_reducible assumption
    | with_reducible intro _
    | with_reducible apply keeps_modCmd
    | with_reducible apply keeps_failCmd
    | with_reducible apply keeps_next
    | with_reducible apply keeps_gated
    | with_reducible apply hk
    | with_reducible apply keeps_ite
    | with_reducible apply ran_possible
    | with_reducible apply ran_next
    | with_reducible apply ran_ite
    | with_reducible apply keeps_id
    | with_reducible apply Cell.ok_ite
    | split

theorem ran_runCmd {n op : Nat} {k : State → Cmd → State} (hs : s0.Keeps s)
    (hk : ∀ s x0, s0.Keeps s → s0.Keeps (k s x0)) :
    s0.Ran (runCmd n op s k) := by
  unfold runCmd
  try dsimp only
  repeat' first
    | with_reducible assumption
    | with_reducible intro _
    | with_reducible apply ran_runCmdPre

theorem ran_runningCmd {n op : Nat} {c? : State → Cmd → Bool} {k : State → Cmd → State} (hs : s0.Keeps s)
    (hk : ∀ s x0, s0.Keeps s → s0.Keeps (k s x0)) :
    s0.Ran (runningCmd n op s c? k) := by
  unfold runningCmd
  try dsimp only
  repeat' first
    | with_reducible assumption
    | with_reducible intro _
    | with_reducible apply keeps_next
    | with_reducible apply hk
    | with_reducible apply keeps_ite
    | with_reducible apply ran_possible
    | with_reducible apply ran_next
    | with_reducible apply ran_ite
    | with_reducible apply keeps_id
    | with_reducible apply Cell.ok_ite
    | split

theorem keeps_replayMismatch {c : Cmd} {e : List Byte} {off : Nat} (hs : s0.Keeps s) :
    s0.Keeps (replayMismatch s c e off) := by
  unfold replayMismatch
  try dsimp only
  repeat' first
    | with_reducible assumption
    | with_reducible intro _
    | with_reducible apply keeps_postCompletion
    | with_reducible apply keeps_dropCmd

theorem keeps_repeatEntry {c : Cmd} {e : List Byte} {d : DupEntry} (hs : s0.Keeps s) :
    s0.Keeps (repeatEntry s c e d) := by
  unfold repeatEntry
  try dsimp only
  repeat' first
    | with_reducible assumption
    | with_reducible intro _
    | with_reducible apply keeps_postCompletion
    | with_reducible apply keeps_modCmd
    | with_reducible apply keeps_dropCmd
    | with_reducible apply keeps_replayMismatch
    | with_reducible apply keeps_ite
    | with_reducible apply keeps_id
    | with_reducible apply Cell.ok_ite
    | split

theorem keeps_setNonce {p : HPort} {v : Nat} (hs : s0.Keeps s) :
    s0.Keeps (setNonce s p v) := by
  unfold setNonce
  try dsimp only
  repeat' first
    | with_reducible assumption
    | with_reducible intro _
    | with_reducible apply keeps_ite
    | with_reducible apply keeps_id
    | with_reducible apply Cell.ok_ite
    | split
    | with_reducible refine Cell.ok_mk ?_
    | with_reducible refine Cell.ok_write ?_
    | with_reducible refine keeps_mk ?_ rfl rfl rfl ⟨rfl, rfl, rfl⟩ ⟨rfl, rfl, rfl, rfl, rfl⟩ rfl rfl rfl rfl rfl rfl rfl

theorem keeps_secFail {c : Cmd} {detail : Nat} (hs : s0.Keeps s) :
    s0.Keeps (secFail s c detail) := by
  unfold secFail
  try dsimp only
  repeat' first
    | with_reducible assumption
    | with_reducible intro _
    | with_reducible apply keeps_logC
    | with_reducible apply keeps_failCmd

theorem keeps_openSecured {c : Cmd} (hs : s0.Keeps s) :
    s0.Keeps (openSecured s c) := by
  unfold openSecured
  try dsimp only
  repeat' first
    | with_reducible assumption
    | with_reducible intro _
    | with_reducible apply keeps_modCmd
    | with_reducible apply keeps_failCmd
    | with_reducible apply keeps_setNonce
    | with_reducible apply keeps_secFail
    | with_reducible apply keeps_ite
    | with_reducible apply keeps_id
    | with_reducible apply Cell.ok_ite
    | split

theorem keeps_checkParams {c : Cmd} (hs : s0.Keeps s) :
    s0.Keeps (checkParams s c) := by
  unfold checkParams
  try dsimp only
  repeat' first
    | with_reducible assumption
    | with_reducible intro _
    | with_reducible apply keeps_modCmd
    | with_reducible apply keeps_failCmd
    | with_reducible apply keeps_openSecured
    | with_reducible apply keeps_ite
    | with_reducible apply keeps_id
    | with_reducible apply Cell.ok_ite
    | split

theorem keeps_dataFail {p : HPort} (hs : s0.Keeps s) :
    s0.Keeps (dataFail s p) := by
  unfold dataFail
  try dsimp only
  repeat' first
    | with_reducible assumption
    | with_reducible intro _
    | with_reducible apply keeps_logC

theorem keeps_readFail {c : Cmd} (hs : s0.Keeps s) :
    s0.Keeps (readFail s c) := by
  unfold readFail
  try dsimp only
  repeat' first
    | with_reducible assumption
    | with_reducible intro _
    | with_reducible apply keeps_failCmd
    | with_reducible apply keeps_dataFail

theorem keeps_checkHeader {c : Cmd} (hs : s0.Keeps s) :
    s0.Keeps (checkHeader s c) := by
  unfold checkHeader
  try dsimp only
  repeat' first
    | with_reducible assumption
    | with_reducible intro _
    | with_reducible apply keeps_emit
    | with_reducible apply keeps_wakeLink
    | with_reducible apply keeps_modCmd
    | with_reducible apply keeps_failCmd
    | with_reducible apply keeps_checkParams
    | with_reducible apply keeps_readFail
    | with_reducible apply keeps_ite
    | with_reducible apply keeps_id
    | with_reducible apply Cell.ok_ite
    | split

theorem keeps_recordEntry {c : Cmd} {e : List Byte} (hs : s0.Keeps s) :
    s0.Keeps (recordEntry s c e) := by
  unfold recordEntry
  try dsimp only
  repeat' first
    | with_reducible assumption
    | with_reducible intro _
    | with_reducible apply keeps_modRing

theorem keeps_fetchFail {c : Cmd} (hs : s0.Keeps s) :
    s0.Keeps (fetchFail s c) := by
  unfold fetchFail
  try dsimp only
  repeat' first
    | with_reducible assumption
    | with_reducible intro _
    | with_reducible apply keeps_postCompletion
    | with_reducible apply keeps_dropCmd
    | with_reducible apply keeps_dataFail

theorem keeps_entryFetched {c : Cmd} {e : List Byte} (hs : s0.Keeps s) :
    s0.Keeps (entryFetched s c e) := by
  unfold entryFetched
  try dsimp only
  repeat' first
    | with_reducible assumption
    | with_reducible intro _
    | with_reducible apply keeps_modCmd
    | with_reducible apply keeps_repeatEntry
    | with_reducible apply keeps_checkHeader
    | with_reducible apply keeps_recordEntry
    | with_reducible apply keeps_ite
    | with_reducible apply keeps_id
    | with_reducible apply Cell.ok_ite
    | split

theorem keeps_okWrite {c : Cmd} {data : List Byte} {result : List Byte} {wrOk : Bool} (hs : s0.Keeps s) :
    s0.Keeps (okWrite s c data result wrOk) := by
  unfold okWrite
  try dsimp only
  repeat' first
    | with_reducible assumption
    | with_reducible intro _
    | with_reducible apply keeps_completeCmd
    | with_reducible apply keeps_writeBuffer

theorem keeps_flitUnit {f : AmbFlit} (hs : s0.Keeps s) :
    s0.Keeps (flitUnit s f).2 := by
  unfold flitUnit
  try dsimp only
  repeat' first
    | with_reducible assumption
    | with_reducible intro _
    | with_reducible apply keeps_freeBytes

theorem keeps_queueUnit {t k : Nat} {unit : List Byte} (hs : s0.Keeps s) :
    s0.Keeps (queueUnit s t k unit) := by
  unfold queueUnit
  try dsimp only
  repeat' first
    | with_reducible assumption
    | with_reducible intro _
    | with_reducible apply keeps_modLink

theorem keeps_countLink {t : Nat} {f : LinkCounters → LinkCounters} (hs : s0.Keeps s) :
    s0.Keeps (State.countLink s t f) := by
  unfold State.countLink
  try dsimp only
  repeat' first
    | with_reducible assumption
    | with_reducible intro _
    | with_reducible apply keeps_modLink

theorem keeps_logLink {t period cause sub lane : Nat} (hs : s0.Keeps s) :
    s0.Keeps (logLink s t period cause sub lane) := by
  unfold logLink
  try dsimp only
  repeat' first
    | with_reducible assumption
    | with_reducible intro _
    | with_reducible apply keeps_logC

theorem keeps_answerLinkDown {t : Nat} {f : AmbFlit} (hs : s0.Keeps s) :
    s0.Keeps (answerLinkDown s t f) := by
  unfold answerLinkDown
  try dsimp only
  repeat' first
    | with_reducible assumption
    | with_reducible intro _
    | with_reducible apply keeps_freeBytes
    | with_reducible apply keeps_inject

theorem keeps_answerForwards {t : Nat} (hs : s0.Keeps s) :
    s0.Keeps (answerForwards s t) := by
  unfold answerForwards
  try dsimp only
  repeat' first
    | with_reducible assumption
    | with_reducible intro _
    | with_reducible apply keeps_modLink
    | with_reducible apply keeps_answerLinkDown
    | with_reducible apply keeps_foldl _

theorem keeps_dropRequests {t : Nat} (hs : s0.Keeps s) :
    s0.Keeps (dropRequests s t) := by
  unfold dropRequests
  try dsimp only
  repeat' first
    | with_reducible assumption
    | with_reducible intro _
    | with_reducible apply keeps_modLink
    | with_reducible apply keeps_answerForwards

theorem keeps_relayAnswer {t : Nat} {f : AmbFlit} {status : Nat} {synth poison : Bool} {data : List Byte}
    (hs : s0.Keeps s) :
    s0.Keeps (relayAnswer s t f status synth poison data) := by
  unfold relayAnswer
  try dsimp only
  repeat' first
    | with_reducible assumption
    | with_reducible intro _
    | with_reducible apply keeps_flitUnit
    | with_reducible apply keeps_queueUnit
    | with_reducible apply keeps_ite

theorem keeps_relayReq {t k : Nat} {f : AmbFlit} {place : Place} (hs : s0.Keeps s) :
    s0.Keeps (relayReq s t k f place) := by
  unfold relayReq
  try dsimp only
  repeat' first
    | with_reducible assumption
    | with_reducible intro _
    | with_reducible apply keeps_modLink
    | with_reducible apply keeps_inject

theorem keeps_relayMore {n t : Nat} (h : s0.Keeps s) : s0.Keeps (relayMore n s t) := by
  induction n generalizing s with
  | zero => exact h
  | succ n ih =>
    unfold relayMore
    split
    · exact h
    · split
      · refine ih ?_
        with_reducible exact keeps_relayAnswer (keeps_modLink h)
      · split
        · exact h
        · refine ih ?_
          with_reducible exact keeps_relayReq (keeps_modLink h)

theorem keeps_relayIn {t : Nat} {f : AmbFlit} (hs : s0.Keeps s) :
    s0.Keeps (relayIn s t f) := by
  unfold relayIn
  try dsimp only
  repeat' first
    | with_reducible assumption
    | with_reducible intro _
    | with_reducible apply keeps_modLink
    | with_reducible apply keeps_relayMore

theorem keeps_relayDone {t k status : Nat} {synth poison : Bool} {data : List Byte} {advance : Bool}
    (hs : s0.Keeps s) :
    s0.Keeps (relayDone s t k status synth poison data advance) := by
  unfold relayDone
  try dsimp only
  repeat' first
    | with_reducible assumption
    | with_reducible intro _
    | with_reducible apply keeps_modLink
    | with_reducible apply keeps_relayAnswer
    | with_reducible apply keeps_relayMore
    | with_reducible apply Cell.ok_modTracker
    | with_reducible apply keeps_ite
    | with_reducible apply keeps_id
    | with_reducible apply Cell.ok_ite
    | split

theorem keeps_settleSlot {c n : Nat} (hs : s0.Keeps s) :
    s0.Keeps (settleSlot s c n) := by
  unfold settleSlot
  try dsimp only
  repeat' first
    | with_reducible assumption
    | with_reducible intro _
    | with_reducible apply keeps_modCell
    | with_reducible apply keeps_slotLinkDown
    | with_reducible apply Cell.ok_modAisle
    | with_reducible apply Cell.ok_modCh
    | with_reducible apply keeps_ite

theorem keeps_stopTraffic {t st : Nat} (hs : s0.Keeps s) :
    s0.Keeps (stopTraffic s t st) := by
  unfold stopTraffic
  try dsimp only
  repeat' first
    | with_reducible assumption
    | with_reducible intro _
    | with_reducible apply keeps_modLink
    | with_reducible apply keeps_setLinkState
    | with_reducible apply keeps_answerForwards
    | with_reducible apply keeps_settleSlot

theorem keeps_logDeparted {t cause : Nat} (hs : s0.Keeps s) :
    s0.Keeps (logDeparted s t cause) := by
  unfold logDeparted
  try dsimp only
  repeat' first
    | with_reducible assumption
    | with_reducible intro _
    | with_reducible apply keeps_logLink

theorem keeps_departOwner {t cause : Nat} (hs : s0.Keeps s) :
    s0.Keeps (departOwner s t cause) := by
  unfold departOwner
  try dsimp only
  repeat' first
    | with_reducible assumption
    | with_reducible intro _
    | with_reducible apply keeps_modChapel
    | with_reducible apply keeps_askStopChapel
    | with_reducible apply keeps_faultK
    | with_reducible apply keeps_logDeparted
    | with_reducible apply keeps_ite
    | with_reducible apply keeps_id
    | with_reducible apply Cell.ok_ite
    | split

theorem keeps_peerDeparted {t cause : Nat} (hs : s0.Keeps s) :
    s0.Keeps (peerDeparted s t cause) := by
  unfold peerDeparted
  try dsimp only
  repeat' first
    | with_reducible assumption
    | with_reducible intro _
    | with_reducible apply keeps_stopTraffic
    | with_reducible apply keeps_departOwner
    | with_reducible apply keeps_ite

theorem keeps_linkDown {t cause : Nat} (hs : s0.Keeps s) :
    s0.Keeps (linkDown s t cause) := by
  unfold linkDown
  try dsimp only
  repeat' first
    | with_reducible assumption
    | with_reducible intro _
    | with_reducible apply keeps_modLink
    | with_reducible apply keeps_failCmd
    | with_reducible apply keeps_sendCtrl
    | with_reducible apply keeps_countLink
    | with_reducible apply keeps_logLink
    | with_reducible apply keeps_stopTraffic
    | with_reducible apply keeps_peerDeparted
    | with_reducible apply keeps_ite
    | with_reducible apply keeps_id
    | with_reducible apply Cell.ok_ite
    | split

theorem keeps_settleOwner {t : Nat} (hs : s0.Keeps s) :
    s0.Keeps (settleOwner s t) := by
  unfold settleOwner
  try dsimp only
  repeat' first
    | with_reducible assumption
    | with_reducible intro _
    | with_reducible apply keeps_setLinkState
    | with_reducible apply keeps_dropRequests
    | with_reducible apply keeps_settleSlot
    | with_reducible apply keeps_ite

theorem keeps_startRestripe {t : Nat} {m : BitVec 8} (hs : s0.Keeps s) :
    s0.Keeps (startRestripe s t m) := by
  unfold startRestripe
  try dsimp only
  repeat' first
    | with_reducible assumption
    | with_reducible intro _
    | with_reducible apply keeps_modLink
    | with_reducible apply keeps_setLinkState
    | with_reducible apply keeps_linkDown
    | with_reducible apply keeps_ite

theorem keeps_loseLane {t x : Nat} (hs : s0.Keeps s) :
    s0.Keeps (loseLane s t x) := by
  unfold loseLane
  try dsimp only
  repeat' first
    | with_reducible assumption
    | with_reducible intro _
    | with_reducible apply keeps_modLink
    | with_reducible apply keeps_logLink
    | with_reducible apply keeps_ite

theorem keeps_dropLanes {t : Nat} {m : BitVec 8} (hs : s0.Keeps s) :
    s0.Keeps (dropLanes s t m) := by
  unfold dropLanes
  try dsimp only
  repeat' first
    | with_reducible assumption
    | with_reducible intro _
    | with_reducible apply keeps_startRestripe
    | with_reducible apply keeps_loseLane
    | with_reducible apply keeps_foldl _

theorem keeps_ownLoss {t x : Nat} (hs : s0.Keeps s) :
    s0.Keeps (ownLoss s t x) := by
  unfold ownLoss
  try dsimp only
  repeat' first
    | with_reducible assumption
    | with_reducible intro _
    | with_reducible apply keeps_sendCtrl
    | with_reducible apply keeps_dropLanes

theorem keeps_restoreLanes {t : Nat} {m : BitVec 8} (hs : s0.Keeps s) :
    s0.Keeps (restoreLanes s t m) := by
  unfold restoreLanes
  try dsimp only
  repeat' first
    | with_reducible assumption
    | with_reducible intro _
    | with_reducible apply keeps_modLink
    | with_reducible apply keeps_startRestripe

theorem keeps_startRestore {t : Nat} (hs : s0.Keeps s) :
    s0.Keeps (startRestore s t) := by
  unfold startRestore
  try dsimp only
  repeat' first
    | with_reducible assumption
    | with_reducible intro _
    | with_reducible apply keeps_sendCtrl
    | with_reducible apply keeps_restoreLanes
    | with_reducible apply keeps_ite

theorem keeps_settleRestore {t : Nat} (hs : s0.Keeps s) :
    s0.Keeps (settleRestore s t) := by
  unfold settleRestore
  try dsimp only
  repeat' first
    | with_reducible assumption
    | with_reducible intro _
    | with_reducible apply keeps_startRestore
    | with_reducible apply keeps_ite

theorem keeps_popUnit {t k : Nat} (hs : s0.Keeps s) :
    s0.Keeps (popUnit s t k) := by
  unfold popUnit
  try dsimp only
  repeat' first
    | with_reducible assumption
    | with_reducible intro _
    | with_reducible apply keeps_modCell
    | with_reducible apply keeps_modLink
    | with_reducible apply Cell.ok_modAisle
    | with_reducible apply Cell.ok_modCh
    | with_reducible apply keeps_ite
    | with_reducible apply keeps_id
    | with_reducible apply Cell.ok_ite
    | split

theorem keeps_fillBlock {n t k room : Nat} (hs : s0.Keeps s) : s0.Keeps (fillBlock n s t k room).2 := by
  induction n generalizing s room with
  | zero => exact hs
  | succ n ih =>
    unfold fillBlock
    dsimp only
    split
    · exact hs
    · split
      · exact ih (keeps_modLink hs)
      · split
        · exact ih (keeps_modLink (keeps_popUnit hs))
        · exact hs

theorem keeps_nextBlock {t : Nat} (hs : s0.Keeps s) : s0.Keeps (nextBlock s t).2 := by
  unfold nextBlock
  dsimp only
  split
  · exact hs
  · exact keeps_modLink (keeps_fillBlock hs)

theorem keeps_nextBlocks {n t : Nat} (hs : s0.Keeps s) : s0.Keeps (nextBlocks n s t).2 := by
  induction n generalizing s with
  | zero => exact hs
  | succ n ih => exact ih (keeps_nextBlock hs)

theorem keeps_sendFrame {t : Nat} {f : Frame} (hs : s0.Keeps s) :
    s0.Keeps (sendFrame s t f) := by
  unfold sendFrame
  try dsimp only
  repeat' first
    | with_reducible assumption
    | with_reducible intro _
    | with_reducible apply keeps_modLink
    | with_reducible apply keeps_emit

theorem keeps_sendNew {t : Nat} (hs : s0.Keeps s) :
    s0.Keeps (sendNew s t) := by
  unfold sendNew
  try dsimp only
  repeat' first
    | with_reducible assumption
    | with_reducible intro _
    | with_reducible apply keeps_modLink
    | with_reducible apply keeps_nextBlocks
    | with_reducible apply keeps_sendFrame
    | with_reducible apply keeps_ite

theorem keeps_helloIn {t asset : Nat} {m : BitVec 8} (hs : s0.Keeps s) :
    s0.Keeps (helloIn s t asset m) := by
  unfold helloIn
  try dsimp only
  repeat' first
    | with_reducible assumption
    | with_reducible intro _
    | with_reducible apply keeps_modLink
    | with_reducible apply keeps_linkDown
    | with_reducible apply keeps_ite

theorem keeps_ownerIn {t c : Nat} (hs : s0.Keeps s) :
    s0.Keeps (ownerIn s t c) := by
  unfold ownerIn
  try dsimp only
  repeat' first
    | with_reducible assumption
    | with_reducible intro _
    | with_reducible apply keeps_modLink
    | with_reducible apply keeps_settleOwner

theorem keeps_laneDropIn {t : Nat} {m : BitVec 8} (hs : s0.Keeps s) :
    s0.Keeps (laneDropIn s t m) := by
  unfold laneDropIn
  try dsimp only
  repeat' first
    | with_reducible assumption
    | with_reducible intro _
    | with_reducible apply keeps_sendCtrl
    | with_reducible apply keeps_dropLanes
    | with_reducible apply keeps_ite

theorem keeps_laneRestoreIn {t : Nat} {m : BitVec 8} (hs : s0.Keeps s) :
    s0.Keeps (laneRestoreIn s t m) := by
  unfold laneRestoreIn
  try dsimp only
  repeat' first
    | with_reducible assumption
    | with_reducible intro _
    | with_reducible apply keeps_modLink
    | with_reducible apply keeps_settleRestore
    | with_reducible apply keeps_ite

theorem keeps_laneRetrainIn {t x : Nat} (hs : s0.Keeps s) :
    s0.Keeps (laneRetrainIn s t x) := by
  unfold laneRetrainIn
  try dsimp only
  repeat' first
    | with_reducible assumption
    | with_reducible intro _
    | with_reducible apply keeps_modLink
    | with_reducible apply keeps_ite

theorem keeps_departIn {t : Nat} {body : List Byte} (hs : s0.Keeps s) :
    s0.Keeps (departIn s t body) := by
  unfold departIn
  try dsimp only
  repeat' first
    | with_reducible assumption
    | with_reducible intro _
    | with_reducible apply keeps_faultK
    | with_reducible apply keeps_peerDeparted
    | with_reducible apply keeps_linkDown
    | with_reducible apply keeps_ite

theorem keeps_unknownIn {t op : Nat} (hs : s0.Keeps s) :
    s0.Keeps (unknownIn s t op) := by
  unfold unknownIn
  try dsimp only
  repeat' first
    | with_reducible assumption
    | with_reducible intro _
    | with_reducible apply keeps_modLink
    | with_reducible apply keeps_ite
    | with_reducible apply keeps_id
    | with_reducible apply Cell.ok_ite
    | split

theorem keeps_reservedOp {t op : Nat} (hs : s0.Keeps s) :
    s0.Keeps (reservedOp s t op) := by
  unfold reservedOp
  try dsimp only
  repeat' first
    | with_reducible assumption
    | with_reducible intro _
    | with_reducible apply keeps_sendCtrl
    | with_reducible apply keeps_logLink

theorem keeps_ctrlIn {t op arg : Nat} {body : List Byte} (hs : s0.Keeps s) :
    s0.Keeps (ctrlIn s t op arg body) := by
  unfold ctrlIn
  try dsimp only
  repeat' first
    | with_reducible assumption
    | with_reducible intro _
    | with_reducible apply keeps_linkDown
    | with_reducible apply keeps_helloIn
    | with_reducible apply keeps_ownerIn
    | with_reducible apply keeps_laneDropIn
    | with_reducible apply keeps_laneRestoreIn
    | with_reducible apply keeps_laneRetrainIn
    | with_reducible apply keeps_departIn
    | with_reducible apply keeps_unknownIn
    | with_reducible apply keeps_reservedOp
    | with_reducible apply keeps_ite
    | with_reducible apply keeps_id
    | with_reducible apply Cell.ok_ite
    | split

theorem keeps_ctrlReceived {t op arg : Nat} {body : List Byte} (hs : s0.Keeps s) :
    s0.Keeps (ctrlReceived s t op arg body) := by
  unfold ctrlReceived
  try dsimp only
  repeat' first
    | with_reducible assumption
    | with_reducible intro _
    | with_reducible apply keeps_modLink
    | with_reducible apply keeps_ctrlIn
    | with_reducible apply keeps_ite

theorem ran_ctrlRow {t op arg : Nat} {body : List Byte} (hs : s0.Keeps s) :
    s0.Ran (ctrlRow s t op arg body) := by
  unfold ctrlRow
  try dsimp only
  repeat' first
    | with_reducible assumption
    | with_reducible intro _
    | with_reducible apply keeps_ctrlReceived
    | with_reducible apply keeps_ite
    | with_reducible apply ran_possible

theorem keeps_gateEnterPacket {c n : Nat} {p : AislePkt} (hs : s0.Keeps s) :
    s0.Keeps (gateEnterPacket s c n p) := by
  unfold gateEnterPacket
  try dsimp only
  repeat' first
    | with_reducible assumption
    | with_reducible intro _
    | with_reducible apply keeps_modCell
    | with_reducible apply keeps_modChapel
    | with_reducible apply keeps_screenOuts
    | with_reducible apply Cell.ok_modAisle
    | with_reducible apply keeps_ite
    | with_reducible apply keeps_id
    | with_reducible apply Cell.ok_ite
    | split

theorem keeps_gateEnterFlit {c n : Nat} {f : ChFlit} (hs : s0.Keeps s) :
    s0.Keeps (gateEnterFlit s c n f) := by
  unfold gateEnterFlit
  try dsimp only
  repeat' first
    | with_reducible assumption
    | with_reducible intro _
    | with_reducible apply keeps_modCell
    | with_reducible apply keeps_modChapel
    | with_reducible apply Cell.ok_modCh

theorem keeps_forwardAnswered {t : Nat} {f : AmbFlit} (hs : s0.Keeps s) :
    s0.Keeps (forwardAnswered s t f) := by
  unfold forwardAnswered
  try dsimp only
  repeat' first
    | with_reducible assumption
    | with_reducible intro _
    | with_reducible apply keeps_modLink
    | with_reducible apply keeps_inject
    | with_reducible apply keeps_ite
    | with_reducible apply keeps_id
    | with_reducible apply Cell.ok_ite
    | split

theorem keeps_flitIn {t k : Nat} {unit : List Byte} (hs : s0.Keeps s) :
    s0.Keeps (flitIn s t k unit) := by
  unfold flitIn
  try dsimp only
  repeat' first
    | with_reducible assumption
    | with_reducible intro _
    | with_reducible apply keeps_logC
    | with_reducible apply keeps_inject
    | with_reducible apply keeps_relayIn
    | with_reducible apply keeps_forwardAnswered
    | with_reducible apply keeps_ite
    | with_reducible apply keeps_id
    | with_reducible apply Cell.ok_ite
    | split

theorem keeps_unitIn {t k : Nat} {unit : List Byte} (hs : s0.Keeps s) :
    s0.KeepsAll (unitIn s t k unit) := by
  unfold unitIn
  try dsimp only
  repeat' first
    | with_reducible assumption
    | with_reducible intro _
    | with_reducible apply keeps_modLink
    | with_reducible apply keeps_released
    | with_reducible apply keeps_countLink
    | with_reducible apply keeps_logLink
    | with_reducible apply keeps_gateEnterPacket
    | with_reducible apply keeps_gateEnterFlit
    | with_reducible apply keeps_flitIn
    | with_reducible apply keeps_ite
    | with_reducible apply keepsAll_none
    | with_reducible apply keepsAll_some
    | with_reducible apply keepsAll_ite
    | with_reducible apply keepsAll_map
    | with_reducible apply keepsAll_bind
    | with_reducible apply keepsAll_orElse
    | with_reducible apply keeps_id
    | with_reducible apply Cell.ok_ite
    | split

theorem keeps_feedBlock {n t k : Nat} {bs : List Byte} (h : s0.Keeps s) :
    s0.KeepsAll (feedBlock n s t k bs) := by
  induction n generalizing s bs with
  | zero => intro u hu; exact Option.some.inj hu ▸ h
  | succ n ih =>
    intro u hu
    cases bs with
    | nil => exact Option.some.inj hu ▸ h
    | cons b bs =>
      unfold feedBlock at hu
      dsimp only at hu
      split at hu
      · exact Option.some.inj hu ▸ h
      · split at hu
        · exact absurd hu (by simp)
        · split at hu
          · split at hu
            · exact absurd hu (by simp)
            · exact ih (keeps_unitIn (keeps_modLink h) _ (by assumption)) u hu
          · exact ih (keeps_modLink h) u hu

theorem keeps_feedBlocks {t : Nat} {l : List (Nat × List Byte)} (h : s0.Keeps s) :
    s0.KeepsAll (feedBlocks l s t) := by
  induction l generalizing s with
  | nil => intro u hu; exact Option.some.inj hu ▸ h
  | cons e l ih =>
    intro u hu
    unfold feedBlocks at hu
    split at hu
    · exact ih h u hu
    · split at hu
      · exact absurd hu (by simp)
      · split at hu
        · exact absurd hu (by simp)
        · exact ih (keeps_feedBlock h _ (by assumption)) u hu

theorem keeps_frameFails {t : Nat} (hs : s0.Keeps s) :
    s0.Keeps (frameFails s t) := by
  unfold frameFails
  try dsimp only
  repeat' first
    | with_reducible assumption
    | with_reducible intro _
    | with_reducible apply keeps_modLink

theorem keeps_countErrors {t : Nat} {errs : List Nat} (hs : s0.Keeps s) :
    s0.Keeps (countErrors s t errs) := by
  unfold countErrors
  try dsimp only
  repeat' first
    | with_reducible assumption
    | with_reducible intro _
    | with_reducible apply keeps_modLink

theorem keeps_takeControl {t : Nat} {f : Frame} (hs : s0.Keeps s) :
    s0.KeepsAll (takeControl s t f) := by
  unfold takeControl
  try dsimp only
  repeat' first
    | with_reducible assumption
    | with_reducible intro _
    | with_reducible apply keeps_modLink
    | with_reducible apply keeps_logLink
    | with_reducible apply keeps_when _
    | with_reducible apply keeps_ite
    | with_reducible apply keepsAll_none
    | with_reducible apply keepsAll_some
    | with_reducible apply keepsAll_ite
    | with_reducible apply keepsAll_map

theorem keeps_takeTraffic {t : Nat} {f : Frame} (hs : s0.Keeps s) : s0.Keeps (takeTraffic s t f) := by
  unfold takeTraffic
  dsimp only
  split
  · split
    · exact keeps_feedBlocks (keeps_modLink hs) _ (by assumption)
    · exact keeps_linkDown (keeps_modLink hs)
  · exact keeps_ite hs (keeps_frameFails hs)

theorem keeps_frameGood {t : Nat} {f : Frame} (hs : s0.Keeps s) : s0.Keeps (frameGood s t f) := by
  unfold frameGood
  dsimp only
  split
  · exact keeps_modLink hs
  · split
    · exact keeps_linkDown hs
    · have h := keeps_takeControl hs _ (by assumption)
      exact keeps_ite (keeps_ctrlReceived h) (keeps_takeTraffic (keeps_ctrlReceived h))

theorem keeps_beginTrain {t : Nat} (hs : s0.Keeps s) :
    s0.Keeps (beginTrain s t) := by
  unfold beginTrain
  try dsimp only
  repeat' first
    | with_reducible assumption
    | with_reducible intro _
    | with_reducible apply keeps_modLink
    | with_reducible apply keeps_setLinkState
    | with_reducible apply keeps_logLink
    | with_reducible apply keeps_ite

theorem keeps_resetSlot {c n : Nat} (hs : s0.Keeps s) :
    s0.Keeps (resetSlot s c n) := by
  unfold resetSlot
  try dsimp only
  repeat' first
    | with_reducible assumption
    | with_reducible intro _
    | with_reducible apply keeps_modCell
    | with_reducible apply keeps_next
    | with_reducible apply keeps_failInst
    | with_reducible apply Cell.ok_modUni
    | with_reducible apply Cell.ok_closeTx
    | with_reducible apply keeps_foldl _
    | with_reducible apply Cell.ok_foldl
    | with_reducible apply keeps_ite

theorem keeps_linkTrain {c : Cmd} (hs : s0.Keeps s) :
    s0.Keeps (linkTrain s c) := by
  unfold linkTrain
  try dsimp only
  repeat' first
    | with_reducible assumption
    | with_reducible intro _
    | with_reducible apply keeps_failCmd
    | with_reducible apply keeps_doneCmd
    | with_reducible apply keeps_setLinkState
    | with_reducible apply keeps_linkDown
    | with_reducible apply keeps_beginTrain
    | with_reducible apply keeps_resetSlot
    | with_reducible apply keeps_ite

theorem keeps_linkAssign {c : Cmd} (hs : s0.Keeps s) :
    s0.Keeps (linkAssign s c) := by
  unfold linkAssign
  try dsimp only
  repeat' first
    | with_reducible assumption
    | with_reducible intro _
    | with_reducible apply keeps_modLink
    | with_reducible apply keeps_failCmd
    | with_reducible apply keeps_doneCmd
    | with_reducible apply keeps_sendCtrl
    | with_reducible apply keeps_refuse
    | with_reducible apply keeps_dropRequests
    | with_reducible apply keeps_settleSlot
    | with_reducible apply keeps_settleOwner
    | with_reducible apply keeps_ite

theorem keeps_performCell {f : AmbFlit} (hs : s0.Keeps s) :
    s0.Keeps (performCell s f) := by
  unfold performCell
  try dsimp only
  repeat' first
    | with_reducible assumption
    | with_reducible intro _
    | with_reducible apply keeps_modCell
    | with_reducible apply keeps_respond
    | with_reducible apply keeps_ite
    | with_reducible apply keeps_id
    | with_reducible apply Cell.ok_ite
    | split
    | with_reducible refine Cell.ok_mk ?_
    | with_reducible refine Cell.ok_write ?_

theorem keeps_forwardReq {t : Nat} {f : AmbFlit} (hs : s0.Keeps s) :
    s0.Keeps (forwardReq s t f) := by
  unfold forwardReq
  try dsimp only
  repeat' first
    | with_reducible assumption
    | with_reducible intro _
    | with_reducible apply keeps_modLink
    | with_reducible apply keeps_flitUnit
    | with_reducible apply keeps_queueUnit
    | with_reducible apply keeps_answerLinkDown
    | with_reducible apply keeps_ite
    | with_reducible apply keeps_id
    | with_reducible apply Cell.ok_ite
    | split

theorem keeps_acceptReq {f : AmbFlit} (hs : s0.Keeps s) :
    s0.Keeps (acceptReq s f) := by
  unfold acceptReq
  try dsimp only
  repeat' first
    | with_reducible assumption
    | with_reducible intro _
    | with_reducible apply keeps_modHp
    | with_reducible apply keeps_hbmAccept
    | with_reducible apply keeps_performCell
    | with_reducible apply keeps_forwardReq
    | with_reducible apply keeps_ite

theorem keeps_lateRsp {f : AmbFlit} (hs : s0.Keeps s) :
    s0.Keeps (lateRsp s f) := by
  unfold lateRsp
  try dsimp only
  repeat' first
    | with_reducible assumption
    | with_reducible intro _
    | with_reducible apply keeps_logC

theorem keeps_cellResponse {g : Nat} {f : AmbFlit} (hs : s0.Keeps s) :
    s0.Keeps (cellResponse s g f) := by
  unfold cellResponse
  try dsimp only
  repeat' first
    | with_reducible assumption
    | with_reducible intro _
    | with_reducible apply keeps_completeAccess
    | with_reducible apply keeps_engineResponse
    | with_reducible apply keeps_lateRsp
    | with_reducible apply keeps_ite

theorem keeps_responseAt {ep : Nat} {f : AmbFlit} (hs : s0.Keeps s) :
    s0.Keeps (responseAt s ep f) := by
  unfold responseAt
  try dsimp only
  repeat' first
    | with_reducible assumption
    | with_reducible intro _
    | with_reducible apply keeps_moverResponse
    | with_reducible apply keeps_relayDone
    | with_reducible apply keeps_lateRsp
    | with_reducible apply keeps_cellResponse
    | with_reducible apply keeps_ite

theorem keeps_abortTrackers {g : Nat} (hs : s0.Keeps s) :
    s0.Keeps (abortTrackers s g) := by
  unfold abortTrackers
  try dsimp only
  repeat' first
    | with_reducible assumption
    | with_reducible intro _
    | with_reducible apply keeps_modEnd
    | with_reducible apply keeps_inject
    | with_reducible apply keeps_finishAccess
    | with_reducible apply keeps_engineResponse
    | with_reducible apply keeps_foldl _

end Sys2Proof.Machine
end

