-- ==== Sys2Proof/Laws/KeepPackage.lean ====
section
/-! SUPPORT. The queue and the invariant under the shared operations of the commands' shared operations and the
cloister (Chapels, Screens, Gatehouse, Interlock, Reliquary, Registers, System): one lemma per operation. -/

namespace Sys2Proof.Machine

variable {s s0 : State}

theorem keeps_patternWake {i index : Nat} {synthetic : Bool} (hs : s0.Keeps s) :
    s0.Keeps (patternWake s i index synthetic) := by
  unfold patternWake
  try dsimp only
  repeat' first
    | with_reducible assumption
    | with_reducible intro _
    | with_reducible apply keeps_post
    | with_reducible apply keeps_wakeSource
    | with_reducible apply keeps_ite
    | with_reducible apply keeps_id
    | with_reducible apply Cell.ok_ite
    | split
    | with_reducible refine Cell.ok_mk ?_
    | with_reducible refine Cell.ok_write ?_
    | with_reducible refine keeps_mk ?_ rfl rfl rfl ⟨rfl, rfl, rfl⟩ ⟨rfl, rfl, rfl, rfl, rfl⟩ rfl rfl rfl rfl rfl rfl rfl

theorem keeps_decidePattern {f : FrameDue} {i : Nat} (hs : s0.Keeps s) :
    s0.Keeps (decidePattern f s i) := by
  unfold decidePattern
  try dsimp only
  repeat' first
    | with_reducible assumption
    | with_reducible intro _
    | with_reducible apply keeps_next
    | with_reducible apply keeps_patternWake
    | with_reducible apply keeps_ite
    | with_reducible apply keeps_id
    | with_reducible apply Cell.ok_ite
    | split
    | with_reducible refine Cell.ok_mk ?_
    | with_reducible refine Cell.ok_write ?_
    | with_reducible refine keeps_mk ?_ rfl rfl rfl ⟨rfl, rfl, rfl⟩ ⟨rfl, rfl, rfl, rfl, rfl⟩ rfl rfl rfl rfl rfl rfl rfl

theorem keeps_decideFrame (hs : s0.Keeps s) :
    s0.Keeps (decideFrame s) := by
  unfold decideFrame
  try dsimp only
  repeat' first
    | with_reducible assumption
    | with_reducible intro _
    | with_reducible apply keeps_decidePattern
    | with_reducible apply keeps_foldl _
    | with_reducible apply Cell.ok_foldl
    | with_reducible apply keeps_ite
    | with_reducible apply keeps_id
    | with_reducible apply Cell.ok_ite
    | split
    | with_reducible refine Cell.ok_mk ?_
    | with_reducible refine Cell.ok_write ?_
    | with_reducible refine keeps_mk ?_ rfl rfl rfl ⟨rfl, rfl, rfl⟩ ⟨rfl, rfl, rfl, rfl, rfl⟩ rfl rfl rfl rfl rfl rfl rfl

theorem keeps_packageReset (hs : s0.Keeps s) : s0.Keeps (packageReset s) := by
  unfold packageReset
  dsimp only
  have h := keeps_makeCapsule (trigger := 4) (cause := 0) hs
  refine keeps_newEpoch (h.trans ⟨rfl, fun i => ?_⟩)
  exact { i with
    rate := rate_reset, timeout := timeout_reset, stores := (fun _ h => nomatch h), chapels := rfl, cells := rfl
    links := rfl, aisleBays := rfl, hbmStacks := Tbl.wf_mapFilter _ _ i.hbmStacks fun _ h => of_decide_eq_true h }

theorem keeps_settleReset (hs : s0.Keeps s) :
    s0.Keeps (settleReset s) := by
  unfold settleReset
  try dsimp only
  repeat' first
    | with_reducible assumption
    | with_reducible intro _
    | with_reducible apply keeps_packageReset
    | with_reducible apply keeps_ite

theorem keeps_formChapel {c : Nat} {h : Chapel} {grant : Nat} (hs : s0.Keeps s) :
    s0.Keeps (formChapel s c h grant) := by
  unfold formChapel
  refine keeps_setChState (keeps_modChapel (keeps_foldl _ ?_ fun _ _ h => keeps_modBay h))
  exact (keeps_filterCells hs).trans ⟨rfl, fun i => { i with aisleBays := Tbl.wf_filter _ i.aisleBays }⟩

theorem keeps_becomePaused {c hard : Nat} {flags : Chapel → Chapel} (hs : s0.Keeps s) :
    s0.Keeps (becomePaused s c hard flags) := by
  unfold becomePaused
  try dsimp only
  repeat' first
    | with_reducible assumption
    | with_reducible intro _
    | with_reducible apply keeps_modChapel
    | with_reducible apply keeps_doneCmd
    | with_reducible apply keeps_setChState
    | with_reducible apply keeps_foldl _

theorem Cell.ok_evicted {x : Cell} (hc : x.ok) : (Cell.evicted x).ok := by
  unfold Cell.evicted
  try dsimp only
  repeat' first
    | with_reducible assumption
    | with_reducible intro _
    | with_reducible apply Cell.ok_ite
    | (with_reducible refine Cell.ok_mk ?_; with_reducible assumption)

theorem keeps_evictChapel {c : Nat} (hs : s0.Keeps s) :
    s0.Keeps (evictChapel s c) := by
  unfold evictChapel
  try dsimp only
  repeat' first
    | with_reducible assumption
    | with_reducible intro _
    | with_reducible apply keeps_modChapel
    | with_reducible apply keeps_modCells
    | with_reducible apply keeps_setChState
    | with_reducible apply keeps_abortTrackers
    | with_reducible apply keeps_abandonPass
    | with_reducible apply Cell.ok_evicted
    | with_reducible apply keeps_foldl _
    | with_reducible apply Cell.ok_foldl
    | with_reducible apply keeps_ite
    | with_reducible apply keeps_id
    | with_reducible apply Cell.ok_ite
    | (with_reducible refine Cell.ok_mk ?_; with_reducible assumption)

theorem keeps_evictDone {c : Nat} (hs : s0.Keeps s) :
    s0.Keeps (evictDone s c) := by
  unfold evictDone
  try dsimp only
  repeat' first
    | with_reducible assumption
    | with_reducible intro _
    | with_reducible apply keeps_doneCmd
    | with_reducible apply keeps_teardown
    | with_reducible apply keeps_settleReset
    | with_reducible apply keeps_foldl _

theorem Cell.ok_writeRows {c : Cell} {rows : List (Nat × Nat)} {data : List (List Byte)} (hc : c.ok) :
    (c.writeRows rows data).ok := by
  unfold Cell.writeRows
  show Memory.wf _ = true
  dsimp only
  generalize List.zip rows data = l
  have h : c.store.wf = true := hc
  revert h
  generalize c.store = m
  induction l generalizing m with
  | nil => exact id
  | cons e l ih => exact fun h => ih _ (Memory.wf_writeBytes _ _ h)

theorem Cell.ok_choirAnswer {c : Cell} {j : ChoirJob} {v : Nat} (hc : c.ok) : (Cell.choirAnswer c j v).ok := by
  unfold Cell.choirAnswer
  try dsimp only
  repeat' first
    | with_reducible assumption
    | with_reducible intro _
    | with_reducible apply Cell.ok_modCtx
    | with_reducible apply Cell.ok_retryWhere

theorem keeps_proposalEvent {value : Byte} {id : BitVec 32} (hs : s0.Keeps s) :
    s0.Keeps (proposalEvent s value id) := by
  unfold proposalEvent
  try dsimp only
  repeat' first
    | with_reducible assumption
    | with_reducible intro _
    | with_reducible apply keeps_post

theorem keeps_dropProposal (hs : s0.Keeps s) :
    s0.Keeps (dropProposal s) := by
  unfold dropProposal
  try dsimp only
  repeat' first
    | with_reducible assumption
    | with_reducible intro _
    | with_reducible apply keeps_ite
    | with_reducible apply keeps_id
    | with_reducible apply Cell.ok_ite
    | split
    | with_reducible refine Cell.ok_mk ?_
    | with_reducible refine Cell.ok_write ?_
    | with_reducible refine keeps_mk ?_ rfl rfl rfl ⟨rfl, rfl, rfl⟩ ⟨rfl, rfl, rfl, rfl, rfl⟩ rfl rfl rfl rfl rfl rfl rfl

theorem keeps_expireProposal {p : Proposal} (hs : s0.Keeps s) :
    s0.Keeps (expireProposal s p) := by
  unfold expireProposal
  try dsimp only
  repeat' first
    | with_reducible assumption
    | with_reducible intro _
    | with_reducible apply keeps_ite
    | with_reducible apply keeps_id
    | with_reducible apply Cell.ok_ite
    | split
    | with_reducible refine Cell.ok_mk ?_
    | with_reducible refine Cell.ok_write ?_
    | with_reducible refine keeps_mk ?_ rfl rfl rfl ⟨rfl, rfl, rfl⟩ ⟨rfl, rfl, rfl, rfl, rfl⟩ rfl rfl rfl rfl rfl rfl rfl

theorem keeps_tsReach {t : Nat} (hs : s0.Keeps s) :
    s0.Keeps (tsReach s t) := by
  unfold tsReach
  try dsimp only
  repeat' first
    | with_reducible assumption
    | with_reducible intro _
    | with_reducible apply keeps_ite
    | with_reducible apply keeps_id
    | with_reducible apply Cell.ok_ite
    | split
    | with_reducible refine Cell.ok_mk ?_
    | with_reducible refine Cell.ok_write ?_
    | with_reducible refine keeps_mk ?_ rfl rfl rfl ⟨rfl, rfl, rfl⟩ ⟨rfl, rfl, rfl, rfl, rfl⟩ rfl rfl rfl rfl rfl rfl rfl

theorem keeps_endApproval (hs : s0.Keeps s) :
    s0.Keeps (endApproval s) := by
  unfold endApproval
  try dsimp only
  repeat' first
    | with_reducible assumption
    | with_reducible intro _
    | with_reducible apply keeps_ite
    | with_reducible apply keeps_id
    | with_reducible apply Cell.ok_ite
    | split
    | with_reducible refine Cell.ok_mk ?_
    | with_reducible refine Cell.ok_write ?_
    | with_reducible refine keeps_mk ?_ rfl rfl rfl ⟨rfl, rfl, rfl⟩ ⟨rfl, rfl, rfl, rfl, rfl⟩ rfl rfl rfl rfl rfl rfl rfl

theorem keeps_recordProposal {c : Cmd} {kind : ProposalKind} {image : List Byte} {slot : Nat} (hs : s0.Keeps s) :
    s0.Keeps (recordProposal s c kind image slot) := by
  unfold recordProposal
  try dsimp only
  repeat' first
    | with_reducible assumption
    | with_reducible intro _
    | with_reducible apply keeps_completeCmd
    | with_reducible apply keeps_failCmd
    | with_reducible apply keeps_touch
    | with_reducible apply keeps_proposalEvent
    | with_reducible apply keeps_ite
    | with_reducible apply keeps_id
    | with_reducible apply Cell.ok_ite
    | split
    | with_reducible refine Cell.ok_mk ?_
    | with_reducible refine Cell.ok_write ?_
    | with_reducible refine keeps_mk ?_ rfl rfl rfl ⟨rfl, rfl, rfl⟩ ⟨rfl, rfl, rfl, rfl, rfl⟩ rfl rfl rfl rfl rfl rfl rfl

theorem keeps_approved {c : Cmd} {p : Proposal} (hs : s0.Keeps s) :
    s0.Keeps (approved s c p) := by
  unfold approved
  try dsimp only
  repeat' first
    | with_reducible assumption
    | with_reducible intro _
    | with_reducible apply keeps_doneCmd
    | with_reducible apply keeps_proposalEvent
    | with_reducible apply keeps_dropProposal

theorem keeps_setParty {slot kind : Nat} {key : List Byte} (hs : s0.Keeps s) :
    s0.Keeps (setParty s slot kind key) := by
  unfold setParty
  try dsimp only
  repeat' first
    | with_reducible assumption
    | with_reducible intro _
    | with_reducible apply keeps_ite
    | with_reducible apply keeps_id
    | with_reducible apply Cell.ok_ite
    | split
    | with_reducible refine Cell.ok_mk ?_
    | with_reducible refine Cell.ok_write ?_
    | with_reducible refine keeps_mk ?_ rfl rfl rfl ⟨rfl, rfl, rfl⟩ ⟨rfl, rfl, rfl, rfl, rfl⟩ rfl rfl rfl rfl rfl rfl rfl

theorem keeps_countApproval {c : Cmd} {p : Proposal} (hs : s0.Keeps s) :
    s0.Keeps (countApproval s c p) := by
  unfold countApproval
  try dsimp only
  repeat' first
    | with_reducible assumption
    | with_reducible intro _
    | with_reducible apply keeps_failCmd
    | with_reducible apply keeps_touch
    | with_reducible apply keeps_refuse
    | with_reducible apply keeps_patternWake
    | with_reducible apply keeps_proposalEvent
    | with_reducible apply keeps_dropProposal
    | with_reducible apply keeps_expireProposal
    | with_reducible apply keeps_approved
    | with_reducible apply keeps_setParty
    | with_reducible apply keeps_ite
    | with_reducible apply keeps_id
    | with_reducible apply Cell.ok_ite
    | split
    | with_reducible refine Cell.ok_mk ?_
    | with_reducible refine Cell.ok_write ?_
    | with_reducible refine keeps_mk ?_ rfl rfl rfl ⟨rfl, rfl, rfl⟩ ⟨rfl, rfl, rfl, rfl, rfl⟩ rfl rfl rfl rfl rfl rfl rfl

theorem keeps_hostApproval {c : Cmd} {p : Proposal} {q : Party} (hs : s0.Keeps s) :
    s0.Keeps (hostApproval s c p q) := by
  unfold hostApproval
  try dsimp only
  repeat' first
    | with_reducible assumption
    | with_reducible intro _
    | with_reducible apply keeps_failCmd
    | with_reducible apply keeps_refuse
    | with_reducible apply keeps_countApproval
    | with_reducible apply keeps_ite

theorem keeps_badgeApproval {c : Cmd} {p : Proposal} {q : Party} (hs : s0.Keeps s) :
    s0.Keeps (badgeApproval s c p q) := by
  unfold badgeApproval
  try dsimp only
  repeat' first
    | with_reducible assumption
    | with_reducible intro _
    | with_reducible apply keeps_failCmd
    | with_reducible apply keeps_ite
    | with_reducible apply keeps_id
    | with_reducible apply Cell.ok_ite
    | split
    | with_reducible refine Cell.ok_mk ?_
    | with_reducible refine Cell.ok_write ?_
    | with_reducible refine keeps_mk ?_ rfl rfl rfl ⟨rfl, rfl, rfl⟩ ⟨rfl, rfl, rfl, rfl, rfl⟩ rfl rfl rfl rfl rfl rfl rfl

theorem keeps_finishBadge {r : BadgeRun} (hs : s0.Keeps s) :
    s0.Keeps (finishBadge s r) := by
  unfold finishBadge
  try dsimp only
  repeat' first
    | with_reducible assumption
    | with_reducible intro _
    | with_reducible apply keeps_failCmd
    | with_reducible apply keeps_endApproval
    | with_reducible apply keeps_countApproval
    | with_reducible apply keeps_ite
    | with_reducible apply keeps_id
    | with_reducible apply Cell.ok_ite
    | split

theorem keeps_failBadge {status detail : Nat} (hs : s0.Keeps s) :
    s0.Keeps (failBadge s status detail) := by
  unfold failBadge
  try dsimp only
  repeat' first
    | with_reducible assumption
    | with_reducible intro _
    | with_reducible apply keeps_failCmd
    | with_reducible apply keeps_endApproval
    | with_reducible apply keeps_ite
    | with_reducible apply keeps_id
    | with_reducible apply Cell.ok_ite
    | split

theorem keeps_withdrawOf {p : HPort} (hs : s0.Keeps s) :
    s0.Keeps (withdrawOf s p) := by
  unfold withdrawOf
  try dsimp only
  repeat' first
    | with_reducible assumption
    | with_reducible intro _
    | with_reducible apply keeps_proposalEvent
    | with_reducible apply keeps_dropProposal
    | with_reducible apply keeps_failBadge
    | with_reducible apply keeps_ite
    | with_reducible apply keeps_id
    | with_reducible apply Cell.ok_ite
    | split

theorem keeps_modGate {f : Gatehouse → Gatehouse} (hs : s0.Keeps s) :
    s0.Keeps (State.modGate s f) := by
  unfold State.modGate
  try dsimp only
  repeat' first
    | with_reducible assumption
    | with_reducible intro _
    | with_reducible apply keeps_ite
    | with_reducible apply keeps_id
    | with_reducible apply Cell.ok_ite
    | split
    | with_reducible refine Cell.ok_mk ?_
    | with_reducible refine Cell.ok_write ?_
    | with_reducible refine keeps_mk ?_ rfl rfl rfl ⟨rfl, rfl, rfl⟩ ⟨rfl, rfl, rfl, rfl, rfl⟩ rfl rfl rfl rfl rfl rfl rfl

theorem keeps_protoError (hs : s0.Keeps s) :
    s0.Keeps (protoError s) := by
  unfold protoError
  try dsimp only
  repeat' first
    | with_reducible assumption
    | with_reducible intro _
    | with_reducible apply keeps_modGate

theorem keeps_radioFrame {data : List Byte} (hs : s0.Keeps s) :
    s0.Keeps (radioFrame s data) := by
  unfold radioFrame
  try dsimp only
  repeat' first
    | with_reducible assumption
    | with_reducible intro _
    | with_reducible apply keeps_emit
    | with_reducible apply keeps_ite

theorem keeps_cardDetect {antenna : Nat} (hs : s0.Keeps s) :
    s0.Keeps (cardDetect s antenna) := by
  unfold cardDetect
  try dsimp only
  repeat' first
    | with_reducible assumption
    | with_reducible intro _
    | with_reducible apply keeps_post
    | with_reducible apply keeps_wakeSource
    | with_reducible apply keeps_modGate
    | with_reducible apply keeps_ite

theorem keeps_falseDetect (hs : s0.Keeps s) :
    s0.Keeps (falseDetect s) := by
  unfold falseDetect
  try dsimp only
  repeat' first
    | with_reducible assumption
    | with_reducible intro _
    | with_reducible apply keeps_modGate

theorem keeps_badgeSend {r : BadgeRun} (hs : s0.Keeps s) :
    s0.Keeps (badgeSend s r) := by
  unfold badgeSend
  try dsimp only
  repeat' first
    | with_reducible assumption
    | with_reducible intro _
    | with_reducible apply keeps_modGate
    | with_reducible apply keeps_radioFrame

theorem keeps_cardGone {r : BadgeRun} (hs : s0.Keeps s) :
    s0.Keeps (cardGone s r) := by
  unfold cardGone
  try dsimp only
  repeat' first
    | with_reducible assumption
    | with_reducible intro _
    | with_reducible apply keeps_modGate

theorem keeps_cardBroken {r : BadgeRun} {uid : List Byte} {frame : List Byte} (hs : s0.Keeps s) :
    s0.Keeps (cardBroken s r uid frame) := by
  unfold cardBroken
  try dsimp only
  repeat' first
    | with_reducible assumption
    | with_reducible intro _
    | with_reducible apply keeps_protoError
    | with_reducible apply keeps_radioFrame
    | with_reducible apply keeps_cardGone

theorem keeps_badgeRefused (hs : s0.Keeps s) :
    s0.Keeps (badgeRefused s) := by
  unfold badgeRefused
  try dsimp only
  repeat' first
    | with_reducible assumption
    | with_reducible intro _
    | with_reducible apply keeps_failBadge
    | with_reducible apply keeps_protoError

theorem keeps_cardUnanswered {r : BadgeRun} (hs : s0.Keeps s) :
    s0.Keeps (cardUnanswered s r) := by
  unfold cardUnanswered
  try dsimp only
  repeat' first
    | with_reducible assumption
    | with_reducible intro _
    | with_reducible apply keeps_finishBadge
    | with_reducible apply keeps_modGate
    | with_reducible apply keeps_radioFrame
    | with_reducible apply keeps_cardGone
    | with_reducible apply keeps_ite

theorem keeps_badgeAnswer {r : BadgeRun} (hs : s0.Keeps s) :
    s0.Keeps (badgeAnswer s r) := by
  unfold badgeAnswer
  try dsimp only
  repeat' first
    | with_reducible assumption
    | with_reducible intro _
    | with_reducible apply keeps_badgeSend
    | with_reducible apply keeps_badgeRefused
    | with_reducible apply keeps_ite

theorem keeps_badgeBlock {r : BadgeRun} {a : CardAnswer} (hs : s0.Keeps s) :
    s0.Keeps (badgeBlock s r a) := by
  unfold badgeBlock
  try dsimp only
  repeat' first
    | with_reducible assumption
    | with_reducible intro _
    | with_reducible apply keeps_modGate
    | with_reducible apply keeps_protoError
    | with_reducible apply keeps_radioFrame
    | with_reducible apply keeps_cardGone
    | with_reducible apply keeps_badgeAnswer
    | with_reducible apply keeps_ite
    | with_reducible apply keeps_id
    | with_reducible apply Cell.ok_ite
    | split

theorem keeps_badgeStep {r : BadgeRun} {a : CardAnswer} (hs : s0.Keeps s) :
    s0.Keeps (badgeStep s r a) := by
  unfold badgeStep
  try dsimp only
  repeat' first
    | with_reducible assumption
    | with_reducible intro _
    | with_reducible apply keeps_finishBadge
    | with_reducible apply keeps_protoError
    | with_reducible apply keeps_radioFrame
    | with_reducible apply keeps_badgeSend
    | with_reducible apply keeps_cardGone
    | with_reducible apply keeps_cardBroken
    | with_reducible apply keeps_cardUnanswered
    | with_reducible apply keeps_badgeBlock
    | with_reducible apply keeps_ite
    | with_reducible apply keeps_id
    | with_reducible apply Cell.ok_ite
    | split

theorem keeps_finishOp {o : ReaderOp} {status detail : Nat} {data : List Byte} {result : Nat} {sweep wrOk : Bool}
    (hs : s0.Keeps s) :
    s0.Keeps (finishOp s o status detail data result sweep wrOk) := by
  unfold finishOp
  try dsimp only
  repeat' first
    | with_reducible assumption
    | with_reducible intro _
    | with_reducible apply keeps_completeCmd
    | with_reducible apply keeps_touch
    | with_reducible apply keeps_writeBuffer
    | with_reducible apply keeps_modGate
    | with_reducible apply keeps_when _
    | with_reducible apply keeps_ite
    | with_reducible apply keeps_id
    | with_reducible apply Cell.ok_ite
    | split

theorem keeps_opSend {o : ReaderOp} (hs : s0.Keeps s) :
    s0.Keeps (opSend s o) := by
  unfold opSend
  try dsimp only
  repeat' first
    | with_reducible assumption
    | with_reducible intro _
    | with_reducible apply keeps_modGate
    | with_reducible apply keeps_radioFrame

theorem keeps_nextRound {o : ReaderOp} {wrOk : Bool} (hs : s0.Keeps s) :
    s0.Keeps (nextRound s o wrOk) := by
  unfold nextRound
  try dsimp only
  repeat' first
    | with_reducible assumption
    | with_reducible intro _
    | with_reducible apply keeps_finishOp
    | with_reducible apply keeps_opSend
    | with_reducible apply keeps_ite
    | with_reducible apply keeps_id
    | with_reducible apply Cell.ok_ite
    | split

theorem keeps_takeRound {o : ReaderOp} {len mask : Nat} {slots : List SlotAnswer} {wrOk : Bool} (hs : s0.Keeps s) :
    s0.Keeps (takeRound s o len mask slots wrOk) := by
  unfold takeRound
  try dsimp only
  repeat' first
    | with_reducible assumption
    | with_reducible intro _
    | with_reducible apply keeps_protoError
    | with_reducible apply keeps_radioFrame
    | with_reducible apply keeps_nextRound
    | with_reducible apply keeps_foldl _

theorem keeps_opBlocks {o : ReaderOp} {b : Nat} (hs : s0.Keeps s) :
    s0.Keeps (opBlocks s o b) := by
  unfold opBlocks
  try dsimp only
  repeat' first
    | with_reducible assumption
    | with_reducible intro _
    | with_reducible apply keeps_protoError
    | with_reducible apply keeps_finishOp
    | with_reducible apply keeps_opSend
    | with_reducible apply keeps_ite
    | with_reducible apply keeps_id
    | with_reducible apply Cell.ok_ite
    | split

theorem keeps_opUnanswered {o : ReaderOp} {wrOk : Bool} (hs : s0.Keeps s) :
    s0.Keeps (opUnanswered s o wrOk) := by
  unfold opUnanswered
  try dsimp only
  repeat' first
    | with_reducible assumption
    | with_reducible intro _
    | with_reducible apply keeps_modGate
    | with_reducible apply keeps_finishOp
    | with_reducible apply keeps_opSend
    | with_reducible apply keeps_nextRound
    | with_reducible apply keeps_opBlocks
    | with_reducible apply keeps_when _
    | with_reducible apply keeps_ite
    | with_reducible apply keeps_id
    | with_reducible apply Cell.ok_ite
    | split

theorem keeps_opStep {o : ReaderOp} {a : BankAnswer} {wrOk : Bool} (hs : s0.Keeps s) :
    s0.Keeps (opStep s o a wrOk) := by
  unfold opStep
  try dsimp only
  repeat' first
    | with_reducible assumption
    | with_reducible intro _
    | with_reducible apply keeps_protoError
    | with_reducible apply keeps_finishOp
    | with_reducible apply keeps_opSend
    | with_reducible apply keeps_takeRound
    | with_reducible apply keeps_opBlocks
    | with_reducible apply keeps_opUnanswered
    | with_reducible apply keeps_ite
    | with_reducible apply keeps_id
    | with_reducible apply Cell.ok_ite
    | split

theorem keeps_pingAverage {codes : List Nat} (hs : s0.Keeps s) :
    s0.Keeps (pingAverage s codes).2 := by
  unfold pingAverage
  try dsimp only
  repeat' first
    | with_reducible assumption
    | with_reducible intro _
    | with_reducible apply keeps_freeNat

theorem keeps_storeBase {antenna v : Nat} (hs : s0.Keeps s) :
    s0.Keeps (storeBase s antenna v) := by
  unfold storeBase
  try dsimp only
  repeat' first
    | with_reducible assumption
    | with_reducible intro _
    | with_reducible apply keeps_ite
    | with_reducible apply keeps_id
    | with_reducible apply Cell.ok_ite
    | split
    | with_reducible refine Cell.ok_mk ?_
    | with_reducible refine Cell.ok_write ?_
    | with_reducible refine keeps_mk ?_ rfl rfl rfl ⟨rfl, rfl, rfl⟩ ⟨rfl, rfl, rfl, rfl, rfl⟩ rfl rfl rfl rfl rfl rfl rfl

theorem keeps_settleBaseline {b : BaselineRun} (hs : s0.Keeps s) :
    s0.Keeps (settleBaseline s b) := by
  unfold settleBaseline
  try dsimp only
  repeat' first
    | with_reducible assumption
    | with_reducible intro _
    | with_reducible apply keeps_doneCmd
    | with_reducible apply keeps_modGate
    | with_reducible apply keeps_pingAverage
    | with_reducible apply keeps_storeBase
    | with_reducible apply keeps_foldl _
    | with_reducible apply Cell.ok_foldl
    | with_reducible apply keeps_ite
    | with_reducible apply keeps_id
    | with_reducible apply Cell.ok_ite
    | split

theorem keeps_wupaUnanswered (hs : s0.Keeps s) :
    s0.Keeps (wupaUnanswered s) := by
  unfold wupaUnanswered
  try dsimp only
  repeat' first
    | with_reducible assumption
    | with_reducible intro _
    | with_reducible apply keeps_modGate
    | with_reducible apply keeps_radioFrame
    | with_reducible apply keeps_falseDetect
    | with_reducible apply keeps_settleBaseline
    | with_reducible apply keeps_ite
    | with_reducible apply keeps_id
    | with_reducible apply Cell.ok_ite
    | split

theorem keeps_wupaAnswered {wellFormed : Bool} (hs : s0.Keeps s) :
    s0.Keeps (wupaAnswered s wellFormed) := by
  unfold wupaAnswered
  try dsimp only
  repeat' first
    | with_reducible assumption
    | with_reducible intro _
    | with_reducible apply keeps_failCmd
    | with_reducible apply keeps_modGate
    | with_reducible apply keeps_protoError
    | with_reducible apply keeps_radioFrame
    | with_reducible apply keeps_cardDetect
    | with_reducible apply keeps_ite
    | with_reducible apply keeps_id
    | with_reducible apply Cell.ok_ite
    | split

theorem keeps_faultUser (hs : s0.Keeps s) :
    s0.Keeps (faultUser s) := by
  unfold faultUser
  try dsimp only
  repeat' first
    | with_reducible assumption
    | with_reducible intro _
    | with_reducible apply keeps_failCmd
    | with_reducible apply keeps_failBadge
    | with_reducible apply keeps_modGate
    | with_reducible apply keeps_falseDetect
    | with_reducible apply keeps_finishOp
    | with_reducible apply keeps_ite
    | with_reducible apply keeps_id
    | with_reducible apply Cell.ok_ite
    | split

theorem keeps_alert {bits : BitVec 32} (hb : bits &&& 0xFFFFFF80#32 = 0#32) (hs : s0.Keeps s) :
    s0.Keeps (alert s bits) := keeps_alertOr hb hs

theorem keeps_modIlk {f : Interlock → Interlock} (hs : s0.Keeps s)
    (hf : ∀ k, k.state ≤ 2 ∧ k.disc ≤ 0xFFFF → (f k).state ≤ 2 ∧ (f k).disc ≤ 0xFFFF) : s0.Keeps (s.modIlk f) :=
  hs.trans ⟨rfl, fun i => { i with interlock := hf _ i.interlock }⟩

theorem keeps_reportInterlock {value : Nat} (hs : s0.Keeps s) :
    s0.Keeps (reportInterlock s value) := by
  unfold reportInterlock
  try dsimp only
  repeat' first
    | with_reducible assumption
    | with_reducible intro _
    | with_reducible apply keeps_post
    | with_reducible apply keeps_logC
    | with_reducible apply keeps_modIlk
    | with_reducible apply keeps_ite

theorem keeps_interlockShed (hs : s0.Keeps s) :
    s0.Keeps (interlockShed s) := by
  unfold interlockShed
  try dsimp only
  repeat' first
    | with_reducible assumption
    | with_reducible intro _
    | with_reducible apply keeps_startShed
    | with_reducible apply keeps_ite
    | with_reducible apply keeps_id
    | with_reducible apply Cell.ok_ite
    | split
    | with_reducible refine Cell.ok_mk ?_
    | with_reducible refine Cell.ok_write ?_
    | with_reducible refine keeps_mk ?_ rfl rfl rfl ⟨rfl, rfl, rfl⟩ ⟨rfl, rfl, rfl, rfl, rfl⟩ rfl rfl rfl rfl rfl rfl rfl

theorem keeps_declareOpen (hs : s0.Keeps s) : s0.Keeps (declareOpen s) :=
  keeps_wakeSource (keeps_reportInterlock (keeps_interlockShed (keeps_alert (by decide)
    (keeps_modIlk hs fun _ h => ⟨by simp, h.2⟩))))

theorem keeps_latchDiscrepancy (hs : s0.Keeps s) : s0.Keeps (latchDiscrepancy s) :=
  keeps_wakeSource (keeps_reportInterlock (keeps_interlockShed (keeps_alert (by decide)
    (keeps_modIlk hs fun _ h => ⟨by simp, h.2⟩))))

theorem keeps_declareClosed (hs : s0.Keeps s) : s0.Keeps (declareClosed s) :=
  keeps_wakeSource (keeps_reportInterlock (keeps_modIlk hs fun _ h => ⟨by simp, h.2⟩))

theorem keeps_settleInterlock (hs : s0.Keeps s) :
    s0.Keeps (settleInterlock s) := by
  unfold settleInterlock
  try dsimp only
  repeat' first
    | with_reducible assumption
    | with_reducible intro _
    | with_reducible apply keeps_declareOpen
    | with_reducible apply keeps_latchDiscrepancy
    | with_reducible apply keeps_declareClosed
    | with_reducible apply keeps_ite

theorem keeps_modTag {f : Tag → Tag} (hs : s0.Keeps s) (hf : ∀ t, t.mem.wf = true → (f t).mem.wf = true) :
    s0.Keeps (s.modTag f) := hs.trans ⟨rfl, fun i => { i with tag := hf _ i.tag }⟩

theorem keeps_tagAnswer {data : List Byte} (hs : s0.Keeps s) :
    s0.Keeps (tagAnswer s data) := by
  unfold tagAnswer
  try dsimp only
  repeat' first
    | with_reducible assumption
    | with_reducible intro _
    | with_reducible apply keeps_emit
    | with_reducible apply keeps_ite

theorem keeps_tagError {code : Byte} (hs : s0.Keeps s) :
    s0.Keeps (tagError s code) := by
  unfold tagError
  try dsimp only
  repeat' first
    | with_reducible assumption
    | with_reducible intro _
    | with_reducible apply keeps_tagAnswer

theorem ran_tagRequest {k : State → State} (hs : s0.Keeps s) (hk : ∀ s, s0.Keeps s → s0.Keeps (k s)) :
    s0.Ran (tagRequest s k) := by
  unfold tagRequest
  try dsimp only
  repeat' first
    | with_reducible assumption
    | with_reducible intro _
    | with_reducible apply keeps_modTag
    | with_reducible apply hk
    | with_reducible apply keeps_ite
    | with_reducible apply ran_possible

theorem ran_tagCommand {a : TagAddr} {k : State → State} (hs : s0.Keeps s) (hk : ∀ s, s0.Keeps s → s0.Keeps (k s)) :
    s0.Ran (tagCommand a s k) := by
  unfold tagCommand
  try dsimp only
  repeat' first
    | with_reducible assumption
    | with_reducible intro _
    | with_reducible apply ran_tagRequest
    | with_reducible apply hk
    | with_reducible apply keeps_ite

theorem Tag.ok_putBlock {t : Tag} {b : Nat} {data : List Byte} (h : t.mem.wf = true) :
    (t.putBlock b data).mem.wf = true := Memory.wf_writeBytes _ _ h

theorem Tag.ok_putBlocks {t : Tag} {first count : Nat} {data : List Byte} (h : t.mem.wf = true) :
    (t.putBlocks first count data).mem.wf = true := by
  unfold Tag.putBlocks
  generalize List.range count = l
  induction l generalizing t with
  | nil => exact h
  | cons k l ih => exact ih (Tag.ok_putBlock h)

theorem keeps_noteWrite {first count : Nat} {data : List Byte} (hs : s0.Keeps s) :
    s0.Keeps (noteWrite s first count data) := by
  have h := keeps_modTag (f := fun t => t.putBlocks first count data) hs fun _ ht => Tag.ok_putBlocks ht
  exact keeps_tagAnswer (keeps_ite (keeps_alert (by decide) h) h)

theorem keeps_tearBlocks {bs : List Nat} (h : s0.Keeps s) : s0.Keeps (tearBlocks bs s) := by
  induction bs generalizing s with
  | nil => exact h
  | cons b bs ih => exact ih (keeps_modTag (keeps_freeBytes h) fun t ht => Tag.ok_putBlock ht)

theorem keeps_fieldGone (hs : s0.Keeps s) :
    s0.Keeps (fieldGone s) := by
  unfold fieldGone
  try dsimp only
  repeat' first
    | with_reducible assumption
    | with_reducible intro _
    | with_reducible apply keeps_modTag

theorem keeps_smbus {data : List Byte} (hs : s0.Keeps s) :
    s0.Keeps (smbus s data) := by
  unfold smbus
  try dsimp only
  repeat' first
    | with_reducible assumption
    | with_reducible intro _
    | with_reducible apply keeps_emit

theorem keeps_restoreCapsule (hs : s0.Keeps s) : s0.Keeps (restoreCapsule s) := by
  unfold restoreCapsule
  split
  · exact hs
  · exact keeps_ite hs (keeps_modTag hs fun _ ht => Tag.ok_putBlocks ht)

theorem keeps_answerStaged {x : Staged} {status : Nat} (hs : s0.Keeps s) :
    s0.Keeps (answerStaged s x status) := by
  unfold answerStaged
  try dsimp only
  repeat' first
    | with_reducible assumption
    | with_reducible intro _
    | with_reducible apply keeps_failCmd
    | with_reducible apply keeps_doneCmd
    | with_reducible apply keeps_modTag
    | with_reducible apply keeps_smbus
    | with_reducible apply keeps_ite
    | with_reducible apply keeps_id
    | with_reducible apply Cell.ok_ite
    | split

theorem keeps_putKey {p : Byte} {k : Option (List Byte)} (hs : s0.Keeps s) :
    s0.Keeps (putKey s p k) := by
  unfold putKey
  try dsimp only
  repeat' first
    | with_reducible assumption
    | with_reducible intro _
    | with_reducible apply keeps_ite
    | with_reducible apply keeps_id
    | with_reducible apply Cell.ok_ite
    | split
    | with_reducible refine Cell.ok_mk ?_
    | with_reducible refine Cell.ok_write ?_
    | with_reducible refine keeps_mk ?_ rfl rfl rfl ⟨rfl, rfl, rfl⟩ ⟨rfl, rfl, rfl, rfl, rfl⟩ rfl rfl rfl rfl rfl rfl rfl

theorem keeps_putSlot {toB : Bool} {x : CalSlot} (hs : s0.Keeps s) :
    s0.Keeps (putSlot s toB x) := by
  unfold putSlot
  try dsimp only
  repeat' first
    | with_reducible assumption
    | with_reducible intro _
    | with_reducible apply keeps_ite
    | with_reducible apply keeps_id
    | with_reducible apply Cell.ok_ite
    | split
    | with_reducible refine Cell.ok_mk ?_
    | with_reducible refine Cell.ok_write ?_
    | with_reducible refine keeps_mk ?_ rfl rfl rfl ⟨rfl, rfl, rfl⟩ ⟨rfl, rfl, rfl, rfl, rfl⟩ rfl rfl rfl rfl rfl rfl rfl

theorem keeps_fencePort {t : Nat} (hs : s0.Keeps s) :
    s0.Keeps (fencePort s t) := by
  unfold fencePort
  try dsimp only
  repeat' first
    | with_reducible assumption
    | with_reducible intro _
    | with_reducible apply keeps_failCmd
    | with_reducible apply keeps_stopTraffic
    | with_reducible apply keeps_ite
    | with_reducible apply keeps_id
    | with_reducible apply Cell.ok_ite
    | split

theorem keeps_loadGate {c : Cmd} {k : State} (hs : s0.Keeps s) (hk : s0.Keeps k) :
    s0.Keeps (loadGate s c k) := by
  unfold loadGate
  try dsimp only
  repeat' first
    | with_reducible assumption
    | with_reducible intro _
    | with_reducible apply keeps_failCmd
    | with_reducible apply keeps_refuse
    | with_reducible apply keeps_ite

theorem keeps_putWindow {c : Cmd} (hs : s0.Keeps s) :
    s0.Keeps (putWindow s c) := by
  unfold putWindow
  try dsimp only
  repeat' first
    | with_reducible assumption
    | with_reducible intro _
    | with_reducible apply keeps_modChapel
    | with_reducible apply keeps_doneCmd
    | with_reducible apply keeps_ite
    | with_reducible apply keeps_id
    | with_reducible apply Cell.ok_ite
    | split
    | with_reducible refine Cell.ok_mk ?_
    | with_reducible refine Cell.ok_write ?_
    | with_reducible refine keeps_mk ?_ rfl rfl rfl ⟨rfl, rfl, rfl⟩ ⟨rfl, rfl, rfl, rfl, rfl⟩ rfl rfl rfl rfl rfl rfl rfl

theorem keeps_startWindow {c : Cmd} (hs : s0.Keeps s) :
    s0.Keeps (startWindow s c) := by
  unfold startWindow
  try dsimp only
  repeat' first
    | with_reducible assumption
    | with_reducible intro _
    | with_reducible apply keeps_modChapel
    | with_reducible apply keeps_failCmd
    | with_reducible apply keeps_refuse
    | with_reducible apply keeps_putWindow
    | with_reducible apply keeps_ite

theorem keeps_putLectern {n : Nat} {l : Lectern} (hs : s0.Keeps s) :
    s0.Keeps (putLectern s n l) := by
  unfold putLectern
  try dsimp only
  repeat' first
    | with_reducible assumption
    | with_reducible intro _
    | with_reducible apply keeps_ite
    | with_reducible apply keeps_id
    | with_reducible apply Cell.ok_ite
    | split
    | with_reducible refine Cell.ok_mk ?_
    | with_reducible refine Cell.ok_write ?_
    | with_reducible refine keeps_mk ?_ rfl rfl rfl ⟨rfl, rfl, rfl⟩ ⟨rfl, rfl, rfl, rfl, rfl⟩ rfl rfl rfl rfl rfl rfl rfl

theorem keeps_moverAbort {detail : Nat} (hs : s0.Keeps s) :
    s0.Keeps (moverAbort s detail) := by
  unfold moverAbort
  try dsimp only
  repeat' first
    | with_reducible assumption
    | with_reducible intro _
    | with_reducible apply keeps_modMover
    | with_reducible apply keeps_settleMover
    | with_reducible apply keeps_ite
    | with_reducible apply keeps_id
    | with_reducible apply Cell.ok_ite
    | split
    | with_reducible refine Cell.ok_mk ?_
    | with_reducible refine Cell.ok_write ?_
    | with_reducible refine keeps_mk ?_ rfl rfl rfl ⟨rfl, rfl, rfl⟩ ⟨rfl, rfl, rfl, rfl, rfl⟩ rfl rfl rfl rfl rfl rfl rfl

theorem keeps_startMover {c : Cmd} (hs : s0.Keeps s) :
    s0.Keeps (startMover s c) := by
  unfold startMover
  try dsimp only
  repeat' first
    | with_reducible assumption
    | with_reducible intro _
    | with_reducible apply keeps_failCmd
    | with_reducible apply keeps_modMover
    | with_reducible apply keeps_refuse
    | with_reducible apply keeps_moverAbort
    | with_reducible apply keeps_ite
    | with_reducible apply keeps_id
    | with_reducible apply Cell.ok_ite
    | split
    | with_reducible refine Cell.ok_mk ?_
    | with_reducible refine Cell.ok_write ?_
    | with_reducible refine keeps_mk ?_ rfl rfl rfl ⟨rfl, rfl, rfl⟩ ⟨rfl, rfl, rfl, rfl, rfl⟩ rfl rfl rfl rfl rfl rfl rfl

theorem keeps_startCopy {c : Cmd} (hs : s0.Keeps s) :
    s0.Keeps (startCopy s c) := by
  unfold startCopy
  try dsimp only
  repeat' first
    | with_reducible assumption
    | with_reducible intro _
    | with_reducible apply keeps_modEng
    | with_reducible apply keeps_failCmd
    | with_reducible apply keeps_refuse
    | with_reducible apply Cell.ok_modEng
    | with_reducible apply keeps_ite

theorem keeps_logHost {p : HPort} {cause chapel : Nat} (hs : s0.Keeps s) :
    s0.Keeps (logHost s p cause chapel) := by
  unfold logHost
  try dsimp only
  repeat' first
    | with_reducible assumption
    | with_reducible intro _
    | with_reducible apply keeps_logC

theorem keeps_freeRead {p : HPort} {tag : Nat} (hs : s0.Keeps s) :
    s0.Keeps (freeRead s p tag) := by
  unfold freeRead
  try dsimp only
  repeat' first
    | with_reducible assumption
    | with_reducible intro _
    | with_reducible apply keeps_modHp

theorem keeps_hostReadFails {p : HPort} {f : AmbFlit} {status : Nat} (hs : s0.Keeps s) :
    s0.Keeps (hostReadFails s p f status) := by
  unfold hostReadFails
  try dsimp only
  repeat' first
    | with_reducible assumption
    | with_reducible intro _
    | with_reducible apply keeps_modMover
    | with_reducible apply keeps_moverFail
    | with_reducible apply keeps_respondErr
    | with_reducible apply keeps_logHost
    | with_reducible apply Cell.ok_modTracker
    | with_reducible apply keeps_ite

theorem keeps_failHostRequests {p : HPort} {status : Nat} {p? : Nat → Bool} (hs : s0.Keeps s) :
    s0.Keeps (failHostRequests s p status p?) := by
  unfold failHostRequests
  try dsimp only
  repeat' first
    | with_reducible assumption
    | with_reducible intro _
    | with_reducible apply keeps_modHp
    | with_reducible apply keeps_respondErr
    | with_reducible apply keeps_foldl _

theorem keeps_portReset {p : HPort} {link : LinkState} (hs : s0.Keeps s) :
    s0.Keeps (portReset s p link) := by
  unfold portReset
  try dsimp only
  repeat' first
    | with_reducible assumption
    | with_reducible intro _
    | with_reducible apply keeps_modHp
    | with_reducible apply keeps_stopRingCmds
    | with_reducible apply keeps_dropWaiting
    | with_reducible apply keeps_withdrawOf
    | with_reducible apply keeps_moverAbort
    | with_reducible apply keeps_failHostRequests
    | with_reducible apply keeps_ite
    | with_reducible apply keeps_id
    | with_reducible apply Cell.ok_ite
    | split
    | with_reducible refine Cell.ok_mk ?_
    | with_reducible refine Cell.ok_write ?_
    | with_reducible refine keeps_mk ?_ rfl rfl rfl ⟨rfl, rfl, rfl⟩ ⟨rfl, rfl, rfl, rfl, rfl⟩ rfl rfl rfl rfl rfl rfl rfl

theorem keeps_shedHardChapel {c : Nat} (hs : s0.Keeps s) :
    s0.Keeps (shedHardChapel s c) := by
  unfold shedHardChapel
  try dsimp only
  repeat' first
    | with_reducible assumption
    | with_reducible intro _
    | with_reducible apply keeps_modChapel
    | with_reducible apply keeps_hardStopChapel
    | with_reducible apply keeps_becomePaused
    | with_reducible apply keeps_ite
    | with_reducible apply keeps_id
    | with_reducible apply Cell.ok_ite
    | split

theorem Cell.ok_unhold {x : Cell} (hc : x.ok) : (Cell.unhold x).ok := by
  unfold Cell.unhold
  try dsimp only
  repeat' first
    | with_reducible assumption
    | with_reducible intro _
    | with_reducible apply Cell.ok_ite
    | (with_reducible refine Cell.ok_mk ?_; with_reducible assumption)

theorem keeps_unholdChapel {c : Nat} (hs : s0.Keeps s) :
    s0.Keeps (unholdChapel s c) := by
  unfold unholdChapel
  try dsimp only
  repeat' first
    | with_reducible assumption
    | with_reducible intro _
    | with_reducible apply keeps_modChapel
    | with_reducible apply keeps_modCells
    | with_reducible apply Cell.ok_unhold
    | with_reducible apply keeps_ite

theorem keeps_clearRingErr {p : HPort} {o size : Nat} {hw : BitVec 8} (hs : s0.Keeps s) :
    s0.Keeps (clearRingErr s p o size hw) := by
  unfold clearRingErr
  try dsimp only
  repeat' first
    | with_reducible assumption
    | with_reducible intro _
    | with_reducible apply keeps_modHp
    | with_reducible apply keeps_modRing
    | with_reducible apply keeps_ite

theorem keeps_readPf {p : HPort} {o size : Nat} {hw : BitVec 8} (hs : s0.Keeps s) :
    s0.Keeps (readPf s p o size hw) := by
  unfold readPf
  try dsimp only
  repeat' first
    | with_reducible assumption
    | with_reducible intro _
    | with_reducible apply keeps_modHp
    | with_reducible apply keeps_emit
    | with_reducible apply keeps_clearRingErr
    | with_reducible apply keeps_when _
    | with_reducible apply keeps_ite
    | with_reducible apply keeps_id
    | with_reducible apply Cell.ok_ite
    | split

theorem alert_bits {a c h : BitVec 32} (ha : a &&& 0xFFFFFF80#32 = 0#32) :
    ((a &&& ~~~c) ||| (h &&& 0x7F#32)) &&& 0xFFFFFF80#32 = 0#32 := by
  rw [BitVec.and_comm, BitVec.and_or_distrib_left, BitVec.and_comm, BitVec.and_assoc, BitVec.and_comm (~~~c),
    ← BitVec.and_assoc, ha, BitVec.zero_and, BitVec.and_comm, BitVec.and_assoc, BitVec.zero_or]
  exact BitVec.and_zero

theorem keeps_alertWrite {clear hwSet : BitVec 32} (hs : s0.Keeps s) : s0.Keeps (alertWrite s clear hwSet) :=
  hs.trans ⟨rfl, fun i => { i with alertCause := alert_bits i.alertCause }⟩

theorem keeps_alertEnWrite {v : BitVec 32} (hs : s0.Keeps s) : s0.Keeps (alertEnWrite s v) := by
  refine hs.trans ⟨rfl, fun i => { i with alertEn := ?_ }⟩
  show v &&& 0x7F#32 &&& 0xFFFFFF80#32 = 0#32
  rw [BitVec.and_assoc]
  exact BitVec.and_zero

theorem keeps_wakeSrcWrite {v : BitVec 32} (hs : s0.Keeps s) : s0.Keeps (wakeSrcWrite s v) := by
  refine hs.trans ⟨rfl, fun i => { i with wakeSrcEn := ?_ }⟩
  show v &&& 7#32 &&& 0xFFFFFFF8#32 = 0#32
  rw [BitVec.and_assoc]
  exact BitVec.and_zero

theorem keeps_timeoutWrite {p : HPort} {us : Nat} (hs : s0.Keeps s) : s0.Keeps (timeoutWrite s p us) := by
  unfold timeoutWrite
  split
  · exact hs.trans ⟨rfl, fun i => { i with timeout := by assumption }⟩
  · exact keeps_logC hs

theorem keeps_pkgWrite {p : HPort} {off : Nat} {v : List Byte} {hwSet : BitVec 32} (hs : s0.Keeps s) :
    s0.Keeps (pkgWrite s p off v hwSet) := by
  unfold pkgWrite
  try dsimp only
  repeat' first
    | with_reducible assumption
    | with_reducible intro _
    | with_reducible apply keeps_rsvWrite
    | with_reducible apply keeps_alertWrite
    | with_reducible apply keeps_alertEnWrite
    | with_reducible apply keeps_wakeSrcWrite
    | with_reducible apply keeps_timeoutWrite
    | with_reducible apply keeps_when _
    | with_reducible apply keeps_ite
    | with_reducible apply keeps_id
    | with_reducible apply Cell.ok_ite
    | split
    | with_reducible refine Cell.ok_mk ?_
    | with_reducible refine Cell.ok_write ?_
    | with_reducible refine keeps_mk ?_ rfl rfl rfl ⟨rfl, rfl, rfl⟩ ⟨rfl, rfl, rfl, rfl, rfl⟩ rfl rfl rfl rfl rfl rfl rfl

theorem keeps_msixWrite {p : HPort} {fn vector off : Nat} {v : List Byte} (hs : s0.Keeps s) :
    s0.Keeps (msixWrite s p fn vector off v) := by
  unfold msixWrite
  try dsimp only
  repeat' first
    | with_reducible assumption
    | with_reducible intro _
    | with_reducible apply keeps_modHp
    | with_reducible apply keeps_deliverPending

theorem keeps_reservedWrite {p : HPort} {v : List Byte} (hs : s0.Keeps s) :
    s0.Keeps (reservedWrite s p v) := by
  unfold reservedWrite
  try dsimp only
  repeat' first
    | with_reducible assumption
    | with_reducible intro _
    | with_reducible apply keeps_rsvWrite
    | with_reducible apply keeps_when _

theorem keeps_pfWrite {p : HPort} {o size : Nat} {value : BitVec 64} {hwSet : BitVec 32} (hs : s0.Keeps s) :
    s0.Keeps (pfWrite s p o size value hwSet) := by
  unfold pfWrite
  try dsimp only
  repeat' first
    | with_reducible assumption
    | with_reducible intro _
    | with_reducible apply keeps_ringBell
    | with_reducible apply keeps_ringBlockWrite
    | with_reducible apply keeps_eventBlockWrite
    | with_reducible apply keeps_pkgWrite
    | with_reducible apply keeps_msixWrite
    | with_reducible apply keeps_reservedWrite
    | with_reducible apply keeps_ite

theorem keeps_vfWrite {p : HPort} {fn o : Nat} {v : List Byte} (hs : s0.Keeps s) :
    s0.Keeps (vfWrite s p fn o v) := by
  unfold vfWrite
  try dsimp only
  repeat' first
    | with_reducible assumption
    | with_reducible intro _
    | with_reducible apply keeps_msixWrite
    | with_reducible apply keeps_reservedWrite
    | with_reducible apply keeps_ite

theorem keeps_smbusRsv (hs : s0.Keeps s) :
    s0.Keeps (smbusRsv s) := by
  unfold smbusRsv
  try dsimp only
  repeat' first
    | with_reducible assumption
    | with_reducible intro _
    | with_reducible apply keeps_logC

theorem keeps_smbusWrite {code : Nat} {v : List Byte} {hwSet : BitVec 32} (hs : s0.Keeps s) :
    s0.Keeps (smbusWrite s code v hwSet) := by
  unfold smbusWrite
  try dsimp only
  repeat' first
    | with_reducible assumption
    | with_reducible intro _
    | with_reducible apply keeps_emit
    | with_reducible apply keeps_alertWrite
    | with_reducible apply keeps_alertEnWrite
    | with_reducible apply keeps_wakeSrcWrite
    | with_reducible apply keeps_smbusRsv
    | with_reducible apply keeps_when _
    | with_reducible apply keeps_ite
    | with_reducible apply keeps_id
    | with_reducible apply Cell.ok_ite
    | split

theorem keeps_dark (hs : s0.Keeps s) : s0.Keeps s.dark :=
  hs.trans ⟨rfl, fun i => { limit := (by decide : 1200 ≤ 1200 ∧ 1200 ≤ 2100), rate := rate_reset, timeout := timeout_reset, alertCause := (by decide : 0#32 &&& 0xFFFFFF80#32 = 0#32), alertEn := (by decide : 0x7F#32 &&& 0xFFFFFF80#32 = 0#32), wakeSrcEn := (by decide : 7#32 &&& 0xFFFFFFF8#32 = 0#32), interlock := (by decide : 1 ≤ 2 ∧ 0 ≤ 0xFFFF), logs := (by decide : 0 ≤ 4096 ∧ 0 ≤ 4096), history := (by decide : 0 ≤ 44), stores := (fun _ h => nomatch h), hbm := rfl, tag := i.tag, chapels := rfl, cells := rfl, hbmStacks := rfl, links := rfl, aisleBays := rfl }⟩

theorem keeps_repairRow {m row : Nat} (hs : s0.Keeps s) : s0.Keeps (repairRow s m row) :=
  keeps_hbm hs fun h => WrittenMemory.wf_filter _ h

theorem keeps_claimLists {m id : Nat} (hs : s0.Keeps s) :
    s0.Keeps (claimLists s m id) := by
  unfold claimLists
  try dsimp only
  repeat' first
    | with_reducible assumption
    | with_reducible intro _
    | with_reducible apply keeps_ite
    | with_reducible apply keeps_id
    | with_reducible apply Cell.ok_ite
    | split
    | with_reducible refine Cell.ok_mk ?_
    | with_reducible refine Cell.ok_write ?_
    | with_reducible refine keeps_mk ?_ rfl rfl rfl ⟨rfl, rfl, rfl⟩ ⟨rfl, rfl, rfl, rfl, rfl⟩ rfl rfl rfl rfl rfl rfl rfl

theorem keeps_rowLog {m cause : Nat} (hs : s0.Keeps s) :
    s0.Keeps (rowLog s m cause) := by
  unfold rowLog
  try dsimp only
  repeat' first
    | with_reducible assumption
    | with_reducible intro _
    | with_reducible apply keeps_freeNat
    | with_reducible apply keeps_logC

theorem keeps_repairPending {m : Nat} {noSpare : List Nat} {row : Nat} (hs : s0.Keeps s) :
    s0.Keeps (repairPending m noSpare s row) := by
  unfold repairPending
  try dsimp only
  repeat' first
    | with_reducible assumption
    | with_reducible intro _
    | with_reducible apply keeps_repairRow
    | with_reducible apply keeps_rowLog
    | with_reducible apply keeps_ite
    | with_reducible apply keeps_id
    | with_reducible apply Cell.ok_ite
    | split
    | with_reducible refine Cell.ok_mk ?_
    | with_reducible refine Cell.ok_write ?_
    | with_reducible refine keeps_mk ?_ rfl rfl rfl ⟨rfl, rfl, rfl⟩ ⟨rfl, rfl, rfl, rfl, rfl⟩ rfl rfl rfl rfl rfl rfl rfl

theorem keeps_initStack {m : Nat} {x : StackInit} (hs : s0.Keeps s) :
    s0.Keeps (initStack s m x) := by
  unfold initStack
  try dsimp only
  repeat' first
    | with_reducible assumption
    | with_reducible intro _
    | with_reducible apply keeps_modStack
    | with_reducible apply keeps_repairRow
    | with_reducible apply keeps_claimLists
    | with_reducible apply keeps_repairPending
    | with_reducible apply keeps_foldl _
    | with_reducible apply Cell.ok_foldl
    | with_reducible apply keeps_ite

theorem keeps_setTrain {train : Nat → Nat} {rate : Nat → Nat} (hs : s0.Keeps s) :
    s0.Keeps (setTrain s train rate) := by
  unfold setTrain
  try dsimp only
  repeat' first
    | with_reducible assumption
    | with_reducible intro _
    | with_reducible apply keeps_modStack
    | with_reducible apply keeps_foldl _

theorem keeps_fullTraining {best : List Nat} (hs : s0.Keeps s) :
    s0.Keeps (fullTraining s best) := by
  unfold fullTraining
  try dsimp only
  repeat' first
    | with_reducible assumption
    | with_reducible intro _
    | with_reducible apply keeps_faultP
    | with_reducible apply keeps_setTrain
    | with_reducible apply keeps_ite
    | with_reducible apply keeps_getD
    | with_reducible apply keeps_id
    | with_reducible apply Cell.ok_ite
    | split

theorem keeps_startFloor (hs : s0.Keeps s) :
    s0.Keeps (startFloor s) := by
  unfold startFloor
  try dsimp only
  repeat' first
    | with_reducible assumption
    | with_reducible intro _
    | with_reducible apply keeps_ite
    | with_reducible apply keeps_id
    | with_reducible apply Cell.ok_ite
    | split
    | with_reducible refine Cell.ok_mk ?_
    | with_reducible refine Cell.ok_write ?_
    | with_reducible refine keeps_mk ?_ rfl rfl rfl ⟨rfl, rfl, rfl⟩ ⟨rfl, rfl, rfl, rfl, rfl⟩ rfl rfl rfl rfl rfl rfl rfl

theorem keeps_reportOwed (hs : s0.Keeps s) :
    s0.Keeps (reportOwed s) := by
  unfold reportOwed
  try dsimp only
  repeat' first
    | with_reducible assumption
    | with_reducible intro _
    | with_reducible apply keeps_modIlk
    | with_reducible apply keeps_reportInterlock
    | with_reducible apply keeps_foldl _

theorem keeps_finishReset (hs : s0.Keeps s) :
    s0.Keeps (finishReset s) := by
  unfold finishReset
  try dsimp only
  repeat' first
    | with_reducible assumption
    | with_reducible intro _
    | with_reducible apply keeps_doneCmd
    | with_reducible apply keeps_foldl _

end Sys2Proof.Machine
end

