-- ==== Sys2Proof/Laws/Reports.lean ====
section
/-! SUPPORT. What reporting can change: posting events, signalling vectors, logging, and the changes of state that report. -/

namespace Sys2Proof.Machine

/-- From `s` to `t` only the host ports and what was put outside may differ: what posting events does. -/
def State.Reports (s t : State) : Prop := t = { s with h0 := t.h0, h1 := t.h1, emitted := t.emitted }

theorem State.Reports.refl (s : State) : State.Reports s s := rfl

theorem State.Reports.trans {a b c : State} (h : State.Reports a b) (k : State.Reports b c) : State.Reports a c := by
  unfold State.Reports at *; rw [k, h]

theorem State.Reports.foldl {α} {f : State → α → State} (h : ∀ s a, State.Reports s (f s a)) (l : List α)
    (s : State) : State.Reports s (l.foldl f s) := by
  induction l generalizing s with
  | nil => exact rfl
  | cons a l ih => exact (h s a).trans (ih _)

theorem State.Reports.emit (s : State) (e : Emission) : State.Reports s (s.emit e) := rfl

theorem State.Reports.modHp (s : State) (p : HPort) (f) : State.Reports s (s.modHp p f) := by cases p <;> rfl

theorem State.Reports.modRing (s : State) (p : HPort) (i f) : State.Reports s (s.modRing p i f) := by cases p <;> rfl

/-- An interrupt vector (R86). -/
theorem State.Reports.signal (s : State) (p : HPort) (a b : Nat) : State.Reports s (signal s p a b) := by
  unfold Sys2Proof.Machine.signal; simp only []; split
  · exact State.Reports.modHp _ _ _
  · rfl

/-- A chapel's VF vector (R87). -/
theorem State.Reports.signalChapel (s : State) (a b : Nat) : State.Reports s (signalChapel s a b) := by
  refine State.Reports.foldl (fun s p => ?_) _ _
  split
  · exact State.Reports.signal _ _ _ _
  · rfl

theorem State.Reports.wakeLink (s : State) (p : HPort) : State.Reports s (wakeLink s p) := State.Reports.modHp _ _ _

/-- An event entry written (R124). -/
theorem State.Reports.writeEvent (s : State) (p : HPort) (e : Event) : State.Reports s (writeEvent s p e) := by
  unfold Sys2Proof.Machine.writeEvent; simp only []
  have : ∀ a b f, State.Reports s (((Sys2Proof.Machine.wakeLink s p).emit (.memWrite p 0 a b)).modHp p f) := fun a b f =>
    (State.Reports.wakeLink _ _).trans ((State.Reports.emit _ _).trans (State.Reports.modHp _ _ _))
  split
  · exact (this _ _ _).trans (State.Reports.signal _ _ _ _)
  · exact this _ _ _

theorem State.Reports.postOn (s : State) (p : HPort) (e : Event) (x : Bool) : State.Reports s (postOn s p e x) := by
  unfold Sys2Proof.Machine.postOn; simp only []; (repeat' split) <;> first | exact State.Reports.writeEvent _ _ _ | exact State.Reports.modHp _ _ _ | rfl

/-- An event posted to every port it goes to (R125). -/
theorem State.Reports.post (s : State) (a b : Nat) (d : List Byte) : State.Reports s (post s a b d) := by
  unfold Sys2Proof.Machine.post; split
  · rfl
  · exact State.Reports.foldl (fun s p => State.Reports.postOn _ _ _ _) _ _

theorem State.Reports.postPort (s : State) (p : HPort) (a b : Nat) (d : List Byte)
    : State.Reports s (postPort s p a b d) := by
  unfold Sys2Proof.Machine.postPort; split
  · rfl
  · exact State.Reports.postOn _ _ _ _

/-- A class P FAULT event (R126). -/
theorem State.Reports.postFaultP (s : State) (d : List Byte) : State.Reports s (postFaultP s d) := by
  refine State.Reports.foldl (fun s p => ?_) _ _
  split
  · exact (State.Reports.postOn _ _ _ _).trans (State.Reports.modHp _ _ _)
  · rfl

/-- A class C entry changes the fault records alone (R475). -/
theorem logC_state (s : State) (a b c d : Nat) (e : List Byte) : logC s a b c d e =
    { s with flt := (logC s a b c d e).flt } := by
  unfold logC logKeyed logEntry setLimit; simp only []; (repeat' split) <;> rfl

/-- A chapel's change of state: the chapel has the new state and the time, and the rest is reporting (R128). -/
theorem setChState_state (s : State) (c : Nat) (new : ChState) (h : (s.chapel c).state ≠ new) :
    setChState s c new = { s with chapels := (setChState s c new).chapels, h0 := (setChState s c new).h0, h1 := (setChState s c new).h1, emitted := (setChState s c new).emitted } ∧
    (setChState s c new).chapels =
    (s.modChapel c fun h => { h with state := new, changedAt := s.pw.tstamp }).chapels := by
  unfold setChState; simp only []; rw [if_neg h]
  have A := (State.Reports.post (s.modChapel c fun h => { h with state := new, changedAt := s.pw.tstamp }) 5 c [BitVec.ofNat 8 (s.chapel c).state.code, BitVec.ofNat 8 new.code,
      BitVec.ofNat 8 ((s.modChapel c fun h => { h with state := new, changedAt := s.pw.tstamp }).chapel c).flags]).trans (State.Reports.signalChapel _ c 0)
  unfold State.Reports at A; rw [A]; exact ⟨rfl, rfl⟩

/-- Only the chapel that changes state is another chapel (R128). -/
theorem chapel_setChState (W : State) (i j : Nat) (new : ChState) (h : (W.chapel i).state ≠ new) :
    (setChState W i new).chapel j = if j = i then { W.chapel i with state := new, changedAt := W.pw.tstamp }
    else W.chapel j := by
  unfold State.chapel; rw [(setChState_state W i new h).2]; exact tget_tput _ _ _ _ _

/-- A change of a chapel's state touches no cell. -/
theorem cells_setChState (W : State) (i : Nat) (new : ChState) (h : (W.chapel i).state ≠ new)
    : (setChState W i new).cells = W.cells := by
  rw [(setChState_state W i new h).1]

theorem links_post (s : State) (a b : Nat) (d) : (post s a b d).links = s.links := by
  have := State.Reports.post s a b d; unfold State.Reports at this; rw [this]

/-- A link's change of state: only that link, with the state and the time (R426). -/
theorem link_setLinkState (s : State) (t st q : Nat) : (setLinkState s t st).link q = if q = t ∧
    (s.link t).state ≠ st then { s.link t with state := st, changedAt := s.pw.tstamp } else s.link q := by
  unfold setLinkState
  by_cases h : (s.link t).state = st
  · rw [if_pos h, if_neg (by rintro ⟨_, b⟩; exact b h)]
  · rw [if_neg h]; simp only []
    unfold State.link; rw [links_post]
    rw [show tget TPort.fresh (s.modLink t _).links q = (s.modLink t _).link q from rfl, State.link_modLink]
    by_cases e : q = t
    · subst e; rw [if_pos rfl, if_pos ⟨rfl, h⟩]; rfl
    · simp [e]; rfl

end Sys2Proof.Machine
end

