-- ==== Sys2Proof/WellFormed.lean ====
section
/-! DEFINITION. Well-formed commands: every operand lies in the range the manual gives what it names. A command that is
not well formed names nothing; its meaning leaves the state as it is (log entry 2) or answers as the manual says. -/

namespace Sys2Proof

/-- A cell ID (R13). -/
def wfCell (cell : Nat) : Bool := decide (cell < 3072)

/-- A Transept port (Table 01-1). -/
def wfPort (port : Nat) : Bool := decide (port < 12)

/-- A cable bank: antenna 1 or 2 (Table 19-1). -/
def wfBank (bank : Nat) : Bool := decide (bank = 1 ∨ bank = 2)

/-- An antenna of the gatehouse (Table 19-1). -/
def wfAntenna (antenna : Nat) : Bool := decide (antenna < 3)

/-- A junction sensor (R586). -/
def wfSensor (sensor : Nat) : Bool := decide (sensor < 200)

/-- An offset in PF BAR0, which is 16 MiB (chapter 03). -/
def wfOffset (offset : Nat) : Bool := decide (offset < 2 ^ 24)

/-- A width of a register access. -/
def wfSize (size : Nat) : Bool := decide (size = 1 ∨ size = 2 ∨ size = 4 ∨ size = 8)

/-- A function of a port: the PF, or one of its 192 VFs (Table 03-1). -/
def wfFn (fn : Nat) : Bool := decide (fn ≤ 192)

/-- A vector of a function: 80 of the PF, 2 of a VF (R85, R89). -/
def wfVector (fn vector : Nat) : Bool := wfFn fn && decide (vector < if fn = 0 then 80 else 2)

/-- What a register access addresses (Tables 03-2, 03-5, 18-2). -/
def wfTarget : RegTarget → Bool
  | .pf _ offset => wfOffset offset
  | .vf _ vf offset => decide (1 ≤ vf ∧ vf ≤ 192 ∧ offset < 65536)
  | .smbus code => decide (code < 256)
  | .memorySpaceEnable _ fn => wfFn fn
  | .vfCount _ => true

/-- Bytes that came back whole. -/
def wfLength (n : Nat) : Option (List Byte) → Bool
  | some bs => decide (bs.length = n)
  | none => true

/-- An endpoint ID (Table 13-4). -/
def wfEndpoint (ep : Nat) : Bool :=
  decide (ep < 0xC08 ∨ ep = 0xC10 ∨ ep = 0xC11 ∨ (0xC20 ≤ ep ∧ ep < 0xC2C) ∨ ep = 0xC30)

/-- A mover of 64-byte units. -/
def wfMover : Mover → Bool
  | .engine cell eng => wfCell cell && decide (eng < 2)
  | .sacristy => true

/-- A holder of trackers (Table 13-10). -/
def wfOwner : TrackerOwner → Bool
  | .threads cell => wfCell cell
  | .engine cell eng => wfCell cell && decide (eng < 2)
  | .mover => true
  | .relay port => wfPort port

/-- A lane of the ambulatory: a nave ring, or a track of a spine (R363, R364). -/
def wfLane : AmbLane → Bool
  | .nave d _ => decide (d < 12)
  | .spine _ _ _ => true

/-- An input of the ambulatory. -/
def wfInput : AmbInput → Bool
  | .lane l _ => wfLane l
  | .inject ep => wfEndpoint ep

/-- A received codeword: eight lanes, seven blocks, five credits, 616 body bytes (Tables 16-2, 16-3). -/
def wfFrame : FrameRx → Bool
  | .uncorrectable => true
  | .decoded errs _ _ f =>
    decide (errs.length = 8 ∧ f.classes.length = 7 ∧ f.credit.length = 5 ∧ f.body.length = 616)

/-- The command is well formed. -/
def Instr.wf : Instr → Bool
  | .registerWrite tgt size _ _ => wfTarget tgt && wfSize size
  | .rcRegisterRead tgt size _ => wfTarget tgt && wfSize size
  | .lowHalfRead _ offset => decide (offset % 8 = 0) && wfOffset offset
  | .firmwareReady hbmStacks => decide (hbmStacks.length = 8)
  | .sweepComplete bank tags _ => wfBank bank && decide (tags.length ≤ 32)
  | .hbmTrainingComplete _ best => decide (best.length = 8)
  | .pkgIdentify _ _ => true
  | .pkgReset _ => true
  | .pkgPowerState _ => true
  | .transeptHeldRetrainDone port => wfPort port
  | .pkgPowerLimit _ => true
  | .limiterSample _ => true
  | .pkgInterlockAck _ => true
  | .sensorSample sensor _ => wfSensor sensor
  | .thermalStateChange sensor => wfSensor sensor
  | .thermtripComparator sensor => wfSensor sensor
  | .doorbellWrite _ offset _ _ => wfOffset offset
  | .completionHeadDoorbell _ offset _ _ => wfOffset offset
  | .eventHeadDoorbell _ offset _ _ => wfOffset offset
  | .barMissRequest _ _ _ => true
  | .msixUnmask _ fn vector => wfVector fn vector
  | .busMasterEnableSet _ fn => wfFn fn
  | .busMasterEnableClear _ fn => wfFn fn
  | .vfFlr _ vf => decide (1 ≤ vf ∧ vf ≤ 192)
  | .pfFlr _ => true
  | .hostPortReset _ _ => true
  | .perstRelease _ => true
  | .hostL1Exit _ => true
  | .linkL0Reached _ _ _ => true
  | .hostPortRequest _ => true
  | .hostReadCompletion _ tag _ => decide (tag < 1024)
  | .hostCompletionTimeout _ tag => decide (tag < 1024)
  | .hostWriteTransmitted _ _ => true
  | .ringConfigWrite _ offset size _ => wfOffset offset && wfSize size
  | .ringEnable _ ring _ => decide (ring < 64)
  | .ringDisable _ ring _ => decide (ring < 64)
  | .eventRingEnable _ _ => true
  | .eventRingDisable _ _ => true
  | .entryFetch _ data => wfLength 64 data
  | .entryFetchTimeout _ => true
  | .dataBufferReadTimeout _ => true
  | .chapelCreate _ => true
  | .chapelLaunch _ => true
  | .chapelPause _ => true
  | .chapelPauseTimeout _ => true
  | .pauseComplete chapel => decide (chapel < 192)
  | .chapelResume _ => true
  | .chapelRetire _ => true
  | .chapelRetireTimeout _ => true
  | .chapelEvict _ => true
  | .evictTeardownComplete chapel => decide (chapel < 192)
  | .chapelQuery _ _ => true
  | .handlerLoad _ => true
  | .mcastLoad _ => true
  | .sumTreeLoad _ => true
  | .fabricDrain _ => true
  | .drainComplete _ => true
  | .fabricDrainTimeout _ => true
  | .memWindowMap _ => true
  | .lecternDefine _ => true
  | .slypeCopy _ => true
  | .linkTrain _ => true
  | .linkTrainComplete _ _ => true
  | .linkTrainTimeout _ => true
  | .linkStatus _ _ => true
  | .linkAssign _ => true
  | .screenPropose _ => true
  | .screenApprove _ => true
  | .badgeApprovalTimeout _ => true
  | .screenWithdraw _ => true
  | .screenRead _ _ => true
  | .partyEnrol _ => true
  | .svcGatehouseOp _ => true
  | .gatehouseOpTimeout _ _ => true
  | .svcBelfryCfg _ => true
  | .svcBelfryRead _ _ => true
  | .svcSyntheticWake _ => true
  | .svcTagWrite _ => true
  | .svcCalStore _ _ => true
  | .calStoreWriteDone _ => true
  | .diagLogRead _ _ => true
  | .diagCapsuleRead _ _ => true
  | .diagPattern _ => true
  | .diagPatternEnd _ _ _ => true
  | .scalarAlu cell tid => wfCell cell && decide (tid < 16)
  | .immediateAlu cell tid => wfCell cell && decide (tid < 16)
  | .shi cell tid => wfCell cell && decide (tid < 16)
  | .insk cell tid => wfCell cell && decide (tid < 16)
  | .multiplyDivide cell tid => wfCell cell && decide (tid < 16)
  | .scalarFloatingPoint cell tid => wfCell cell && decide (tid < 16)
  | .load cell tid => wfCell cell && decide (tid < 16)
  | .store cell tid => wfCell cell && decide (tid < 16)
  | .vld cell tid => wfCell cell && decide (tid < 16)
  | .vst cell tid => wfCell cell && decide (tid < 16)
  | .atomic cell tid => wfCell cell && decide (tid < 16)
  | .branch cell tid => wfCell cell && decide (tid < 16)
  | .jal cell tid => wfCell cell && decide (tid < 16)
  | .jalr cell tid => wfCell cell && decide (tid < 16)
  | .fenceAcq cell tid => wfCell cell && decide (tid < 16)
  | .fenceRel cell tid => wfCell cell && decide (tid < 16)
  | .fenceFull cell tid => wfCell cell && decide (tid < 16)
  | .exit cell tid => wfCell cell && decide (tid < 16)
  | .spawn cell tid => wfCell cell && decide (tid < 16)
  | .barCell cell tid => wfCell cell && decide (tid < 16)
  | .brk cell tid => wfCell cell && decide (tid < 16)
  | .eret cell tid => wfCell cell && decide (tid < 16)
  | .eretR cell tid => wfCell cell && decide (tid < 16)
  | .rdsr cell tid => wfCell cell && decide (tid < 16)
  | .wrsr cell tid => wfCell cell && decide (tid < 16)
  | .vectorInteger cell tid => wfCell cell && decide (tid < 16)
  | .vectorFloatingPoint cell tid => wfCell cell && decide (tid < 16)
  | .vcvt cell tid => wfCell cell && decide (tid < 16)
  | .vectorReduction cell tid => wfCell cell && decide (tid < 16)
  | .send cell tid => wfCell cell && decide (tid < 16)
  | .sendRel cell tid => wfCell cell && decide (tid < 16)
  | .sendCh cell tid => wfCell cell && decide (tid < 16)
  | .sendChRel cell tid => wfCell cell && decide (tid < 16)
  | .chanOpen cell tid => wfCell cell && decide (tid < 16)
  | .chanClose cell tid => wfCell cell && decide (tid < 16)
  | .turnWait cell tid => wfCell cell && decide (tid < 16)
  | .hret cell tid => wfCell cell && decide (tid < 16)
  | .sumC cell tid => wfCell cell && decide (tid < 16)
  | .sumW cell tid => wfCell cell && decide (tid < 16)
  | .tallyClaim cell tid => wfCell cell && decide (tid < 16)
  | .tallyRelease cell tid => wfCell cell && decide (tid < 16)
  | .tallyInit cell tid => wfCell cell && decide (tid < 16)
  | .tallyFold cell tid => wfCell cell && decide (tid < 16)
  | .tallyFeed cell tid => wfCell cell && decide (tid < 16)
  | .tallyRd cell tid => wfCell cell && decide (tid < 16)
  | .tallyPerform cell => wfCell cell
  | .choirGo cell tid => wfCell cell && decide (tid < 16)
  | .choirPassStart cell => wfCell cell
  | .choirPassEnd cell => wfCell cell
  | .slypeGo cell tid => wfCell cell && decide (tid < 16)
  | .slypeWait cell tid => wfCell cell && decide (tid < 16)
  | .slypeUnitIssue mover => wfMover mover
  | .illegalInstruction cell tid => wfCell cell && decide (tid < 16)
  | .memError cell tid => wfCell cell && decide (tid < 16)
  | .messageArrival cell => wfCell cell
  | .recordDispatch cell turn => wfCell cell && decide (turn < 8)
  | .aislePacketArrival cell _ _ => wfCell cell
  | .outputGrant cell _ => wfCell cell
  | .injectionClaim cell _ _ => wfCell cell
  | .aisleEjection cell _ => wfCell cell
  | .castTrackerTimeout cell _ => wfCell cell
  | .uniARetransmit cell _ => wfCell cell
  | .uniAExhausted cell _ => wfCell cell
  | .uniAAck cell => wfCell cell
  | .sumOperandArrival cell => wfCell cell
  | .sumCombineDone cell group => wfCell cell && decide (group < 64)
  | .sumSlotTimeout cell group => wfCell cell && decide (group < 64)
  | .sumReleaseToggle cell group => wfCell cell && decide (group < 64)
  | .sumReleaseWaitTimeout cell group => wfCell cell && decide (group < 64)
  | .sumResultArrival cell => wfCell cell
  | .sumWaitTimeout cell tid => wfCell cell && decide (tid < 16)
  | .chantryFlitArrival cell ins bad => wfCell cell && decide (ins.Nodup ∧ bad.Nodup)
  | .chantryInjection cell => wfCell cell
  | .chantryHold cell _ => wfCell cell
  | .channelOpen cell => wfCell cell
  | .channelOpenReply cell => wfCell cell
  | .channelCredit cell => wfCell cell
  | .creditRepeat cell chan => wfCell cell && decide (chan < 64)
  | .openRepeat cell handle => wfCell cell && decide (handle < 64)
  | .channelOpenGiveUp cell handle => wfCell cell && decide (handle < 64)
  | .ambFlitArrival at_ _ => wfInput at_
  | .ambRequestAtTarget ep => wfEndpoint ep
  | .coalesceEntryExpiry m _ => decide (m < 8)
  | .ambResponse ep => wfEndpoint ep
  | .trackerTimeout who _ => wfOwner who
  | .ambCtrlWrite _ _ => true
  | .bayFence bay => decide (bay < 192)
  | .bayDrained bay => decide (bay < 192)
  | .bayDrainForced bay => decide (bay < 192)
  | .fenceAck bay => decide (bay < 192)
  | .bayPowerOnRequest bay => decide (bay < 192)
  | .bayPowerGood bay => decide (bay < 192)
  | .hbmAccessDone m _ _ => decide (m < 8)
  | .hbmScrub m _ _ => decide (m < 8)
  | .stackTempSample m _ => decide (m < 8)
  | .stackThermalChange m => decide (m < 8)
  | .transeptFrameReceived port rx => wfPort port && wfFrame rx
  | .replayTimer port => wfPort port
  | .replayExhausted port => wfPort port
  | .peerSilent port => wfPort port
  | .laneTrainingDone port _ _ => wfPort port
  | .laneLoss port lane => wfPort port && decide (lane < 8)
  | .restripeComplete port => wfPort port
  | .laneRetrainTimer port => wfPort port
  | .laneRetrainDone port lane _ => wfPort port && decide (lane < 8)
  | .hello port _ peerPort _ => wfPort port && decide (peerPort < 12)
  | .owner port chapel => wfPort port && decide (chapel < 256)
  | .laneDrop port _ => wfPort port
  | .laneRestore port _ => wfPort port
  | .laneRetrain port lane => wfPort port && decide (lane < 8)
  | .depart port body => wfPort port && decide (body.length ≤ 616)
  | .down port cause => wfPort port && decide (cause < 256)
  | .unknown port op => wfPort port && decide (op < 256)
  | .ctrlOpRepeatExpiry port => wfPort port
  | .departurePauseHard chapel => decide (chapel < 192)
  | .interlockSample _ _ => true
  | .smbTagRead first count => decide (first < 256 ∧ count < 256)
  | .smbTagWrite first _ => decide (first < 256)
  | .keySet _ => true
  | .keyClear _ => true
  | .wireAccessBusy _ => true
  | .tagInventory _ maskLen _ => decide (maskLen ≤ 64)
  | .stayQuiet _ => true
  | .select _ => true
  | .resetToReady _ => true
  | .getSystemInformation _ => true
  | .readSingleBlock _ _ block => decide (block < 256)
  | .readMultipleBlocks _ _ first count => decide (first < 256 ∧ count ≤ 256)
  | .writeSingleBlock _ block data => decide (block < 256 ∧ data.length = 32)
  | .writeMultipleBlocks _ first count data => decide (first < 256 ∧ data.length = 32 * count)
  | .tagOtherCommand _ code => decide (code < 256)
  | .fieldDrop blocks => blocks.all fun b => decide (b < 256)
  | .ping antenna code => wfAntenna antenna && decide (code < 4096)
  | .antennaFaultRetry antenna _ => wfAntenna antenna
  | .cardAnswer _ => true
  | .bankTagAnswer _ _ => true
  | .answerWindowExpiry _ => true
  | .resealTimeout _ => true
  | .railLeavesToleranceInCrypt group => decide (1 ≤ group ∧ group ≤ 5)
  | .laneRestoreStart port => wfPort port
  | .dataBufferReadCompletion _ _ => true
  | .screenParity loc => decide (loc < 65536)
  | .brewSamplePeriod _ _ _ => true
  | .fieldTurnOn antenna _ => wfAntenna antenna
  | .transeptFrameSend port => wfPort port
  | .clkLoss => true
  | .railLoss => true
  | .pwrgdMainFall => true
  | .pwrgdMainRise => true
  | .pwrgdAonRise => true
  | .xtalCheckPass => true
  | .xtalCheckFail => true
  | .cloisterPorComplete => true
  | .pwrgdAonFall => true
  | .mainDomainsStable => true
  | .pllLock => true
  | .chancelResetRelease => true
  | .packageReady => true
  | .cryptReached => true
  | .shedHardGate => true
  | .thermalEventPost => true
  | .screenApplyComplete => true
  | .proposalExpiry => true
  | .portsFenced => true
  | .sacristyLockstep => true
  | .capsulePeriodic => true
  | .capsuleTagWrite => true
  | .interlockOpenDeclared => true
  | .interlockClosedDeclared => true
  | .interlockDiscrepancyLatch => true
  | .alertResponse => true
  | .smbTstampRead => true
  | .tagCommit => true
  | .fdNAssert => true
  | .fdNRelease => true
  | .fieldSettle => true
  | .wupaPoll => true
  | .cardHoldLimit => true
  | .dripFrameEnd => true

end Sys2Proof
end

