-- ==== Sys2Proof/Tests/Slice0.lean ====
section
/-! SUPPORT. Tests: ill-formed commands that are refused, single steps with results worked out from the spec, and for
every statement with hypotheses states that meet them. -/

namespace Sys2Proof.Tests

set_option Elab.async false

open Sys2Proof Sys2Proof.Machine

/-- A package at package-ready in ACTIVE. -/
def on : State :=
  { pw := { aonPg := true, mainPg := true, xtal := true, porDone := true, perst0 := true, perst1 := true
            phase := .ready, pll := true, state := .active } }

/-- A package in CRYPT with the main domains in reset. -/
def asleep : State :=
  { pw := { aonPg := true, xtal := true, porDone := true, state := .crypt, recording := true } }

/-- A ring of 16 entries, enabled. -/
def ring16 : Ring := { sqBase := 4096, cqBase := 8192, enable := true, log2 := 4 }

/-- A host port whose link is up, with ring 0 and the event ring enabled. -/
def port : HostPort :=
  { link := .l0, bme := true, mse := true, rings := [(0, ring16)]
    er := { base := 4096, enable := true, log2 := 4, armed := true } }

/-- `on` with both host ports up. -/
def hosted : State := { on with h0 := port, h1 := port }

/-- A command of H0's ring 0 that is checked and waits for its turn: its opcode and the bytes from offset 24. -/
def cmd (op : Nat) (bytes : List Byte) : Cmd :=
  { n := 0, port := .h0, ring := 0, slot := 0, stage := .ready, entry := padTo 64 (le 2 op ++ zeros 22 ++ bytes) }

/-- The same, with a data buffer. -/
def cmdBuf (op : Nat) (bytes buf : List Byte) : Cmd :=
  { cmd op bytes with buf := buf, entry := padTo 64 (le 2 op ++ zeros 14 ++ le 4 buf.length ++ zeros 4 ++ bytes) }

/-- A state whose command sequence holds one command. -/
def holding (s : State) (c : Cmd) : State := { s with feb := { s.feb with nextCmd := c.n + 1, cmds := [c] } }

/-- A screen that grants chapel 191 the last bay. -/
def screened : State :=
  { hosted with feb := { screen := { chapels := [(191, { valid := true, origin := 191, width := 1, height := 1 })] } } }

/-- A state whose chapel 191, of the last bay, is as given. -/
def having (h : Chapel) : State := { screened with chapels := [(191, { h with origin := 191, width := 1, height := 1 })] }

/-- `hosted` with Transept port 11 as given, in the screen chapel 191's slot 63. -/
def linked (l : TPort) : State :=
  { hosted with links := [(11, l)], feb := { screen := { ports := [(11, { owner := 191, span := 63, peer := 1 })] } } }

/-- A state in which a stack has failed training. -/
def hbmFailed (s : State) : State := { s with hbmStacks := [(7, { train := 3 })] }

/-- A command that runs. -/
def runs (c : Cmd) : Cmd := { c with stage := .running }

/-- The words of formats A, I and M, and V (Table 07-2). -/
def fmtA (major rd ra rb func : Nat) : Nat := major * 2 ^ 26 + rd * 2 ^ 21 + ra * 2 ^ 16 + rb * 2 ^ 11 + func
def fmtI (major rd ra imm : Nat) : Nat := major * 2 ^ 26 + rd * 2 ^ 21 + ra * 2 ^ 16 + imm
def fmtV (major vd va vb et func rs : Nat) : Nat :=
  major * 2 ^ 26 + vd * 2 ^ 22 + va * 2 ^ 18 + vb * 2 ^ 14 + et * 2 ^ 11 + func * 2 ^ 5 + rs

/-- Chapel-relative cell 0 of chapel 191. -/
def cell0 : Nat := ((having {}).chapel 191).globalOf 0

/-- `having` with chapel-relative cell 0 as given, and its bay on. -/
def celled (h : Chapel) (c : Cell) : State :=
  { having h with amb := { bays := [(191, { st := .on })] }, cells := [(cell0, c)] }

/-- The cell in which context 0 is as given, and the word of the instruction at its PC. -/
def spelling (w : Nat) (x : Ctx) : Cell :=
  { ctxs := [(0, { x with mode := .ready })], store := ((List.range 4).map fun i => (x.pc.toNat + i, byteAt (le 4 w) i)).filter fun e =>
      decide (0x7F580 ≤ e.1) || e.2 != 0#8 }

/-- RUNNING chapel 191 in whose cell 0 context 0, as given, is at this instruction word. -/
def thread (w : Nat) (x : Ctx) : State := celled { state := .running } (spelling w x)

/-- The same, with the cell changed. -/
def threadIn (w : Nat) (x : Ctx) (f : Cell → Cell) : State := celled { state := .running } (f (spelling w x))

/-- An access of context 0 outstanding. -/
def accessing (isLoad : Bool) (c : Cell) : Cell := { c with trackers := [(0, { busy := true, isLoad := isLoad })] }

theorem ready_of {s : State} {g t : Nat} {i : Ins} (h : (decide (decodeIns ((s.cell g).nextWord t) = some i) &&
    s.mayIssue g t) = true) : s.Ready g t i := by
  simp only [Bool.and_eq_true, decide_eq_true_eq] at h
  exact ⟨h.1, h.2⟩

/-- What State.Turn asks, as a test. -/
def turnB (s : State) (n op : Nat) (c : Cmd) : Bool :=
  decide (s.cmd n = some c) && decide (c.opcode = op) && turnCame s c && (!s.flt.pkgFaulted || c.allowedFaulted) &&
    match c.faultChapel with
    | none => true
    | some x => decide (192 ≤ x) || decide ((s.chapel x).state ≠ .faulted)

theorem turn_of {s : State} {n op : Nat} {c : Cmd} (h : turnB s n op c = true) : s.Turn n op c := by
  unfold turnB at h
  simp only [Bool.and_eq_true, decide_eq_true_eq, Bool.or_eq_true, Bool.not_eq_true'] at h
  obtain ⟨⟨⟨⟨h1, h2⟩, h3⟩, h4⟩, h5⟩ := h
  refine ⟨h1, h2, h3, h4, fun x hx hl => ?_⟩
  rw [hx] at h5
  simp only [Bool.or_eq_true, decide_eq_true_eq] at h5
  exact h5.resolve_left (by omega)

theorem turn_by {s : State} {n op : Nat} {c : Cmd} (h : s.cmd n = some c) (h' : (decide (c.opcode = op) && turnCame s c &&
    !s.flt.pkgFaulted && decide (c.faultChapel = none)) = true) : s.Turn n op c := by
  simp only [Bool.and_eq_true, decide_eq_true_eq, Bool.not_eq_true'] at h'
  refine ⟨h, h'.1.1.1, h'.1.1.2, .inl h'.1.2, fun x hx => ?_⟩
  rw [h'.2] at hx
  cases hx

/-- What State.Running asks, as a test. -/
def runningB (s : State) (n op : Nat) (c : Cmd) : Bool :=
  decide (s.cmd n = some c) && decide (c.opcode = op) && decide (c.stage = .running) && !s.flt.halted

theorem running_of {s : State} {n op : Nat} {c : Cmd} (h : runningB s n op c = true) : s.Running n op c := by
  unfold runningB at h
  simp only [Bool.and_eq_true, decide_eq_true_eq, Bool.not_eq_true'] at h
  exact ⟨h.1.1.1, h.1.1.2, h.1.2, h.2⟩

/-! ### Ill-formed commands -/

/-- Each check of WellFormed refuses a command that breaks it, and takes one at the end of its range. -/
theorem test_wellformed_refuses :
    (Instr.outputGrant 3072 .e).wf = false ∧ (Instr.outputGrant 3071 .e).wf = true ∧ (Instr.branch 0 16).wf = false ∧
    (Instr.peerSilent 12).wf = false ∧ (Instr.sweepComplete 0 [] false).wf = false ∧ (Instr.ping 3 0).wf = false ∧
    (Instr.ping 0 4096).wf = false ∧ (Instr.thermalStateChange 200).wf = false ∧ (Instr.msixUnmask .h0 193 0).wf = false ∧
    (Instr.msixUnmask .h0 192 2).wf = false ∧ (Instr.msixUnmask .h0 0 79).wf = true ∧
    (Instr.registerWrite (.pf .h0 0x1000000) 4 0 0).wf = false ∧ (Instr.registerWrite (.pf .h0 0) 3 0 0).wf = false ∧
    (Instr.registerWrite (.vf .h0 0 0) 4 0 0).wf = false ∧ (Instr.registerWrite (.smbus 256) 4 0 0).wf = false ∧
    (Instr.lowHalfRead .h0 4).wf = false ∧ (Instr.entryFetch 0 (some [])).wf = false ∧
    (Instr.ambResponse 0xC08).wf = false ∧ (Instr.ambResponse 0xC30).wf = true ∧
    (Instr.slypeUnitIssue (.engine 0 2)).wf = false ∧ (Instr.trackerTimeout (.relay 12) 0).wf = false ∧
    (Instr.ambFlitArrival (.lane (.nave 12 true) 0) none).wf = false ∧ (Instr.vfFlr .h0 0).wf = false ∧
    (Instr.bayFence 192).wf = false ∧ (Instr.stackThermalChange 8).wf = false ∧ (Instr.laneLoss 0 8).wf = false ∧
    (Instr.recordDispatch 0 8).wf = false ∧ (Instr.sumCombineDone 0 64).wf = false ∧ (Instr.tagInventory 16 65 0).wf = false ∧
    (Instr.writeSingleBlock .all 192 []).wf = false ∧ (Instr.pauseComplete 192).wf = false ∧
    (Instr.chantryFlitArrival 0 [.e, .e] []).wf = false ∧ (Instr.railLeavesToleranceInCrypt 6).wf = false := by decide

/-- The table gives no row any bits: no word spells a command. -/
theorem test_no_word_spells_a_command : decodeTableWord 32 0 = none ∧ on.withFetchWord 32 0 = on := ⟨rfl, rfl⟩

/-! ### Values the spec works out -/

/-- The encodings of chapter 07, Worked through. -/
theorem test_decode_worked_words :
    decodeIns 0x08A10040 = some (.imm 0 5 1 0x0040) ∧ decodeIns 0x70650100 = some (.vld 3 5 0x0100) ∧
    decodeIns 0xC48D3060 = some (.vfp 3 6 2 3 4 0) ∧ decodeIns 0xC9447040 = some (.vcvt 2 6 5 1 1) ∧
    decodeIns 0x78E94510 = some (.atomic 7 9 8 2 true 1) ∧ decodeIns 0xE14B6001 = some (.send false true 10 11 12) := by
  decide +kernel

/-- The checks of chapter 14, Worked through: "123456789". -/
theorem test_tally_reference :
    crcFeed 0xFFFFFFFF#32 [0x31#8, 0x32#8, 0x33#8, 0x34#8, 0x35#8, 0x36#8, 0x37#8, 0x38#8, 0x39#8] ^^^ 0xFFFFFFFF#32 =
      0xE3069283#32 := by decide +kernel

/-- The same, of 32 bytes 0x00, 0xFF and 0x00-0x1F. -/
theorem test_tally_vectors :
    crc32c (zeros 32) = 0x8A9136AA#32 ∧ crc32c (List.replicate 32 0xFF#8) = 0x62A8AB43#32 ∧
    crc32c ((List.range 32).map (BitVec.ofNat 8)) = 0x46DD794E#32 := by decide +kernel

/-- The fold word of chapter 14, Worked through. -/
theorem test_fold_word : foldBytes 8 390 0x0A2F = [0x08#8, 0x86#8, 0xF1#8, 0xA2#8] := by decide

/-- fp32 1.0 in v1 element 0 becomes 0x3F80 in v5 bits [271:256] (chapter 07, Worked through). -/
theorem test_vcvt_part : (vcvtOp 2 6 1 0x3F800000#512 0#512).toNat = 0x3F80 * 2 ^ 256 := by decide +kernel

/-- The tile-ready note of chapter 09, Worked through: its message word and its record's header. -/
theorem test_tile_ready_note :
    let w : Word := 0x0000B20500000007#64
    mwDest w = 22 ∧ mwTurn w = 2 ∧ mwHandler w = 5 ∧ mwTag w = 7#32 ∧ mwRemote w = false ∧ recordSize 40 = 64 ∧
    mwSpan 0x8600B20500000007#64 = 3 ∧ mwRemote 0x8600B20500000007#64 = true ∧ recordSize 8192 = 8256 ∧
    (recordHeader ⟨40, 5, false, 261, 255, 2, 0, 7#32, none, []⟩ 5 false).take 8 =
      [0x28#8, 0#8, 5#8, 0#8, 5#8, 0#8, 0xFF#8, 0x40#8] := by decide

/-- Its flit's header (chapter 12, Worked through). -/
theorem test_chantry_header :
    (ChFlit.bytes { chapel := 8, dest := 390, src := 261, turn := 2, inj := 0x3C, len := 40, handler := 5, tag := 7#32 }).take 16 =
      [0#8, 0x08#8, 0x86#8, 0x01#8, 0x05#8, 0x21#8, 0#8, 0x3C#8, 0#8, 0xFF#8, 0x28#8, 0x05#8, 0x07#8, 0#8, 0#8, 0#8] := by
  decide

/-- The header of the gradient slice (chapter 10, Worked through). -/
theorem test_aisle_header :
    AislePkt.header { chapel := 8, dest := 390, src := 261, seq := 0x0A2F, units := 95, kindBytes := le 4 0x40000 } =
      [0#8, 0x08#8, 0x86#8, 0x01#8, 0x05#8, 0x01#8, 0x2F#8, 0x0A#8, 0x5F#8, 0#8, 0#8, 0xFF#8] ++ zeros 12 ++
        [0#8, 0#8, 4#8, 0#8] ++ zeros 4 := by decide

/-- Chapel 8 of chapter 06, Worked through: its rectangle, a window, a lectern, and cell 323, whose CELLIX is 11. -/
def quarry : State :=
  { hosted with
    feb := { screen := { chapels := [(8, { valid := true, origin := 16, width := 2, height := 1, grant := 1 })] }
             lecterns := [(0, { defined := true, base := 0x100000, size := 56000000000 })] }
    chapels := [(8, { state := .running, origin := 16, width := 2, height := 1,
                      windows := [(0, { kind := 1, access := 3, addr := 0x100000000, base := 0x3400000000, size := 0x80000000 })] })] }

theorem test_identity :
    readSpecial quarry 323 0 1 = 11#64 ∧ readSpecial quarry 323 0 4 = 32#64 ∧ readSpecial quarry 323 0 5 = 8#64 ∧
    readSpecial quarry 323 0 6 = 4#64 := by decide +kernel

/-- Its addresses. -/
theorem test_addresses :
    checkAddr quarry 323 .load 8 0x580010 = .ok (.own 0x10) ∧ checkAddr quarry 323 .load 8 0x1000000 = .error 0x02 ∧
    checkAddr quarry 323 .load 8 0x100400000 = .ok (.hbm 0 0x3400400000) ∧
    checkAddr quarry 323 .load 8 0x10000020800 = .ok (.hbm 64 (0x100000 + 0x20800)) ∧
    checkAddr quarry 323 .load 8 0x11000000000 = .error 0x02 := by
  refine ⟨rfl, rfl, rfl, rfl, rfl⟩

/-- TSTAMP after six hours in CRYPT (chapter 02, Worked through). -/
theorem test_tstamp_in_crypt :
    ({ pw := { k := 585792000000 } } : State).tsNow = 2160000000000#64 := by decide

/-- INTERLOCK_STAT of chapter 18, Worked through. -/
theorem test_interlock_stat : interlockStat { aOpen := true, bOpen := true, state := 2, disc := 6 } = 0x000600E0 := by decide

/-- The log entry of chapter 17, Worked through. -/
theorem test_log_entry_bytes :
    (sliceB (LogEntry.bytes ⟨0#64, 1, 40, 0x0134, 0x4005, 0, zeros 16⟩) 8 8) =
      [0x01#8, 0x28#8, 0x34#8, 0x01#8, 0x05#8, 0x40#8, 0#8, 0#8] := by decide

/-- Pattern 0 of chapter 20, Worked through. -/
theorem test_belfry_pattern :
    let p := cfgPattern ([1#8] ++ zeros 15 ++ [0x17#8, 17#8, 4#8, 128#8, 102#8, 0xC4#8, 0#8, 4#8, 5#8, 20#8] ++ zeros 54) 0
    p.absent = true ∧ p.channels = [0, 2] ∧ p.k0 = 17 ∧ p.h = 4 ∧ p.levelMin = -60 ∧ p.levelMax = 0 ∧ p.hit = 4 ∧ p.win = 5 ∧
    p.rearm = 20 := by decide

/-- SHA-384 of "abc" (FIPS 180-4). -/
theorem test_sha384 : (sha384 [0x61#8, 0x62#8, 0x63#8]).take 4 = [0xCB#8, 0x00#8, 0x75#8, 0x3F#8] := by decide +kernel

/-! ### Single steps -/

/-- The state after one step with this command in front. -/
def after (c : Instr) (s : State) : State :=
  match step { s with pending := [c] } with
  | .next t => t
  | _ => s

/-- A step takes the command off the queue, and an idle step passes one cycle. -/
theorem test_step_queue :
    (after .packageReady on).pending = [] ∧ (match step on with | .next t => t.pw.tstamp | _ => 0#64) = 1#64 := by decide +kernel

/-- ADDI s5, s1, 64 (0x08A1_0040) adds, and the PC advances by 4 (R204, R207). -/
theorem test_addi_step :
    let t := after (.immediateAlu cell0 0) (thread 0x08A10040 { s := [(1, 0xFFFFFFFFFFFFFFFF#64)] })
    (t.ctx cell0 0).getS 5 = 63#64 ∧ (t.ctx cell0 0).pc = 4#19 := by decide +kernel

/-- A write to s0 is discarded: ADDI s0, s1, 1. -/
theorem test_s0_reads_zero :
    ((after (.immediateAlu cell0 0) (thread (fmtI 2 0 1 1) { s := [(1, 1#64)] })).ctx cell0 0).getS 0 = 0#64 := by decide +kernel

/-- The corners of R208. -/
theorem test_divide_corners :
    mulDivOp 5 7#64 0#64 = 0xFFFFFFFFFFFFFFFF#64 ∧ mulDivOp 7 7#64 0#64 = 7#64 ∧
    mulDivOp 5 0x8000000000000000#64 0xFFFFFFFFFFFFFFFF#64 = 0x8000000000000000#64 := by decide +kernel

/-- A branch back by one word, taken and not taken (R204): BEQ s0, s0 and BNE s0, s0. -/
theorem test_branch_step :
    ((after (.branch cell0 0) (thread (fmtI 0x20 0 0 0xFFFF) { pc := 8#19 })).ctx cell0 0).pc = 4#19 ∧
    ((after (.branch cell0 0) (thread (fmtI 0x21 0 0 0xFFFF) { pc := 8#19 })).ctx cell0 0).pc = 12#19 := by decide +kernel

/-- JALR to an address that is not aligned raises PC_RANGE and does not write rd (R205). -/
theorem test_jalr_misaligned :
    let t := after (.jalr cell0 0) (thread (fmtI 0x27 1 0 2) { excVec := 64#64 })
    (t.ctx cell0 0).pc = 64#19 ∧ (t.ctx cell0 0).getS 1 = 0#64 ∧ (t.ctx cell0 0).excCause.toNat % 256 = 7 := by decide +kernel

/-- SD to the last doubleword of the store, little-endian. -/
theorem test_store_last :
    let t := after (.store cell0 0) (thread (fmtI 0x1B 1 2 0) { s := [(1, 0x0102030405060708#64), (2, 521592#64)] })
    (t.cell cell0).store.read 521592 = 0x08#8 ∧ (t.cell cell0).store.read 521599 = 0x01#8 := by decide +kernel

/-- A second TALLY.CLAIM by another thread returns 1 (R224). -/
theorem test_tally_claim_held :
    ((after (.tallyClaim cell0 0) (threadIn (fmtA 0x3A 1 0 0 0) {} fun c => { c with tally := { owner := some 5 } })).ctx cell0 0).getS 1 =
      1#64 := by decide +kernel

/-- The 53rd disagreeing tick latches (chapter 18, Worked through). -/
theorem test_interlock_latch :
    let k : Interlock := { aOpen := false, bOpen := true, state := 0, disc := 5, run := 52 }
    let t := after (.interlockSample false true) { on with clo := { ilk := k } }
    t.clo.ilk.run = 53 ∧ t.clo.ilk.latchDue = true := by decide +kernel

/-- CHAPEL_CREATE of chapter 04, Worked through: 32 cells and 2 bays. -/
theorem test_chapel_create :
    let c := cmd 0x0101 [0#8, 0#8, 0#8, 0#8, 2#8, 1#8]
    let s : State := { hosted with feb := { screen := { chapels := [(0, { valid := true, origin := 0, width := 2, height := 1 })] } } }
    let t := after (.chapelCreate 0) (holding s c)
    (t.chapel 0).state = .formed ∧ (t.chapel 0).ncells = 32 ∧ (t.bay 1).st = .on := by decide +kernel

/-- Reserved bits of ALERT_EN are not writable (R5). -/
theorem test_alert_enable_reserved :
    (after (.registerWrite (.smbus 2) 4 0xFFFFFFFF#64 0#32) { asleep with clo := {} }).clo.alertEn &&& 0xFFFFFF80#32 = 0#32 := by
  decide +kernel

/-! ### What the statements assume can be met -/

/-- EmptyQueueIdlesOneCycle: the PLL runs; only the cloister runs; nothing runs. -/
theorem witness_EmptyQueueIdlesOneCycle :
    (on.pending = [] ∧ on.pw.pll = true) ∧
    (asleep.pending = [] ∧ asleep.pw.pll = false ∧ asleep.pw.porDone = true) ∧
    (State.reset.pending = [] ∧ State.reset.pw.pll = false ∧ State.reset.pw.porDone = false) := by decide

/-- StepKeepsInvariant: a state that meets the invariant, and its step. -/
theorem witness_StepKeepsInvariant :
    ∃ t, { State.reset with pending := [.pwrgdAonRise] }.Inv ∧ step { State.reset with pending := [.pwrgdAonRise] } = .next t :=
  ⟨_, by constructor <;> decide, rfl⟩

/-- CloisterSupplyAndCrystal: the supply low; high before and after the crystal check; PWRGD_MAIN low and high. -/
theorem witness_CloisterSupplyAndCrystal :
    let s : State := { pw := { aonPg := true } }
    let x : State := { pw := { aonPg := true, xtal := true } }
    State.reset.pw.aonPg = false ∧ (s.pw.aonPg = true ∧ s.pw.xtal = false ∧ s.pw.xtalFailed = false) ∧
    (x.pw.aonPg = true ∧ x.pw.xtal = true ∧ x.pw.porDone = false ∧ x.pw.mainPg = false) ∧
    { x.pw with mainPg := true }.mainPg = true := by decide

/-- BringUpSteps: a CRYPT not requested, one requested without a wake, and each later step; the last ones as a package
reset leaves them out. -/
theorem witness_BringUpSteps :
    let at_ (p : Phase) : State := { on with pw := { on.pw with phase := p } }
    let kept : State := { on with pw := { on.pw with phase := .firmware, requested := true, hbmKeep := true } }
    (asleep.pw.mainPg = false ∧ asleep.pw.porDone = true ∧ asleep.pw.state = .crypt ∧ asleep.pw.phase = .held ∧
      asleep.pw.requested = false) ∧
    (let s := { asleep.pw with requested := true }; s.requested = true ∧ s.wakeHeld = false) ∧
    (at_ .switches).pw.phase = .switches ∧ (at_ .pllReleased).pw.phase = .pllReleased ∧
    (at_ .locked).pw.phase = .locked ∧
    ((at_ .chancels).pw.phase = .chancels ∧ (List.replicate 8 (⟨7, [], 4⟩ : StackInit)).length = 8 ∧
      (at_ .chancels).resetRuns = false) ∧
    (kept.pw.phase = .firmware ∧ (List.replicate 8 92).length = 8 ∧ kept.keeps = true ∧ kept.pw.hbmLost = false ∧
      (kept.stack 0).train ≠ 3) ∧
    (trainRates.find? (fun r => (List.replicate 8 84).all fun b => decide (r ≤ b)) = some 84 ∧
      (at_ .firmware).keeps = false ∧ (at_ .firmware).storedFits (List.replicate 8 84) = false) ∧
    ((at_ .hbmDone).pw.phase = .hbmDone ∧ (at_ .hbmDone).gate.sweeping = [] ∧ (at_ .hbmDone).resetRuns = false ∧
      (at_ .hbmDone).feb.heldBells = [] ∧ (at_ .hbmDone).clo.ilk.owed = [] ∧ (at_ .hbmDone).flt.halted = false) := by
  decide

/-- MainPowerLoss: a package that runs, and a CRYPT with PWRGD_MAIN still high. -/
theorem witness_MainPowerLoss :
    let c := { asleep.pw with mainPg := true }
    (on.pw.phase ≠ .held ∧ on.pw.mainPg = true ∧ on.pw.porDone = true ∧ on.pw.state ≠ .crypt ∧ on.pw.entering = false) ∧
    (c.mainPg = true ∧ c.state = .crypt ∧ c.phase = .held) := by decide

/-- RequestedCryptAndRetention: CRYPT entered with HBM kept and not; a rail of each kind; a held port. -/
theorem witness_RequestedCryptAndRetention :
    let e (k : Bool) : State := { on with pw := { on.pw with entering := true, hbmKeep := k } }
    let l : State := { on with links := [(3, { state := 1, heldState := true })] }
    ((e true).pw.entering = true ∧ (∀ x ∈ (e true).amb.bays, x.2.st = .off) ∧ (e true).pw.wakes = [] ∧
      (e true).pw.hbmKeep = true ∧ (e false).pw.hbmKeep = false) ∧
    (asleep.pw.state = .crypt ∧ asleep.pw.phase = .held) ∧
    (3 < 12 ∧ (l.link 3).heldState = true ∧ (l.link 3).state = 1) := by decide

/-- LimiterStepsRate: above the limit of 1,200 W, below 97 % of it, at it, and in a shed. -/
theorem witness_LimiterStepsRate :
    let w (x : Nat) := (x :: on.heat.watts).take 10
    on.mainOn = true ∧ on.pw.state = .active ∧ on.heat.shed = .none ∧
    on.pw.limitW * (w 1201).length < (w 1201).sum ∧ 100 * (w 1163).sum < 97 * on.pw.limitW * (w 1163).length ∧
    ((w 1200).sum ≤ on.pw.limitW * (w 1200).length ∧ 97 * on.pw.limitW * (w 1164).length ≤ 100 * (w 1164).sum) ∧
    ({ on with heat := { shed := .shedding } } : State).heat.shed ≠ .none := by decide

theorem witness_LimiterStepsRate_sensors : ∀ i, 192 ≤ i → i < 200 → (on.sensor i).state < 2 := by
  intro i _ _
  exact (by decide : 0 < 2)

/-- JunctionSensors: twenty samples at each threshold (R62), fewer samples, and a sensor that moves. -/
theorem witness_JunctionSensors :
    let xs (x : Int) := List.replicate 20 x
    let s (x : Int) : State := { on with heat := { sensors := [(5, { samples := xs x }), (199, { samples := xs x })] } }
    (List.replicate 19 (460 : Int)).length < 20 ∧ 20 ≤ (xs 460).length ∧ (∀ x ∈ xs 460, 460 ≤ x) ∧
    ((∀ x ∈ xs 420, 420 ≤ x) ∧ ∃ x ∈ xs 420, x < 460) ∧ ((∀ x ∈ xs 380, 380 ≤ x) ∧ ∃ x ∈ xs 380, x < 420) ∧
    (∀ x ∈ xs 368, x ≤ 368) ∧ ((∀ x ∈ xs 408, x ≤ 408) ∧ ∀ x ∈ xs 408, 380 ≤ x) ∧
    ((∀ x ∈ xs 379, x ≤ 408) ∧ ∃ x ∈ xs 379, x < 380) ∧
    (junctionTable.next ((s 380).sensor 5).state ((s 380).sensor 5).samples = 1 ∧ 1 ≠ ((s 380).sensor 5).state) ∧
    (junctionTable.next ((s 460).sensor 5).state ((s 460).sensor 5).samples = 3 ∧ 3 ≠ ((s 460).sensor 5).state) ∧
    (junctionTable.next ((s 460).sensor 199).state ((s 460).sensor 199).samples = 3) ∧
    on.pw.aonPg = true := by decide

/-- StackHeatThermalEventAndFloor: a stack that moves, one sensor that has moved, and a shed that reaches the floor. -/
theorem witness_StackHeatThermalEventAndFloor :
    let s : State := { on with heat := { sensors := [(200, { samples := List.replicate 20 (500 : Int) })] } }
    let m : State := { on with heat := { sensors := [(7, { state := 1, moved := true })] } }
    on.awake = true ∧
    (s.mainOn = true ∧ stackTable.next (s.sensor 200).state (s.sensor 200).samples = 3 ∧ 3 ≠ (s.sensor 200).state) ∧
    (m.heat.lastEvent = none ∧ m.movedSensors = [7]) := by decide

theorem witness_StackHeatThermalEventAndFloor_shed :
    let s : State := { on with heat := { shed := .shedding } }
    s.heat.shed = .shedding ∧
    ∀ c, (s.chapel c).state = .empty ∨ (s.chapel c).state = .formed ∨ (s.chapel c).state = .paused :=
  ⟨rfl, fun _ => .inl rfl⟩

/-- HostResumesWakeThePackage: an ACTIVE package, one in CRYPT with the mains down, and one with them up. -/
theorem witness_HostResumesWakeThePackage :
    let l : State := { on with h0 := { link := .l1 } }
    let m : State := { asleep with pw := { asleep.pw with mainPg := true } }
    (asleep.pw.perst0 = false ∧ asleep.pw.perst1 = false ∧ asleep.pw.porDone = true ∧ asleep.pw.recording = true ∧
      asleep.pw.entering = false ∧ asleep.pw.state = .crypt ∧ asleep.pw.phase = .held ∧ asleep.pw.lossHeld = false ∧
      (∀ w ∈ asleep.pw.wakes, w.source ≠ 1) ∧ asleep.pw.mainPg = false) ∧ m.pw.mainPg = true ∧
    (State.reset.pw.recording = false ∧ State.reset.pw.perst0 = false ∧ State.reset.pw.perst1 = false) ∧
    (l.pw.recording = false ∧ (l.hp .h0).link = .l1) := by decide

/-- HostLinkReachesL0: both rates and widths that are whole, and one that is not, with the event ring on and off. -/
theorem witness_HostLinkReachesL0 :
    on.mainOn = true ∧ on.pw.perst0 = true ∧ on.pw.perst1 = true ∧
    ((32 = 64 ∨ 32 = 32) ∧ (8 = 16 ∨ 8 = 8)) ∧ ¬((64 = 64 ∨ 64 = 32) ∧ (4 = 16 ∨ 4 = 8)) ∧
    hosted.h0.er.enable = true ∧ on.h0.er.enable = false ∧ hosted.h1.er.enable = true ∧ on.h1.er.enable = false := by
  decide

/-- EventIsWrittenOnce: a ring with room, and a full one. -/
theorem witness_EventIsWrittenOnce :
    let s : State := { hosted with h0 := { port with er := { port.er with armed := false } } }
    let f : State := { hosted with h0 := { port with er := { port.er with used := 16 } } }
    ((s.hp .h0).eventRoom = true ∧ (s.hp .h0).er.lost = 0 ∧ (s.hp .h0).er.waiting = [] ∧ (s.hp .h0).link = .l0 ∧
      (s.hp .h0).er.armed = false) ∧
    ((f.hp .h0).eventsOn = true ∧ (f.hp .h0).eventRoom = false ∧ (0x0003 ≠ 0x0007)) := by decide

/-- Doorbells: entries exposed across the wrap, none, an INDEX past the ring, a ring not enabled, a wrong width, and a
doorbell before package-ready; a head that leaves nothing, one that leaves entries, and one past the ring. -/
theorem witness_Doorbells :
    let s : State := { hosted with h0 := { port with
      rings := [(0, { ring16 with sqTail := 15, cqTail := 3, cqUsed := 3 })], er := { port.er with tail := 3, used := 3 } } }
    let r := s.ring .h0 0
    let e := (s.hp .h0).er
    (s.barOn .h0 = true ∧ 0 < 64 ∧ 15 < 65536 ∧ s.pw.state ≠ .idle ∧ s.pw.phase = .ready ∧ r.enable = true ∧
      r.sqTail < 2 ^ r.log2) ∧ (2 < 2 ^ r.log2 ∧ 2 ≠ r.sqTail) ∧ (15 < 2 ^ r.log2 ∧ 15 = r.sqTail) ∧ 2 ^ r.log2 ≤ 16 ∧
    (s.ring .h0 63).enable = false ∧ ((2 ≠ 4 ∧ 2 ≠ 8) ∨ 0x1004 % 8 ≠ 0) ∧ asleep.pw.phase ≠ .ready ∧
    (3 ≠ r.cqHead ∧ r.cqUsed - (3 + 2 ^ r.log2 - r.cqHead) % 2 ^ r.log2 = 0) ∧
    (2 ≠ r.cqHead ∧ 0 < r.cqUsed - (2 + 2 ^ r.log2 - r.cqHead) % 2 ^ r.log2) ∧ 0 = r.cqHead ∧
    (e.enable = true ∧ 3 < 2 ^ e.log2 ∧ 3 ≠ e.head ∧ e.used - (3 + 2 ^ e.log2 - e.head) % 2 ^ e.log2 = 0) ∧
    (2 ≠ e.head ∧ 0 < e.used - (2 + 2 ^ e.log2 - e.head) % 2 ^ e.log2) ∧ 0 = e.head ∧ 2 ^ e.log2 ≤ 16 := by decide

/-- RingEnableAndDisable: a size outside 4 to 12, the 4,096 entries exceeded and just met, a base of zero, a ring that
can be enabled, and one that can be disabled. -/
theorem witness_RingEnableAndDisable :
    let s : State := { hosted with h0 := { port with
      rings := [(0, { enable := true, log2 := 11, sqBase := 4096, cqBase := 4096 }), (1, { sqBase := 4096, cqBase := 8192 })] } }
    let r := s.ring .h0 1
    (s.barOn .h0 = true ∧ r.enable = false ∧ r.sqBase % 4096 = 0 ∧ r.sqBase < 2 ^ 64 ∧ r.cqBase % 4096 = 0 ∧
      r.cqBase < 2 ^ 64) ∧ (3 < 4 ∨ 12 < 3) ∧ (13 < 4 ∨ 12 < 13) ∧
    4096 < (s.hp .h0).ringEntries + 2 ^ 12 ∧ ((s.hp .h0).ringEntries + 2 ^ 11 ≤ 4096 ∧ r.sqBase ≠ 0 ∧ r.cqBase ≠ 0) ∧
    ((s.ring .h0 2).enable = false ∧ ((s.ring .h0 2).sqBase = 0 ∨ (s.ring .h0 2).cqBase = 0)) ∧
    (let r := s.ring .h0 0
     r.enable = true ∧ r.sqBase % 4096 = 0 ∧ r.cqBase % 4096 = 0 ∧ r.log2 = 11 ∧ r.waiting = []) := by decide

/-- EventRingAndConfiguration: an event ring to enable and one to disable; a base written to a ring that is on, and off. -/
theorem witness_EventRingAndConfiguration :
    let s : State := { hosted with h1 := { port with er := { base := 4096 } } }
    (s.barOn .h1 = true ∧ (let r := (s.hp .h1).er
      r.base % 4096 = 0 ∧ r.base ≠ 0 ∧ r.base < 2 ^ 64 ∧ r.enable = false ∧ r.degraded = none)) ∧
    (s.barOn .h0 = true ∧ (let r := (s.hp .h0).er
      r.base % 4096 = 0 ∧ r.base ≠ 0 ∧ r.base < 2 ^ 64 ∧ r.enable = true ∧ r.log2 = 4)) ∧
    ((s.ring .h0 0).enable = true ∧ 0 ≠ (s.ring .h0 0).sqBase ∧ (s.ring .h0 0).log2 < 16) ∧
    (s.ring .h0 1).enable = false := by decide

/-- RegisterReads: a port that answers, with nothing latched and with the high half of P_TSTAMP latched. -/
theorem witness_RegisterReads :
    let l : State := { hosted with h0 := { port with latch := some (0xB08, 5#32) } }
    (hosted.barOn .h0 = true ∧ (hosted.hp .h0).latch = none ∧ accessForm 0x7FC 4 = true ∧ 0x7FC < 0x800) ∧
    (l.barOn .h0 = true ∧ (l.hp .h0).latch = some (0xB08, 5#32)) ∧ (hosted.hp .h0).link ≠ .down ∧
    hosted.pw.porDone = true := by decide

/-- RegisterWrites: values with and without reserved bits, both ends of the timeout's range, and a VF count. -/
theorem witness_RegisterWrites :
    hosted.barOn .h0 = true ∧ (0x7F#32 &&& 0xFFFFFF80 = 0) ∧ (0x80#32 &&& 0xFFFFFF80 ≠ 0) ∧
    (7#32 &&& 0xFFFFFFF8 = 0) ∧ (8#32 &&& 0xFFFFFFF8 ≠ 0) ∧ (10 < 2 ^ 14 ∧ 10000 < 2 ^ 14 ∧ 10001 < 2 ^ 14) ∧
    (hosted.hp .h0).link ≠ .down ∧ (hosted.hp .h0).vfs ≤ (192#64).toNat ∧ (192#64).toNat ≤ 192 := by decide

/-- UnmaskAndBusMaster: a pending vector of a function with and without Bus Master Enable; the mover at rest. -/
theorem witness_UnmaskAndBusMaster :
    let s : State := { hosted with h0 := { port with vfs := 192, vfMse := [192], msixPend := [0, msixKey 192 1] } }
    ((s.hp .h0).link ≠ .down ∧ (s.hp .h0).hasFn 0 = true ∧ (s.hp .h0).memSpace 0 = true ∧ (vectorsOf 0).contains 0 = true ∧
      (s.hp .h0).msixPend.contains (msixKey 0 0) = true ∧ (s.hp .h0).busMaster 0 = true ∧
      (s.hp .h0).msixPend.contains (msixKey 0 79) = false) ∧
    ((s.hp .h0).hasFn 192 = true ∧ (s.hp .h0).memSpace 192 = true ∧ (vectorsOf 192).contains 1 = true ∧
      (s.hp .h0).busMaster 192 = false ∧ 192 ≠ 0) ∧ s.amb.mover.mode = 0 := by decide

/-- FunctionAndPortResets: a VF of a port with nothing under way. -/
theorem witness_FunctionAndPortResets :
    let s : State := { hosted with h0 := { port with vfs := 192 } }
    (s.hp .h0).link ≠ .down ∧ (1 ≤ 192 ∧ 192 ≤ (s.hp .h0).vfs) ∧ (s.hp .h0).reads = [] ∧ (s.hp .h0).reqs = [] ∧
    (s.hp .h0).writes = [] ∧ s.amb.mover.mode = 0 ∧ s.feb.pending = none ∧ (∀ c ∈ s.feb.cmds, c.port ≠ .h0) ∧
    (∀ e ∈ (s.hp .h0).rings, e.2.waiting = []) ∧ s.pw.perst0 = true ∧ s.pw.perst1 = true ∧
    PortResetCause.hotReset ≠ .perst := by decide

/-- HostMemoryTraffic: a write and a read of chapel 0 under an enabled VF, one without, a write to be sent, a read that
is outstanding. -/
theorem witness_HostMemoryTraffic :
    let w : AmbFlit := { op := .write, chapel := 0, size := 3 }
    let r : AmbFlit := { op := .read, chapel := 0, size := 3 }
    let s (f : AmbFlit) (b : List Nat) : State := { hosted with h0 := { port with vfs := 1, vfBme := b, reqs := [f] } }
    let on' (s : State) (f : AmbFlit) := (s.hp .h0).hasFn (f.chapel + 1) && (s.hp .h0).busMaster (f.chapel + 1)
    let t : State := { hosted with h0 := { port with writes := [⟨0, w⟩] } }
    let q : State := { hosted with h0 := { port with reads := [(3, r)] } }
    hosted.mainOn = true ∧ ((s w []).h0.reqs = w :: [] ∧ on' (s w []) w = false) ∧
    ((s w [1]).h0.reqs = w :: [] ∧ on' (s w [1]) w = true ∧ w.op = .write) ∧
    (on' (s r [1]) r = true ∧ r.op ≠ .write ∧ ((s r [1]).hp .h0).writes = [] ∧ ((s r [1]).hp .h0).link = .l0 ∧
      freeTag (s r [1]) .h0 = some 0) ∧
    ((t.hp .h0).writes = ⟨0, w⟩ :: [] ∧ (t.hp .h0).link = .l0) ∧
    (tget noRead (q.hp .h0).reads 3 = r ∧ r ≠ noRead ∧ r.chapel ≠ 0xFE ∧ (zeros (sizeBytes r.size)).length = sizeBytes r.size) := by
  decide +kernel

/-- EntryFetchChecks: an entry whose fetch is under way; a first one of no opcode, with a reserved byte set, with a
parameter out of range, naming no index, and good; a repeat with other bytes, and an exact repeat that was answered. -/
theorem witness_EntryFetchChecks :
    let c : Cmd := { n := 0, port := .h0, ring := 0, slot := 0, fetching := true }
    let e (op : Nat) (bytes : List Byte) : List Byte := padTo 64 (le 2 op ++ zeros 22 ++ bytes)
    let a : Completion := {}
    let s : State := holding hosted c
    let r : State := holding { hosted with h0 := { port with rings := [(0, { ring16 with dup := [⟨0, e 4 [], some a⟩] })] } } c
    (s.cmd 0 = some c ∧ c.stage = .accepted ∧ c.fetching = true ∧ s.flt.halted = false ∧ (e 0 []).length = 64 ∧
      (s.ring c.port c.ring).dup.find? (fun d => decide (fieldN d.bytes 4 4 = fieldN (e 0 []) 4 4)) = none) ∧
    opcodes.contains (fieldN (e 0 []) 0 2) = false ∧
    (let x := padTo 64 (le 2 4 ++ [1#8])
     opcodes.contains (fieldN x 0 2) = true ∧ lowest (headerBad (fieldN x 0 2) x) = some 2 ∧ x.length = 64) ∧
    (let x := e 4 (le 2 1199)
     opcodes.contains (fieldN x 0 2) = true ∧ lowest (headerBad (fieldN x 0 2) x) = none ∧ fieldN x 16 4 = 0 ∧
       opSecured (fieldN x 0 2) = false ∧ c.buf = [] ∧ step5Bad (fieldN x 0 2) x [] = some 24) ∧
    (let x := e 0x0104 [192#8]
     lowest (headerBad (fieldN x 0 2) x) = none ∧ step5Bad (fieldN x 0 2) x [] = none ∧
       indexMissing (fieldN x 0 2) x = true) ∧
    (let x := e 0x0104 [191#8]
     lowest (headerBad (fieldN x 0 2) x) = none ∧ step5Bad (fieldN x 0 2) x [] = none ∧
       indexMissing (fieldN x 0 2) x = false ∧ geometryBad (fieldN x 0 2) x = false) ∧
    ((r.ring c.port c.ring).dup.find? (fun d => decide (fieldN d.bytes 4 4 = fieldN (e 4 []) 4 4)) =
      some ⟨0, e 4 [], some a⟩) ∧ firstDiff 0 (e 4 []) (e 4 [1#8]) = some 24 := by decide

/-- BufferAndStepNine: a command that reads its buffer; PKG_FAULTED, a FAULTED chapel, and a changed object. -/
theorem witness_BufferAndStepNine :
    let c := { cmd 0x0301 [3#8] with stage := .reading }
    let s := holding hosted c
    let f : State := { on with chapels := [(3, { state := .faulted })] }
    (s.cmd 0 = some c ∧ c.stage = .reading ∧ s.flt.halted = false ∧ ([] : List Byte).length = c.dataLen) ∧
    ({ pkgFaulted := true : Faults }.pkgFaulted = true ∧ c.allowedFaulted = false) ∧
    (f.flt.pkgFaulted = false ∧ c.faultChapel = some 3 ∧ 3 < 192 ∧ (f.chapel 3).state = .faulted) ∧
    objsMeet { c with changed := [.chapel 3] }.changed (c.names s) = true ∧ objsMeet c.changed (c.names s) = false := by
  decide

/-- CompletionIsPosted: a command of a ring with room that is not armed. -/
theorem witness_CompletionIsPosted :
    let c := cmd 0x0004 []
    let s := holding hosted c
    let r := s.ring c.port c.ring
    c.dropped = false ∧ c.repeats = [] ∧ r.waiting = [] ∧ s.ringRoom c.port c.ring = true ∧
    (s.hp c.port).link = .l0 ∧ r.armed = false := by decide

/-- PackageIdentityLimitAndAck: each command at its turn; both ends of the limit's range; the interlock closed for one
and for two ticks. -/
theorem witness_PackageIdentityLimitAndAck :
    (holding hosted (cmd 1 [])).Turn 0 0x0001 (cmd 1 []) ∧
    (holding hosted (cmd 4 (le 2 2100))).Turn 0 0x0004 (cmd 4 (le 2 2100)) ∧
    (1200 ≤ fieldN (cmd 4 (le 2 2100)).entry 24 2 ∧ fieldN (cmd 4 (le 2 2100)).entry 24 2 ≤ 2100) ∧
    (fieldN (cmd 4 (le 2 2101)).entry 24 2 < 1200 ∨ 2100 < fieldN (cmd 4 (le 2 2101)).entry 24 2) ∧
    (holding hosted (cmd 5 [])).Turn 0 0x0005 (cmd 5 []) ∧ hosted.clo.ilk.bothClosed < 2 ∧
    (let k : Interlock := { aOpen := false, bOpen := false, bothClosed := 2, state := 2 }
     2 ≤ k.bothClosed ∧ k.openDue = false ∧ k.latchDue = false ∧ k.closedDue = false) :=
  ⟨turn_of (by decide), turn_of (by decide), by decide, by decide, turn_of (by decide), by decide, by decide⟩

/-- PowerStateAndReset: each state asked for, with a chapel in the way and with none; each scope of a reset. -/
theorem witness_PowerStateAndReset :
    let c := cmd 3 [2#8]
    let r := cmd 2 [1#8]
    let b : State := { hosted with chapels := [(0, { state := .running })] }
    let moves : State := { holding hosted c with h1 := { port with rings := [(0, { ring16 with waiting := [{ after := .enterIdle }] })] } }
    let any (s : State) (p : ChState → Bool) := chapelIds.any fun k => p (s.chapel k).state
    (holding hosted c).Turn 0 0x0003 c ∧ (holding hosted r).Turn 0 0x0002 r ∧
    (moves.cmd 0 = some c ∧ moves.powerMoves = true) ∧ (holding hosted c).powerMoves = false ∧
    ((cmd 3 [0#8]).byte 24 = 0 ∧ (cmd 3 [1#8]).byte 24 = 1 ∧ c.byte 24 = 2) ∧
    any b (fun x => decide (x = .running ∨ x = .retiring ∨ x = .evicting)) = true ∧
    any hosted (fun x => decide (x = .running ∨ x = .retiring ∨ x = .evicting)) = false ∧
    any b (fun x => decide (x ≠ .empty)) = true ∧ any hosted (fun x => decide (x ≠ .empty)) = false ∧
    { on.pw with thermtrip := true }.thermtrip = true ∧ hosted.pw.thermtrip = false ∧
    ((cmd 2 [0#8]).byte 24 % 2 = 0 ∧ r.byte 24 % 2 = 1) ∧ b.allEmpty = false ∧ hosted.allEmpty = true :=
  ⟨turn_of (by decide), turn_of (by decide), by decide⟩

/-- InterlockDeclarations: nothing due; open, latch and closed due. -/
theorem witness_InterlockDeclarations :
    let c : Interlock := { aOpen := false, bOpen := false, state := 0 }
    on.pw.porDone = true ∧ (c.openDue = false ∧ c.latchDue = false ∧ c.closedDue = false) ∧
    (let k := { c with bothOpen := 2 }; k.state = 0 ∧ 2 ≤ k.bothOpen) ∧
    (let k := { c with run := 53 }; k.state = 0 ∧ k.run = 53 ∧ k.bothOpen < 2) ∧
    (let k := { c with state := 1, bothClosed := 2 }; k.state = 1 ∧ 2 ≤ k.bothClosed) ∧
    on.mainOn = true ∧ asleep.mainOn = false := by decide

/-- ChapelStarts: each opcode at its turn, with each state that decides how it ends. -/
theorem witness_ChapelStarts :
    let c := cmd 0x0101 [191#8, 0#8, 191#8, 0#8, 1#8, 1#8]
    let l := cmd 0x0102 ([191#8, 0#8] ++ le 2 0xFFFF ++ zeros 4 ++ le 4 64)
    let r := cmd 0x0104 [191#8]
    let q := cmd 0x0107 [191#8]
    let k : Chapel := { origin := 191, width := 1, height := 1 }
    let moving : State := { screened with amb := { bays := [(191, { st := .on, offWanted := true })] } }
    let shed : State := { (having { state := .paused }) with heat := { ackNeeded := true } }
    (((holding moving c).cmd 0 = some c ∧ createWaits (holding moving c) c = true) ∧
      (holding screened c).Turn 0 0x0101 c ∧ createWaits (holding screened c) c = false ∧
      ((screened.chapelRec c.ch).rect k.origin k.width k.height = true ∧ (screened.chapel c.ch).state = .empty ∧
        (hosted.chapelRec c.ch).rect k.origin k.width k.height = false ∧
        ((having { state := .formed }).chapel c.ch).state ≠ .empty) ∧
      (let t : State := { screened with heat := { sensors := [(191, { state := 3 })] } }
       c.createBays.any (fun b => decide ((t.sensor b).state = 3)) = true) ∧
      c.createBays.any (fun b => decide ((screened.sensor b).state = 3)) = false ∧
      (hbmFailed screened).hbmDown = true ∧ screened.hbmDown = false) ∧
    (k.state = .empty ∧ k.holds (k.globalOf 0) = true ∧ k.holds 0 = false ∧ (190 : Nat) ≠ 191) ∧
    ((holding (having { state := .formed }) l).Turn 0 0x0102 l ∧ shed.interlockBlocks = true ∧
      (having {}).interlockBlocks = false ∧
      ((having { tripped := true }).chapel l.ch).tripped = true ∧ ((having {}).chapel l.ch).tripped = false) ∧
    (((holding (having { state := .running, pausing := true }) r).cmd 0 = some r ∧
        pausingFor (holding (having { state := .running, pausing := true }) r) r = true) ∧
      (holding (having { state := .paused }) r).Turn 0 0x0104 r ∧
      pausingFor (holding (having { state := .paused }) r) r = false ∧
      (let f : State := { (having { state := .paused, departed := true }) with links := [(11, { owner := 191, state := 5 })] }
       f.ownsFenced r.ch = true ∧ (f.chapel r.ch).departed = true)) ∧
    (holding (having { state := .formed }) q).Turn 0 0x0107 q ∧
    (let z (n : Nat) := { q with entry := padTo 64 (le 2 0x0107 ++ zeros 14 ++ le 4 n) }
     (z 0).dataLen = 0 ∧ (z 31).dataLen = 31 ∧ (z 32).dataLen = 32 ∧ ((having { state := .formed }).chapel 191).bays.length = 1) :=
  ⟨⟨by decide, turn_of (by decide), by decide⟩, by decide, ⟨turn_of (by decide), by decide⟩,
    ⟨by decide, turn_of (by decide), by decide⟩, turn_of (by decide), by decide⟩

/-- ChapelPauses: a RUNNING chapel whose pause is under way, with a thread left and with none; a departure. -/
theorem witness_ChapelPauses :
    let c := cmd 0x0103 [191#8]
    let s (h : Chapel) := holding (having { h with state := .running }) c
    (s {}).Turn 0 0x0103 c ∧ (holding (having { state := .running }) (runs c)).Running 0 0x0103 (runs c) ∧
    ((s {}).chapel c.ch).state = .running ∧ ((having { state := .formed }).chapel c.ch).state ≠ .running ∧ 191 < 192 ∧
    (let t := s { pausing := true }; (t.chapel 191).state = .running ∧ (t.chapel 191).pausing = true ∧ t.liveThreads 191 = []) ∧
    ((s { departing := true }).chapel 191).departing = true ∧ (190 : Nat) ≠ 191 :=
  ⟨turn_of (by decide), running_of (by decide), by decide +kernel⟩

theorem witness_ChapelPauses_flags : ∀ h : Chapel, ({ h with pauseHard := true } : Chapel).state = h.state := fun _ => rfl

/-- ChapelEnds: a retire of each state, one that escalates and one that does not; an evict; a teardown. -/
theorem witness_ChapelEnds :
    let c := cmd 0x0105 [191#8]
    let x := cmd 0x0105 [191#8, 1#8]
    let e := cmd 0x0106 [191#8]
    let s (st : ChState) (c : Cmd) := holding (having { state := st }) c
    let v := having { state := .evicting }
    (pausingFor (holding (having { state := .running, pausing := true }) c) c = true) ∧
    (s .formed c).Turn 0 0x0105 c ∧ (s .running c).Turn 0 0x0105 c ∧ (s .retiring c).Turn 0 0x0105 c ∧
    (s .paused c).Turn 0 0x0105 c ∧ pausingFor (s .paused c) c = false ∧ pausingFor (s .running c) c = false ∧
    (s .retiring (runs x)).Running 0 0x0105 (runs x) ∧ (x.byte 25 % 2 = 1 ∧ c.byte 25 % 2 = 0 ∧ (runs x).escalated = false) ∧
    (s .faulted e).Turn 0 0x0106 e ∧ ((s .faulted e).chapel 191).state ≠ .empty ∧ (screened.chapel 191).state = .empty ∧
    (191 < 192 ∧ (v.chapel 191).state = .evicting ∧ v.requestsDone 191 = true) ∧
    ((v.chapel 191).holds ((v.chapel 191).globalOf 0) = true ∧ (v.chapel 191).holds 0 = false) :=
  ⟨by decide, turn_of (by decide), turn_of (by decide), turn_of (by decide), turn_of (by decide), by decide, by decide,
    running_of (by decide), by decide, turn_of (by decide), by decide +kernel⟩

/-- LoadsAndDrain: images of a right and a wrong length, good and with a bad byte; each state that admits a load and one
that does not; a drain. -/
theorem witness_LoadsAndDrain :
    let m (buf : List Byte) := cmdBuf 0x0201 [191#8, 0#8, 255#8, 3#8, 1#8, 0#8] buf
    let t (buf : List Byte) := cmdBuf 0x0202 [191#8, 15#8] buf
    let h (g : Nat) := cmdBuf 0x0108 ([191#8, 0#8] ++ le 2 g) (zeros 4)
    let d := cmd 0x0203 [191#8]
    let f := having { state := .formed }
    let r := (holding f (m (zeros 144))).rectOf 191
    ((holding f (m (zeros 144))).Turn 0 0x0201 (m (zeros 144)) ∧ f.hasRect 191 = true ∧
      (m (zeros 143)).dataLen ≠ 1 * r.groupBytes ∧ (m (zeros 144)).dataLen = 1 * r.groupBytes ∧
      lowest (groupBad r (zeros 144) 0) = none ∧ lowest (groupBad r (zeros 143 ++ [1#8]) 0) = some 143) ∧
    (((having { state := .paused, drained := true }).chapel 191).drained = true ∧
      ((having { state := .running }).chapel 191).state = .running ∧
      ((having { state := .formed, tripped := true }).chapel 191).tripped = true) ∧
    ((holding f (t (zeros 160))).Turn 0 0x0202 (t (zeros 160)) ∧ (t (zeros 161)).dataLen ≠ 32 + 8 * r.ncells ∧
      (t (zeros 160)).dataLen = 32 + 8 * r.ncells ∧ lowest (sumImageBad r (f.screenSlot 191) (zeros 160)) = none ∧
      lowest (sumImageBad r (f.screenSlot 191) (3#8 :: zeros 159)) = some 0 ∧
      slotsExceeded r (tput SumGroup.fresh [] 15 (parseSum r (zeros 160))) = false ∧
      slotsExceeded r [(0, { gateChildren := 0x1FF#64 })] = true) ∧
    ((holding f (h 16)).Turn 0 0x0108 (h 16) ∧ (fieldN (h 16).entry 26 2 ≠ 0xFFFF ∧ r.ncells ≤ fieldN (h 16).entry 26 2) ∧
      fieldN (h 0xFFFF).entry 26 2 = 0xFFFF ∧ fieldN (h 15).entry 26 2 < r.ncells ∧
      ((h 15).handlerCells r).any (fun g => (f.cell g).turnBusy) = false ∧
      (let b : State := { f with cells := [(r.globalOf 15, { chanRx := [(0, { used := true })] })] }
       ((h 15).handlerCells r).any (fun g => (b.cell g).turnBusy) = true)) ∧
    ((holding f d).Turn 0 0x0203 d ∧ (holding f (runs d)).Running 0 0x0203 (runs d) ∧
      (holding f (runs d)).fabricEmpty d.ch = true) :=
  ⟨⟨turn_of (by decide +kernel), by decide +kernel⟩, by decide +kernel, ⟨turn_of (by decide +kernel), by decide +kernel⟩,
    ⟨turn_of (by decide), by decide⟩, turn_of (by decide), running_of (by decide), by decide⟩

/-- WindowsLecternsCopies: a window mapped, refused and taken away; a lectern defined and dropped; a copy of each kind. -/
theorem witness_WindowsLecternsCopies :
    let w (kind : Nat) := cmd 0x0301 ([191#8, 63#8, BitVec.ofNat 8 kind, 3#8] ++ zeros 4 ++ le 8 0x100000000 ++ le 8 0 ++ le 8 4096)
    let l (op : Nat) := cmd 0x0302 ([15#8, BitVec.ofNat 8 op] ++ zeros 6 ++ le 8 0 ++ le 8 4096)
    let y (ch : Nat) := cmd 0x0303 ([BitVec.ofNat 8 ch] ++ zeros 7 ++ le 8 0 ++ le 8 64 ++ le 8 64)
    let f := having { state := .formed }
    let o := having { state := .formed, windows := [(63, { kind := 1, addr := 0x100000000, size := 4096 })] }
    let busy : State := { o with cells := [((o.chapel 191).globalOf 0, { trackers := [(0, { busy := true, req := { chapel := 191, win := 63 } })] })] }
    let taken : State := { f with feb := { f.feb with lecterns := [(15, { defined := true, base := 4095, size := 1 })] } }
    let granted : State := { f with feb := { screen := { chapels := [(191, { valid := true, grant := 0x8000 })] } } }
    ((holding f (w 1)).Turn 0 0x0301 (w 1) ∧ ((w 0).byte 26 = 0 ∧ (w 0).oldWindow f = {}) ∧ (w 0).oldWindow o ≠ {} ∧
      windowRefused f (w 1) = false ∧ windowRefused f (w 2) = true ∧ (w 1).byte 26 = 1 ∧ (w 2).byte 26 ≠ 0 ∧
      (hbmFailed f).hbmDown = true ∧ f.hbmDown = false ∧ windowQuiet o 191 63 = true ∧ windowQuiet busy 191 63 = false ∧
      (holding o (runs (w 0))).Running 0 0x0301 (runs (w 0)) ∧ windowQuiet (holding o (runs (w 0))) 191 63 = true) ∧
    ((holding f (l 0)).Turn 0 0x0302 (l 0) ∧ ((l 1).byte 25 = 1 ∧ (l 0).byte 25 ≠ 1) ∧ lecternGranted granted (l 1).ch = true ∧
      lecternGranted f (l 1).ch = false ∧ ((taken.lectern (l 0).ch).defined = true ∧ (f.lectern (l 0).ch).defined = false) ∧
      (lecternMeets taken 0 4096 = true ∧ lecternMeets taken 0 4095 = false) ∧
      (hbmWindowMeets f (fun _ => true) 0 4096 || lecternMeets f 0 4096) = false) ∧
    ((holding f (y 191)).Turn 0 0x0303 (y 191) ∧ (holding f (y 0xFE)).Turn 0 0x0303 (y 0xFE) ∧ (y 191).ch ≠ 0xFE ∧
      (y 0xFE).ch = 0xFE ∧ (f.cell ((f.chapel 191).globalOf 0)).eng1.mode = 0 ∧ f.amb.mover.mode = 0 ∧
      ({ mode := 3 } : Slype).mode ≠ 0) :=
  ⟨⟨turn_of (by decide), by decide, by decide, by decide, by decide, by decide, by decide, by decide, by decide,
      by decide +kernel, by decide +kernel, running_of (by decide), by decide +kernel⟩,
    ⟨turn_of (by decide), by decide +kernel⟩, turn_of (by decide), turn_of (by decide), by decide⟩

/-- A public key, and its signature over 6,400 zero bytes. -/
def keyP : List Byte :=
  4#8 :: be 48 0x5F27E9BEA43C73887F339B677546DDFB7E4D36FDCA4F520CE83FB905681DCCC4FA57978BECDE51E90355C7018DB5A22B ++
    be 48 0x996AFFBADF2716FCD08CD41599226712105E4871C74249D5D48E16FB099DAC1E464704B799EE0FB3BBB96BC84BB2855F
def sigP : List Byte :=
  be 48 0xF936FDE7BB2B185B728F76907FF61CF33F614BE78A577ED3B583B0C7923456476FFA2E4D722E671864D1C61784F18AC2 ++
    be 48 0x7C9B7EF3DD958C2DB947BB483FFB0E799FB0A5F3C52BBF69DAC1D863C91A2B23B7FD1726B917338C3268E30BC278C561

/-- A public key, and its signature over 52 zero bytes. -/
def keyA : List Byte :=
  4#8 :: be 48 0x174800D88A8E85E77FBDC247C442D76040BB996BF45AAA9F8FA41DA8D1C3341846B569EC71A21DED3876B94E56269620 ++
    be 48 0x43DE7763F809BB3E50DA678A7D87B4DE23BD733F28B0746A6C2C24ABEE57CD4C8A53C1083EDC8283DFCB47F3B7939583
def sigA : List Byte :=
  be 48 0x1AE093C2C13BBEEA8ABE39E0FC3A0340BDAF0A0B55F0936166FD325B2D4CBF7A9525F93A926038F70A1AC57D3286FFAB ++
    be 48 0x1AE093C2C13BBEEA8ABE39E0FC3A0340BDAF0A0B55F0936166FD325B2D4CBF7A9525F93A926038F70A1AC57D3286FFAB

/-- The next screen image is the one whose first 12 bytes are zero. -/
def governed (ps : Tbl (Option Party)) : State :=
  { hosted with flash := { parties := ps }, feb := { screen := { generation := 0xFFFFFFFF#32 } } }

/-- `governed` with a proposal of slot 1 pending. -/
def proposed (ps : Tbl (Option Party)) (kind : ProposalKind) : State :=
  { governed ps with feb := { screen := { generation := 0xFFFFFFFF#32 }, pending := some ⟨0#32, kind, [], 1, .h1, 10, zeros 48⟩ } }

/-- Two parties: the host of port 0, and a badge. -/
def parties : Tbl (Option Party) := [(0, some ⟨.host .h0, keyP⟩), (2, some ⟨.badge, []⟩)]

/-- A proposal of an image of zeros. -/
def proposal : Cmd := cmdBuf 0x0501 [0#8] (zeros 6400 ++ sigP)

/-- Proposals: a proposal by the host of port 0. -/
theorem witness_Proposals_turn :
    (holding (governed parties) proposal).Turn 0 0x0501 proposal ∧ 2 ≤ (governed parties).partyCount ∧
    (governed parties).party (proposal.byte 24) = some ⟨.host .h0, keyP⟩ ∧ proposal.port = .h0 :=
  ⟨turn_by rfl (by decide +kernel), by decide +kernel, by decide +kernel, rfl⟩

/-- Hashing a string whose first part fills blocks is hashing the part, then the rest. -/
theorem shaBlocks_append : ∀ (n k : Nat) (a c : List Byte) (h : List (BitVec 64)), a.length = 128 * n →
    shaBlocks (n + k) (a ++ c) h = shaBlocks k c (shaBlocks n a h)
  | 0, k, a, c, h, e => by
    obtain rfl : a = [] := List.length_eq_zero_iff.mp (by simpa using e)
    rw [Nat.zero_add]; rfl
  | n + 1, k, a, c, h, e => by
    have l : (a.drop 128).length = 128 * n := by rw [List.length_drop, e]; omega
    rw [Nat.succ_add]
    show shaBlocks (n + k) ((a ++ c).drop 128) (shaBlock h ((a ++ c).take 128)) = _
    rw [List.drop_append_of_le_length (by omega), List.take_append_of_le_length (by omega), shaBlocks_append n k _ c _ l]
    rfl

/-! The states of SHA-384 after each tenth of the fifty blocks of 6,400 zero bytes, and after the last block. -/

def zeroHash1 : List (BitVec 64) :=
   [0xA032175C67A0E47C#64, 0xC77ADE28D73833F7#64, 0xFED19B1CD229D1DA#64, 0xC5CCBDF740DAE03A#64,
    0x7B5911B7FE3E2937#64, 0x278A70B33891F35E#64, 0xC3A8214FF1202F4B#64, 0x95220E20D55A748B#64]
theorem zeroHash1_is : shaBlocks 10 (zeros 1280) shaInit = zeroHash1 := by decide +kernel
def zeroHash2 : List (BitVec 64) :=
   [0x2161287E24144E4B#64, 0xA87DD2F6378F147B#64, 0xA3E3B4008D85691D#64, 0x360C3F46B38BA49D#64,
    0x94125B8FD2681576#64, 0xF9234AFA7E1240B1#64, 0x788BCFEEEFB4050A#64, 0x0675723F591277F1#64]
theorem zeroHash2_is : shaBlocks 10 (zeros 1280) zeroHash1 = zeroHash2 := by decide +kernel
def zeroHash3 : List (BitVec 64) :=
   [0xA1120B92F4970B41#64, 0xFE8BAA65945DE1C6#64, 0x833D86A456576DB4#64, 0xF27A6F22C400B20E#64,
    0xEB7A25650E799E80#64, 0xD2ADF563FA20E9ED#64, 0x4A71F596F723BE8F#64, 0xE57E235765D47604#64]
theorem zeroHash3_is : shaBlocks 10 (zeros 1280) zeroHash2 = zeroHash3 := by decide +kernel
def zeroHash4 : List (BitVec 64) :=
   [0x7E05E1C277D947B2#64, 0xD7B16E82F0C638CC#64, 0x9DDD12974F17A237#64, 0x5732646446B8242F#64,
    0x7BB94178C6BECB4C#64, 0x7C4770A112635ACF#64, 0x9F7072BDB55DEA6A#64, 0x54158CE2D6E8F69F#64]
theorem zeroHash4_is : shaBlocks 10 (zeros 1280) zeroHash3 = zeroHash4 := by decide +kernel
def zeroHash5 : List (BitVec 64) :=
   [0x76C92B51DA6D269F#64, 0x65D437A81B3F7549#64, 0xBC0A51360BAC72A2#64, 0x7360F7D65DC4CF63#64,
    0x9D51F8097495DF38#64, 0x53AFEBC5D5791061#64, 0x59E12AB694E43605#64, 0x9E32CBBAC4E1B514#64]
theorem zeroHash5_is : shaBlocks 10 (zeros 1280) zeroHash4 = zeroHash5 := by decide +kernel
def zeroHash6 : List (BitVec 64) :=
   [0x7C9B7EF3DD958C2D#64, 0xB947BB483FFB0E79#64, 0x9FB0A5F3C52BBF69#64, 0xDAC1D863C91A2B23#64,
    0xB7FD1726B917338C#64, 0x3268E30BC278C561#64, 0x87CCF8EA180043E3#64, 0xD0848E3FD16C7C43#64]
theorem zeroHash6_is : shaBlocks 1 ([0x80#8] ++ zeros 111 ++ be 16 51200) zeroHash5 = zeroHash6 := by decide +kernel

theorem sha384_padded {m p : List Byte} {pad len : Nat} (hl : m.length = len) (hp : (239 - len % 128) % 128 = pad)
    (e : m ++ [0x80#8] ++ zeros pad ++ be 16 (8 * len) = p) :
    sha384 m = ((shaBlocks (p.length / 128) p shaInit).take 6).flatMap fun x => be 8 x.toNat := by
  subst hl hp e; rfl

theorem zeros_digest : sha384 (zeros 6400) = (zeroHash6.take 6).flatMap fun x => be 8 x.toNat := by
  have e : zeros 6400 ++ [0x80#8] ++ zeros 111 ++ be 16 51200 = zeros 1280 ++ (zeros 1280 ++ (zeros 1280 ++
      (zeros 1280 ++ (zeros 1280 ++ ([0x80#8] ++ zeros 111 ++ be 16 51200))))) := by
    have z : zeros 6400 = zeros 1280 ++ (zeros 1280 ++ (zeros 1280 ++ (zeros 1280 ++ zeros 1280))) := by
      unfold zeros; simp only [List.replicate_append_replicate]
    rw [z]; simp only [List.append_assoc]
  have l : (zeros 6400).length = 6400 := List.length_replicate
  have k : (zeros 1280).length = 128 * 10 := List.length_replicate
  have n : (zeros 6400 ++ [0x80#8] ++ zeros 111 ++ be 16 51200).length / 128 = 10 + (10 + (10 + (10 + (10 + 1)))) := by
    simp only [List.length_append, l]; rfl
  rw [sha384_padded l (pad := 111) rfl rfl]
  rw [show be 16 (8 * 6400) = be 16 51200 from rfl]
  rw [n, e, shaBlocks_append _ _ _ _ _ k, shaBlocks_append _ _ _ _ _ k, shaBlocks_append _ _ _ _ _ k,
    shaBlocks_append _ _ _ _ _ k, shaBlocks_append _ _ _ _ _ k, zeroHash1_is, zeroHash2_is, zeroHash3_is, zeroHash4_is,
    zeroHash5_is, zeroHash6_is]

/-- Proposals: its signature verifies, and a signature of zeros does not. -/
theorem witness_Proposals_signed : ecdsaVerify keyP proposal.image (proposal.buf.drop 6400) = true := by
  have l : (zeros 6400).length = 6400 := List.length_replicate
  have i : proposal.image = zeros 6400 := List.take_left' l
  have d : proposal.buf.drop 6400 = sigP := List.drop_left' l
  rw [i, d]; unfold ecdsaVerify; rw [zeros_digest]; decide +kernel
theorem witness_Proposals_unsigned (m : List Byte) : ecdsaVerify keyP m (zeros 96) = false := by
  unfold ecdsaVerify
  rw [if_pos (by decide)]

/-- Proposals: an image that is stale, and one that is not. -/
theorem witness_Proposals_stale :
    (hosted.feb.screen.generation = 0 ∧ staleImage hosted proposal.image = true) ∧
    staleImage (governed parties) proposal.image = false := by decide +kernel

/-- Proposals: a package with no chapel has no live record; one whose chapel 0 is FORMED and leaves its record has. -/
theorem witness_Proposals_quiet (img : List Byte) : liveChange (governed parties) img = false := by
  unfold liveChange
  rw [List.any_eq_false]
  intro x _
  cases x <;> simp [liveObj, governed, hosted, on, State.chapel, State.link, State.portRec, tget, Chapel.fresh, TPort.fresh, PortRec.fresh]

theorem witness_Proposals_live :
    let s : State := { governed parties with
      chapels := [(0, { state := .formed })]
      feb := { screen := { generation := 0xFFFFFFFF#32, chapels := [(0, { valid := true, width := 1, height := 1 })] } } }
    liveChange s proposal.image = true := by decide +kernel

/-- Proposals: an enrolment into a free slot, a taken one and one of too many; a synthetic wake; what stands in the way of
a proposal; a withdrawal; a read. -/
theorem witness_Proposals :
    let b : Tbl (Option Party) := [(2, some ⟨.badge, []⟩)]
    let e (slot kind : Nat) := cmdBuf 0x0505 [BitVec.ofNat 8 slot, BitVec.ofNat 8 kind] (zeros 97)
    let w := cmd 0x0604 [3#8]
    let x := cmd 0x0503 (zeros 8)
    let r (n : Nat) (which : Byte) := { cmd 0x0504 [which] with entry := padTo 64 (le 2 0x0504 ++ zeros 14 ++ le 4 n ++ zeros 4 ++ [which]) }
    let two := governed parties
    let armed : State := { two with bel := { cfg := List.replicate 80 255#8 } }
    let q : Proposal := ⟨0#32, .enrol, [], 1, .h1, 10, zeros 48⟩
    let pending : State := { two with feb := { pending := some q } }
    ((governed b).partyCount < 2 ∧ (governed (b ++ [(5, some ⟨.badge, []⟩)])).party 0 = none ∧ PartyKind.host .h1 ≠ .host .h0) ∧
    ((holding two (e 0 0)).Turn 0 0x0505 (e 0 0) ∧ ((e 3 3).byte 25 = 3 ∧ two.party 3 = none ∧ two.party 2 ≠ none) ∧
      ((governed (b ++ [(5, some ⟨.badge, []⟩)])).hostParty .h0 = none) ∧ two.hostParty .h0 = some 0 ∧
      hostSlotTaken two 1 0 = true ∧ hostSlotTaken two 0 0 = false ∧ two.partyCount = 2 ∧
      3 ≤ (governed (parties ++ [(5, some ⟨.badge, []⟩)])).partyCount) ∧
    ((holding armed w).Turn 0 0x0604 w ∧ patternRecordOn armed 3 = true ∧ patternRecordOn two 3 = false) ∧
    (two.feb.pending = none ∧ pending.feb.pending ≠ none ∧ two.flash.nextProposal ≠ 0xFFFFFFFF#32) ∧
    ((holding two x).Turn 0 0x0503 x ∧ q.id.toNat = fieldN x.entry 28 4 ∧ x.port = .h0 ∧ q.port = .h1) ∧
    ((holding two (r 6448 0)).Turn 0 0x0504 (r 6448 0) ∧ readImage two 1 = none ∧
      (r 6448 0).dataLen = 6448 ∧ (r 6447 0).dataLen = 6447) :=
  ⟨by decide +kernel, ⟨turn_of (by decide +kernel), by decide +kernel⟩,
    ⟨turn_of (by decide +kernel), by decide +kernel⟩, by decide +kernel,
    ⟨turn_of (by decide +kernel), by decide +kernel⟩, turn_of (by decide +kernel), by decide +kernel⟩

/-- Approvals: a badge's and a host's, its own proposal and another's; a right and a wrong digest and signature; each
way a counted approval ends. -/
theorem witness_Approvals :
    let ps : Tbl (Option Party) := [(0, some ⟨.host .h0, keyA⟩), (1, some ⟨.badge, []⟩), (2, some ⟨.badge, []⟩)]
    let s := proposed ps .screen
    let c (slot : Nat) (buf : List Byte) := cmdBuf 0x0502 ([BitVec.ofNat 8 slot, 0#8, 0#8, 0#8] ++ zeros 4) buf
    let q : Proposal := ⟨0#32, .screen, [], 1, .h1, 10, zeros 48⟩
    let run (st : CardStage) : State := { holding s (runs (c 2 [])) with gate := { approval := some { cmd := 0, slot := 2, stage := st } }, feb := { (holding s (runs (c 2 []))).feb with pending := s.feb.pending } }
    ((holding s (c 0 [])).Turn 0 0x0502 (c 0 []) ∧ s.party 3 = none ∧ s.party 0 ≠ none ∧ s.feb.pending = some q ∧
      q.id = BitVec.ofNat 32 (fieldN (c 0 []).entry 28 4) ∧
      ((c 2 []).dataLen = 0 ∧ s.party ((c 2 []).byte 24) = some ⟨.badge, []⟩ ∧ (c 1 []).byte 24 = q.slot ∧ (c 2 []).byte 24 ≠ q.slot ∧
        s.gate.antFault.getLsbD 0 = false ∧ ({ antFault := 1#3 } : Gatehouse).antFault.getLsbD 0 = true) ∧
      (let a := c 0 (zeros 48 ++ sigA)
       a.dataLen ≠ 0 ∧ s.party (a.byte 24) = some ⟨.host .h0, keyA⟩ ∧ a.byte 24 ≠ q.slot ∧ a.buf.take 48 = q.digest ∧
        ecdsaVerify keyA (q.digest ++ le 4 q.id.toNat) (a.buf.drop 48) = true) ∧
      (let a := c 0 (zeros 48 ++ zeros 96); ecdsaVerify keyA (q.digest ++ le 4 q.id.toNat) (a.buf.drop 48) = false) ∧
      (let a := c 0 (1#8 :: zeros 143); a.buf.take 48 ≠ q.digest)) ∧
    (s.ts < q.expiry ∧ ({ s with pw := { s.pw with tstamp := 10#64 } } : State).ts = q.expiry ∧ q.kind = .screen ∧
      staleImage s q.image = false ∧ staleImage hosted q.image = true ∧ liveChange s q.image = false) ∧
    (s.pw.pll = true ∧ s.feb.applying = none ∧ s.flt.halted = false) ∧
    ((run .deselect).Running 0 0x0502 (runs (c 2 [])) ∧ (∃ r, (run .deselect).gate.approval = some r ∧ r.cmd = 0 ∧ r.stage = .deselect) ∧
      q.expiry ≤ (runs (c 2 [])).limitEnd) :=
  ⟨⟨turn_of (by decide +kernel), by decide +kernel⟩, by decide +kernel, by decide +kernel, running_of (by decide +kernel),
    ⟨_, rfl, rfl, rfl⟩, by decide +kernel⟩

/-- Approvals: the limit ends before the expiry. -/
theorem witness_Approvals_limit : (cmd 0x0502 []).limitEnd < 12000000000 := by decide +kernel

/-- LinkCommands: each command in each state of the port that decides how it ends. -/
theorem witness_LinkCommands :
    let c (op : Nat) := cmd 0x0401 [11#8, BitVec.ofNat 8 op]
    let q := cmd 0x0402 [11#8]
    let a (ch k : Nat) := cmd 0x0403 [11#8, BitVec.ofNat 8 ch, BitVec.ofNat 8 k]
    let t (st : Nat) := linked { state := st }
    let training : State := holding (linked { state := 1, good := 0xFF#8, peerMask := some 0x81#8 }) (runs (c 1))
    (((holding (t 1) (c 1)).cmd 0 = some (c 1) ∧ ((holding (t 1) (c 1)).link 11).state = 1 ∧ ((t 3).link 11).state = 3) ∧
      (holding (t 0) (c 0)).Turn 0 0x0401 (c 0) ∧ ((t 0).link 11).state = 0 ∧ ((t 5).link 11).state = 5 ∧ ((t 2).link 11).state ≠ 0 ∧
      ((c 2).byte 25 = 2 ∧ (c 1).byte 25 ≠ 0 ∧ (c 0).byte 25 = 0)) ∧
    (training.Running 0 0x0401 (runs (c 1)) ∧ (training.link 11).state = 1 ∧ 2 ≤ laneCount (training.link 11).laneSet) ∧
    (linkLive (t 1) 11 = true ∧ ((t 1).link 11).good = 0#8 ∧ ((t 1).link 11).heldState = false ∧ laneCount 1#8 < 2 ∧
      2 ≤ laneCount 3#8 ∧ ((t 1).link 11).peerMask = none) ∧
    (holding (t 0) q).Turn 0 0x0402 q ∧
    ((holding (t 2) (a 191 63)).Turn 0 0x0403 (a 191 63) ∧ (a 255 0).byte 25 = 255 ∧
      (((t 2).portRec 11).owner = 191 ∧ ((t 2).portRec 11).span = 63) ∧ ((t 2).link 11).owner = 255 ∧
      ((linked { state := 2, owner := 191, span := 63 }).link 11).owner = (a 191 63).byte 25) :=
  ⟨⟨by decide, turn_of (by decide), by decide⟩, ⟨running_of (by decide), by decide⟩, by decide, turn_of (by decide),
    turn_of (by decide), by decide⟩

/-- ServiceCommands: each command at its turn and, where it runs on, at its end. -/
theorem witness_ServiceCommands :
    let g (op bank : Byte) := cmd 0x0601 ([op, bank] ++ zeros 14)
    let f (s : State) : State := { s with gate := { antFault := 4#3 } }
    let opens (s : State) : State := { s with bel := { sealed := false } }
    let b := { cmd 0x0602 [] with plain := zeros 80 }
    let r := { cmd 0x0603 [0#8] with plain := zeros 16 }
    let t (first count : Nat) := cmd 0x0605 [BitVec.ofNat 8 first, BitVec.ofNat 8 count]
    let k (op : Byte) := cmd 0x0606 [op]
    let op1 : ReaderOp := { cmd := 0, op := 1, bank := 0, uid := 0, first := 0, count := 1, stage := .read }
    ((holding hosted (g 3 0)).Turn 0 0x0601 (g 3 0) ∧
      ((f hosted).gate.antFault &&& (1#3 <<< (g 0 2).byte 25) ≠ 0#3 ∧ (f hosted).gate.antFault &&& (1#3 <<< (g 0 1).byte 25) = 0#3) ∧
      (f hosted).gate.antFault &&& (1#3 ||| (f hosted).gate.pingEn) = 0#3 ∧ (g 3 0).byte 24 = 3 ∧ (g 0 2).byte 24 ≠ 3) ∧
    ((holding hosted (runs (g 1 0))).Running 0 0x0601 (runs (g 1 0)) ∧ hosted.gate.op = none ∧
      ({ op := some op1 } : Gatehouse).op = some op1 ∧ op1.op ≠ 0) ∧
    ((holding hosted b).Turn 0 0x0602 b ∧ hosted.bel.sealed = true ∧ (opens hosted).bel.sealed = false) ∧
    ((holding hosted r).Turn 0 0x0603 r ∧ bitN (byteAt (zeros 12 ++ [1#8]) 12).toNat 0 = true ∧
      bitN (byteAt r.plain 12).toNat 0 = false) ∧
    ((holding hosted (t 7 1)).Turn 0 0x0605 (t 7 1) ∧ (t 7 1).byte 24 < 8 ∧
      (8 ≤ (t 63 2).byte 24 ∧ (t 63 2).byte 24 < 192 ∧ 64 < (t 63 2).byte 24 + (t 63 2).byte 25) ∧
      (8 ≤ (t 63 1).byte 24 ∧ (t 63 1).byte 24 + (t 63 1).byte 25 ≤ 64) ∧ 192 ≤ (t 192 1).byte 24) ∧
    ((holding hosted (k 0)).Turn 0 0x0606 (k 0) ∧ (k 1).byte 24 = 1 ∧ (k 2).byte 24 = 2 ∧ (hbmFailed hosted).hbmDown = true ∧
      hosted.hbmDown = false ∧ hosted.flash.topGen ≠ 0xFFFFFFFE ∧
      ({ slotB := { st := .valid, gen := 0xFFFFFFFE } } : Flash).topGen = 0xFFFFFFFE) ∧
    (let s : State := { holding hosted (runs (k 0)) with clo := { store := some ⟨true, {}, 0⟩ } }
     s.pw.porDone = true ∧ s.clo.store = some ⟨true, {}, 0⟩ ∧ s.cmd 0 = some (runs (k 0))) :=
  ⟨⟨turn_of (by decide), by decide⟩, ⟨running_of (by decide), by decide⟩, ⟨turn_of (by decide), by decide⟩,
    ⟨turn_of (by decide), by decide⟩, ⟨turn_of (by decide), by decide⟩, ⟨turn_of (by decide), by decide⟩, by decide⟩

/-- DiagnosticCommands: a log read of each chancel; a capsule and none; a pattern of a bay and of a port. -/
theorem witness_DiagnosticCommands :
    let l (side : Byte) := cmd 0x0701 [side]
    let k := cmd 0x0702 []
    let p (kind : Byte) (id : Nat) := cmd 0x0703 ([kind, 0#8] ++ le 2 id)
    let bay (st : BayState) : State := { hosted with amb := { bays := [(191, { st := st })] } }
    ((holding hosted (l 1)).Turn 0 0x0701 (l 1) ∧ (l 1).byte 24 = 1 ∧ (l 0).byte 24 ≠ 1) ∧
    ((holding hosted k).Turn 0 0x0702 k ∧ hosted.flash.capsule = none ∧ ({ capsule := some [] } : Flash).capsule = some []) ∧
    ((holding hosted (p 0 191)).Turn 0 0x0703 (p 0 191) ∧ (p 0 191).byte 24 = 0 ∧ (p 1 11).byte 24 ≠ 0 ∧
      fieldN (p 0 191).entry 26 2 = 191 ∧ ((bay .draining).bay 191).st = .draining ∧ ((bay .fenced).bay 191).st = .fenced ∧
      ((bay .on).bay 191).st ≠ .draining ∧ ((bay .on).bay 191).st ≠ .fenced ∧ (bay .on).chapelOfBay 191 = none ∧
      ((having { state := .formed }).chapelOfBay 191).isSome = true ∧
      ({ hosted with links := [(11, { state := 5 })] } : State).link 11 = { state := 5 } ∧ (hosted.link 11).state ≠ 5 ∧
      (hosted.link 11).owner = 255 ∧ (({ hosted with links := [(11, { owner := 0 })] } : State).link 11).owner ≠ 255) ∧
    (holding hosted (runs (p 1 11))).Running 0 0x0703 (runs (p 1 11)) :=
  ⟨⟨turn_of (by decide), by decide⟩, ⟨turn_of (by decide), by decide⟩, ⟨turn_of (by decide), by decide +kernel⟩,
    running_of (by decide)⟩

/-- ArithmeticResults: one word of each format, ready to issue; the last word of the store, after which there is no PC. -/
theorem witness_ArithmeticResults :
    let s (w : Nat) := thread w {}
    (s (fmtA 0x01 31 1 0 0x19)).Ready cell0 0 (.alu 0x19 31 1 0) ∧
    (s (fmtI 0x02 1 2 0xFFFF)).Ready cell0 0 (.imm 0 1 2 0xFFFF) ∧
    (s (fmtI 0x08 1 2 0xFF)).Ready cell0 0 (.shi 3 1 2 63) ∧
    (s (fmtI 0x09 1 3 1)).Ready cell0 0 (.insk 1 3 1) ∧
    (s (fmtA 0x0A 1 2 3 8)).Ready cell0 0 (.mulDiv 8 1 2 3) ∧
    (s (fmtA 0x0B 1 2 0 15)).Ready cell0 0 (.fp 15 1 2 0) ∧
    (s (fmtV 0x30 0 1 2 3 0x11 5)).Ready cell0 0 (.vint 0x11 3 0 1 2 5) ∧
    (s (fmtV 0x30 15 1 2 0 0 0)).Ready cell0 0 (.vint 0 0 15 1 2 0) ∧
    (s (fmtV 0x31 0 1 2 4 8 5)).Ready cell0 0 (.vfp 8 4 0 1 2 5) ∧
    (s (fmtV 0x31 1 2 0 6 9 0)).Ready cell0 0 (.vfp 9 6 1 2 0 0) ∧
    (s (fmtV 0x32 1 2 3 6 4 0)).Ready cell0 0 (.vcvt 4 6 1 2 3) ∧
    (s (fmtV 0x33 0 2 0 6 2 7)).Ready cell0 0 (.vred 2 6 2 7) ∧
    (thread (fmtA 0x01 1 1 0 0x19) { pc := 524284#19 }).Ready cell0 0 (.alu 0x19 1 1 0) ∧
    pcOk (524284 + 4) = false ∧ pcOk 524284 = true := by
  refine ⟨ready_of ?_, ready_of ?_, ready_of ?_, ready_of ?_, ready_of ?_, ready_of ?_, ready_of ?_, ready_of ?_, ready_of ?_,
    ready_of ?_, ready_of ?_, ready_of ?_, ready_of ?_, ?_, ?_⟩ <;> decide +kernel

/-- ControlFlow: each instruction ready to issue; a good and a bad target; a context for SPAWN and none; an EXIT that can
end and one that waits. -/
theorem witness_ControlFlow :
    let full : State := celled { state := .running }
      { spelling (fmtA 0x28 1 2 3 0x011) {} with ctxs := (List.range 16).map fun t => (t, { mode := .ready }) }
    let held : State := celled { state := .running }
      { spelling (fmtA 0x28 0 0 0 0x010) {} with trackers := [(0, { busy := true, tid := 0 })] }
    let free : State := thread (fmtA 0x28 1 2 3 0x011) {}
    let ends : State := celled { state := .retiring } (spelling (fmtA 0x28 1 2 3 0x011) {})
    (thread (fmtI 0x25 1 2 0xFFFF) { pc := 4#19 }).Ready cell0 0 (.branch 5 1 2 0xFFFF) ∧
    (thread (0x26 * 2 ^ 26 + 2 ^ 21 + 0x1FFFFF) { pc := 4#19 }).Ready cell0 0 (.jal 1 0x1FFFFF) ∧
    (thread (fmtI 0x27 1 2 3) {}).Ready cell0 0 (.jalr 1 2 3) ∧
    free.Ready cell0 0 (.spawn 1 2 3) ∧ full.Ready cell0 0 (.spawn 1 2 3) ∧ ends.Ready cell0 0 (.spawn 1 2 3) ∧
    (thread (fmtA 0x28 0 0 0 0x010) {}).Ready cell0 0 .exit ∧ held.Ready cell0 0 .exit ∧
    (((thread (fmtA 0x28 0 0 0 0x010) {}).cell cell0).exitReady 0 = true ∧ (held.cell cell0).exitReady 0 = false ∧
      ((thread (fmtA 0x28 0 0 0 0x010) {}).cell cell0).barrier = none) ∧
    ((full.cell cell0).freeCtx = none ∧ (free.cell cell0).freeCtx = some 1 ∧
      (free.chapel (free.chapelIx cell0)).state = .running ∧ (ends.chapel (ends.chapelIx cell0)).state = .retiring) ∧
    (pcOk 2 = false ∧ pcOk 524288 = false ∧ pcOk 0 = true) := by
  refine ⟨ready_of ?_, ready_of ?_, ready_of ?_, ready_of ?_, ready_of ?_, ready_of ?_, ready_of ?_, ready_of ?_, ?_, ?_, ?_⟩ <;>
    decide +kernel

/-- ExceptionsAndReturns: each instruction with no exception active, with a resumable and with a non-resumable one; a word
of no instruction; a recorded error response; a vector and none; a stop that is asked for. -/
theorem witness_ExceptionsAndReturns :
    let w := fmtA 0x28 0 0 0
    let act : Ctx := { excCause := 0x8000000000000000#64 }
    let res : Ctx := { excCause := 0xC000000000000000#64, excPc := 524284#64 }
    let e : MemErr := ⟨0#19, 0#48, 1⟩
    (thread (w 0x018) {}).Ready cell0 0 .brk ∧ (thread (w 0x020) {}).Ready cell0 0 .eret ∧
    (thread (w 0x020) act).Ready cell0 0 .eret ∧ (thread (w 0x020) res).Ready cell0 0 .eret ∧
    (thread (fmtA 0x28 0 3 0 0x021) {}).Ready cell0 0 (.eretR 3) ∧ (thread (fmtA 0x28 0 3 0 0x021) act).Ready cell0 0 (.eretR 3) ∧
    (act.excCause.getLsbD 63 = true ∧ act.excCause.getLsbD 62 = false ∧ res.excCause.getLsbD 62 = true ∧
      pcOk res.excPc.toNat = true ∧ pcOk 2 = false ∧ ({} : Ctx).excCause.getLsbD 63 = false) ∧
    ((thread 0 {}).mayIssue cell0 0 = true ∧ decodeIns (((thread 0 {}).cell cell0).nextWord 0) = none) ∧
    (let s := thread (w 0x018) { errors := [e] }
     s.cellRuns cell0 = true ∧ (s.ctx cell0 0).mode = .ready ∧ (s.ctx cell0 0).errors = e :: [] ∧ (s.ctx cell0 0).begun = false) ∧
    (({ excVec := 64#64 } : Ctx).excVec ≠ 0#64 ∧ ({} : Ctx).excVec = 0#64) ∧
    (let s := thread (w 0x018) { stopAsked := true }
     (s.ctx cell0 0).stopAsked = true ∧ (s.cell cell0).atSafePoint 0 = true) := by
  refine ⟨ready_of ?_, ready_of ?_, ready_of ?_, ready_of ?_, ready_of ?_, ready_of ?_, ?_, ?_, ?_, ?_, ?_⟩ <;> decide +kernel

/-- SpecialRegistersAndFences: a register read and written, a bad value and one that is not written; each fence and a
barrier with an access outstanding and with none; a barrier that is complete, that is not, that loses a thread, and
another one under way. -/
theorem witness_SpecialRegistersAndFences :
    let f (func : Nat) := fmtA 0x28 0 0 0 func
    let b (mask : Word) := thread (fmtA 0x28 1 2 0 0x012) { s := [(2, mask)] }
    let bIn (mask : Word) (k : Cell → Cell) := threadIn (fmtA 0x28 1 2 0 0x012) { s := [(2, mask)] } k
    (thread (fmtI 0x29 1 0 7) {}).Ready cell0 0 (.rdsr 1 7) ∧ (thread (fmtI 0x29 1 0 0x33) {}).Ready cell0 0 (.rdsr 1 0x33) ∧
    (thread (fmtI 0x2A 0 2 0x20) { s := [(2, 524284#64)] }).Ready cell0 0 (.wrsr 2 0x20) ∧
    (thread (fmtI 0x2A 0 2 0x21) { s := [(2, 524288#64)] }).Ready cell0 0 (.wrsr 2 0x21) ∧
    (thread (fmtI 0x2A 0 2 0) {}).Ready cell0 0 (.wrsr 2 0) ∧
    (thread (f 0) {}).Ready cell0 0 .fenceAcq ∧ (threadIn (f 0) {} (accessing true)).Ready cell0 0 .fenceAcq ∧
    (thread (f 1) {}).Ready cell0 0 .fenceRel ∧ (threadIn (f 1) {} (accessing false)).Ready cell0 0 .fenceRel ∧
    (thread (f 2) {}).Ready cell0 0 .fenceFull ∧ (threadIn (f 2) {} (accessing false)).Ready cell0 0 .fenceFull ∧
    (b 1#64).Ready cell0 0 (.barCell 1 2) ∧ (b 3#64).Ready cell0 0 (.barCell 1 2) ∧
    (bIn 1#64 (accessing false)).Ready cell0 0 (.barCell 1 2) ∧
    (bIn 1#64 fun c => { c with barrier := some ⟨3#16, [1]⟩ }).Ready cell0 0 (.barCell 1 2) ∧
    (bIn 3#64 fun c => { c with barrier := some ⟨3#16, [1]⟩ }).Ready cell0 0 (.barCell 1 2) ∧
    ((((b 1#64).ctx cell0 0).getS 2 = 1#64) ∧ ((524284#64).toNat % 4 = 0 ∧ (524284#64).toNat < 524288) ∧ 524288 ≤ (524288#64).toNat ∧
      ((accessing true {}).loadsOut 0 = true ∧ (accessing false {}).loadsOut 0 = false ∧ (accessing false {}).outstanding 0 = true) ∧
      (maskTids 1#16).all [0].contains = true ∧ (maskTids 3#16).all [0].contains = false ∧
      (maskTids 3#16).any (fun k => decide (k ≠ 0) && decide (((b 3#64).ctx cell0 k).mode = .free)) = true ∧
      (maskTids 1#16).any (fun k => decide (k ≠ 0) && decide (((b 1#64).ctx cell0 k).mode = .free)) = false ∧
      (3#16 : BitVec 16) ≠ 1#16) := by
  refine ⟨ready_of ?_, ready_of ?_, ready_of ?_, ready_of ?_, ready_of ?_, ready_of ?_, ready_of ?_, ready_of ?_, ready_of ?_,
    ready_of ?_, ready_of ?_, ready_of ?_, ready_of ?_, ready_of ?_, ready_of ?_, ready_of ?_, ?_⟩ <;> decide +kernel

/-- MemoryAccesses: each instruction ready to issue; an own address, another cell's, one of no place, one not aligned and
one past bit 47; a tracker free and none; an atomic with and without accesses outstanding. -/
theorem witness_MemoryAccesses :
    let x (a : Word) : Ctx := { s := [(2, a)] }
    let s (w : Nat) := thread w (x 0#64)
    let at_ (ord : Nat) := 0x1E * 2 ^ 26 + 2 ^ 21 + 2 * 2 ^ 16 + 3 * 2 ^ 11 + ord * 2 ^ 9 + 2 ^ 8
    let own (width : Nat) (a : Nat) : Bool := match checkAddr (s 0) cell0 .store width a with | .ok (.own o) => decide (o = a) | _ => false
    let other (a : Nat) : Bool := match checkAddr (s 0) cell0 .store 8 a with | .ok (.cell g o) => decide (g ≠ cell0 ∧ o = 0) | _ => false
    let bad (a code : Nat) : Bool := match checkAddr (s 0) cell0 .store 8 a with | .error e => decide (e = code) | _ => false
    (s (fmtI 0x16 1 2 0)).Ready cell0 0 (.load 8 false 1 2 0) ∧ (s (fmtI 0x10 1 2 0xFFFF)).Ready cell0 0 (.load 1 true 1 2 0xFFFF) ∧
    (s (fmtI 0x1C 15 2 0)).Ready cell0 0 (.vld 15 2 0) ∧ (s (fmtI 0x1B 1 2 0)).Ready cell0 0 (.store 8 1 2 0) ∧
    (s (fmtI 0x1D 15 2 0)).Ready cell0 0 (.vst 15 2 0) ∧ (s (at_ 0)).Ready cell0 0 (.atomic 1 2 3 0 true 0) ∧
    (s (at_ 3)).Ready cell0 0 (.atomic 1 2 3 3 true 0) ∧ (threadIn (at_ 2) (x 0#64) (accessing true)).Ready cell0 0 (.atomic 1 2 3 2 true 0) ∧
    (threadIn (at_ 1) (x 0#64) (accessing true)).Ready cell0 0 (.atomic 1 2 3 1 true 0) ∧
    (own 64 524224 = true ∧ own 8 524280 = true ∧ other 524288 = true ∧ bad 4 0x04 = true ∧ bad (16 * 524288) 0x02 = true ∧ bad (2 ^ 48) 0x02 = true) ∧
    ((accessing true {}).loadsOut 0 = true ∧ freeTracker (accessing true {}).trackers 128 = some 1 ∧ pcOk 524288 = false ∧
      freeTracker ((List.range 128).map fun k => (k, { busy := true })) 128 = none) := by
  refine ⟨ready_of ?_, ready_of ?_, ready_of ?_, ready_of ?_, ready_of ?_, ready_of ?_, ready_of ?_, ready_of ?_, ready_of ?_, ?_, ?_⟩ <;>
    decide +kernel

/-- TallyAndChoir: each instruction ready to issue; the tally free, owned by this context and by another, its queue empty
and full; the choir's queue likewise; a descriptor address that is bad in each way; the units at work. -/
theorem witness_TallyAndChoir :
    let ta (rd ra func : Nat) := fmtA 0x3A rd ra 0 func
    let with' (w : Nat) (y : Tally) := threadIn w {} fun c => { c with tally := y }
    let full : List TallyOp := [.init, .init, .init, .init]
    let go (off : Word) := thread (fmtA 0x3B 1 2 0 0) { s := [(2, off)] }
    let j : ChoirJob := ⟨zeros 64, 0, 1, false⟩
    (thread (ta 1 0 0) {}).Ready cell0 0 (.tallyClaim 1) ∧ (with' (ta 1 0 0) { owner := some 0 }).Ready cell0 0 (.tallyClaim 1) ∧
    (with' (ta 1 0 0) { owner := some 15 }).Ready cell0 0 (.tallyClaim 1) ∧
    (with' (ta 0 0 1) { owner := some 0 }).Ready cell0 0 .tallyRelease ∧ (thread (ta 0 0 1) {}).Ready cell0 0 .tallyRelease ∧
    (with' (ta 0 0 1) { owner := some 0, queue := full }).Ready cell0 0 .tallyRelease ∧
    (with' (ta 0 0 2) { owner := some 0, queue := full }).Ready cell0 0 .tallyInit ∧
    (with' (ta 0 2 3) { owner := some 0 }).Ready cell0 0 (.tallyFold 2) ∧
    (with' (ta 0 2 6) { owner := some 0 }).Ready cell0 0 (.tallyFeed 4 2) ∧
    (with' (ta 1 0 7) { owner := some 0 }).Ready cell0 0 (.tallyRd 1) ∧
    (go 524224#64).Ready cell0 0 (.choirGo 1 2) ∧ (go 524288#64).Ready cell0 0 (.choirGo 1 2) ∧ (go 63#64).Ready cell0 0 (.choirGo 1 2) ∧
    (threadIn (fmtA 0x3B 1 2 0 0) {} fun c => { c with choir := ⟨some j, [j, j, j]⟩ }).Ready cell0 0 (.choirGo 1 2) ∧
    ([j, j, j].length + (some j).toList.length = 4 ∧ full.length = 4) ∧
    (let s := with' 0 { owner := some 0, queue := full }
     (s.cell cell0).tally.queue = .init :: [.init, .init, .init] ∧ s.cellClocked cell0 = true) ∧
    (let s := threadIn 0 {} fun c => { c with choir := ⟨none, [j]⟩ }
     cell0 < 3072 ∧ s.cellRuns cell0 = true ∧ (s.cell cell0).choir.running = none ∧ (s.cell cell0).choir.queue = j :: [] ∧
      (s.bay (bayOf cell0)).st = .on ∧ lowest (choirBad j.desc) = some 2) ∧
    (let good : List Byte := [0#8, 0#8] ++ le 2 32 ++ le 4 0 ++ le 4 4096 ++ le 4 8192 ++ le 4 64 ++ le 4 64 ++ le 4 64 ++ le 4 0x3F800000 ++ zeros 32
     lowest (choirBad good) = none) := by
  refine ⟨ready_of ?_, ready_of ?_, ready_of ?_, ready_of ?_, ready_of ?_, ready_of ?_, ready_of ?_, ready_of ?_, ready_of ?_,
    ready_of ?_, ready_of ?_, ready_of ?_, ready_of ?_, ready_of ?_, ?_, ?_, ?_, ?_⟩ <;> decide +kernel

/-- SlypeAndSumsAtACell: each instruction ready to issue; sound and unsound registers; an engine idle and busy; a group
that is there and none; a result landed and none; an engine and the mover at work. -/
theorem witness_SlypeAndSumsAtACell :
    let go (src dst len : Word) (f : Cell → Cell) :=
      threadIn (0x3C * 2 ^ 26 + 2 ^ 21 + 2 * 2 ^ 16 + 3 * 2 ^ 11 + 4 * 2 ^ 6 + 2 ^ 5) { s := [(2, src), (3, dst), (4, len)] } f
    let busy (c : Cell) : Cell := { c with eng1 := { mode := 1, len := 64 } }
    let group : SumGroup := { kind := 1, sliceBytes := 64, slices := 1, entries := [(0, 1)] }
    let sum (w : Nat) (wd : Word) (f : Cell → Cell) : State :=
      celled { state := .running, sums := [(63, group)] } (f (spelling w { s := [(1, 64#64), (2, wd), (3, 0#64)] }))
    let c := fmtA 0x39 1 2 3 0
    let w := fmtA 0x39 1 2 3 1
    let done : SumResult := ⟨63, 0, 0, false, 0, 1, zeros 64⟩
    let idle (s : State) (f : Slype → Slype) : State := { s with amb := { s.amb with mover := f { len := 64, mode := 1 } } }
    ((go 0 64 0x10000000000 id).Ready cell0 0 (.slypeGo 1 2 3 4 1) ∧ (go 0 1 64 id).Ready cell0 0 (.slypeGo 1 2 3 4 1) ∧
      (go 0 64 64 (accessing false)).Ready cell0 0 (.slypeGo 1 2 3 4 1) ∧ (go 0 64 64 busy).Ready cell0 0 (.slypeGo 1 2 3 4 1) ∧
      (thread (0x3C * 2 ^ 26 + 2 ^ 21 + 2 ^ 5 + 1) {}).Ready cell0 0 (.slypeWait 1 1) ∧
      (threadIn (0x3C * 2 ^ 26 + 2 ^ 21 + 2 ^ 5 + 1) {} busy).Ready cell0 0 (.slypeWait 1 1)) ∧
    (0 % 64 = 0 ∧ 64 % 64 = 0 ∧ 0 < 2 ^ 40 ∧ 2 ^ 40 % 64 = 0) ∧
    ((sum c 63 id).Ready cell0 0 (.sumC 1 2 3) ∧ (sum c 63 (accessing false)).Ready cell0 0 (.sumC 1 2 3) ∧
      (sum c 63 fun x => { x with aisle := { injHold := true } }).Ready cell0 0 (.sumC 1 2 3) ∧
      (sum w 63 fun x => { x with sum := { landing := [done] } }).Ready cell0 0 (.sumW 1 2 3) ∧ (sum w 63 id).Ready cell0 0 (.sumW 1 2 3)) ∧
    (sumCheck (sum c 63 id) cell0 63 0 (some 64) = none ∧ sumCheck (sum c 63 id) cell0 63 0 none = none ∧
      sumCheck (sum c 62 id) cell0 62 0 (some 64) = some (0x08, 0) ∧ done.fits 63 0 0 = true ∧ pcOk 524288 = false) ∧
    (let s := threadIn 0 {} busy
     s.cellClocked cell0 = true ∧ ((s.cell cell0).eng 1).mode = 1 ∧ ((s.cell cell0).eng 1).failed = none ∧
      ((s.cell cell0).eng 1).units = [] ∧ ((s.cell cell0).eng 1).nextUnit < ((s.cell cell0).eng 1).total ∧
      ((s.cell cell0).eng 1).host = none ∧ freeTracker ((s.cell cell0).eng 1).trackers 192 = some 0 ∧
      cellPlace (s.chapel (s.chapelIx cell0)) cell0 (.hbm 0 0) = none) ∧
    (let s := idle hosted id
     s.mainOn = true ∧ s.pw.state = .active ∧ s.amb.mover.mode = 1 ∧ s.amb.mover.failed = none ∧
      s.amb.mover.nextUnit < s.amb.mover.total ∧ freeTracker s.amb.mover.trackers 256 = some 0 ∧ s.amb.moverOut = false ∧
      freeTag s .h0 = some 0) ∧
    (idle hosted fun x => { x with nextUnit := 1 }).amb.mover.total ≤ 1 := by
  refine ⟨⟨ready_of ?_, ready_of ?_, ready_of ?_, ready_of ?_, ready_of ?_, ready_of ?_⟩, ?_, ⟨ready_of ?_, ready_of ?_, ready_of ?_,
    ready_of ?_, ready_of ?_⟩, ?_, ?_, ?_, ?_⟩ <;> decide +kernel

/-- SendsChannelsAndTurns: each instruction ready to issue; lengths and offsets at the ends of their ranges; words of this
package, of a span slot that is down, and bad ones; a full queue; a channel with and without credit; turns that are
enabled, with and without a record; an HRET that goes on and one that exits. -/
theorem witness_SendsChannelsAndTurns :
    let m (func : Nat) := fmtA 0x38 1 2 3 func
    let r (len word off : Word) : Ctx := { s := [(1, len), (2, word), (3, off)] }
    let ch (phase credits maxLen : Nat) (c : Cell) : Cell := { c with chanTx := [(63, { phase := phase, credits := credits, total := 4, maxLen := maxLen })] }
    let stuck (c : Cell) : Cell := { c with ch := { sysQ := List.replicate 4 {} }, aisle := { injHold := true } }
    let rec' : Record := ⟨64, 64, 64, zeros 16, false, none, none, false⟩
    let turns (rs : List Record) (c : Cell) : Cell := { c with turns := [(7, { ringSize := 1024, records := rs })] }
    let s := thread (m 0) (r 8192 0 516096)
    let remote : Word := 0x8000000000000000#64
    let down : State := { s with links := [(11, { owner := 191, span := 0 })] }
    (s.Ready cell0 0 (.send false false 1 2 3) ∧ (threadIn (m 0) (r 48 0 0) stuck).Ready cell0 0 (.send false false 1 2 3) ∧
      (threadIn (m 0) (r 56 0 0) stuck).Ready cell0 0 (.send false false 1 2 3) ∧
      (thread (m 1) (r 48 0 0)).Ready cell0 0 (.send false true 1 2 3) ∧
      (threadIn (m 1) (r 48 0 0) (accessing false)).Ready cell0 0 (.send false true 1 2 3) ∧
      (threadIn (m 2) (r 8 63 0) (ch 1 1 8)).Ready cell0 0 (.send true false 1 2 3) ∧
      (threadIn (m 2) (r 8 63 0) (ch 1 0 8)).Ready cell0 0 (.send true false 1 2 3) ∧
      (threadIn (m 3) (r 16 63 0) (ch 1 1 8)).Ready cell0 0 (.send true true 1 2 3) ∧
      (thread (m 0x10) (r 0 0 0x20000040)).Ready cell0 0 (.chanOpen 1 2 3) ∧
      (threadIn (fmtA 0x38 0 2 0 0x11) (r 0 63 0) (ch 1 4 0)).Ready cell0 0 (.chanClose 2) ∧
      (threadIn (fmtA 0x38 1 2 0 0x20) (r 0 128 0) (turns [])).Ready cell0 0 (.turnWait 1 2) ∧
      (threadIn (fmtA 0x38 1 2 0 0x20) (r 0 128 0) (turns [rec'])).Ready cell0 0 (.turnWait 1 2) ∧
      (threadIn (fmtA 0x38 0 0 0 0x21) { s := [(28, 80#64), (29, 524284#64)] } (turns [{ rec' with taken := some 0 }])).Ready cell0 0 .hret) ∧
    (516096 % 8 = 0 ∧ 516096 + 8192 ≤ 524288 ∧ 524288 < 516104 + 8192 ∧ 8192 % 8 = 0 ∧ 8192 < 8200 ∧ 4 % 8 ≠ 0) ∧
    (wordOk s 191 0 = true ∧ wordOk s 191 0x8000000000#64 = true ∧ wordOk s 191 (BitVec.ofNat 64 (16 * 2 ^ 43)) = false ∧
      wordOk s 191 remote = false ∧ wordOk down 191 remote = true ∧ (mwRemote remote = true ∧ slotUp down 191 (mwSpan remote) = false)) ∧
    ((s.cell cell0).chantryRoom = true ∧ (stuck {}).chantryRoom = false ∧ (stuck {}).aisle.injHold = true ∧
      (s.cell cell0).assuredRoom 0 8192 = true) ∧
    (((ch 1 1 8 {}).tx 63).phase = 1 ∧ ((ch 0 1 8 {}).tx 63).phase ≠ 1 ∧ (s.cell cell0).tx 0 = { phase := 3 } ∧
      0x20000040 = 64 + 65536 * 8192) ∧
    (((turns [] {}).turn 7).enabled = true ∧ ((turns [] {}).turn 6).enabled = false ∧ ((turns [] {}).turn 7).oldest = none ∧
      ((turns [rec'] {}).turn 7).oldest = some rec' ∧
      (turns [{ rec' with taken := some 0 }] {}).takenBy 0 80 = some (7, { rec' with taken := some 0 }) ∧
      (turns [rec'] {}).takenBy 0 80 = none ∧ pcOk 524284 = true ∧ pcOk 2 = false) := by
  refine ⟨⟨ready_of ?_, ready_of ?_, ready_of ?_, ready_of ?_, ready_of ?_, ready_of ?_, ready_of ?_, ready_of ?_, ready_of ?_,
    ready_of ?_, ready_of ?_, ready_of ?_, ready_of ?_⟩, ?_, ?_, ?_, ?_, ?_⟩ <;> decide +kernel

/-- MessagesAndChannels: a message to a turn with room in its ring, in its spill region and in neither, to a disabled turn,
and on a channel; a record for a waiting and for a new context, with a good handler, a bad one and none; each system
flit; each timer. -/
theorem witness_MessagesAndChannels :
    let cellOf (f : Cell → Cell) := threadIn 0 {} f
    let m (chan : Option (Nat × Nat)) : Message := ⟨48, 255, false, 0, 255, 7, 0, 0#32, chan, zeros 48⟩
    let tu (ring held spill : Nat) (c : Cell) : Cell :=
      { c with turns := [(7, { ringSize := ring, ringHeld := held, spillSize := spill, ringBase := 1024, spillBase := 4096 })] }
    let arr (x : Message) (c : Cell) : Cell := { c with arrivals := [x] }
    let r : Record := ⟨64, 64, 64, [0#8, 0#8, 255#8] ++ zeros 13, false, none, none, false⟩
    let rx (used : Bool) (c : Cell) : Cell := { c with chanRx := [(62, { used := used, credits := 1, base := 8192, slotSize := 64, creditOut := true })] }
    let flit (kind : Nat) (tag : Nat) : ChFlit := { kind := kind, tag := BitVec.ofNat 32 tag, turn := 7, payload := zeros 48 }
    let sys (f : ChFlit) (c : Cell) : Cell := { c with sysIn := [f] }
    let tx (phase : Nat) (repeats : Nat) (c : Cell) : Cell := { c with chanTx := [(63, { phase := phase, total := 1, repeats := repeats })] }
    let evicting := celled { state := .evicting } (arr (m none) {})
    (let s := cellOf (arr (m none))
     s.cellClocked cell0 = true ∧ (s.cell cell0).arrivals = m none :: [] ∧ s.chapelOfCell cell0 = some 191 ∧
      (s.chapel 191).state ≠ .evicting ∧ ((s.cell cell0).turn 7).ringSize = 0) ∧
    ((evicting.chapel (evicting.chapelIx cell0)).state = .evicting ∧ evicting.cellClocked cell0 = true) ∧
    (recordSize 48 = 64 ∧
      (let t := (tu 64 0 0 {}).turn 7; t.spillActive = false ∧ regionPlace t.ringSize (t.regionHead false) t.ringTail t.ringHeld 64 = some (0, 0)) ∧
      (let t := (tu 64 64 64 {}).turn 7
       regionPlace t.ringSize (t.regionHead false) t.ringTail t.ringHeld 64 = none ∧ t.spillUsed + 64 ≤ t.spillSize ∧
        regionPlace t.spillSize (t.regionHead true) t.spillTail t.spillHeld 64 = some (0, 0)) ∧
      (let t := (tu 64 64 0 {}).turn 7
       regionPlace t.ringSize (t.regionHead false) t.ringTail t.ringHeld 64 = none ∧ ¬ t.spillUsed + 64 ≤ t.spillSize)) ∧
    ((m (some (62, 0))).chan = some (62, 0) ∧ ((rx true {}).rx 62).used = true ∧ ((rx false {}).rx 62).used = false ∧
      (0 + 65536 - ((rx true {}).rx 62).next) % 65536 < ((rx true {}).rx 62).credits ∧ ((rx true {}).rx 62).early = []) ∧
    (let d (word : Nat) := cellOf fun c => { c with
       turns := [(7, { ringSize := 1024, records := [r] })], waiters := [1]
       ctxs := [(1, { mode := .wait, waiting := .turn 0x80#8 1 })]
       store := Memory.writeBytes c.store (0x7F000 + 4 * 255) (le 4 word) }
     (((d 0).cell cell0).turn 7).oldest = some r ∧ (d 0).taker cell0 7 = some (1, false) ∧ cell0 < 3072 ∧
      (d 0).cellRuns cell0 = true ∧ leNat (Memory.readBytes ((d 0).cell cell0).store (0x7F000 + 4 * 255) 4) < 2 ^ 31 ∧
      2 ^ 31 ≤ leNat (Memory.readBytes ((d 0x80000040).cell cell0).store (0x7F000 + 4 * 255) 4) ∧
      pcOk (0x80000040 % 524288) = true ∧ pcOk (0x80000042 % 524288) = false) ∧
    (let d := cellOf fun c => { c with turns := [(7, { ringSize := 1024, spawn := true, records := [r] })] }
     d.taker cell0 7 = some (1, true) ∧ ((d.cell cell0).turn 7).oldest = some r) ∧
    (let s := cellOf (sys (flit 3 1))
     s.cellClocked cell0 = true ∧ (s.cell cell0).sysIn = flit 3 1 :: [] ∧ (s.cell cell0).chanRx = [] ∧
      (s.cell cell0).reserve 7 64 = none) ∧
    ((({ turns := [(7, { ringSize := 1024, chanBase := 4096, chanSize := 64 })] } : Cell).reserve 7 64) = some (0, 4096)) ∧
    (((tx 0 0 {}).tx 63).phase = 0 ∧ ((tx 1 0 {}).tx 63).phase = 1 ∧ ((tx 2 0 {}).tx 63).phase = 2 ∧
      (flit 4 (63 + 64 * 63)).tag.toNat % 64 = 63 ∧ (flit 4 (62 + 64 * 63)).tag.toNat / 64 % 64 = 63 ∧
      (flit 2 (65536 * 63)).tag.toNat / 65536 % 64 = 63 ∧ (flit 2 0).kind = 2) ∧
    (((rx true {}).rx 62).creditOut = true ∧ ((tx 0 7 {}).tx 63).repeats < 8 ∧ ((tx 0 8 {}).tx 63).repeats = 8) := by
  decide +kernel

/-- AisleTraffic: a packet on a link, kept, damaged and astray; an output granted; an ejection of each class, good and
bad; trackers, retransmission and acknowledgement. -/
theorem witness_AisleTraffic :
    let there (f : Cell → Cell) := threadIn 0 {} f
    let p : AislePkt := { chapel := 191, dest := cell0, src := cell0 + 1, kindBytes := zeros 8, payload := [] }
    let good := p.sealed
    let wire (q : AislePkt) := there fun c => { c with aisle := { linkE := [q] } }
    let queue (x : Slot) := there fun c => { c with aisle := { injQ := [x] } }
    let ej (q : AislePkt) (f : Cell → Cell) := there fun c => f { c with aisle := { inE := [⟨q, [], true⟩] } }
    let win (ne : Nat) (bits : BitVec 64) (c : Cell) : Cell :=
      { c with uni := { rx := [(uniKey false 255 (cell0 + 1), { ne := ne, bitmap := bits })] } }
    let idx (q : AislePkt) (f : Cell → Cell) :=
      (q.seq + 65536 - (tget RxWin.fresh ((ej q f).cell cell0).uni.rx (uniKey q.remote q.srcSpan q.src)).ne) % 65536
    let copy (sends : Nat) : UniCopy := ⟨good, sends⟩
    let held (sends : Nat) := there fun c => { c with uni := { assured := [copy sends], casts := [⟨0, 255, false, 0, 0, 1, true, 0, 0⟩] } }
    let h := (there id).chapel 191
    (let s := wire p
     s.cellClocked cell0 = true ∧ (s.cell cell0).aisle.wire .e = p :: [] ∧ s.chapelOfCell cell0 = some 191 ∧
      s.chapelOfCell cell0 ≠ some 0 ∧ (h.steer cell0 (some .e) p).outs = [] ∧ (h.steer cell0 (some .e) p).eject = true ∧
      (h.steer cell0 (some .e) p).outs.find? (fun o => !(h.folds cell0 o || h.holds (stepDir cell0 o))) = none ∧
      (let k : Chapel := { origin := 1, width := 16, height := 1 }; let g := k.globalOf 0
       (k.steer g (some .w) { p with dest := 0 }).outs.find? (fun o => !(k.folds g o || k.holds (stepDir g o))) = some .w)) ∧
    (p.route = 0 ∧ p.outbound = false ∧ { p with remote := true }.outbound = true) ∧
    (let s := queue ⟨{ p with dest := cell0 + 1 }, [.e], false⟩
     grantOrder s cell0 .e = .injection :: [] ∧ (s.cell cell0).aisle.port .injection = ⟨{ p with dest := cell0 + 1 }, [.e], false⟩ :: [] ∧
      grantOrder s cell0 .w = [] ∧ (s.cell cell0).aisle.wants .injection .e = true) ∧
    (let s := ej good id
     (s.cell cell0).aisle.port (ejectPort (.ring .e)) = ⟨good, [], true⟩ :: [] ∧ contribWaits (s.cell cell0) good (.ring .e) = false ∧
      (s.chapel 191).state ≠ .evicting ∧ trailerGood s cell0 good = true ∧ trailerGood s cell0 { good with seq := 1 } = false ∧
      s.mayInject cell0 = true) ∧
    (idx good (win 0 0) < 64 ∧ idx good (win 0xFFC1 0) = 63 ∧ idx good (win 0xFFC0 0) = 64 ∧ idx good (win 32769 0) = 32767 ∧
      idx good (win 32768 0) = 32768 ∧ (1#64).getLsbD 0 = true) ∧
    (let s := held 7
     s.fabricRuns cell0 = true ∧ (s.cell cell0).uni.casts[0]? = some ⟨0, 255, false, 0, 0, 1, true, 0, 0⟩ ∧
      (s.cell cell0).uni.assured[0]? = some (copy 7) ∧ (copy 7).sends < 8 ∧ ((held 8).cell cell0).uni.assured[0]? = some (copy 8)) ∧
    (let f : ChFlit := { kind := 1, src := cell0, srcSpan := 255 }
     let s := there fun c => { c with sysIn := [f], uni := { assured := [copy 1] } }
     (s.cell cell0).sysIn = f :: [] ∧ ((s.cell cell0).uni.assured.find? fun y => decide (y.pkt.seq = f.tag.toNat % 65536 ∧
      y.pkt.engine = bitN f.tag.toNat 16 ∧ y.pkt.destKey = uniKey (decide (f.srcSpan ≠ 255)) f.srcSpan f.src)) = some (copy 1)) := by
  decide +kernel

/-- SumsInTheFabric: a contribution to a group that is there and to none, first, repeated, passed and of another instance;
a complete slot and one that waits; a parent and none; a result that is awaited, kept and lost. -/
theorem witness_SumsInTheFabric :
    let group : SumGroup := { kind := 1, sliceBytes := 64, slices := 1, entries := [(0, 1)] }
    let child : SumGroup := { group with entries := [(0, 0x41)] }
    let at_ (sg : SumGroup) (x : SumNode) : State := celled { state := .running, sums := [(63, sg)] } { sum := x }
    let p : AislePkt := { cls := 3, kind := 2, chapel := 191, dest := cell0, src := cell0, kindBytes := sumFields 63 0 0 0 1 0, payload := zeros 64 }
    let op0 : SumOperand := ⟨0, 0, 0, 1, List.replicate 16 0#32⟩
    let one (next : Option (Nat × Nat)) (os : List SumOperand) (waits : Bool) : SumNode :=
      { insts := [(63, { next := next, operands := os, sentWaits := waits })], inbox := [p] }
    let r : SumResult := ⟨63, 0, 0, false, 0, 1, zeros 64⟩
    let w : SumWait := ⟨63, 0, 0, 0, 0⟩
    let s := at_ group (one none [] false)
    (s.fabricRuns cell0 = true ∧ (s.cell cell0).sum.inbox = p :: [] ∧ p.sumInput cell0 = some 0 ∧ p.sumGroup = 63 ∧
      p.sumFailed = false ∧ (0 : Nat) ∈ sumInputs (s.chapel 191) group cell0 ∧ ((s.cell cell0).sumInst 63).operand 0 = none ∧
      ({ p with src := cell0 + 2 }).sumInput cell0 = none ∧ SumGroup.fresh.kind = 0 ∧
      ({ p with kindBytes := sumFields 63 0 0 2 1 0 }).sumFailed = true) ∧
    (olderInst (0, 0) (1, 0) = true ∧ olderInst (0, 0) (0, 0) = false ∧ (0, 0) ≠ (1, 0)) ∧
    (let x := ((at_ group (one (some (0, 0)) [op0] false)).cell cell0).sumInst 63
     x.complete (sumInputs (s.chapel 191) group cell0) = true ∧ x.operands ≠ [] ∧ group.kind ≠ 0) ∧
    (let two : SumGroup := { group with entries := [(0, 3)] }
     let x := ((at_ two (one (some (0, 0)) [op0] false)).cell cell0).sumInst 63
     x.complete (sumInputs ((at_ two {}).chapel 191) two cell0) = false) ∧
    (parentToggle (at_ child (one none [] true)) cell0 63 = some false ∧
      ({ seen := true } : SumInst).seen ≠ false ∧ (((at_ child (one none [] true)).cell cell0).sumInst 63).sentWaits = true) ∧
    (bitsN (((at_ child {}).chapel 191).sumEntry child cell0) 8 6 ≠ 0 ∧ bitsN ((s.chapel 191).sumEntry group cell0) 8 6 = 0) ∧
    (let y (posted : List SumWait) (landing : List SumResult) := at_ group { results := [r], posted := posted, landing := landing }
     ((y [w] []).cell cell0).sum.results = r :: [] ∧
      ((y [w] []).cell cell0).sum.posted.filter (fun p => decide (r.group = p.group ∧ r.round = p.round ∧ r.slice = p.slice)) = [w] ∧
      [r].length < 2 ∧ 2 ≤ [r, r].length ∧ ((y [w] []).cell cell0).sum.posted.find? (fun p => decide (p.tid = 0)) = some w) := by
  decide +kernel

/-- ChantryAndAmbulatory: a flit on a link, for this cell, for the gate and to be passed on; injection; a HOLD; a flit on a
lane, at its stop, with a bad and a good header; a request at each kind of target; a response that is awaited and one
that is late; a timeout. -/
theorem witness_ChantryAndAmbulatory :
    let there (f : Cell → Cell) := threadIn 0 {} f
    let f : ChFlit := { chapel := 191, dest := cell0, age := 255 }
    let s := there fun c => { c with ch := { linkE := [f], gateIn := [f], injQ := [f] } }
    let h := s.chapel 191
    let n := (s.cell cell0).ch
    let amb (a : Amb) : State := { there id with amb := { a with bays := [(191, { st := .on })] } }
    let q (dest : Nat) : AmbFlit := { op := .read, chapel := 191, src := cell0, dest := dest, size := 3 }
    let lane : AmbLane := .nave 11 true
    let l := amb { lanes := [(laneKey lane 0, { link := [(0, q cell0)] })] }
    let e (dest : Nat) := amb { ends := [(dest, { inject := [q dest], reqs := [q dest], rsps := [q dest] })] }
    let k : Tracker := { busy := true, sent := true, req := { chapel := 191 } }
    (s.cellClocked cell0 = true ∧ n.wire .e = f :: [] ∧ s.chapelOfCell cell0 = some f.chapel ∧
      s.chapelOfCell cell0 ≠ some 0) ∧
    ((f.outbound = false ∧ f.dest = cell0 ∧ n.ejTaken = false) ∧
      ({ f with remote := true }.outbound = true ∧ h.globalOf 0 = cell0 ∧ n.exitTaken = false ∧ n.gateOut.length < 16) ∧
      (n.freeOut (h.productive cell0 (cell0 + 1))).isSome = true ∧
      ({ n with taken := dirs }.freeOut (h.productive cell0 (cell0 + 1)) = none ∧
        { n with taken := dirs }.freeOut ([Dir.e, .s, .w, .n].filter (h.ownsLink cell0)) = none)) ∧
    (s.held 191 = false ∧ s.mayInject cell0 = true ∧ n.offer ≠ none ∧ f.age = 255 ∧ n.lastGate = false) ∧
    (s.mainOn = true ∧ laneValid lane = true ∧ 0 < laneSize lane ∧ (l.laneIn lane 0).link = (0, q cell0) :: [] ∧
      (zeros 16).length = 16 ∧ flitOf (List.replicate 16 255#8) (q cell0) = none ∧ (flitOf (zeros 16) (q cell0)).isSome = true) ∧
    (ambEndpoint 0xC30 = true ∧ ((e 0xC30).endq 0xC30).inject = q 0xC30 :: [] ∧ ambEndpoint cell0 = true) ∧
    (targetTakes (e cell0) cell0 = true ∧ ((e cell0).endq cell0).reqs = q cell0 :: [] ∧ (q cell0).dest = cell0 ∧
      cell0 < 0xC00 ∧ ((e cell0).bay (bayOf cell0)).st = .on ∧ ((e 0).bay (bayOf 0)).st ≠ .on ∧
      targetCheck (e cell0) (q cell0) = true ∧ targetCheck (e cell0) { q cell0 with chapel := 0 } = false ∧
      (0xC07 < 0xC08 ∧ targetTakes (e 0xC07) 0xC07 = true) ∧ targetTakes (e 0xC11) 0xC11 = true ∧ targetTakes (e 0xC2B) 0xC2B = true) ∧
    (let y := there fun c => { c with trackers := [(0, k)], eng1 := { trackers := [(191, k)] } }
     (tget Tracker.fresh (y.cell cell0).trackers 0 = k ∧ k.epoch = (q cell0).epoch ∧ k.req.chapel = (q cell0).chapel) ∧
      tget Tracker.fresh ((y.cell cell0).eng 1).trackers 191 = k ∧ (tget Tracker.fresh (y.cell cell0).trackers 127).busy = false ∧
      128 + 192 * 1 + 191 < 512 ∧ tget Tracker.fresh (ownerTrackers y (.threads cell0)) 0 = k) := by
  decide +kernel

/-- BaysAndHbm: a bay in each state; a request to a stack that serves and one that does not, direct and coalesced; an
access of each kind at its turn; a sector that is marked, known and unknown; a scrub; an open entry. -/
theorem witness_BaysAndHbm :
    let bay (b : Bay) : State := { hosted with amb := { bays := [(191, b)] } }
    let q (win size : Nat) (op : AmbOp) : AmbFlit := { op := op, chapel := 191, win := win, size := size, addr := 0x1C0 }
    let en (data : Option (List Byte)) (shut : Bool) : Coalesce := { block := 0, opened := 0#64, data := data, shut := shut }
    let st (x : Stack) : State := { hosted with hbmStacks := [(7, x)] }
    let down : State := { hosted with heat := { sensors := [(207, { state := 3 })] } }
    let at_ (a : HbmAccess) := st { queue := [a] }
    let known : State := { hosted with hbm := { mem := (List.range 64).map fun k => (0x1C0 + k, 0#8) } }
    let marked : State := { hosted with hbm := { poison := [0x1C0] } }
    (191 < 192 ∧ hosted.mainOn = true ∧ ((bay { st := .on, offWanted := true }).bay 191).offWanted = true ∧
      ((bay { st := .draining }).bay 191).st = .draining ∧ bayQuiet (bay { st := .draining }) 191 = true ∧
      ((bay { st := .fenced }).bay 191).st = .fenced ∧ ((bay {}).bay 191).st = .off ∧ ((bay { st := .waking }).bay 191).st = .waking ∧
      bayOf 0 ≠ 191 ∧ bayOf cell0 = 191) ∧
    (down.hbmDead 7 = true ∧ hosted.hbmDead 7 = false ∧ ¬ (64 ≤ (q 63 3 .read).win ∧ (q 63 3 .read).win < 72) ∧
      (64 ≤ (q 71 3 .read).win ∧ (q 71 3 .read).win < 72) ∧
      ((st { entries := [en (some (zeros 2048)) false] }).stack 7).entries.find? (·.takes hosted 0) = some (en (some (zeros 2048)) false) ∧
      ((st { entries := [en none false] }).stack 7).entries.find? (·.takes hosted 0) = some (en none false) ∧
      ((st { entries := [en none true] }).stack 7).entries.find? (·.takes hosted 0) = none) ∧
    (((at_ (.req (q 0 4 .write))).stack 7).queue = .req (q 0 4 .write) :: [] ∧ ((at_ (.block 0 0#64)).stack 7).queue = .block 0 0#64 :: [] ∧
      (q 0 3 .write).size ≠ 4 ∧ (stackRead known 7 0x1C0 .clean .clean).1 = some (zeros 64) ∧
      (stackRead marked 7 0x1C0 .clean .clean).1 = none) ∧
    ((0x1C0 : Nat) ∈ marked.hbm.poison ∧ known.hbm.known 0x1C0 = true ∧ hosted.hbm.known 0x1C0 = false) ∧
    (6 ≤ hosted.pw.phase.rank ∧ hosted.awake = true ∧ hosted.inLectern 0x1C0 = false ∧
      ({ hosted with feb := { lecterns := [(15, { defined := true, base := 0, size := 449 })] } } : State).inLectern 0x1C0 = true) ∧
    (∃ e ∈ ((st { entries := [en none false] }).stack 7).entries, e.block = 0 ∧ e.shut = false) := by
  decide +kernel

/-- TranseptFrames: a port that idles, repeats, replays and sends; a frame that does not decode, has a bad check, breaks a
rule, is in order, behind and ahead; an acknowledgement in and out of range; a unit in and beyond its credit; the timers. -/
theorem witness_TranseptFrames :
    let s (l : TPort) := linked l
    let f : Frame := ⟨true, 0, 0, false, false, List.replicate 7 0, List.replicate 5 0, 0#8, 0, 0#24, 0, false, zeros 616⟩
    let frames (n : Nat) : List Frame := List.replicate n f
    let up (l : TPort) : TPort := { l with state := 2, owner := 191, peerOwner := 191, span := 63, ackValid := true }
    let q : TPort := up { q := { queue := [zeros 16] } }
    (11 < 12 ∧ (s (up {})).mainOn = true ∧ (s (up {})).awake = true ∧ ((s (up {})).link 11).sends = true ∧
      ((s { state := 3 }).link 11).sends = true ∧ (up { ctrl := some ⟨6, 0, []⟩ }).bodyOp = true ∧ (up {}).bodyOp = false ∧
      (up { replay := frames 1, resend := 1 }).resend = 1 ∧ (frames 96).length = 96 ∧ (up { replay := frames 95 }).replay.length < 96) ∧
    ((∀ b ∈ (nextBlocks 7 (s (up {})) 11).1, b.1 = 0) ∧ (∃ b ∈ (nextBlocks 7 (s q) 11).1, b.1 ≠ 0) ∧
      (nextBlocks 7 (s q) 11).2.emitted = [] ∧ (nextBlocks 7 (s q) 11).2.pw = (s q).pw) ∧
    ((List.replicate 8 0).length = 8 ∧ f.body.length = 616 ∧ f.classes.length = 7 ∧ f.credit.length = 5 ∧
      (takeControl (s (up {})) 11 f).isSome = true ∧ takeControl (s (up {})) 11 { f with ackValid := true, ack := 2000 } = none ∧
      ((up {}).rxSeq + 4096 - 2048 % 4096) % 4096 ≤ 2048 ∧ 2048 < ((up {}).rxSeq + 4096 - 2047 % 4096) % 4096 ∧
      f.fseq % 4096 = (up {}).rxSeq ∧ ((s {}).link 11).state = 0) ∧
    (let l := up { txSeq := 1, replay := [f] }
     (l.txSeq + 4095 - 0) % 4096 = 0 ∧ (l.txSeq + 4095 - 4095) % 4096 = 1 ∧ 0 < l.txSeq ∧ l.replay.length = 1 ∧
      2048 ≤ (l.txSeq + 4095 - 2048) % 4096 ∧ (up { txSeq := 1 }).replay.length = 0) ∧
    ((({} : Stream).got + unitCredits 2 16 + 256 - ({} : Stream).released) % 256 ≤ pool 2 ∧
      ¬ (({ got := pool 2 } : Stream).got + unitCredits 2 16 + 256 - ({ got := pool 2 } : Stream).released) % 256 ≤ pool 2 ∧
      fieldN (0#8 :: 191#8 :: zeros 14) 1 1 = (up {}).owner ∧ fieldN (zeros 16) 1 1 ≠ (up {}).owner) ∧
    (linkLive (s (up {})) 11 = true ∧ (up { replay := [f], replays := 15 }).replays < 16 ∧ 16 ≤ (up { replays := 16 }).replays ∧
      (up { replay := [f] }).replay ≠ []) := by
  decide +kernel

/-- TranseptLanes: a lane lost while the port is up, and while it restripes; a restripe that ends; lanes to retrain,
retraining and retrained; a restore that may run and one that waits; each peer operation new and repeated. -/
theorem witness_TranseptLanes :
    let s (l : TPort) := linked l
    let up : TPort := { state := 2, mask := 0x7F#8, trained := 0xFF#8, lost := [7] }
    (linkLive (s up) 11 = true ∧ linkLive (s { up with state := 3 }) 11 = true ∧ 6 < 8 ∧ up.mask.getLsbD 6 = true ∧ up.up = true ∧
      up.retraining = [] ∧ ({ up with state := 1 }).up = false) ∧
    ({ up with state := 3, waitingLosses := [6] }.waitingLosses.filter (fun x => up.mask.getLsbD x) = [6]) ∧
    (up.lost.filter (fun x => !up.retired.contains x && !up.restorable.contains x) = [7] ∧
      (let r : TPort := { up with retired := [7] }; r.lost.filter (fun x => !r.retired.contains x && !r.restorable.contains x) = []) ∧
      { up with retraining := [7] }.retraining = 7 :: []) ∧
    (let r : TPort := { up with restorable := [7] }
     r.wantsRestore = true ∧ r.mayRestore (s r) = true ∧ { up with restoreMask := some 0xFF#8 }.wantsRestore = true ∧
      { up with resend := 1 }.mayRestore (s up) = false ∧ up.wantsRestore = false) ∧
    (let e : TPort := { up with echo := 3, lastCtrl := some (0x3F, []) }
     (e.echo = 3 ∧ e.lastCtrl = some ((0x3F#8).toNat, [])) ∧ ¬ (up.echo = 3 ∧ up.lastCtrl = some ((0x3F#8).toNat, [])) ∧
      up.mask &&& 0xFF#8 = up.mask ∧ up.mask &&& 0x3F#8 ≠ up.mask ∧ ((7 : Nat) ∈ up.lost ∧ (7 : Nat) ∉ up.retraining)) ∧
    (tget 0 ({ up with losses := [(7, 7)] } : TPort).losses 7 + 1 = 8 ∧ laneCount 1#8 < 2 ∧ 2 ≤ laneCount 3#8) := by
  decide +kernel

/-- PeerOperationsAndDeparture: a HELLO of the screen's peer, of another and while training; an OWNER that agrees and one
that does not; a DEPART of each scope and a bad one; an operation the peer does not know; the package's own departure. -/
theorem witness_PeerOperationsAndDeparture :
    let s (l : TPort) := linked l
    let up : TPort := { state := 2, owner := 191, peerOwner := 191, span := 63 }
    let body (scope ch : Nat) : List Byte := padTo 32 (zeros 8 ++ [BitVec.ofNat 8 scope, BitVec.ofNat 8 ch])
    (linkLive (s up) 11 = true ∧ ((s up).portRec 11).peer = 1 ∧ (1 : Nat) ≠ 2 ∧
      (let t : TPort := { state := 1, good := 0x81#8 }; linkLive (s t) 11 = true ∧ t.good ≠ 0#8 ∧ laneCount (t.good &&& 0x7F#8) < 2 ∧
        ¬ laneCount (t.good &&& 0xFF#8) < 2)) ∧
    ((¬ (up.echo = 2 ∧ up.lastCtrl = some (191, []))) ∧ up.upState = 2 ∧ { up with peerOwner := 0 }.upState = 4 ∧ 255 < 256) ∧
    ((body 0 191).length = 32 ∧ (byteAt (body 0 191) 9).toNat = up.owner ∧ (byteAt (body 0 191) 9).toNat < 192 ∧
      (byteAt (body 1 0) 8).toNat = 1 ∧ 1 < (byteAt (body 2 0) 8).toNat ∧
      ¬ (∃ i ∈ [11, 14, 15, 28, 29, 30, 31], (byteAt (body 0 191) i).toNat ≠ 0)) ∧
    ((s { up with ctrl := some ⟨6, 0, []⟩ }).link 11).ctrl = some ⟨6, 0, []⟩ ∧
    (hosted.mainOn = true ∧ hosted.flt.halted = false ∧ hosted.pw.state = .active ∧ tableHolder 0x600B = false ∧ tableHolder 0x500B = true ∧
      ({ departing := some ⟨2, 0x0103, []⟩ } : Faults).departing = some ⟨2, 0x0103, []⟩) ∧
    ({ hosted with flash := { capsule := some (zeros 2048) }, clo := { tagOwed := true } } : State).flash.capsule = some (zeros 2048) ∧
    ((s { state := 5 }).link 11).state = 5 ∧ trainCmd (s up) 11 = none ∧
    (let c := runs (cmd 0x0401 [11#8, 1#8]); trainCmd (holding (s { state := 1 }) c) 11 = some c) := by
  decide +kernel

/-- SmbusAndKeys: a key slot held and free, a port byte of each kind; an alert pending; the PLL running and stopped; reads
and writes at the ends of the memory; a staged write of each party. -/
theorem witness_SmbusAndKeys :
    let keyed : State := { hosted with flash := { keyH0 := some (zeros 32), parties := [(0, none), (1, none)] } }
    let alert : State := { hosted with clo := { alertCause := 64#32 } }
    let c := runs (cmd 0x0605 [63#8, 1#8])
    let st (l : List Staged) : State := { holding hosted c with clo := { tag := { staged := l } } }
    let svc : Staged := ⟨63, zeros 32, some 0⟩
    let smb : Staged := ⟨255, zeros 32, none⟩
    (hosted.pw.porDone = true ∧ (zeros 32).length = 32 ∧ hosted.flash.keyH0 = none ∧ hosted.flash.keyH1 = none ∧
      keyed.flash.keyH0 ≠ none ∧ (1#8 : BitVec 8) < 2#8 ∧ (zeros 34).length ≠ 33) ∧
    (hosted.partyCount < 2 ∧ 2 ≤ keyed.partyCount ∧ (1#8 : BitVec 8) ≤ 1#8 ∧ ([] : List Byte).length ≠ 1 ∧
      1#8 < byteAt [2#8] 0) ∧
    (alert.clo.alertCause &&& alert.clo.alertEn ≠ 0#32 ∧ hosted.pw.pll = true ∧ asleep.pw.pll = false ∧ asleep.pw.porDone = true) ∧
    ((∀ x ∈ (st [svc]).clo.tag.staged, x.cmd ≠ none) ∧ (249 + 7 ≤ 256 ∧ 256 < 250 + 7 ∧ 7 < 8) ∧
      (zeros 224).length = 32 * 7 ∧ (∀ k, k < 8 → (zeros 225).length ≠ 32 * k) ∧ (192 ≤ 192 ∧ 192 + 7 ≤ 256 ∧ 191 < 192)) ∧
    ((st [smb, svc]).clo.tag.staged.find? (fun y => y.cmd.isSome) = some svc ∧ svc.cmd = some 0 ∧ (st [svc]).cmd 0 = some c ∧
      (st [smb]).clo.tag.staged.find? (fun y => y.cmd.isSome) = none ∧ (st [smb]).clo.tag.staged.head? = some smb ∧
      (st [smb]).clo.tag.staged.find? (fun y => decide (y.cmd = none)) = some smb ∧
      ({ (st [svc]) with feb := {} } : State).cmd 0 = none) := by
  decide +kernel

/-- TagFieldCommands: the tag's UID and a mask it meets and one it does not; each addressing heard and not heard; blocks at
the ends of each range; a field that rises, falls and drops a write. -/
theorem witness_TagFieldCommands :
    let t : Tag := { mem := Memory.writeBytes [] 60 (le 8 0xE004010000000001) }
    let own := leNat (t.mem.readBytes 60 8)
    let quiet : Tag := { t with state := .quiet }
    let selected : Tag := { t with state := .selected }
    (own = 0xE004010000000001 ∧ t.state ≠ .quiet ∧ own % 2 ^ 64 = (0xE004010000000001#64).toNat % 2 ^ 64 ∧
      own % 2 ^ 1 ≠ (0#64).toNat % 2 ^ 1 ∧ (0xE004010000000001#64).toNat = own ∧ (0#64).toNat ≠ own) ∧
    ((TagAddr.all = .all ∧ t.state ≠ .quiet) ∧ quiet.state = .quiet ∧ (TagAddr.selected = .selected ∧ selected.state = .selected) ∧
      t.state ≠ .selected) ∧
    (255 ≤ 255 ∧ 255 < 256 ∧ 224 + 32 ≤ 256 ∧ 256 < 225 + 32 ∧ 32 < 33) ∧
    ((zeros 32).length = 32 ∧ (192 ≤ 192 ∧ 191 < 192 ∧ 252 + 4 ≤ 256 ∧ 256 < 253 + 4) ∧ (zeros 128).length = 32 * 4 ∧
      (zeros 160).length = 32 * 5) ∧
    (∀ b ∈ [192, 255], 192 ≤ b ∧ b ≤ 255) ∧
    (hosted.pw.porDone = true ∧ hosted.clo.tag.fdLow = false ∧ hosted.gate.field = false ∧ { t with fdLow := true }.fdLow = true) ∧
    (128 + 64 ≤ 256 ∧ (zeros 2048).length = 32 * 64 ∧ (191 < 256)) := by
  decide +kernel

/-- GatehouseReader: the antenna's current at both limits; a field that settles for a poll, a sweep and an operation; a ping
at and below the threshold. -/
theorem witness_GatehouseReader_pings :
    let r (st : CardStage) (tries : Nat) : BadgeRun := { cmd := 0, slot := 2, stage := st, tries := tries }
    let o (st : TagStage) (tries : Nat) : ReaderOp :=
      { cmd := 0, op := 1, bank := 1, uid := 0, first := 0, count := 1, stage := st, tries := tries }
    let fieldAt (a : Nat) (g : Gatehouse) : Gatehouse := { g with antsel := a, field := true, settled := true }
    let approving (st : CardStage) : Gatehouse := fieldAt 0 { approval := some (r st 0) }
    let working (st : TagStage) : Gatehouse := fieldAt 1 { op := some (o st 0) }
    let confirms : Gatehouse := fieldAt 0 { confirming := some 0 }
    let base : BaselineRun := { cmd := 0 }
    let based : Gatehouse := fieldAt 0 { baseline := some base }
    let idle : Gatehouse := { base0 := some 100, pingEn := 1#3 }
    (hosted.pw.porDone = true ∧ ({ approval := some (r .polling 0) } : Gatehouse).wants = some 0 ∧ hosted.gate.field = false ∧
      hosted.clo.tag.field = false ∧ (20 ≤ 20 ∧ 300 ≤ 300 ∧ 19 < 20 ∧ 300 < 301)) ∧
    (confirms.polls = true ∧ based.polls = true ∧ (fieldAt 1 { sweeping := [1] }).polls = false ∧ (working .read).polls = false ∧
      (approving .polling).polls = false ∧ (approving .polling).sweeping = [] ∧ (approving .polling).op = none) ∧
    (({ antFault := 4#3 } : Gatehouse).antFault.getLsbD 2 = true ∧ ({ antFault := 4#3 } : Gatehouse).free = true) ∧
    (idle.pingEn.getLsbD 0 = true ∧ idle.antFault.getLsbD 0 = false ∧ idle.free = true ∧ idle.approval = none ∧ idle.base 0 = some 100 ∧
      4095 < 4096 ∧ (((147 : Nat) : Int) - (100 : Nat)).natAbs < max 1 idle.threshold.toNat ∧
      max 1 idle.threshold.toNat ≤ (((148 : Nat) : Int) - (100 : Nat)).natAbs ∧ (0 : Nat) ∉ idle.spent) ∧
    (let b : Gatehouse := { baseline := some { base with polled := true } }
     b.wants = none ∧ ({ base with polled := true } : BaselineRun).due b.pinged = some 0 ∧
      ({ base with polled := true, codes := [(0, List.replicate 16 100)] } : BaselineRun).due b.pinged = none) := by
  decide +kernel

/-- GatehouseReader: a sweep that confirms; a poll, a badge and a bank operation in each stage. -/
theorem witness_GatehouseReader :
    let r (st : CardStage) (tries : Nat) : BadgeRun := { cmd := 0, slot := 2, stage := st, tries := tries }
    let o (st : TagStage) (tries : Nat) : ReaderOp :=
      { cmd := 0, op := 1, bank := 1, uid := 0, first := 0, count := 1, stage := st, tries := tries }
    let fieldAt (a : Nat) (g : Gatehouse) : Gatehouse := { g with antsel := a, field := true, settled := true }
    let approving (st : CardStage) : Gatehouse := fieldAt 0 { approval := some (r st 0) }
    let working (st : TagStage) : Gatehouse := fieldAt 1 { op := some (o st 0) }
    let confirms : Gatehouse := fieldAt 0 { confirming := some 0 }
    let base : BaselineRun := { cmd := 0 }
    let based : Gatehouse := fieldAt 0 { baseline := some base }
    (let g := fieldAt 2 { sweeping := [2], confirming := some 2 }
     g.ready 2 = true ∧ g.sweeping.head? = some 2 ∧ ([] : List BankTag).length ≤ 32 ∧ g.confirming = some 2 ∧
      (fieldAt 2 { sweeping := [2] }).confirming ≠ some 2) ∧
    (confirms.confirming = some 0 ∧ based.confirming = none ∧ based.baseline = some base ∧ confirms.tries = 0 ∧
      CardAnswer.atqa false ≠ .atqa true) ∧
    ((approving .select).approval = some (r .select 0) ∧ (approving .select).ready 0 = true ∧ (approving .select).polls = false ∧
      hosted.flt.halted = false ∧ (approving .polling).op = none ∧ (approving .polling).baseline = none ∧
      (approving .polling).confirming = none ∧ CardStage.rats ≠ .polling ∧
      ([1#8] : List Byte) ∈ ({ r .select 0 with barred := [[1#8]] }).barred ∧ ([1#8] : List Byte) ∉ (r .select 0).barred ∧
      (r .byName 0).answer ++ [0x90#8, 0#8] = [0x90#8, 0#8] ∧ (zeros 96 ++ [0x90#8, 0#8]).length = 98 ∧
      (zeros 96 ++ [0x90#8, 0#8]).drop 96 = [0x90#8, 0#8] ∧ (r .deselect 2).tries = 2) ∧
    ((working .read).op = some (o .read 0) ∧ (working .read).ready 1 = true ∧ (working .read).sweeping = [] ∧
      (zeros 4).length = (o .read 0).blockSize * (o .read 0).count ∧ (o (.inventory 0 0) 2).tries = 2 ∧ (o .write 1).tries < 2 ∧
      ¬ (o .write 0).moved + 1 < (o .write 0).count) := by
  decide +kernel

/-- BelfryPeriodsAndWakes: a period with a frame undecided and with none; the last period of a block and of a frame; a
frame that is excluded and one that is not; a record enabled and not; a pattern armed at, below and past its hits; a wake
while recording and not. -/
theorem witness_BelfryPeriodsAndWakes :
    let f (cfg : Option (List Byte)) : FrameDue := ⟨0, [[], [], []], cfg⟩
    let bel (b : Belfry) : State := { asleep with bel := b }
    let on' : List Byte := List.replicate 80 255#8
    let p := cfgPattern on' 3
    (asleep.pw.porDone = true ∧ (bel { due := some (f none), live := 1023 }).bel.live % 1024 = 1023 ∧
      (bel { due := some (f (some [])), live := 1024 }).bel.due = some (f (some [])) ∧ (f (some [])).cfg ≠ none ∧
      asleep.bel.due = none) ∧
    ((255 + 1) % 256 = 0 ∧ (1023 + 1) % 1024 = 0 ∧ 26484 ≤ 26484 ∧ 414 ≤ 414 ∧ cfgOn [] = false) ∧
    ((bel { excluded := 2 }).bel.excluded ≠ 0 ∧ (bel {}).bel.excluded = 0) ∧
    (p.enabled = true ∧ (cfgPattern [] 3).enabled = false ∧
      ((⟨true, List.replicate p.hit true, 0⟩ : PatState).next p true).2 = true ∧
      ((⟨true, [], 0⟩ : PatState).next p false).2 = false) ∧
    ((⟨true, [], 0⟩ : PatState).armed = true ∧ p.hit ≤ (true :: List.replicate p.hit true).count true ∧ p.rearm ≤ p.rearm + 1) ∧
    (asleep.pw.recording = true ∧ on.pw.recording = false ∧ ({ sealed := false } : Belfry).sealed = false) := by
  decide +kernel

end Sys2Proof.Tests
end

section
/-! PROOFS. Exceptions, special registers and fences (chapter 07). What issuing an instruction leaves readable, the shape
of an instruction that goes on at a PC or raises PC_RANGE, the laws of the shared operations, and the two statements. -/

namespace Sys2Proof.Machine

/-! ### What can still be read of the cell once an instruction has issued -/

section Issued

variable (s : State) (g t : Nat) (i : Ins)

@[simp] theorem outstanding_issued (j : Nat) :
    ((s.issued g t i).cell g).outstanding j = (s.cell g).outstanding j := by
  rw [cell_issued]; rfl

@[simp] theorem loadsOut_issued (j : Nat) : ((s.issued g t i).cell g).loadsOut j = (s.cell g).loadsOut j := by
  rw [cell_issued]; rfl

@[simp] theorem barrier_issued : ((s.issued g t i).cell g).barrier = (s.cell g).barrier := by
  rw [cell_issued]

theorem ctx_issued_ne {j : Nat} (h : j ≠ t) : (s.issued g t i).ctx g j = s.ctx g j :=
  (became_issued s g t i).threads j h

/-- No special register holds anything that issuing changes (Tables 06-3, 07-9). -/
theorem readSpecial_issued (n : Nat) : readSpecial (s.issued g t i) g t n = readSpecial s g t n := by
  have hx : ((s.issued g t i).cell g).ctx t = (s.ctx g t).issued i := ctx_issued s g t i
  have h0 : ((s.issued g t i).cell g).eng0 = (s.cell g).eng0 := by rw [cell_issued]
  have h1 : ((s.issued g t i).cell g).eng1 = (s.cell g).eng1 := by rw [cell_issued]
  unfold readSpecial
  simp only [hx, h0, h1]
  rfl

end Issued

/-! ### Going on at a PC, or PC_RANGE -/

/-- Command `c`, the issue of `i`, makes the thread `y` and goes on at `pc`; where `pc` is no PC it has no effect and
PC_RANGE is raised (R205). -/
def State.GoesOnAt (s : State) (g t : Nat) (i : Ins) (c : Instr) (pc : Nat) (y : Ctx) : Prop :=
  (pcOk pc = true → ∃ v, s.Ends g t c v ∧ s.Became v g t (y.at_ pc)) ∧ (pcOk pc = false → s.Raises g t i c 0x07 0)

section GoingOn

variable {s : State} {g t : Nat} {i : Ins} {c : Instr}

theorem goesOnAt_goTo {pc : Nat} {k : State → State} {y : Ctx}
    (e : s.Ends g t c (goTo (s.issued g t i) g t pc k)) (hk : s.Became (k (s.issued g t i)) g t y) :
    s.GoesOnAt g t i c pc y := by
  refine ⟨fun hp => ⟨_, e, Became.goTo (y := y) hp hk⟩, fun hp => ?_⟩
  rwa [goTo_range hp] at e

theorem next_issued (k : State → State) :
    next (s.issued g t i) g t k = goTo (s.issued g t i) g t ((s.ctx g t).pc.toNat + 4) k := by
  unfold next; rw [ctx_issued]; rfl

theorem goesOnAt_next {k : State → State} {y : Ctx}
    (e : s.Ends g t c (next (s.issued g t i) g t k)) (hk : s.Became (k (s.issued g t i)) g t y) :
    s.GoesOnAt g t i c ((s.ctx g t).pc.toNat + 4) y :=
  goesOnAt_goTo (next_issued k ▸ e) hk

theorem became_wait (w : Waiting) : s.Became (wait (s.issued g t i) g t w) g t
    { (s.ctx g t).issued i with mode := .wait, waiting := w } :=
  Became.mod (became_issued s g t i) _

/-- The context has left its handler, but for its PC: ACTIVE is clear (R234). -/
def Ctx.leftHandler (x : Ctx) : Ctx := { x with excCause := x.excCause &&& ~~~(1#64 <<< 63) }

theorem goesOnAt_leaveHandler {pc : Nat} (e : s.Ends g t c (leaveHandler (s.issued g t i) g t pc)) :
    s.GoesOnAt g t i c pc ((s.ctx g t).issued i).leftHandler :=
  goesOnAt_goTo e (Became.mod (became_issued s g t i) _)

/-- A fence that waits for what `out` counts: it goes on past itself, waiting where there is any (Table 06-5). -/
theorem goesOnAt_fence {out : Bool} {w : Waiting} {k : State → State}
    (e : s.Ends g t c (next (s.issued g t i) g t k))
    (hk : k (s.issued g t i) = if out then wait (s.issued g t i) g t w else s.issued g t i) :
    let y := (s.ctx g t).issued i
    let pc := (s.ctx g t).pc.toNat + 4
    (out = true → s.GoesOnAt g t i c pc { y with mode := .wait, waiting := w }) ∧
    (out = false → s.GoesOnAt g t i c pc y) := by
  refine ⟨fun ho => goesOnAt_next e ?_, fun ho => goesOnAt_next e ?_⟩
  · rw [hk, if_pos ho]; exact became_wait w
  · rw [hk, if_neg (by simp [ho])]; exact became_issued s g t i

theorem acquire_issued : acquire (s.issued g t i) g t =
    if (s.cell g).loadsOut t then wait (s.issued g t i) g t .loads else s.issued g t i := by
  unfold acquire; rw [loadsOut_issued]

end GoingOn

/-! ### The effect of each instruction -/

section Effects

variable {s : State} {g t : Nat}

theorem ends_brk (h : s.Ready g t .brk) :
    s.Ends g t (.brk g t) (raise (s.issued g t .brk) g t 0x0B 0) := by
  change execBrk g t s = _
  exact issueIns_runs (row := .brk) h rfl _

theorem ends_eret (h : s.Ready g t .eret) : s.Ends g t (.eret g t)
    (if !(s.ctx g t).excCause.getLsbD 63 || !(s.ctx g t).excCause.getLsbD 62 then
      raise (s.issued g t .eret) g t 0x01 0
    else leaveHandler (s.issued g t .eret) g t (s.ctx g t).excPc.toNat) := by
  change execEret g t s = _
  refine (issueIns_runs (row := .eret) h rfl _).trans ?_
  rw [ctx_issued]; rfl

theorem ends_eretR {ra : Nat} (h : s.Ready g t (.eretR ra)) : s.Ends g t (.eretR g t)
    (if !(s.ctx g t).excCause.getLsbD 63 then raise (s.issued g t (.eretR ra)) g t 0x01 0
    else leaveHandler (s.issued g t (.eretR ra)) g t ((s.ctx g t).getS ra).toNat) := by
  change execEretR g t s = _
  refine (issueIns_runs (row := .eretR) h rfl _).trans ?_
  simp only [ctx_issued]; rfl

/-- What RDSR makes of the thread, but for its PC (R215): reading CHSTATE clears RESUMED. -/
def Ctx.readsSpecial (x : Ctx) (rd n : Nat) (v : Word) : Ctx :=
  if n = 7 then { x.setS rd v with resumed := false } else x.setS rd v

theorem ends_rdsr {rd n : Nat} (h : s.Ready g t (.rdsr rd n)) : s.Ends g t (.rdsr g t)
    (next (s.issued g t (.rdsr rd n)) g t fun u =>
      u.modCtx g t fun x => x.readsSpecial rd n (readSpecial s g t n)) := by
  change execRdsr g t s = _
  refine (issueIns_runs (row := .rdsr) h rfl _).trans ?_
  simp only [readSpecial_issued]; rfl

/-- What WRSR makes of the thread where it may write `n`, but for its PC (R216). -/
def Ctx.writesSpecial (x : Ctx) (n : Nat) (v : Word) : Ctx :=
  if n = 0x020 then { x with excVec := v } else { x with excPc := v }

theorem ends_wrsr {ra n : Nat} (h : s.Ready g t (.wrsr ra n)) : s.Ends g t (.wrsr g t)
    (if (n ≠ 0x020 ∧ n ≠ 0x021) ∨ !pcOk ((s.ctx g t).getS ra).toNat then
      raise (s.issued g t (.wrsr ra n)) g t 0x06 0
    else next (s.issued g t (.wrsr ra n)) g t fun u =>
      u.modCtx g t fun x => x.writesSpecial n ((s.ctx g t).getS ra)) := by
  change execWrsr g t s = _
  refine (issueIns_runs (row := .wrsr) h rfl _).trans ?_
  simp only [ctx_issued]; rfl

theorem ends_fenceAcq (h : s.Ready g t .fenceAcq) : s.Ends g t (.fenceAcq g t)
    (next (s.issued g t .fenceAcq) g t fun u => acquire u g t) := by
  change execFenceAcq g t s = _
  exact issueIns_runs (row := .fenceAcq) h rfl _

theorem ends_fenceRel (h : s.Ready g t .fenceRel) :
    s.Ends g t (.fenceRel g t) (fenceAll (s.issued g t .fenceRel) g t) := by
  change execFenceRel g t s = _
  exact issueIns_runs (row := .fenceRel) h rfl _

theorem ends_fenceFull (h : s.Ready g t .fenceFull) :
    s.Ends g t (.fenceFull g t) (fenceAll (s.issued g t .fenceFull) g t) := by
  change execFenceFull g t s = _
  exact issueIns_runs (row := .fenceFull) h rfl _

theorem ends_barCell {rd ra : Nat} (h : s.Ready g t (.barCell rd ra)) : s.Ends g t (.barCell g t)
    (released (s.issued g t (.barCell rd ra)) g t fun u => passes u g t fun u =>
      arriveBarrier u g t rd (((u.ctx g t).getS ra).truncate 16)) := by
  change execBarCell g t s = _
  exact issueIns_runs (row := .barCell) h rfl _

end Effects

/-! ### The cell barrier (R189) -/

section BarrierLaws

variable {s : State} {g t : Nat}

theorem released_waits {k : State → State} (h : (s.cell g).outstanding t = true) :
    released s g t k = wait s g t .release := by
  unfold released; rw [if_pos h]

theorem released_goes {k : State → State} (h : (s.cell g).outstanding t = false) : released s g t k = k s := by
  unfold released; rw [if_neg (by simp [h])]

theorem passes_goes {k : State → State} (h : pcOk ((s.ctx g t).pc.toNat + 4) = true) : passes s g t k = k s := by
  unfold passes; rw [if_pos h]

theorem passes_range {k : State → State} (h : pcOk ((s.ctx g t).pc.toNat + 4) = false) :
    passes s g t k = raise s g t 0x07 0 := by
  unfold passes; rw [if_neg (by simp [h])]

/-- A thread other than `t` that the mask names is FREE or STOPPED: it will not arrive. -/
def State.barrierGone (s : State) (g t : Nat) (mask : BitVec 16) : Bool :=
  (maskTids mask).any fun k => decide (k ≠ t) && decide ((s.ctx g k).mode = .free ∨ (s.ctx g k).mode = .stopped)

/-- The issuing thread's own mode does not count. -/
theorem barrierGone_issued (i : Ins) (mask : BitVec 16) :
    (s.issued g t i).barrierGone g t mask = s.barrierGone g t mask := by
  unfold State.barrierGone
  congr 1; funext k
  by_cases hk : k = t
  · simp [hk]
  · rw [ctx_issued_ne s g t i hk]

theorem arriveBarrier_busy {rd : Nat} {mask : BitVec 16} {b : Barrier} (hb : (s.cell g).barrier = some b)
    (hm : b.mask ≠ mask) : arriveBarrier s g t rd mask = wait s g t .barrierTurn := by
  unfold arriveBarrier; simp [hb, hm]

/-- No barrier runs, or the one that runs has this mask and `a` have arrived. -/
def Cell.barrierOpen (c : Cell) (mask : BitVec 16) (a : List Nat) : Prop :=
  c.barrier = none ∧ a = [] ∨ c.barrier = some ⟨mask, a⟩

/-- The thread waits in the barrier, after those in `a`. -/
def State.joined (s : State) (g t rd : Nat) (mask : BitVec 16) (a : List Nat) : State :=
  (wait s g t (.barrier mask rd)).modCell g fun c => { c with barrier := some ⟨mask, a ++ [t]⟩ }

/-- An arrival at an open barrier joins it, and ends it where a participant is gone or it is the last. -/
theorem arriveBarrier_open {rd : Nat} {mask : BitVec 16} {a : List Nat} (ho : (s.cell g).barrierOpen mask a) :
    arriveBarrier s g t rd mask =
      if s.barrierGone g t mask then (s.joined g t rd mask a).modCell g (·.endBarrier 1#64)
      else if (maskTids mask).all (a ++ [t]).contains then (s.joined g t rd mask a).modCell g (·.endBarrier 0#64)
      else s.joined g t rd mask a := by
  unfold arriveBarrier
  rcases ho with ⟨hb, rfl⟩ | hb
  · simp only [hb, Bool.false_eq_true, if_false]; rfl
  · simp only [hb, ne_eq, not_true_eq_false, decide_false, Bool.false_eq_true, if_false]; rfl

end BarrierLaws

/-! ### Changes of one thread's context alone -/

/-- From `s` to `u` context `t` of cell `g` is now `y`; every other context, every other cell and everything outside the
cells is as it was. -/
structure State.OnlyCtx (s u : State) (g t : Nat) (y : Ctx) : Prop where
  outside : u = { s with cells := u.cells }
  others : ∀ h, h ≠ g → u.cell h = s.cell h
  threads : ∀ j, j ≠ t → u.ctx g j = s.ctx g j
  thread : u.ctx g t = y

theorem State.ctx_modCtx (s : State) (g t j : Nat) (f : Ctx → Ctx) :
    (s.modCtx g t f).ctx g j = if j = t then f (s.ctx g t) else s.ctx g j := by
  unfold State.modCtx State.ctx
  rw [State.cell_modCell, if_pos rfl, Cell.ctx_modCtx]

theorem onlyCtx_modCtx (s : State) (g t : Nat) (f : Ctx → Ctx) : s.OnlyCtx (s.modCtx g t f) g t (f (s.ctx g t)) where
  outside := rfl
  others h hh := by unfold State.modCtx; rw [State.cell_modCell, if_neg hh]
  threads j hj := by rw [State.ctx_modCtx, if_neg hj]
  thread := by rw [State.ctx_modCtx, if_pos rfl]

theorem State.OnlyCtx.trans {s u v : State} {g t : Nat} {y z : Ctx} (h : s.OnlyCtx u g t y)
    (k : u.OnlyCtx v g t z) : s.OnlyCtx v g t z where
  outside := by rw [k.outside, h.outside]
  others j hj := (k.others j hj).trans (h.others j hj)
  threads j hj := (k.threads j hj).trans (h.threads j hj)
  thread := k.thread

/-! ### Exception entry (R228-R230) -/

/-- The record of an exception in the thread's exception registers (Table 07-17). -/
def Ctx.recorded (x : Ctx) (resumable : Bool) (sub code pc addr : Nat) : Ctx :=
  { x with excPc := BitVec.ofNat 64 pc, excCause := Machine.excCause resumable sub code
           excAddr := BitVec.ofNat 64 addr, begun := false }

section Entry

variable (s : State) (g t sub code pc addr : Nat) (resumable : Bool)

/-- With a vector, the record is written and the thread goes on at it. -/
theorem enterExc_vectored (h : (s.ctx g t).excVec ≠ 0#64) : enterExc s g t resumable sub code pc addr =
    settleStop (s.modCtx g t fun x => (x.recorded resumable sub code pc addr).at_ x.excVec.toNat) g t := by
  unfold enterExc
  rw [if_neg (by rw [State.ctx_modCtx, if_pos rfl]; exact h)]
  rfl

/-- With none, the record is written, the thread stops where it is, and its chapel takes THREAD_EXC. -/
theorem enterExc_unvectored (h : (s.ctx g t).excVec = 0#64) : enterExc s g t resumable sub code pc addr =
    faultK (((s.modCtx g t fun x => (x.recorded resumable sub code pc addr).at_ x.excVec.toNat).modCtx g t
        (·.at_ pc)).modCell g (·.stopCtx t))
      (s.chapelIx g) 0x0110 (locCell g) (threadDetail t code sub pc addr) false false := by
  unfold enterExc
  rw [if_pos (by rw [State.ctx_modCtx, if_pos rfl]; exact h)]
  rfl

theorem raise_active (h : (s.ctx g t).excCause.getLsbD 63 = true) : raise s g t code addr =
    faultK s (s.chapelIx g) 0x0111 (locCell g) (threadDetail t code 0 (s.ctx g t).pc.toNat
      (if 2 ≤ code ∧ code ≤ 4 then addr % 2 ^ 48 else 0)) false false := by
  unfold raise addrCause
  simp only [h, if_true, decide_eq_true_eq]

theorem raise_inactive (h : (s.ctx g t).excCause.getLsbD 63 = false) : raise s g t code addr =
    enterExc s g t true 0 code (s.ctx g t).pc.toNat (if 2 ≤ code ∧ code ≤ 4 then addr % 2 ^ 48 else 0) := by
  unfold raise addrCause
  simp only [h, Bool.false_eq_true, if_false, decide_eq_true_eq]

end Entry

/-- The word at the PC of a thread that may issue spells no instruction: ILLEGAL (R202). -/
theorem execIllegalInstruction_raises {s : State} {g t : Nat} (hm : s.mayIssue g t = true)
    (hd : decodeIns ((s.cell g).nextWord t) = none) :
    s.Ends g t (.illegalInstruction g t) (raise ({ s with emitted := [] }.modCell g fun c =>
      { (c.modCtx t fun x => { x with begun := false }) with lastTid := t }) g t 0x01 0) := by
  change execIllegalInstruction g t s = _
  unfold execIllegalInstruction
  rw [possible_pos (by rw [hm, hd]; rfl)]

/-- The oldest error response due is taken at the instruction boundary (R231-R233). -/
theorem execMemError_takes {s : State} {g t : Nat} {e : MemErr} {es : List MemErr} (hr : s.cellRuns g = true)
    (hm : (s.ctx g t).mode = .ready) (he : (s.ctx g t).errors = e :: es) (hb : (s.ctx g t).begun = false)
    (ha : (s.ctx g t).excCause.getLsbD 63 = false) :
    s.Ends g t (.memError g t) (enterExc ({ s with emitted := [] }.modCtx g t fun x => { x with errors := es })
      g t false e.cause 0x05 e.pc.toNat e.addr.toNat) := by
  have due : (s.ctx g t).errorDue = true := by
    simp only [Ctx.errorDue, he, hb, ha]; rfl
  change execMemError g t s = _
  unfold execMemError
  rw [possible_pos (by simp [hr, hm, due])]
  have : ({ s with emitted := [] } : State).ctx g t = s.ctx g t := rfl
  simp only [this, he]

/-! ### A stop that was asked for (Table 06-7) -/

section Stop

variable {c : Cell} {s : State} {g t : Nat}

theorem Cell.settleStop_unasked (h : (c.ctx t).stopAsked = false) : c.settleStop t = c := by
  unfold Cell.settleStop; simp [h]

theorem Cell.settleStop_asked (h : (c.ctx t).stopAsked = true) (hs : c.atSafePoint t = true) :
    c.settleStop t = c.stopCtx t := by
  unfold Cell.settleStop; simp [h, hs]

theorem cell_settleStop : (settleStop s g t).cell g = (s.cell g).settleStop t := by
  unfold settleStop; rw [State.cell_modCell, if_pos rfl]

theorem cell_settleStop_ne {j : Nat} (hj : j ≠ g) : (settleStop s g t).cell j = s.cell j := by
  unfold settleStop; rw [State.cell_modCell, if_neg hj]

end Stop

/-! ### The returns (R234) -/

section Returns

variable {s : State} {g t : Nat}

theorem eret_illegal (h : s.Ready g t .eret)
    (ha : (s.ctx g t).excCause.getLsbD 63 = false ∨ (s.ctx g t).excCause.getLsbD 62 = false) :
    s.Raises g t .eret (.eret g t) 0x01 0 := by
  have e := ends_eret h
  rwa [if_pos (by simpa only [Bool.or_eq_true, Bool.not_eq_true'] using ha)] at e

theorem eret_returns (h : s.Ready g t .eret) (ha : (s.ctx g t).excCause.getLsbD 63 = true)
    (hr : (s.ctx g t).excCause.getLsbD 62 = true) :
    s.GoesOnAt g t .eret (.eret g t) (s.ctx g t).excPc.toNat ((s.ctx g t).issued .eret).leftHandler := by
  have e := ends_eret h
  rw [if_neg (by rw [ha, hr]; decide)] at e
  exact goesOnAt_leaveHandler e

theorem eretR_illegal {ra : Nat} (h : s.Ready g t (.eretR ra)) (ha : (s.ctx g t).excCause.getLsbD 63 = false) :
    s.Raises g t (.eretR ra) (.eretR g t) 0x01 0 := by
  have e := ends_eretR h
  rwa [if_pos (by rw [ha]; rfl)] at e

theorem eretR_returns {ra : Nat} (h : s.Ready g t (.eretR ra)) (ha : (s.ctx g t).excCause.getLsbD 63 = true) :
    s.GoesOnAt g t (.eretR ra) (.eretR g t) ((s.ctx g t).getS ra).toNat
      ((s.ctx g t).issued (.eretR ra)).leftHandler := by
  have e := ends_eretR h
  rw [if_neg (by rw [ha]; decide)] at e
  exact goesOnAt_leaveHandler e

end Returns

/-- Settles O43: the returns go on at their target or raise; every other part is the law of one shared operation, the
boundary of an instruction, `raise`, `enterExc` or `settleStop`. -/
theorem exceptionsAndReturns : Obligations.ExceptionsAndReturns := by
  unfold Obligations.ExceptionsAndReturns
  refine ⟨fun s g t i h => ⟨?_, ?_, ?_, ?_⟩, fun s g t => execIllegalInstruction_raises,
    fun s g t e es => execMemError_takes,
    fun s g t code addr => ⟨raise_active s g t code addr, raise_inactive s g t code addr⟩,
    fun s g t sub code pc addr resumable => ⟨fun hv => ?_, fun hv => ?_⟩,
    fun s g t => ⟨rfl, fun j => cell_settleStop_ne, fun ha => ?_, fun ha hs => ?_⟩⟩
  · rintro rfl
    exact ends_brk h
  · rintro rfl ha
    exact eret_illegal h ha
  · rintro rfl ha hr
    exact eret_returns h ha hr
  · rintro ra rfl
    exact ⟨eretR_illegal h, eretR_returns h⟩
  · have k := onlyCtx_modCtx s g t fun x => (x.recorded resumable sub code pc addr).at_ x.excVec.toNat
    exact ⟨_, enterExc_vectored s g t sub code pc addr resumable hv, k.outside, k.others, k.threads, k.thread⟩
  · have k := (onlyCtx_modCtx s g t fun x => (x.recorded resumable sub code pc addr).at_ x.excVec.toNat).trans
      (onlyCtx_modCtx _ g t (·.at_ pc))
    rw [State.ctx_modCtx, if_pos rfl] at k
    exact ⟨_, enterExc_unvectored s g t sub code pc addr resumable hv, k.outside, k.others, k.threads, k.thread⟩
  · rw [cell_settleStop]; exact Cell.settleStop_unasked ha
  · rw [cell_settleStop]; exact Cell.settleStop_asked ha hs

/-! ### Special registers (R215, R216) -/

section Special

variable {s : State} {g t : Nat}

theorem pcOk_iff {pc : Nat} : pcOk pc = true ↔ pc % 4 = 0 ∧ pc < 524288 := decide_eq_true_iff

theorem rdsr_goesOn {rd n : Nat} (h : s.Ready g t (.rdsr rd n)) :
    s.GoesOnAt g t (.rdsr rd n) (.rdsr g t) ((s.ctx g t).pc.toNat + 4)
      (((s.ctx g t).issued (.rdsr rd n)).readsSpecial rd n (readSpecial s g t n)) :=
  goesOnAt_next (ends_rdsr h) (Became.mod (became_issued ..) _)

theorem wrsr_goesOn {ra n : Nat} (h : s.Ready g t (.wrsr ra n)) (hn : n = 0x020 ∨ n = 0x021)
    (hp : pcOk ((s.ctx g t).getS ra).toNat = true) :
    s.GoesOnAt g t (.wrsr ra n) (.wrsr g t) ((s.ctx g t).pc.toNat + 4)
      (((s.ctx g t).issued (.wrsr ra n)).writesSpecial n ((s.ctx g t).getS ra)) := by
  have e := ends_wrsr h
  rw [if_neg (by rw [hp]; rcases hn with rfl | rfl <;> decide)] at e
  exact goesOnAt_next e (Became.mod (became_issued ..) _)

theorem wrsr_raises {ra n : Nat} (h : s.Ready g t (.wrsr ra n))
    (hn : (n ≠ 0x020 ∧ n ≠ 0x021) ∨ pcOk ((s.ctx g t).getS ra).toNat = false) :
    s.Raises g t (.wrsr ra n) (.wrsr g t) 0x06 0 := by
  have e := ends_wrsr h
  rwa [if_pos (hn.imp_right fun hp => by rw [hp]; rfl)] at e

end Special

/-! ### Fences and the barrier (R184, R189) -/

section Fences

variable {s : State} {g t : Nat}

theorem fenceAll_goesOn {i : Ins} {c : Instr} (e : s.Ends g t c (fenceAll (s.issued g t i) g t)) :
    let y := (s.ctx g t).issued i
    let pc := (s.ctx g t).pc.toNat + 4
    ((s.cell g).outstanding t = true → s.GoesOnAt g t i c pc { y with mode := .wait, waiting := .accesses }) ∧
    ((s.cell g).outstanding t = false → s.GoesOnAt g t i c pc y) :=
  goesOnAt_fence e (by rw [outstanding_issued])

variable {rd ra : Nat}

theorem barCell_waits (h : s.Ready g t (.barCell rd ra)) (ho : (s.cell g).outstanding t = true) :
    s.WaitsFor g t (.barCell rd ra) (.barCell g t) .release := by
  have e := ends_barCell h
  rw [released_waits (by rw [outstanding_issued, ho])] at e
  exact waitsFor_of e

theorem barCell_range (h : s.Ready g t (.barCell rd ra)) (ho : (s.cell g).outstanding t = false)
    (hp : pcOk ((s.ctx g t).pc.toNat + 4) = false) :
    s.Raises g t (.barCell rd ra) (.barCell g t) 0x07 0 := by
  have e := ends_barCell h
  rwa [released_goes (by rw [outstanding_issued, ho]), passes_range (by rw [ctx_issued]; exact hp)] at e

theorem barCell_arrives (h : s.Ready g t (.barCell rd ra)) (ho : (s.cell g).outstanding t = false)
    (hp : pcOk ((s.ctx g t).pc.toNat + 4) = true) : s.Ends g t (.barCell g t)
    (arriveBarrier (s.issued g t (.barCell rd ra)) g t rd (((s.ctx g t).getS ra).truncate 16)) := by
  have e := ends_barCell h
  rwa [released_goes (by rw [outstanding_issued, ho]), passes_goes (by rw [ctx_issued]; exact hp), ctx_issued] at e

/-- The arrival at another barrier than the one that runs waits for its end. -/
theorem barCell_waitsTurn (h : s.Ready g t (.barCell rd ra)) (ho : (s.cell g).outstanding t = false)
    (hp : pcOk ((s.ctx g t).pc.toNat + 4) = true) {b : Barrier} (hb : (s.cell g).barrier = some b)
    (hm : b.mask ≠ ((s.ctx g t).getS ra).truncate 16) :
    s.WaitsFor g t (.barCell rd ra) (.barCell g t) .barrierTurn := by
  have e := barCell_arrives h ho hp
  rw [arriveBarrier_busy ((barrier_issued ..).trans hb) hm] at e
  exact waitsFor_of e

/-- The arrival at an open barrier joins it, and ends it where a participant is gone or it is the last. -/
theorem barCell_joins (h : s.Ready g t (.barCell rd ra)) (ho : (s.cell g).outstanding t = false)
    (hp : pcOk ((s.ctx g t).pc.toNat + 4) = true) {a : List Nat}
    (hb : (s.cell g).barrierOpen (((s.ctx g t).getS ra).truncate 16) a) :
    let mask : BitVec 16 := ((s.ctx g t).getS ra).truncate 16
    let w := (s.issued g t (.barCell rd ra)).joined g t rd mask a
    (s.barrierGone g t mask = true → s.Ends g t (.barCell g t) (w.modCell g (·.endBarrier 1#64))) ∧
    (s.barrierGone g t mask = false → (maskTids mask).all (a ++ [t]).contains = true →
      s.Ends g t (.barCell g t) (w.modCell g (·.endBarrier 0#64))) ∧
    (s.barrierGone g t mask = false → (maskTids mask).all (a ++ [t]).contains = false →
      s.Ends g t (.barCell g t) w) := by
  have e := barCell_arrives h ho hp
  rw [arriveBarrier_open (a := a) (by unfold Cell.barrierOpen; rwa [barrier_issued]), barrierGone_issued] at e
  refine ⟨fun hg => ?_, fun hg ha => ?_, fun hg ha => ?_⟩
  · rwa [if_pos hg] at e
  · rwa [if_neg (Bool.eq_false_iff.1 hg), if_pos ha] at e
  · rwa [if_neg (Bool.eq_false_iff.1 hg), if_neg (Bool.eq_false_iff.1 ha)] at e

end Fences

/-- Settles O44: each instruction's effect, by whether the thread goes on, waits or raises. -/
theorem specialRegistersAndFences : Obligations.SpecialRegistersAndFences := by
  unfold Obligations.SpecialRegistersAndFences
  refine fun s g t i h => ⟨?rdsr, ?wrsr, ?fenceAcq, ?fenceRel, ?fenceFull, ?barCell⟩
  case rdsr =>
    rintro rd n rfl
    have r := rdsr_goesOn h
    unfold Ctx.readsSpecial at r
    refine ⟨fun hn => ?_, fun hn => ?_⟩
    · rwa [if_neg hn] at r
    · subst hn; exact r
  case wrsr =>
    rintro ra n rfl
    refine ⟨fun hn h4 hl => ?_, fun hn h4 hl => ?_, fun _ hv => ?_, fun h0 h1 => wrsr_raises h (.inl ⟨h0, h1⟩)⟩
    · subst hn; exact wrsr_goesOn h (.inl rfl) (pcOk_iff.2 ⟨h4, hl⟩)
    · subst hn; exact wrsr_goesOn h (.inr rfl) (pcOk_iff.2 ⟨h4, hl⟩)
    · refine wrsr_raises h (.inr (Bool.eq_false_iff.2 fun hp => ?_))
      obtain ⟨h4, hl⟩ := pcOk_iff.1 hp
      omega
  case fenceAcq =>
    rintro rfl
    exact goesOnAt_fence (ends_fenceAcq h) acquire_issued
  case fenceRel =>
    rintro rfl
    exact fenceAll_goesOn (ends_fenceRel h)
  case fenceFull =>
    rintro rfl
    exact fenceAll_goesOn (ends_fenceFull h)
  case barCell =>
    rintro rd ra rfl
    refine ⟨barCell_waits h, barCell_range h, fun ho hp => ⟨fun b => barCell_waitsTurn h ho hp, fun a hb => ?_⟩⟩
    exact ⟨_, became_wait _, barCell_joins h ho hp hb⟩

end Sys2Proof.Machine
end

section
/-! PROOFS. The peer's control operations and the package's departure (chapters 16 and 17): what receiving an operation
leaves on the port, one law per branch of each operation's effect, and the rows of the fault responses. -/

namespace Sys2Proof.Machine

/-! ### Receiving a control operation (R439) -/

/-- Port `t` echoes an operation and keeps it, so that its repeat is known. -/
def State.told (s : State) (t op arg : Nat) (body : List Byte) : State :=
  ({ s with emitted := [] } : State).modLink t fun y => { y with echo := op, lastCtrl := some (arg, body) }

/-- The operation repeats the one the port received before it. -/
def TPort.heard (l : TPort) (op arg : Nat) (body : List Byte) : Prop := l.echo = op ∧ l.lastCtrl = some (arg, body)

theorem State.link_modLink_self (u : State) (t : Nat) (f : TPort → TPort) : (u.modLink t f).link t = f (u.link t) := by
  rw [State.link_modLink, if_pos rfl]

theorem State.link_told (s : State) (t op arg : Nat) (body : List Byte) :
    (s.told t op arg body).link t = { s.link t with echo := op, lastCtrl := some (arg, body) } :=
  State.link_modLink_self ..

theorem linkLive_state {s : State} {t : Nat} (h : linkLive s t = true) :
    1 ≤ (s.link t).state ∧ (s.link t).state ≤ 4 := by
  simp only [linkLive, Bool.and_eq_true, decide_eq_true_eq] at h
  exact h.2

section Received

variable {s : State} {t op arg : Nat} {body : List Byte}

/-- A repeat has no effect but its echo. -/
theorem ctrlRow_repeat (hl : linkLive s t = true) (hop : op ≠ 0) (h : (s.link t).heard op arg body) :
    ctrlRow s t op arg body = .next (s.told t op arg body) := by
  unfold ctrlRow
  rw [possible_pos hl]
  refine congrArg Host.Outcome.next ?_
  unfold ctrlReceived
  simp only [hop, if_false, false_or, decide_eq_true_eq]
  exact if_pos (.inl h)

/-- On a link that is neither down nor fenced, any other operation takes effect. -/
theorem ctrlRow_new (hl : linkLive s t = true) (hop : op ≠ 0) (h : ¬ (s.link t).heard op arg body) :
    ctrlRow s t op arg body = .next (ctrlIn (s.told t op arg body) t op arg body) := by
  obtain ⟨lo, hi⟩ := linkLive_state hl
  unfold ctrlRow
  rw [possible_pos hl]
  refine congrArg Host.Outcome.next ?_
  unfold ctrlReceived
  simp only [hop, if_false, false_or, decide_eq_true_eq]
  refine if_neg ?_
  rintro (again | down | ⟨fenced, -⟩)
  · exact h again
  · exact Nat.ne_of_gt lo down
  · exact absurd (fenced ▸ hi : 5 ≤ 4) (by decide)

end Received

/-! ### HELLO (R438) -/

/-- The body of HELLO (Table 16-8). -/
def helloBody (asset : BitVec 64) (peer : Nat) (mask : BitVec 8) : List Byte :=
  padTo 32 (le 8 asset.toNat ++ [BitVec.ofNat 8 peer, mask])

theorem helloBody_eq (asset : BitVec 64) (peer : Nat) (mask : BitVec 8) :
    helloBody asset peer mask = le 8 asset.toNat ++ ([BitVec.ofNat 8 peer, mask] ++ zeros 22) := rfl

theorem fieldN_helloBody (asset : BitVec 64) (peer : Nat) (mask : BitVec 8) :
    fieldN (helloBody asset peer mask) 0 8 = asset.toNat := by
  rw [helloBody_eq, fieldN, sliceB_left _ _ _ (length_le ..), leNat_le _ _ asset.isLt]

theorem byteAt_helloBody (asset : BitVec 64) (peer : Nat) (mask : BitVec 8) :
    byteAt (helloBody asset peer mask) 9 = mask := rfl

section Hello

variable {s : State} {t peer : Nat} {asset : BitVec 64} {mask : BitVec 8}

/-- The port knows the asset ID its peer's HELLO tells. -/
def State.toldHello (s : State) (t : Nat) (asset : BitVec 64) (peer : Nat) (mask : BitVec 8) : State :=
  (s.told t 1 0 (helloBody asset peer mask)).modLink t fun y => { y with peerAsset := asset.toNat }

theorem link_toldHello : (s.toldHello t asset peer mask).link t =
    { s.link t with echo := 1, lastCtrl := some (0, helloBody asset peer mask), peerAsset := asset.toNat } := by
  unfold State.toldHello
  rw [State.link_modLink_self, State.link_told]

theorem exec_hello_new (hl : linkLive s t = true) (h : ¬ (s.link t).heard 1 0 (helloBody asset peer mask)) :
    exec (.hello t asset peer mask) s =
      .next (helloIn (s.told t 1 0 (helloBody asset peer mask)) t asset.toNat mask) := by
  refine (ctrlRow_new hl (by decide) h).trans ?_
  change Host.Outcome.next (helloIn _ t (fieldN (helloBody asset peer mask) 0 8)
    (byteAt (helloBody asset peer mask) 9)) = _
  rw [fieldN_helloBody, byteAt_helloBody]

/-- What a HELLO does once the asset ID it tells is known. -/
theorem helloIn_told : helloIn (s.told t 1 0 (helloBody asset peer mask)) t asset.toNat mask =
    let v := s.toldHello t asset peer mask
    if (s.portRec t).peer ≠ 0 ∧ (s.portRec t).peer ≠ asset.toNat then
      if (v.link t).state = 0 then v else linkDown v t 6
    else if (v.link t).state = 1 then
      let w := v.modLink t fun y => { y with peerMask := some mask }
      if (w.link t).good ≠ 0#8 ∧ laneCount ((w.link t).good &&& mask) < 2 then linkDown w t 8 else w
    else v := rfl

theorem exec_hello_other (hl : linkLive s t = true) (h : ¬ (s.link t).heard 1 0 (helloBody asset peer mask))
    (h0 : (s.portRec t).peer ≠ 0) (hd : (s.portRec t).peer ≠ asset.toNat) :
    exec (.hello t asset peer mask) s = .next (linkDown (s.toldHello t asset peer mask) t 6) := by
  have up : (s.link t).state ≠ 0 := Nat.ne_of_gt (linkLive_state hl).1
  rw [exec_hello_new hl h, helloIn_told]
  simp only [link_toldHello, if_pos (And.intro h0 hd), if_neg up]

theorem exec_hello_trained (hl : linkLive s t = true) (h : ¬ (s.link t).heard 1 0 (helloBody asset peer mask))
    (hp : (s.portRec t).peer = 0 ∨ (s.portRec t).peer = asset.toNat) (hs : (s.link t).state ≠ 1) :
    exec (.hello t asset peer mask) s = .next (s.toldHello t asset peer mask) := by
  have own : ¬ ((s.portRec t).peer ≠ 0 ∧ (s.portRec t).peer ≠ asset.toNat) := by tauto
  rw [exec_hello_new hl h, helloIn_told]
  simp only [link_toldHello, if_neg own, if_neg hs]

/-- While training the peer's mask is noted too, and the lanes both sides have decide. -/
theorem exec_hello_training (hl : linkLive s t = true) (h : ¬ (s.link t).heard 1 0 (helloBody asset peer mask))
    (hp : (s.portRec t).peer = 0 ∨ (s.portRec t).peer = asset.toNat) (hs : (s.link t).state = 1) :
    exec (.hello t asset peer mask) s =
      let w := (s.toldHello t asset peer mask).modLink t fun y => { y with peerMask := some mask }
      .next (if (s.link t).good ≠ 0#8 ∧ laneCount ((s.link t).good &&& mask) < 2 then linkDown w t 8 else w) := by
  have own : ¬ ((s.portRec t).peer ≠ 0 ∧ (s.portRec t).peer ≠ asset.toNat) := by tauto
  rw [exec_hello_new hl h, helloIn_told]
  simp only [State.link_modLink_self, link_toldHello, if_neg own, if_pos hs]

end Hello

/-! ### OWNER (R446) -/

section Owner

variable {s u : State} {t c : Nat}

theorem settleOwner_stays (h : (u.link t).state = 1 ∨ (u.link t).state = 3 ∨ (u.link t).upState = (u.link t).state) :
    settleOwner u t = u := by
  unfold settleOwner
  rcases h with training | restriping | agrees
  · simp [training]
  · simp [restriping]
  · simp only [agrees, if_true, ite_self]

theorem settleOwner_moves (hs : (u.link t).state = 2 ∨ (u.link t).state = 4)
    (h : (u.link t).upState ≠ (u.link t).state) :
    settleOwner u t =
      let w := setLinkState u t (u.link t).upState
      if (u.link t).upState = 4 then settleSlot (dropRequests w t) (u.link t).owner (u.link t).span else w := by
  unfold settleOwner
  simp only [hs, h, if_true, if_false]

/-- The port knows the owner its peer tells. -/
def State.toldOwner (s : State) (t c : Nat) : State :=
  (s.told t 2 c []).modLink t fun y => { y with peerOwner := c }

theorem link_toldOwner :
    (s.toldOwner t c).link t = { s.link t with echo := 2, lastCtrl := some (c, []), peerOwner := c } := by
  unfold State.toldOwner
  rw [State.link_modLink_self, State.link_told]

theorem exec_owner (hc : c < 256) : exec (.owner t c) s = ctrlRow s t 2 c [] := by
  change ctrlRow s t 2 (c % 256) [] = _
  rw [Nat.mod_eq_of_lt hc]

theorem exec_owner_new (hl : linkLive s t = true) (hc : c < 256) (h : ¬ (s.link t).heard 2 c []) :
    exec (.owner t c) s = .next (settleOwner (s.toldOwner t c) t) := by
  rw [exec_owner hc, ctrlRow_new hl (by decide) h]
  change Host.Outcome.next (ownerIn _ t (c % 256)) = _
  rw [Nat.mod_eq_of_lt hc]
  rfl

theorem exec_owner_stays (hl : linkLive s t = true) (hc : c < 256) (h : ¬ (s.link t).heard 2 c [])
    (hs : (s.link t).state = 1 ∨ (s.link t).state = 3 ∨ ((s.toldOwner t c).link t).upState = (s.link t).state) :
    exec (.owner t c) s = .next (s.toldOwner t c) := by
  have state : ((s.toldOwner t c).link t).state = (s.link t).state := by rw [link_toldOwner]
  rw [exec_owner_new hl hc h, settleOwner_stays (by rwa [state])]

theorem exec_owner_moves (hl : linkLive s t = true) (hc : c < 256) (h : ¬ (s.link t).heard 2 c [])
    (hs : (s.link t).state = 2 ∨ (s.link t).state = 4)
    (hd : ((s.toldOwner t c).link t).upState ≠ (s.link t).state) :
    exec (.owner t c) s =
      let st := ((s.toldOwner t c).link t).upState
      let w := setLinkState (s.toldOwner t c) t st
      .next (if st = 4 then settleSlot (dropRequests w t) (s.link t).owner (s.link t).span else w) := by
  have state : ((s.toldOwner t c).link t).state = (s.link t).state := by rw [link_toldOwner]
  have owner : ((s.toldOwner t c).link t).owner = (s.link t).owner := by rw [link_toldOwner]
  have span : ((s.toldOwner t c).link t).span = (s.link t).span := by rw [link_toldOwner]
  rw [exec_owner_new hl hc h, settleOwner_moves (by rwa [state]) (by rwa [state]), owner, span]

end Owner

/-! ### DEPART (R461, R464-R466) -/

/-- A SCOPE that names none, or a reserved byte set (Table 17-3). -/
def departBad (body : List Byte) : Prop :=
  1 < (byteAt body 8).toNat ∨ ∃ i ∈ [11, 14, 15, 28, 29, 30, 31], (byteAt body i).toNat ≠ 0

theorem departBad_iff (body : List Byte) :
    (decide (1 < (byteAt body 8).toNat) ||
      [11, 14, 15, 28, 29, 30, 31].any fun i => decide ((byteAt body i).toNat ≠ 0)) = true ↔ departBad body := by
  simp only [departBad, Bool.or_eq_true, List.any_eq_true, decide_eq_true_eq]

section Depart

variable {s u : State} {t : Nat} {body : List Byte}

theorem departIn_bad (h : departBad body) : departIn u t body = linkDown u t 5 := if_pos ((departBad_iff body).2 h)

theorem departIn_good (h : ¬ departBad body) : departIn u t body =
    if (byteAt body 8).toNat = 1 then peerDeparted u t 0
    else if (byteAt body 9).toNat = (u.link t).owner ∧ (byteAt body 9).toNat < 192 then
      faultK u (byteAt body 9).toNat 0x0160 (locPort t) ((u.link t).detail 0 0xFF) false true
    else u :=
  if_neg (mt (departBad_iff body).1 h)

/-- The row of DEPART is a control operation's row where the body has its 32 bytes. -/
theorem exec_depart (hb : body.length = 32) : exec (.depart t body) s = ctrlRow s t 6 0 body := by
  change execDepart t body s = _
  unfold execDepart
  rw [decide_eq_true hb, Bool.and_true]
  rfl

theorem exec_depart_new (hl : linkLive s t = true) (hb : body.length = 32) (h : ¬ (s.link t).heard 6 0 body) :
    exec (.depart t body) s = .next (departIn (s.told t 6 0 body) t body) :=
  (exec_depart hb).trans (ctrlRow_new hl (by decide) h)

theorem owner_told (op arg : Nat) : ((s.told t op arg body).link t).owner = (s.link t).owner := by
  rw [State.link_told]

end Depart

/-! ### DOWN, UNKNOWN and the operation a port sends (R439, R450) -/

/-- The operation sent ends, and the first that waits follows. -/
theorem ctrlDone_eq : TPort.ctrlDone = fun y => { y with ctrl := y.ctrlQueue.head?, ctrlQueue := y.ctrlQueue.tail } := by
  funext y
  unfold TPort.ctrlDone
  cases y.ctrlQueue with
  | nil => rfl
  | cons c rest => rfl

section Sent

variable {s u : State} {t op : Nat}

theorem unknownIn_other (h : ∀ c, (u.link t).ctrl = some c → c.op ≠ op) : unknownIn u t op = u := by
  unfold unknownIn
  cases hc : (u.link t).ctrl with
  | none => rfl
  | some c => exact if_neg (h c hc)

theorem unknownIn_sent {c : CtrlOp} (hc : (u.link t).ctrl = some c) (h : c.op = op) :
    unknownIn u t op = u.modLink t TPort.ctrlDone := by
  unfold unknownIn
  rw [hc]
  exact if_pos h

theorem exec_down {c : Nat} (hc : c < 256) : exec (.down t c) s = ctrlRow s t 7 c [] := by
  change ctrlRow s t 7 (c % 256) [] = _
  rw [Nat.mod_eq_of_lt hc]

theorem exec_unknown (ho : op < 256) : exec (.unknown t op) s = ctrlRow s t 0xF op [] := by
  change ctrlRow s t 0xF (op % 256) [] = _
  rw [Nat.mod_eq_of_lt ho]

theorem exec_unknown_new (hl : linkLive s t = true) (ho : op < 256) (h : ¬ (s.link t).heard 0xF op []) :
    exec (.unknown t op) s = .next (unknownIn (s.told t 0xF op []) t op) := by
  rw [exec_unknown ho, ctrlRow_new hl (by decide) h]
  change Host.Outcome.next (unknownIn _ t (op % 256)) = _
  rw [Nat.mod_eq_of_lt ho]

theorem ctrl_told (arg : Nat) (body : List Byte) : ((s.told t op arg body).link t).ctrl = (s.link t).ctrl := by
  rw [State.link_told]

theorem exec_ctrlOpRepeatExpiry {c : CtrlOp} (ht : t < 12) (hc : (s.link t).ctrl = some c) :
    exec (.ctrlOpRepeatExpiry t) s = .next (({ s with emitted := [] } : State).modLink t TPort.ctrlDone) := by
  change execCtrlOpRepeatExpiry t s = _
  unfold execCtrlOpRepeatExpiry
  rw [possible_pos (by rw [decide_eq_true ht, hc]; rfl)]

end Sent

/-! ### The package's own faults, its departure and its capsules (R462, R471, R479) -/

@[simp] theorem latchP_pw (u : State) (cause : Nat) : (latchP u cause).pw = u.pw := by
  unfold latchP
  dsimp only
  split <;> rfl

theorem signal_bothPorts (u : State) (v : Nat) :
    bothPorts.foldl (fun s p => signal s p 0 v) u = signal (signal u .h0 0 v) .h1 0 v := rfl

/-- A class P fault: what it records and reports, whether the package departs, and its capsule. -/
theorem faultP_eq (u : State) (cause loc : Nat) (detail : List Byte) : faultP u cause loc detail =
    let v := logEntry (latchP u cause) ⟨u.pw.tstamp, 2, 255, cause, loc, 0, padTo 16 detail⟩
    let v := postFaultP v ([2#8, 0#8] ++ le 2 cause ++ le 2 loc ++ padTo 10 detail)
    let v := signal (signal v .h0 0 65) .h1 0 65
    makeCapsule (if cause = 0x0146 then v else depart { v with flt := { v.flt with pkgFaulted := true } } 2 cause)
      2 cause := by
  unfold faultP
  simp only [latchP_pw, signal_bothPorts, faultDetail]

section Departure

variable {s : State}

theorem exec_portsFenced {d : Departure} (hm : s.mainOn = true) (hd : s.flt.departing = some d) :
    exec .portsFenced s =
      .next (d.ports.foldl fencePort { s with emitted := [], flt := { s.flt with departing := none } }) := by
  change execPortsFenced s = _
  unfold execPortsFenced
  simp only [hd]
  exact possible_pos hm

theorem exec_sacristyLockstep (hm : s.mainOn = true) (hh : s.flt.halted = false) :
    exec .sacristyLockstep s =
      let v := latchP { s with emitted := [] } 0x0103
      let v := logEntry { v with flt := { v.flt with halted := true, pkgFaulted := true } }
        ⟨s.pw.tstamp, 2, 255, 0x0103, 0x7000, 0, zeros 16⟩
      .next (cloisterCapsule (depart (signal (signal v .h0 0 65) .h1 0 65) 2 0x0103) 0x0103) := by
  change execSacristyLockstep s = _
  unfold execSacristyLockstep
  rw [possible_pos (by rw [hm, hh]; rfl)]
  simp only [latchP_pw, signal_bothPorts, locSacristy]

theorem exec_screenParity {loc : Nat} (hm : s.mainOn = true) (hh : s.flt.halted = false)
    (ht : tableHolder loc = true) :
    exec (.screenParity loc) s = .next (faultP { s with emitted := [] } 0x0104 loc []) := by
  change execScreenParity loc s = _
  unfold execScreenParity
  rw [possible_pos (by rw [hm, hh, ht]; rfl)]

theorem exec_capsulePeriodic (hm : s.mainOn = true) (hh : s.flt.halted = false) (ha : s.pw.state = .active) :
    exec .capsulePeriodic s = .next (makeCapsule { s with emitted := [] } 0 0) := by
  change execCapsulePeriodic s = _
  unfold execCapsulePeriodic
  rw [possible_pos (by rw [hm, hh, ha]; rfl)]

/-- Writing blocks swaps no halves. -/
theorem Tag.swapped_putBlocks (t : Tag) (first count : Nat) (data : List Byte) :
    (t.putBlocks first count data).swapped = t.swapped := by
  unfold Tag.putBlocks
  induction count with
  | zero => rfl
  | succ n ih => rw [List.range_succ, List.foldl_append]; exact ih

theorem exec_capsuleTagWrite {bytes : List Byte} (hc : s.flash.capsule = some bytes) (hp : s.pw.porDone = true)
    (ho : s.clo.tagOwed = true) :
    exec .capsuleTagWrite s = .next { s with
      emitted := []
      clo := { s.clo with
        tagOwed := false
        tag := { s.clo.tag.putBlocks 128 64 bytes with swapped := !s.clo.tag.swapped } } } := by
  change execCapsuleTagWrite s = _
  unfold execCapsuleTagWrite
  simp only [hc]
  exact possible_pos (by rw [hp, ho]; rfl)

theorem fencePort_fenced {t : Nat} (h : (s.link t).state = 5) : fencePort s t = s := if_pos h

theorem fencePort_training {t : Nat} {c : Cmd} (h : (s.link t).state ≠ 5)
    (hc : trainCmd (stopTraffic s t 5) t = some c) : fencePort s t = failCmd (stopTraffic s t 5) c 0x0F 0 := by
  unfold fencePort
  simp only [if_neg h, hc]

theorem fencePort_idle {t : Nat} (h : (s.link t).state ≠ 5) (hc : trainCmd (stopTraffic s t 5) t = none) :
    fencePort s t = stopTraffic s t 5 := by
  unfold fencePort
  simp only [if_neg h, hc]

end Departure

/-- Settles O56: each operation of the peer is the law of its effect on the port that has been told it; the rest is one
law per row or shared operation of the fault responses. -/
theorem peerOperationsAndDeparture : Obligations.PeerOperationsAndDeparture := by
  unfold Obligations.PeerOperationsAndDeparture
  refine ⟨fun s t hl => ⟨?hello, ?owner, ?depart, ?down, ?unknown⟩, fun s t c ht hc => ?expiry,
    fun s hm => ⟨fun d => exec_portsFenced hm, fun hh => ⟨exec_sacristyLockstep hm hh,
      fun loc => exec_screenParity hm hh, exec_capsulePeriodic hm hh⟩⟩,
    fun s bytes hc hp ho => ?tagWrite, faultP_eq, fun s cls cause => rfl,
    fun s t => ⟨fencePort_fenced, fun h c => fencePort_training h, fencePort_idle⟩⟩
  case hello =>
    intro asset peer mask _
    exact ⟨ctrlRow_repeat hl (by decide),
      fun h => ⟨exec_hello_other hl h, exec_hello_trained hl h, exec_hello_training hl h⟩⟩
  case owner =>
    intro c hc
    exact ⟨fun h => (exec_owner hc).trans (ctrlRow_repeat hl (by decide) h),
      fun h => ⟨exec_owner_stays hl hc h, exec_owner_moves hl hc h⟩⟩
  case depart =>
    intro body hb v b bad
    refine ⟨fun h => (exec_depart hb).trans (ctrlRow_repeat hl (by decide) h), fun h => ?_⟩
    rw [exec_depart_new hl hb h]
    refine ⟨fun hbad => ?_, fun hbad package => ?_, fun hbad chapel owns lt => ?_, fun hbad chapel other => ?_⟩
    · rw [departIn_bad hbad]; rfl
    · rw [departIn_good hbad, if_pos package]; rfl
    · rw [departIn_good hbad, if_neg (ne_of_eq_of_ne chapel Nat.zero_ne_one), owner_told, if_pos ⟨owns, lt⟩]; rfl
    · rw [departIn_good hbad, if_neg (ne_of_eq_of_ne chapel Nat.zero_ne_one), owner_told, if_neg other]; rfl
  case down =>
    intro c hc
    exact ⟨fun h => (exec_down hc).trans (ctrlRow_repeat hl (by decide) h),
      fun h => (exec_down hc).trans (ctrlRow_new hl (by decide) h)⟩
  case unknown =>
    intro op ho v
    refine ⟨fun h => (exec_unknown ho).trans (ctrlRow_repeat hl (by decide) h), fun h other => ?_,
      fun c h hc hop => ?_⟩
    · rw [exec_unknown_new hl ho h, unknownIn_other (by rwa [ctrl_told])]; rfl
    · rw [exec_unknown_new hl ho h, unknownIn_sent ((ctrl_told ..).trans hc) hop, ctrlDone_eq]; rfl
  case expiry => rw [exec_ctrlOpRepeatExpiry ht hc, ctrlDone_eq]
  case tagWrite => rw [exec_capsuleTagWrite hc hp ho, Tag.swapped_putBlocks]

end Sys2Proof.Machine
end

section
/-! PROOFS. The cloister's SMBus target (chapter 18): what each of its transactions answers and leaves behind, and how a
staged tag write ends. -/

namespace Sys2Proof.Machine

/-! ### Keys (R498, R499) -/

section Keys

variable {s : State} {bytes key : List Byte} {p : Byte}

theorem exec_keySet_malformed (hp : s.pw.porDone = true) (h : bytes.length ≠ 33 ∨ 1#8 < byteAt bytes 0) :
    exec (.keySet bytes) s = .next (smbus { s with emitted := [] } [1#8]) := by
  change execKeySet bytes s = _
  unfold execKeySet
  rw [possible_pos hp]
  simp only [if_pos h]

/-- A port byte of 0 or 1 and 32 key bytes are not malformed. -/
theorem exec_keySet_named (hp : s.pw.porDone = true) (hk : key.length = 32) (h1 : ¬ 1#8 < p) :
    exec (.keySet (p :: key)) s = .next (
      let u := { s with emitted := [] }
      if (s.flash.key (portOf p.toNat)).isSome then smbus u [3#8]
      else smbus (setNonce (putKey u p (some key)) (portOf p.toNat) 0) [0#8]) := by
  have wellFormed : ¬ ((p :: key).length ≠ 33 ∨ 1#8 < byteAt (p :: key) 0) := by
    rintro (long | port)
    · exact long (congrArg (· + 1) hk)
    · exact h1 port
  change execKeySet (p :: key) s = _
  unfold execKeySet
  rw [possible_pos hp]
  simp only [if_neg wellFormed]
  rfl

theorem exec_keySet_empty (hp : s.pw.porDone = true) (hk : key.length = 32) (h1 : ¬ 1#8 < p)
    (h : s.flash.key (portOf p.toNat) = none) : exec (.keySet (p :: key)) s =
      .next (smbus (setNonce (putKey { s with emitted := [] } p (some key)) (portOf p.toNat) 0) [0#8]) := by
  rw [exec_keySet_named hp hk h1, h]
  rfl

theorem exec_keySet_taken (hp : s.pw.porDone = true) (hk : key.length = 32) (h1 : ¬ 1#8 < p)
    (h : s.flash.key (portOf p.toNat) ≠ none) :
    exec (.keySet (p :: key)) s = .next (smbus { s with emitted := [] } [3#8]) := by
  rw [exec_keySet_named hp hk h1]
  exact congrArg Host.Outcome.next (if_pos (Option.isSome_iff_ne_none.2 h))

theorem exec_keyClear_malformed (hp : s.pw.porDone = true) (h : bytes.length ≠ 1 ∨ 1#8 < byteAt bytes 0) :
    exec (.keyClear bytes) s = .next (smbus { s with emitted := [] } [1#8]) := by
  change execKeyClear bytes s = _
  unfold execKeyClear
  rw [possible_pos hp]
  simp only [if_pos h]

/-- A lone port byte of 0 or 1 is not malformed: the parties enrolled decide. -/
theorem exec_keyClear_named (hp : s.pw.porDone = true) (h1 : ¬ 1#8 < p) :
    exec (.keyClear [p]) s = .next (
      let u := { s with emitted := [] }
      if 2 ≤ s.partyCount then smbus u [3#8] else smbus (putKey u p none) [0#8]) := by
  have wellFormed : ¬ ([p].length ≠ 1 ∨ 1#8 < byteAt [p] 0) := not_or_intro (fun h => h rfl) h1
  change execKeyClear [p] s = _
  unfold execKeyClear
  rw [possible_pos hp]
  simp only [if_neg wellFormed]
  rfl

theorem exec_keyClear_enrolled (hp : s.pw.porDone = true) (h1 : ¬ 1#8 < p) (h : 2 ≤ s.partyCount) :
    exec (.keyClear [p]) s = .next (smbus { s with emitted := [] } [3#8]) := by
  rw [exec_keyClear_named hp h1]
  exact congrArg Host.Outcome.next (if_pos h)

theorem exec_keyClear_clears (hp : s.pw.porDone = true) (h1 : ¬ 1#8 < p) (h : s.partyCount < 2) :
    exec (.keyClear [p]) s = .next (smbus (putKey { s with emitted := [] } p none) [0#8]) := by
  rw [exec_keyClear_named hp h1]
  exact congrArg Host.Outcome.next (if_neg (Nat.not_le.2 h))

end Keys

/-! ### Alert response and TSTAMP (R484, R485) -/

section Reads

variable {s : State}

theorem exec_alertResponse (hp : s.pw.porDone = true) (h : s.clo.alertCause &&& s.clo.alertEn ≠ 0#32) :
    exec .alertResponse s = .next (smbus { s with emitted := [] } [0x5C#8]) := by
  have alerting : s.clo.alerting = true := bne_iff_ne.2 h
  change execAlertResponse s = _
  exact possible_pos (by rw [hp, alerting]; rfl)

theorem exec_smbTstampRead (hp : s.pw.porDone = true) :
    exec .smbTstampRead s = .next (smbus { s with emitted := [] } (le 8 s.tsNow.toNat)) := by
  change execSmbTstampRead s = _
  exact possible_pos hp

theorem State.tsNow_running (h : s.pw.pll = true) : s.tsNow = s.pw.tstamp := if_pos h

theorem State.tsNow_stopped (h : s.pw.pll = false) :
    s.tsNow = s.pw.tstamp + BitVec.ofNat 64 (s.pw.k * 2500 / 678) := if_neg (by rw [h]; decide)

end Reads

/-! ### Tag reads and writes (R502) -/

/-- SMB_SCL is free: no SMBus write is staged. -/
theorem Tag.smbusHeld_false {t : Tag} (h : ∀ x ∈ t.staged, x.cmd ≠ none) : t.smbusHeld = false :=
  List.any_eq_false.2 fun x hx held => h x hx (of_decide_eq_true held)

theorem noteBlocks_iff {first count : Nat} : noteBlocks first count = true ↔ 192 ≤ first ∧ first + count ≤ 256 :=
  decide_eq_true_iff

theorem noteBlocks_eq_false {first count : Nat} (h : first < 192 ∨ 256 < first + count) :
    noteBlocks first count = false :=
  decide_eq_false (by omega)

section TagAccess

variable {s : State} {first count : Nat} {data : List Byte}

theorem exec_smbTagRead (hp : s.pw.porDone = true) (hf : s.clo.tag.smbusHeld = false) :
    exec (.smbTagRead first count) s = .next (
      let u := { s with emitted := [] }
      if count = 0 ∨ 7 < count then smbus u [1#8]
      else if 256 < first + count then smbus u [5#8]
      else smbus u (0#8 :: s.clo.tag.blocks first count)) := by
  change execSmbTagRead first count s = _
  exact possible_pos (by rw [hp, hf]; rfl)

theorem exec_smbTagWrite (hp : s.pw.porDone = true) (hf : s.clo.tag.smbusHeld = false) :
    exec (.smbTagWrite first data) s = .next (
      let u := { s with emitted := [] }
      if data.length = 0 ∨ data.length % 32 ≠ 0 ∨ 7 < data.length / 32 then smbus u [1#8]
      else if !noteBlocks first (data.length / 32) then smbus u [3#8]
      else u.modTag fun t => { t with staged := t.staged ++ [⟨first, data, none⟩] }) := by
  change execSmbTagWrite first data s = _
  exact possible_pos (by rw [hp, hf]; rfl)

/-- Bytes that are no whole number of 1 to 7 blocks. -/
theorem exec_smbTagWrite_malformed (hp : s.pw.porDone = true) (hf : s.clo.tag.smbusHeld = false)
    (h : ∀ count, 1 ≤ count → count ≤ 7 → data.length ≠ 32 * count) :
    exec (.smbTagWrite first data) s = .next (smbus { s with emitted := [] } [1#8]) := by
  have odd : data.length = 0 ∨ data.length % 32 ≠ 0 ∨ 7 < data.length / 32 := by
    by_contra whole
    exact h (data.length / 32) (by omega) (by omega) (by omega)
  rw [exec_smbTagWrite hp hf]
  exact congrArg Host.Outcome.next (if_pos odd)

/-- A whole number of 1 to 7 blocks is staged where all of them are note blocks. -/
theorem exec_smbTagWrite_whole (hp : s.pw.porDone = true) (hf : s.clo.tag.smbusHeld = false) (h1 : 1 ≤ count)
    (h7 : count ≤ 7) (hd : data.length = 32 * count) : exec (.smbTagWrite first data) s = .next (
      let u := { s with emitted := [] }
      if !noteBlocks first count then smbus u [3#8]
      else u.modTag fun t => { t with staged := t.staged ++ [⟨first, data, none⟩] }) := by
  have blocks : data.length / 32 = count := by omega
  have whole : ¬ (data.length = 0 ∨ data.length % 32 ≠ 0 ∨ 7 < count) := by omega
  rw [exec_smbTagWrite hp hf]
  simp only [blocks, if_neg whole]

end TagAccess

/-! ### The end of a staged write (R506-R508) -/

/-- The staged write `x` is staged no more. -/
def State.unstaged (s : State) (x : Staged) : State := s.modTag fun t => { t with staged := t.staged.erase x }

section Staging

variable {s : State} {x : Staged} {n status : Nat} {c : Cmd}

/-- An SMBus write is answered with the status. -/
theorem answerStaged_smbus (hx : x.cmd = none) :
    answerStaged s x status = smbus (s.unstaged x) [BitVec.ofNat 8 status] := by
  simp only [answerStaged, hx]
  rfl

/-- The SVC_TAG_WRITE behind a write completes. -/
theorem answerStaged_svc (hx : x.cmd = some n) (hc : s.cmd n = some c) : answerStaged s x status =
    if status = 0 then doneCmd (s.unstaged x) c [] else failCmd (s.unstaged x) c status 0 := by
  have held : (s.modTag fun t => { t with staged := t.staged.erase x }).cmd n = some c := hc
  simp only [answerStaged, hx, held]
  rfl

/-- A command that is gone is not answered. -/
theorem answerStaged_gone (hx : x.cmd = some n) (hc : s.cmd n = none) : answerStaged s x status = s.unstaged x := by
  have gone : (s.modTag fun t => { t with staged := t.staged.erase x }).cmd n = none := hc
  simp only [answerStaged, hx, gone]
  rfl

/-- SVC_TAG_WRITE before SMBus, the oldest first. -/
theorem Tag.nextStaged_eq {t : Tag} (h : t.staged.find? (fun y => y.cmd.isSome) = some x ∨
    t.staged.find? (fun y => y.cmd.isSome) = none ∧ t.staged.head? = some x) : t.nextStaged = some x := by
  unfold Tag.nextStaged
  rcases h with svc | ⟨noSvc, oldest⟩
  · simp only [svc]
  · simp only [noSvc, oldest]

theorem exec_tagCommit (hp : s.pw.porDone = true) (hn : s.clo.tag.nextStaged = some x) :
    exec .tagCommit s = .next (answerStaged
      (({ s with emitted := [] } : State).modTag fun t => t.putBlocks x.first (x.data.length / 32) x.data) x 0) := by
  change execTagCommit s = _
  unfold execTagCommit
  simp only [hn]
  exact possible_pos hp

theorem exec_svcTagWriteBusy (hp : s.pw.porDone = true)
    (hx : s.clo.tag.staged.find? (fun y => y.cmd.isSome) = some x) :
    exec (.wireAccessBusy .svcTagWrite) s = .next (answerStaged { s with emitted := [] } x 0x0E) := by
  change execWireAccessBusy .svcTagWrite s = _
  unfold execWireAccessBusy
  simp only [hx]
  exact possible_pos hp

/-- An SMBus write that waits staged is answered and staged no more. -/
theorem exec_smbusWriteBusy (hp : s.pw.porDone = true)
    (hx : s.clo.tag.staged.find? (fun y => decide (y.cmd = none)) = some x) :
    exec (.wireAccessBusy .smbus) s = .next (smbus (({ s with emitted := [] } : State).unstaged x) [0x0E#8]) := by
  have viaSmbus : x.cmd = none := of_decide_eq_true (p := x.cmd = none) (List.find?_some hx :)
  change execWireAccessBusy .smbus s = _
  unfold execWireAccessBusy
  simp only [possible_pos hp, hx, answerStaged_smbus viaSmbus]

/-- With none staged it is a read that waits. -/
theorem exec_smbusReadBusy (hp : s.pw.porDone = true) (h : ∀ y ∈ s.clo.tag.staged, y.cmd ≠ none) :
    exec (.wireAccessBusy .smbus) s = .next (smbus { s with emitted := [] } [0x0E#8]) := by
  have noWrite : s.clo.tag.staged.find? (fun y => decide (y.cmd = none)) = none :=
    List.find?_eq_none.2 fun y hy viaSmbus => h y hy (of_decide_eq_true viaSmbus)
  change execWireAccessBusy .smbus s = _
  unfold execWireAccessBusy
  simp only [possible_pos hp, noWrite]

end Staging

/-- Settles O57: one law per answer of each transaction; a staged write's end is the law of its party. -/
theorem smbusAndKeys : Obligations.SmbusAndKeys := by
  unfold Obligations.SmbusAndKeys
  intro s hp u tag withTag answers
  have h0 : ¬ 1#8 < 0#8 := by decide
  have h1 : ¬ 1#8 < 1#8 := by decide
  refine ⟨fun key hk => ⟨exec_keySet_empty hp hk h0, exec_keySet_empty hp hk h1, exec_keySet_taken hp hk h0,
      exec_keySet_taken hp hk h1, fun p port => exec_keySet_malformed hp (.inr port)⟩,
    fun bytes long => exec_keySet_malformed hp (.inl long),
    fun few => ⟨exec_keyClear_clears hp h0 few, exec_keyClear_clears hp h1 few⟩,
    fun p port => exec_keyClear_enrolled hp (BitVec.not_lt.2 port), fun bytes => exec_keyClear_malformed hp,
    exec_alertResponse hp, fun running => ?running, fun stopped => ?stopped,
    fun free => ⟨?read, ?readCount, ?readPast, ?writeOdd, ?write⟩, fun x hx => ?commit, ?svcBusy,
    fun x => exec_smbusWriteBusy hp, exec_smbusReadBusy hp, rfl⟩
  case running => rw [← State.tsNow_running running]; exact exec_smbTstampRead hp
  case stopped => rw [← State.tsNow_stopped stopped]; exact exec_smbTstampRead hp
  case read =>
    intro first count lo hi fits
    refine (exec_smbTagRead hp (Tag.smbusHeld_false free)).trans (congrArg Host.Outcome.next ?_)
    exact (if_neg (by omega)).trans (if_neg (by omega))
  case readCount =>
    intro first count bad
    exact (exec_smbTagRead hp (Tag.smbusHeld_false free)).trans (congrArg Host.Outcome.next (if_pos bad))
  case readPast =>
    intro first count lo hi past
    refine (exec_smbTagRead hp (Tag.smbusHeld_false free)).trans (congrArg Host.Outcome.next ?_)
    exact (if_neg (by omega)).trans (if_pos past)
  case writeOdd => exact fun first data => exec_smbTagWrite_malformed hp (Tag.smbusHeld_false free)
  case write =>
    intro first data count lo hi whole
    have e := exec_smbTagWrite_whole (first := first) hp (Tag.smbusHeld_false free) lo hi whole
    refine ⟨fun other => e.trans ?_, fun note fits => e.trans ?_⟩
    · simp only [noteBlocks_eq_false other]; rfl
    · simp only [noteBlocks_iff.2 ⟨note, fits⟩]; rfl
  case commit =>
    have e := exec_tagCommit hp (Tag.nextStaged_eq hx)
    exact ⟨fun viaSmbus => e.trans (congrArg _ (answerStaged_smbus viaSmbus)),
      fun n c viaCmd held => e.trans (congrArg _ (answerStaged_svc viaCmd held)),
      fun n viaCmd gone => e.trans (congrArg _ (answerStaged_gone viaCmd gone))⟩
  case svcBusy =>
    intro x n c hx viaCmd held
    exact (exec_svcTagWriteBusy hp hx).trans (congrArg _ (answerStaged_svc viaCmd held))

end Sys2Proof.Machine
end

section
/-! PROOFS. The tag's field side (chapter 18): the state in which the tag meets a request, one law per command it hears,
and what a dropped field leaves of the blocks. -/

namespace Sys2Proof.Machine

/-! ### The tag meeting a request (R505, R534) -/

/-- The tag with the field sensed, but where the field is the gatehouse's `own`. -/
def Tag.sensing (t : Tag) (own : Bool) : Tag := if own then t else { t with field := true }

/-- The state in which a request has been met and the tag is `x`, but for the field it senses. -/
def State.met (s : State) (x : Tag) : State :=
  { s with emitted := [], clo := { s.clo with tag := x.sensing s.gate.field } }

section Met

variable {s : State} {x : Tag}

@[simp] theorem Tag.mem_sensing (t : Tag) (own : Bool) : (t.sensing own).mem = t.mem := by cases own <;> rfl

@[simp] theorem Tag.state_sensing (t : Tag) (own : Bool) : (t.sensing own).state = t.state := by cases own <;> rfl

@[simp] theorem Tag.swapped_sensing (t : Tag) (own : Bool) : (t.sensing own).swapped = t.swapped := by cases own <;> rfl

/-- What is read of a block does not tell whether the field is sensed. -/
@[simp] theorem Tag.block_sensing (t : Tag) (own : Bool) (b : Nat) : (t.sensing own).block b = t.block b := by
  simp only [Tag.block, Tag.place, Tag.mem_sensing, Tag.swapped_sensing]

@[simp] theorem State.tag_met : (s.met x).clo.tag = x.sensing s.gate.field := rfl

@[simp] theorem State.tagUid_met : (s.met x).tagUid = leNat (x.mem.readBytes 60 8) := by
  simp only [State.tagUid, State.tag_met, Tag.mem_sensing]

@[simp] theorem readEntry_met (option : Bool) (b : Nat) :
    readEntry (s.met x).clo.tag option b = readEntry x option b := by
  simp only [readEntry, State.tag_met, Tag.block_sensing]

theorem tagRequest_met (s : State) (k : State → State) : tagRequest s k = .next (k (s.met s.clo.tag)) :=
  tagRequest_runs s k

theorem tagHears_met (a : TagAddr) : tagHears (s.met s.clo.tag) a = tagHears s a := by
  cases a with
  | all => simp only [tagHears, State.tag_met, Tag.state_sensing]
  | uid x => simp only [tagHears, State.tagUid_met]; rfl
  | selected => simp only [tagHears, State.tag_met, Tag.state_sensing]

/-- A change of the tag that leaves the field alone changes the tag that is met. -/
theorem State.modTag_met {f : Tag → Tag} (hf : ∀ t : Tag, f { t with field := true } = { f t with field := true }) :
    (s.met x).modTag f = s.met (f x) := by
  simp only [State.modTag, State.met, Tag.sensing]
  cases s.gate.field
  · simp only [Bool.false_eq_true, if_false, hf]
  · rfl

end Met

/-! ### Which requests are heard (ISO/IEC 15693-3) -/

section Heard

variable {s : State} {a : TagAddr} {k : State → State}

theorem tagCommand_heard (h : tagHears s a = true) : tagCommand a s k = .next (k (s.met s.clo.tag)) := by
  unfold tagCommand
  rw [tagRequest_met, if_pos (by rwa [tagHears_met])]

theorem tagCommand_unheard (h : tagHears s a = false) : tagCommand a s k = .next (s.met s.clo.tag) := by
  unfold tagCommand
  rw [tagRequest_met, if_neg (by rw [tagHears_met, h]; decide)]

theorem tagHears_iff : tagHears s a = true ↔
    (a = .all ∧ s.clo.tag.state ≠ .quiet) ∨ (∃ x, a = .uid x ∧ x.toNat = s.tagUid) ∨
      (a = .selected ∧ s.clo.tag.state = .selected) := by
  cases a <;> simp [tagHears]

theorem tagHears_uid {x : BitVec 64} (h : x.toNat = s.tagUid) : tagHears s (.uid x) = true := decide_eq_true h

theorem tagHears_uid_ne {x : BitVec 64} (h : x.toNat ≠ s.tagUid) : tagHears s (.uid x) = false := decide_eq_false h

end Heard

/-! ### Inventory and the tag's states (R503) -/

section States

variable {s : State} {a : TagAddr} {slots : Bool} {len : Nat} {mask x : BitVec 64}

theorem exec_tagInventory : exec (.tagInventory slots len mask) s = .next (
    if s.clo.tag.state ≠ .quiet ∧ s.tagUid % 2 ^ len = mask.toNat % 2 ^ len then
      tagAnswer (s.met s.clo.tag) ([0#8, 0#8] ++ le 8 s.tagUid)
    else s.met s.clo.tag) := by
  change execTagInventory slots len mask s = _
  unfold execTagInventory
  simp only [tagRequest_met, State.tag_met, Tag.state_sensing, State.tagUidBytes, State.tagUid_met]
  rfl

theorem exec_stayQuiet (h : x.toNat = s.tagUid) :
    exec (.stayQuiet x) s = .next (s.met { s.clo.tag with state := .quiet }) := by
  change execStayQuiet x s = _
  rw [execStayQuiet, tagCommand_heard (tagHears_uid h), State.modTag_met fun _ => rfl]

theorem exec_select (h : x.toNat = s.tagUid) :
    exec (.select x) s = .next (tagAnswer (s.met { s.clo.tag with state := .selected }) [0#8]) := by
  change execSelect x s = _
  unfold execSelect
  rw [tagRequest_met, if_pos (by rw [tagHears_met]; exact tagHears_uid h), State.modTag_met fun _ => rfl]

/-- Another tag's selection makes a selected tag ready again. -/
def Tag.deselected (t : Tag) : Tag := { t with state := if t.state = .selected then .ready else t.state }

theorem exec_select_other (h : x.toNat ≠ s.tagUid) : exec (.select x) s = .next (s.met s.clo.tag.deselected) := by
  have deselects : (fun t : Tag => if t.state = .selected then { t with state := .ready } else t) = Tag.deselected := by
    funext t
    unfold Tag.deselected
    split <;> rfl
  change execSelect x s = _
  unfold execSelect
  rw [tagRequest_met, if_neg (by rw [tagHears_met, tagHears_uid_ne h]; decide), deselects,
    State.modTag_met fun _ => rfl]

theorem exec_resetToReady (h : tagHears s a = true) :
    exec (.resetToReady a) s = .next (tagAnswer (s.met { s.clo.tag with state := .ready }) [0#8]) := by
  change execResetToReady a s = _
  rw [execResetToReady, tagCommand_heard h, State.modTag_met fun _ => rfl]

end States

/-! ### Reads (R503) -/

section FieldReads

variable {s : State} {a : TagAddr} {option : Bool} {b first n : Nat}

theorem exec_getSystemInformation (h : tagHears s a = true) : exec (.getSystemInformation a) s =
    .next (tagAnswer (s.met s.clo.tag) ([0#8, 4#8] ++ le 8 s.tagUid ++ [0xFF#8, 0x1F#8])) := by
  change execGetSystemInformation a s = _
  rw [execGetSystemInformation, tagCommand_heard h, State.tagUidBytes, State.tagUid_met]
  rfl

theorem exec_tagOtherCommand {code : Nat} (h : tagHears s a = true) :
    exec (.tagOtherCommand a code) s = .next (tagAnswer (s.met s.clo.tag) [1#8, 1#8]) := by
  change execTagOtherCommand a code s = _
  rw [execTagOtherCommand, tagCommand_heard h]
  rfl

theorem exec_readSingleBlock (h : tagHears s a = true) (hb : b ≤ 255) : exec (.readSingleBlock a option b) s =
    .next (tagAnswer (s.met s.clo.tag) (0#8 :: readEntry s.clo.tag option b)) := by
  change execReadSingleBlock a option b s = _
  rw [execReadSingleBlock, tagCommand_heard h, if_neg (Nat.not_lt.2 hb), readEntry_met]

theorem exec_readSingleBlock_past (h : tagHears s a = true) (hb : 255 < b) :
    exec (.readSingleBlock a option b) s = .next (tagAnswer (s.met s.clo.tag) [1#8, 0x10#8]) := by
  change execReadSingleBlock a option b s = _
  rw [execReadSingleBlock, tagCommand_heard h, if_pos hb]
  rfl

theorem exec_readMultipleBlocks (h : tagHears s a = true) (h1 : 1 ≤ n) (h32 : n ≤ 32) (hf : first + n ≤ 256) :
    exec (.readMultipleBlocks a option first n) s = .next (tagAnswer (s.met s.clo.tag)
      (0#8 :: (List.range n).flatMap fun k => readEntry s.clo.tag option (first + k))) := by
  change execReadMultipleBlocks a option first n s = _
  rw [execReadMultipleBlocks, tagCommand_heard h, if_neg (by omega)]
  simp only [readEntry_met]

theorem exec_readMultipleBlocks_refused (h : tagHears s a = true) (hb : n = 0 ∨ 32 < n ∨ 256 < first + n) :
    exec (.readMultipleBlocks a option first n) s = .next (tagAnswer (s.met s.clo.tag) [1#8, 0x10#8]) := by
  change execReadMultipleBlocks a option first n s = _
  rw [execReadMultipleBlocks, tagCommand_heard h, if_pos hb]
  rfl

end FieldReads

/-! ### Writes of the note area (R503, R509) -/

/-- NOTE_WRITTEN is set while the cloister has power (R509). -/
def State.noted (s : State) : State := if s.pw.porDone then alert s 64#32 else s

/-- Writing blocks leaves the field the tag senses. -/
theorem Tag.putBlocks_field (t : Tag) (first n : Nat) (data : List Byte) :
    ({ t with field := true } : Tag).putBlocks first n data = { t.putBlocks first n data with field := true } := by
  unfold Tag.putBlocks
  refine List.foldl_hom (fun t : Tag => { t with field := true }) ?_
  exact fun _ _ => rfl

/-- A block of 32 bytes is cut to itself. -/
theorem sliceB_whole {data : List Byte} (h : data.length = 32) : sliceB data 0 32 = data := by
  have e := sliceB_left data [] 32 h
  rwa [List.append_nil] at e

theorem Tag.putBlocks_one {t : Tag} {b : Nat} {data : List Byte} (h : data.length = 32) :
    t.putBlocks b 1 data = t.putBlock b data := by
  change t.putBlock (b + 0) (sliceB data (32 * 0) 32) = _
  rw [Nat.mul_zero, sliceB_whole h, Nat.add_zero]

section FieldWrites

variable {s : State} {x : Tag} {a : TagAddr} {b first n : Nat} {data : List Byte}

theorem noteWrite_met : noteWrite (s.met x) first n data =
    if s.gate.field then (s.met (x.putBlocks first n data)).noted
    else (s.met (x.putBlocks first n data)).noted.emit (.tagAnswer [0#8]) := by
  have field : (s.met (x.putBlocks first n data)).noted.gate = s.gate := by unfold State.noted; split <;> rfl
  unfold noteWrite
  rw [State.modTag_met fun t => Tag.putBlocks_field t first n data]
  change tagAnswer (State.noted _) _ = _
  rw [tagAnswer, field]

/-- A write of one block is the command's once its bytes are a block. -/
theorem exec_writeSingleBlock_whole (hd : data.length = 32) : exec (.writeSingleBlock a b data) s =
    tagCommand a s fun s => if noteBlocks b 1 then noteWrite s b 1 data else tagError s 0x12#8 :=
  if_neg (not_not.2 hd)

theorem exec_writeSingleBlock (h : tagHears s a = true) (hd : data.length = 32) (lo : 192 ≤ b) (hi : b ≤ 255) :
    exec (.writeSingleBlock a b data) s = .next (
      if s.gate.field then (s.met (s.clo.tag.putBlock b data)).noted
      else (s.met (s.clo.tag.putBlock b data)).noted.emit (.tagAnswer [0#8])) := by
  rw [exec_writeSingleBlock_whole hd, tagCommand_heard h, if_pos (noteBlocks_iff.2 ⟨lo, Nat.succ_le_succ hi⟩),
    noteWrite_met, Tag.putBlocks_one hd]

theorem exec_writeSingleBlock_refused (h : tagHears s a = true) (hd : data.length = 32) (hb : b < 192 ∨ 255 < b) :
    exec (.writeSingleBlock a b data) s = .next (tagAnswer (s.met s.clo.tag) [1#8, 0x12#8]) := by
  rw [exec_writeSingleBlock_whole hd, tagCommand_heard h, noteBlocks_eq_false (hb.imp_right Nat.succ_lt_succ)]
  rfl

/-- A write of several blocks is the command's once its bytes are as many blocks. -/
theorem exec_writeMultipleBlocks_whole (hd : data.length = 32 * n) (h1 : 1 ≤ n) :
    exec (.writeMultipleBlocks a first n data) s = tagCommand a s fun s =>
      if 4 < n then tagError s 1#8
      else if noteBlocks first n then noteWrite s first n data
      else tagError s 0x12#8 :=
  if_neg (not_or_intro (Nat.ne_of_gt h1) (not_not.2 hd))

theorem exec_writeMultipleBlocks (h : tagHears s a = true) (hd : data.length = 32 * n) (h1 : 1 ≤ n) (h4 : n ≤ 4)
    (lo : 192 ≤ first) (hi : first + n ≤ 256) : exec (.writeMultipleBlocks a first n data) s = .next (
      if s.gate.field then (s.met (s.clo.tag.putBlocks first n data)).noted
      else (s.met (s.clo.tag.putBlocks first n data)).noted.emit (.tagAnswer [0#8])) := by
  rw [exec_writeMultipleBlocks_whole hd h1, tagCommand_heard h, if_neg (Nat.not_lt.2 h4),
    if_pos (noteBlocks_iff.2 ⟨lo, hi⟩), noteWrite_met]

theorem exec_writeMultipleBlocks_refused (h : tagHears s a = true) (hd : data.length = 32 * n) (h1 : 1 ≤ n)
    (h4 : n ≤ 4) (hb : first < 192 ∨ 256 < first + n) :
    exec (.writeMultipleBlocks a first n data) s = .next (tagAnswer (s.met s.clo.tag) [1#8, 0x12#8]) := by
  rw [exec_writeMultipleBlocks_whole hd h1, tagCommand_heard h, if_neg (Nat.not_lt.2 h4), noteBlocks_eq_false hb]
  rfl

theorem exec_writeMultipleBlocks_long (h : tagHears s a = true) (hd : data.length = 32 * n) (h4 : 4 < n) :
    exec (.writeMultipleBlocks a first n data) s = .next (tagAnswer (s.met s.clo.tag) [1#8, 1#8]) := by
  rw [exec_writeMultipleBlocks_whole hd (by omega), tagCommand_heard h, if_pos h4]
  rfl

end FieldWrites

/-! ### A dropped field (R510) -/

section Torn

variable {s : State} {b c : Nat} {bs : List Nat}

/-- The 32 free bytes drawn next. -/
def State.freeBlock (s : State) : List Byte := (List.range 32).map fun k => Config.freeByte (s.freeCount + k)

theorem State.length_freeBlock : s.freeBlock.length = 32 := by
  rw [State.freeBlock, List.length_map, List.length_range]

theorem tearBlocks_cons : tearBlocks (b :: bs) s =
    tearBlocks bs (({ s with freeCount := s.freeCount + 32 } : State).modTag fun t => t.putBlock b s.freeBlock) := by
  rw [tearBlocks, freeBytes_eq]
  rfl

/-- Torn blocks change the tag's memory and the draw counter alone. -/
theorem tearBlocks_state (bs : List Nat) (s : State) : tearBlocks bs s = { s with
    freeCount := (tearBlocks bs s).freeCount
    clo := { s.clo with tag := { s.clo.tag with mem := (tearBlocks bs s).clo.tag.mem } } } := by
  induction bs generalizing s with
  | nil => rfl
  | cons b bs ih => rw [tearBlocks_cons, ih]; rfl

/-- A block that is not torn is as it was. -/
theorem block_tearBlocks_outside (h : c ∉ bs) : (tearBlocks bs s).clo.tag.block c = s.clo.tag.block c := by
  induction bs generalizing s with
  | nil => rfl
  | cons b bs ih =>
    obtain ⟨other, rest⟩ := List.ne_and_not_mem_of_not_mem_cons h
    rw [tearBlocks_cons, ih rest]
    exact (Tag.block_putBlock s.clo.tag b c s.freeBlock State.length_freeBlock).trans (if_neg other)

theorem block_tearBlocks_one : (tearBlocks [b] s).clo.tag.block b = s.freeBlock := by
  rw [tearBlocks_cons]
  exact (Tag.block_putBlock s.clo.tag b b s.freeBlock State.length_freeBlock).trans (if_pos rfl)

/-- What is read of a block is read of the memory and the halves' order. -/
theorem block_tearBlocks (bs : List Nat) (s : State) (c : Nat) :
    ({ s.clo.tag with mem := (tearBlocks bs s).clo.tag.mem } : Tag).block c = (tearBlocks bs s).clo.tag.block c :=
  congrArg (·.clo.tag.block c) (tearBlocks_state bs s).symm

theorem exec_fieldDrop (h : ∀ b ∈ bs, 192 ≤ b ∧ b ≤ 255) :
    exec (.fieldDrop bs) s = .next (fieldGone (tearBlocks bs { s with emitted := [] })) := by
  change execFieldDrop bs s = _
  refine possible_pos (List.all_eq_true.2 fun b hb => noteBlocks_iff.2 ?_)
  obtain ⟨lo, hi⟩ := h b hb
  exact ⟨lo, Nat.succ_le_succ hi⟩

end Torn

/-! ### FD_N (R505) -/

section FieldDetect

variable {s : State}

theorem exec_fdNAssert (hp : s.pw.porDone = true) (hl : s.clo.tag.fdLow = false) (hg : s.gate.field = false) :
    exec .fdNAssert s = .next (wakeSource
      (({ s with emitted := [] } : State).modTag fun t => { t with field := true, fdLow := true }) 0x11) := by
  change execFdNAssert s = _
  exact possible_pos (by rw [hp, hl, hg]; rfl)

theorem exec_fdNRelease (hp : s.pw.porDone = true) (hl : s.clo.tag.fdLow = true) : exec .fdNRelease s =
    .next (fieldGone (({ s with emitted := [] } : State).modTag fun t => { t with fdLow := false })) := by
  change execFdNRelease s = _
  exact possible_pos (by rw [hp, hl]; rfl)

end FieldDetect

/-- Settles O58: a request is met in one state, a command heard is its law there and one not heard is none; a dropped
field is the law of torn blocks, and a written block that of the tag's memory. -/
theorem tagFieldCommands : Obligations.TagFieldCommands := by
  unfold Obligations.TagFieldCommands
  refine ⟨fun s => ⟨?inventory, ?states, ?heard, ?unheard, ?drop, exec_fdNAssert, exec_fdNRelease⟩,
    fun t b c data _ _ => Tag.block_putBlock t b c data,
    fun t first n k data _ hd _ => Tag.block_putBlocks t first data n hd.ge k⟩
  case inventory =>
    intro slots len mask
    refine ⟨fun awake meets => exec_tagInventory.trans (congrArg _ (if_pos ⟨awake, meets⟩)),
      fun silent => exec_tagInventory.trans (congrArg _ (if_neg ?_))⟩
    rintro ⟨awake, meets⟩
    exact silent.elim awake fun misses => misses meets
  case states =>
    exact fun x => ⟨exec_stayQuiet, fun other => (tagCommand_unheard (tagHears_uid_ne other) : execStayQuiet x s = _),
      exec_select, exec_select_other⟩
  case heard =>
    intro a heard
    have h : tagHears s a = true := tagHears_iff.2 heard
    exact ⟨exec_resetToReady h, exec_getSystemInformation h, fun code => exec_tagOtherCommand h,
      fun option b => exec_readSingleBlock h, fun option b => exec_readSingleBlock_past h,
      fun option first n => exec_readMultipleBlocks h, fun option first n => exec_readMultipleBlocks_refused h,
      fun b data => exec_writeSingleBlock h, fun b data => exec_writeSingleBlock_refused h,
      fun first n data hd h1 h4 => ⟨exec_writeMultipleBlocks h hd h1 h4, exec_writeMultipleBlocks_refused h hd h1 h4⟩,
      fun first n data => exec_writeMultipleBlocks_long h⟩
  case unheard =>
    intro a unheard
    have h : tagHears s a = false := Bool.eq_false_iff.2 (mt tagHears_iff.1 unheard)
    exact ⟨(tagCommand_unheard h : execResetToReady a s = _), (tagCommand_unheard h : execGetSystemInformation a s = _),
      fun code => (tagCommand_unheard h : execTagOtherCommand a code s = _),
      fun option b => (tagCommand_unheard h : execReadSingleBlock a option b s = _),
      fun option first n => (tagCommand_unheard h : execReadMultipleBlocks a option first n s = _),
      fun b data hd => (exec_writeSingleBlock_whole hd).trans (tagCommand_unheard h),
      fun first n data hd h1 => (exec_writeMultipleBlocks_whole hd h1).trans (tagCommand_unheard h)⟩
  case drop =>
    intro blocks note
    let u : State := { s with emitted := [] }
    refine ⟨(tearBlocks blocks u).clo.tag.mem, (tearBlocks blocks u).freeCount, ?_, fun c _ kept => ?_, ?_⟩
    · rw [exec_fieldDrop note, tearBlocks_state blocks]; rfl
    · exact (block_tearBlocks blocks u c).trans (block_tearBlocks_outside kept)
    · rintro b rfl
      exact (block_tearBlocks [b] u b).trans block_tearBlocks_one

end Sys2Proof.Machine
end

section
/-! PROOFS. The gatehouse reader (chapter 19): the field, pings and sweeps, and what each answer, silent window and
limit does to a poll, a badge approval and a cable-tag operation. -/

namespace Sys2Proof.Machine

/-! ### Changes of the gatehouse -/

section Changes

variable {s : State} {g : Gatehouse} {data : List Byte} (f : Gatehouse → Gatehouse)

@[simp] theorem State.modGate_gate : (s.modGate f).gate = f s.gate := rfl

/-- The commands outstanding do not depend on the gatehouse. -/
@[simp] theorem State.cmd_modGate (n : Nat) : (s.modGate f).cmd n = s.cmd n := rfl

/-- A frame that is sent leaves the gatehouse as it is. -/
@[simp] theorem radioFrame_gate : (radioFrame s data).gate = s.gate := by unfold radioFrame; split <;> rfl

@[simp] theorem cmd_radioFrame (n : Nat) : (radioFrame s data).cmd n = s.cmd n := by unfold radioFrame; split <;> rfl

@[simp] theorem Gatehouse.off_confirming : g.off.confirming = g.confirming := rfl

@[simp] theorem Gatehouse.off_baseline : g.off.baseline = g.baseline := rfl

end Changes

/-! ### The field (R511, R512, R515) -/

theorem currentOk_iff {mA : Nat} : currentOk mA = true ↔ 20 ≤ mA ∧ mA ≤ 300 := decide_eq_true_iff

theorem currentOk_eq_false {mA : Nat} (h : mA < 20 ∨ 300 < mA) : currentOk mA = false := decide_eq_false (by omega)

@[simp] theorem faultMark_bad (f : BitVec 3) (a : Nat) : faultMark f a true = f ||| 1#3 <<< a := rfl

@[simp] theorem faultMark_passed (f : BitVec 3) (a : Nat) : faultMark f a false = f &&& ~~~(1#3 <<< a) := rfl

section Field

variable {s : State} {a mA : Nat} {o : ReaderOp}

/-- The turn-on that its user waits for, in no outside field. -/
theorem exec_fieldTurnOn (hp : s.pw.porDone = true) (hw : s.gate.wants = some a) (hf : s.gate.field = false)
    (ht : s.clo.tag.field = false) : exec (.fieldTurnOn a mA) s = .next (
      let v := ({ s with emitted := [] } : State).modGate fun g =>
        { g with antFault := faultMark g.antFault a !currentOk mA }
      if currentOk mA then
        v.modGate fun g => { g with antsel := a, field := true, settled := false, tries := 0 }
      else faultUser v) := by
  change execFieldTurnOn a mA s = _
  exact possible_pos (by rw [hp, hf, ht, decide_eq_true hw]; rfl)

theorem exec_fieldTurnOn_passes (hp : s.pw.porDone = true) (hw : s.gate.wants = some a) (hf : s.gate.field = false)
    (ht : s.clo.tag.field = false) (ok : 20 ≤ mA ∧ mA ≤ 300) : exec (.fieldTurnOn a mA) s =
      .next (({ s with emitted := [] } : State).modGate fun g => { g with
        antFault := g.antFault &&& ~~~(1#3 <<< a), antsel := a, field := true, settled := false, tries := 0 }) := by
  rw [exec_fieldTurnOn hp hw hf ht, currentOk_iff.2 ok]
  rfl

theorem exec_fieldTurnOn_fails (hp : s.pw.porDone = true) (hw : s.gate.wants = some a) (hf : s.gate.field = false)
    (ht : s.clo.tag.field = false) (bad : mA < 20 ∨ 300 < mA) : exec (.fieldTurnOn a mA) s =
      .next (faultUser (({ s with emitted := [] } : State).modGate fun g => { g with
        antFault := g.antFault ||| 1#3 <<< a })) := by
  rw [exec_fieldTurnOn hp hw hf ht, currentOk_eq_false bad]
  rfl

theorem exec_antennaFaultRetry (hp : s.pw.porDone = true) (hb : s.gate.antFault.getLsbD a = true)
    (hf : s.gate.free = true) (ha : s.gate.approval = none) (ht : s.clo.tag.field = false) :
    exec (.antennaFaultRetry a mA) s = .next (({ s with emitted := [] } : State).modGate fun g => { g with
      antFault := if 20 ≤ mA ∧ mA ≤ 300 then g.antFault &&& ~~~(1#3 <<< a) else g.antFault ||| 1#3 <<< a }) := by
  change execAntennaFaultRetry a mA s = _
  refine (possible_pos (by rw [hp, hb, hf, ha, ht]; rfl)).trans ?_
  by_cases ok : 20 ≤ mA ∧ mA ≤ 300
  · simp only [currentOk_iff.2 ok, if_pos ok, Bool.not_true, faultMark_passed]
  · simp only [Bool.eq_false_iff.2 (mt currentOk_iff.1 ok), if_neg ok, Bool.not_false, faultMark_bad]

/-- The wait after the field came on is over. -/
def State.fieldSettled (s : State) : State :=
  ({ s with emitted := [] } : State).modGate fun g => { g with settled := true }

theorem exec_fieldSettle_polls (hf : s.gate.field = true) (hs : s.gate.settled = false)
    (hp : s.fieldSettled.gate.polls = true) : exec .fieldSettle s = .next (radioFrame s.fieldSettled wupa) := by
  change execFieldSettle s = _
  exact (possible_pos (by rw [hf, hs]; rfl)).trans (congrArg _ (if_pos hp))

/-- Without a poll the first request is a sweep's, else an operation's. -/
theorem exec_fieldSettle_sweeps (hf : s.gate.field = true) (hs : s.gate.settled = false)
    (hp : s.fieldSettled.gate.polls = false) (hw : s.gate.sweeping ≠ []) :
    exec .fieldSettle s = .next (radioFrame s.fieldSettled [0x06#8, 0x01#8, 0#8]) := by
  obtain ⟨b, rest, hw⟩ := List.exists_cons_of_ne_nil hw
  change execFieldSettle s = _
  refine (possible_pos (by rw [hf, hs]; rfl)).trans (congrArg _ ((if_neg (Bool.eq_false_iff.1 hp)).trans ?_))
  simp only [State.modGate_gate, hw]
  rfl

theorem exec_fieldSettle_operates (hf : s.gate.field = true) (hs : s.gate.settled = false)
    (hp : s.fieldSettled.gate.polls = false) (hw : s.gate.sweeping = []) (ho : s.gate.op = some o) :
    exec .fieldSettle s = .next (radioFrame s.fieldSettled (opFrame s.fieldSettled o)) := by
  change execFieldSettle s = _
  refine (possible_pos (by rw [hf, hs]; rfl)).trans (congrArg _ ((if_neg (Bool.eq_false_iff.1 hp)).trans ?_))
  simp only [State.modGate_gate, hw, ho]
  rfl

theorem exec_fieldSettle_silent (hf : s.gate.field = true) (hs : s.gate.settled = false)
    (hp : s.fieldSettled.gate.polls = false) (hw : s.gate.sweeping = []) (ho : s.gate.op = none) :
    exec .fieldSettle s = .next s.fieldSettled := by
  change execFieldSettle s = _
  refine (possible_pos (by rw [hf, hs]; rfl)).trans (congrArg _ ((if_neg (Bool.eq_false_iff.1 hp)).trans ?_))
  simp only [State.modGate_gate, hw, ho]
  rfl

end Field

/-! ### Pings (R530-R532) -/

/-- With nothing holding the reader no baseline is being taken. -/
theorem Gatehouse.baseline_of_free {g : Gatehouse} (h : g.free = true) : g.baseline = none := by
  simp only [Gatehouse.free, Bool.and_eq_true, Option.isNone_iff_eq_none] at h
  exact h.2

/-- A code detunes where it lies the threshold off the baseline, on either side. -/
theorem detunes_eq (base code : Nat) (threshold : BitVec 8) :
    detunes base code threshold = decide (max 1 threshold.toNat ≤ ((code : Int) - base).natAbs) := by
  have distance : base - code + (code - base) = ((code : Int) - base).natAbs := by omega
  rw [detunes, distance]

section Pings

variable {s : State} {a code base : Nat} {b : BaselineRun}

/-- A ping is counted and its code kept (R530). -/
def State.pingTaken (s : State) (code : Nat) : State :=
  ({ s with emitted := [] } : State).modGate fun g => { g with pings := (g.pings + 1) % 2 ^ 32, lastPing := code }

/-- A ping of a free reader is compared with the antenna's baseline. -/
theorem exec_ping_free (hp : s.pw.porDone = true) (ha : a < 3) (hc : code < 4096)
    (he : s.gate.pingEn.getLsbD a = true) (hm : s.gate.antFault.getLsbD a = false) (ht : s.clo.tag.field = false)
    (hf : s.gate.free = true) (hn : s.gate.approval = none) (hb : s.gate.base a = some base) :
    exec (.ping a code) s = .next (
      let v := s.pingTaken code
      if ((code : Int) - base).natAbs < max 1 s.gate.threshold.toNat then
        v.modGate fun g => { g with spent := setErase a g.spent }
      else if a ∈ s.gate.spent then v
      else v.modGate fun g => { g with confirming := some a, sweeping := if a = 0 then [] else [a] }) := by
  have unheld : s.gate.baseline = none := Gatehouse.baseline_of_free hf
  change execPing a code s = _
  unfold execPing
  extract_lets g basing idle
  have isIdle : idle = true := by simp only [idle, g, hf, hn, hb]; rfl
  have stored : (g.base a).getD 0 = base := congrArg (·.getD 0) hb
  refine (possible_pos ?_).trans ?_
  · rw [isIdle, Bool.or_true, hp, decide_eq_true ⟨ha, hc⟩, he, hm, ht]; rfl
  · simp only [State.modGate_gate, unheld, stored, detunes_eq, Bool.not_eq_true', decide_eq_false_iff_not,
      Nat.not_le, List.contains_iff_mem]
    rfl

/-- A ping of an OP 3 whose WUPA went unanswered is the antenna's next code. -/
theorem exec_ping_baseline (hp : s.pw.porDone = true) (ha : a < 3) (hc : code < 4096)
    (he : s.gate.pingEn.getLsbD a = true) (hm : s.gate.antFault.getLsbD a = false) (ht : s.clo.tag.field = false)
    (hb : s.gate.baseline = some b) (hq : b.polled = true) (hd : b.due s.gate.pinged = some a)
    (hw : s.gate.wants = none) (hh : s.flt.halted = false) :
    exec (.ping a code) s = .next (settleBaseline (s.pingTaken code)
      { b with codes := tput [] b.codes a (tget [] b.codes a ++ [code]) }) := by
  change execPing a code s = _
  unfold execPing
  extract_lets g basing idle
  have isBasing : basing = true := by simp only [basing, g, hb, hq, hd, hw, hh]; rfl
  refine (possible_pos ?_).trans ?_
  · rw [isBasing, Bool.true_or, hp, decide_eq_true ⟨ha, hc⟩, he, hm, ht]; rfl
  · simp only [State.modGate_gate, hb]
    rfl

end Pings

/-! ### Sweeps (R523, R531, R534) -/

section Sweeps

variable {s : State} {a : Nat} {tags : List BankTag} {more : Bool}

/-- The bank table a sweep leaves: the tags found by UID, but for the tag whose UID is `own`. -/
def sweptTable (own : Nat) (tags : List BankTag) : List BankTag :=
  (tags.filter fun t => decide (t.uid ≠ own)).foldl (fun l t => insertTag { t with bytes := padTo 20 t.bytes } l) []

/-- The sweep of bank `a` has ended with this table. -/
def State.swept (s : State) (a : Nat) (new : List BankTag) : State :=
  ({ s with emitted := [] } : State).modGate fun g =>
    { g with banks := tput [] g.banks a new, sweeping := g.sweeping.drop 1 }.off

theorem exec_sweepComplete (hr : s.gate.ready a = true) (hb : s.gate.sweeping.head? = some a)
    (hl : tags.length ≤ 32) : exec (.sweepComplete a tags more) s = .next (
      let new := sweptTable s.tagUid tags
      if s.gate.confirming ≠ some a then s.swept a new
      else if new = tget [] s.gate.banks a then falseDetect (s.swept a new)
      else cardDetect (s.swept a new) a) := by
  change execSweepComplete a tags more s = _
  exact possible_pos (by rw [hr, decide_eq_true ⟨hb, hl⟩]; rfl)

end Sweeps

/-! ### A WUPA outside an approval (R522, R531, R532) -/

section Polls

variable {s v : State} {c : Instr} {ans : CardAnswer} {ok : Bool}

theorem exec_cardAnswer_atqa {w : Bool} (h : s.gate.polls = true) :
    exec (.cardAnswer (.atqa w)) s = .next (wupaAnswered { s with emitted := [] } w) :=
  (if_pos h : execCardAnswer (.atqa w) s = _).trans (possible_pos rfl)

theorem exec_cardAnswer_badFrame (h : s.gate.polls = true) :
    exec (.cardAnswer .badFrame) s = .next (wupaUnanswered (protoError { s with emitted := [] })) :=
  (if_pos h : execCardAnswer .badFrame s = _).trans (possible_pos rfl)

/-- Any other answer to a WUPA is a malformed one. -/
theorem exec_cardAnswer_malformed (h : s.gate.polls = true) (hw : ans ≠ .atqa true) (hb : ans ≠ .badFrame) :
    exec (.cardAnswer ans) s = .next (wupaAnswered { s with emitted := [] } false) := by
  refine (if_pos h : execCardAnswer ans s = _).trans ((possible_pos rfl).trans ?_)
  cases ans with
  | atqa w => cases w with
    | true => exact absurd rfl hw
    | false => rfl
  | badFrame => exact absurd rfl hb
  | _ => rfl

theorem exec_answerWindowExpiry_polled (h : s.gate.polls = true) :
    exec (.answerWindowExpiry ok) s = .next (wupaUnanswered { s with emitted := [] }) := by
  change execAnswerWindowExpiry ok s = _
  exact (if_pos h).trans (possible_pos rfl)

/-- A poll that goes unanswered is sent once more, then a detect is false and an OP 3 pings. -/
theorem poll_unanswered (e : exec c s = .next (wupaUnanswered v)) :
    (v.gate.tries = 0 → exec c s = .next (radioFrame (v.modGate fun g => { g with tries := 1 }) wupa)) ∧
    (v.gate.tries ≠ 0 → v.gate.confirming ≠ none → exec c s = .next (falseDetect (v.modGate Gatehouse.off))) ∧
    (∀ b, v.gate.tries ≠ 0 → v.gate.confirming = none → v.gate.baseline = some b →
      exec c s = .next (settleBaseline (v.modGate Gatehouse.off) { b with polled := true })) := by
  unfold wupaUnanswered at e
  refine ⟨fun h => ?_, fun h hc => ?_, fun b h hc hb => ?_⟩
  · rw [e, if_pos (by omega)]
    simp only [State.modGate, h, Nat.zero_add]
  · obtain ⟨a, hc⟩ := Option.ne_none_iff_exists'.1 hc
    rw [e, if_neg (by omega)]
    simp only [hc]
  · rw [e, if_neg (by omega)]
    simp only [hc, hb]

/-- A poll that is answered gets HLTA; a detect is confirmed and an OP 3 refused. -/
theorem poll_answered (e : exec c s = .next (wupaAnswered v true)) :
    (∀ a, v.gate.confirming = some a →
      exec c s = .next (cardDetect ((radioFrame v hlta).modGate Gatehouse.off) a)) ∧
    (∀ b c', v.gate.confirming = none → v.gate.baseline = some b → v.cmd b.cmd = some c' → exec c s =
      .next (failCmd ((radioFrame v hlta).modGate fun g => { g.off with baseline := none }) c' 3 0xB3)) := by
  simp only [wupaAnswered, if_true, State.modGate_gate, radioFrame_gate, Gatehouse.off_confirming,
    Gatehouse.off_baseline, State.cmd_modGate, cmd_radioFrame] at e
  refine ⟨fun a hc => ?_, fun b c' hc hb hcmd => ?_⟩
  · rw [e]
    simp only [hc]
  · rw [e]
    simp only [hc, hb, hcmd]
    rfl

end Polls

/-! ### A badge approval (R517-R521, Table 19-6) -/

section Badge

variable {s : State} {r : BadgeRun} {a : CardAnswer} {ok : Bool} {bytes : List Byte} {k : Nat} {last : Bool}

theorem exec_wupaPoll (ha : s.gate.approval = some r) (hr : s.gate.ready 0 = true) (ho : s.gate.op = none)
    (hb : s.gate.baseline = none) (hc : s.gate.confirming = none) (hs : r.stage = .polling) :
    exec .wupaPoll s = .next (badgeSend { s with emitted := [] } { r with stage := .atqa, tries := 0 }) := by
  change execWupaPoll s = _
  unfold execWupaPoll
  simp only [ha]
  exact possible_pos (by rw [hr, ho, hb, hc, decide_eq_true hs]; rfl)

theorem exec_cardAnswer (ha : s.gate.approval = some r) (hr : s.gate.ready 0 = true) (hp : s.gate.polls = false)
    (hh : s.flt.halted = false) (hs : r.stage ≠ .polling) :
    exec (.cardAnswer a) s = .next (badgeStep { s with emitted := [] } r a) := by
  change execCardAnswer a s = _
  unfold execCardAnswer
  rw [if_neg (Bool.eq_false_iff.1 hp)]
  simp only [ha]
  exact possible_pos (by rw [hr, hh, decide_eq_true hs]; rfl)

theorem exec_answerWindowExpiry_badge (ha : s.gate.approval = some r) (hr : s.gate.ready 0 = true)
    (hp : s.gate.polls = false) (hh : s.flt.halted = false) (hs : r.stage ≠ .polling) (ho : s.gate.op = none) :
    exec (.answerWindowExpiry ok) s = .next (cardUnanswered { s with emitted := [] } r) := by
  change execAnswerWindowExpiry ok s = _
  unfold execAnswerWindowExpiry
  rw [if_neg (Bool.eq_false_iff.1 hp)]
  simp only [ha, ho]
  exact possible_pos (by rw [hr, hh, decide_eq_true hs]; rfl)

/-- A card is held once it is selected and until it is let go. -/
theorem CardStage.held_iff {st : CardStage} : st.held = true ↔ st ≠ .polling ∧ st ≠ .atqa ∧ st ≠ .select := by
  cases st <;> simp [CardStage.held]

theorem exec_cardHoldLimit (ha : s.gate.approval = some r) (hr : s.gate.ready 0 = true) (hh : s.flt.halted = false)
    (hs : r.stage.held = true) : exec .cardHoldLimit s = .next (
      let v := radioFrame (protoError { s with emitted := [] }) deselect
      if r.stage = .deselect then finishBadge v r else (cardGone v r).modGate Gatehouse.off) := by
  change execCardHoldLimit s = _
  unfold execCardHoldLimit
  simp only [ha]
  exact possible_pos (by rw [hr, hs, hh]; rfl)

theorem badgeStep_badFrame (hp : r.stage ≠ .polling) (hd : r.stage ≠ .deselect) :
    badgeStep s r .badFrame = cardUnanswered (protoError s) r := by
  unfold badgeStep
  cases h : r.stage with
  | polling => exact absurd h hp
  | deselect => exact absurd h hd
  | _ => rfl

/-- ATQA: a well-formed one goes on to anticollision, any other breaks the standard. -/
theorem badgeStep_atqa (h : r.stage = .atqa) :
    badgeStep s r (.atqa true) = badgeSend s { r with tries := 0, stage := .select } ∧
    ∀ a, a ≠ .atqa true → a ≠ .badFrame → badgeStep s r a = cardBroken s r [] hlta := by
  unfold badgeStep
  simp only [h]
  refine ⟨trivial, fun a hw hb => ?_⟩
  cases a with
  | atqa w => cases w with
    | true => exact absurd rfl hw
    | false => rfl
  | badFrame => exact absurd rfl hb
  | _ => rfl

/-- The UID of a barred card is let go (R521). -/
theorem badgeStep_uidPart_barred (h : r.stage = .select) (hb : r.uid ++ bytes ∈ r.barred) :
    badgeStep s r (.uidPart bytes true last) = cardGone (radioFrame s hlta) r := by
  simp only [badgeStep, h, List.contains_iff_mem, if_pos hb]

theorem badgeStep_uidPart_selects (h : r.stage = .select) (hb : r.uid ++ bytes ∉ r.barred) :
    badgeStep s r (.uidPart bytes true last) = badgeSend s
      { r with tries := 0, uid := r.uid ++ bytes, stage := if last then .rats else .select } := by
  simp only [badgeStep, h, List.contains_iff_mem, if_neg hb]

/-- A wrong check byte or SAK bars the UID (R521). -/
theorem badgeStep_uidPart_malformed (h : r.stage = .select) :
    badgeStep s r (.uidPart bytes false last) = cardBroken s r (r.uid ++ bytes) hlta := by
  simp only [badgeStep, h]

theorem ppsRate_slow (h : k < 212) : ppsRate k = 106 := by unfold ppsRate; split_ifs <;> omega

theorem ppsRate_fast (h : 212 ≤ k) : ppsRate k = if 424 ≤ k then 424 else 212 := by unfold ppsRate; rw [if_pos h]

theorem badgeStep_ats_slow (h : r.stage = .rats) (hk : k < 212) :
    badgeStep s r (.ats true k) = badgeSend s { r with tries := 0, rate := 106, stage := .byName } := by
  simp only [badgeStep, h, ppsRate_slow hk, if_true]

/-- PPS follows where the card is faster than 106 kbit/s (R517). -/
theorem badgeStep_ats_fast (h : r.stage = .rats) (hk : 212 ≤ k) : badgeStep s r (.ats true k) =
    badgeSend s { r with tries := 0, rate := if 424 ≤ k then 424 else 212, stage := .pps } := by
  have chosen : (if 424 ≤ k then 424 else 212) ≠ 106 := by split <;> decide
  simp only [badgeStep, h, ppsRate_fast hk, if_neg chosen]

theorem badgeStep_ats_malformed (h : r.stage = .rats) :
    badgeStep s r (.ats false k) = cardBroken s r r.uid deselect := by
  simp only [badgeStep, h]

theorem badgeStep_pps (h : r.stage = .pps) :
    badgeStep s r .ppsAnswer = badgeSend s { r with tries := 0, stage := .byName } ∧
    ∀ a, a ≠ .ppsAnswer → a ≠ .badFrame →
      badgeStep s r a = cardGone (radioFrame (protoError s) deselect) r := by
  unfold badgeStep
  simp only [h]
  refine ⟨trivial, fun a hp hb => ?_⟩
  cases a with
  | ppsAnswer => exact absurd rfl hp
  | badFrame => exact absurd rfl hb
  | _ => rfl

/-- Steps 1 and 2 take blocks. -/
theorem badgeStep_block (h : r.stage = .byName ∨ r.stage = .authenticate) (hb : a ≠ .badFrame) :
    badgeStep s r a = badgeBlock s r a := by
  unfold badgeStep
  cases a with
  | badFrame => exact absurd rfl hb
  | _ => rcases h with h | h <;> rw [h]

theorem badgeStep_deselect (h : r.stage = .deselect) : badgeStep s r a = finishBadge s r := by
  unfold badgeStep
  rw [h]

/-- Step 1: the application is selected, or refused. -/
theorem badgeStep_byName (h : r.stage = .byName) : badgeStep s r (.iBlock bytes false) =
    if r.answer ++ bytes = [0x90#8, 0#8] then badgeSend s { r with answer := [], tries := 0, stage := .authenticate }
    else badgeRefused s :=
  (badgeStep_block (a := .iBlock bytes false) (.inl h) nofun).trans (if_pos h)

/-- Step 2: 96 signature bytes and the status word, or refused. -/
theorem badgeStep_authenticate (h : r.stage = .authenticate) : badgeStep s r (.iBlock bytes false) =
    let all := r.answer ++ bytes
    if all.length = 98 ∧ all.drop 96 = [0x90#8, 0#8] then
      badgeSend s { r with answer := [], tries := 0, stage := .deselect, signature := all.take 96 }
    else badgeRefused s :=
  (badgeStep_block (a := .iBlock bytes false) (.inr h) nofun).trans (if_neg (by rw [h]; decide))

end Badge

/-! ### A cable-tag operation (R518, R523-R529) -/

section Operation

variable {s : State} {o : ReaderOp} {ok : Bool} {a : BankAnswer}

theorem exec_bankTagAnswer (ho : s.gate.op = some o) (hr : s.gate.ready o.bank = true) (hw : s.gate.sweeping = [])
    (hh : s.flt.halted = false) :
    exec (.bankTagAnswer a ok) s = .next (opStep { s with emitted := [] } o a ok) := by
  change execBankTagAnswer a ok s = _
  unfold execBankTagAnswer
  simp only [ho]
  exact possible_pos (by rw [hr, hw, hh]; rfl)

theorem exec_answerWindowExpiry_op (ho : s.gate.op = some o) (hr : s.gate.ready o.bank = true)
    (hw : s.gate.sweeping = []) (hp : s.gate.polls = false) (hh : s.flt.halted = false) :
    exec (.answerWindowExpiry ok) s = .next (opUnanswered { s with emitted := [] } o ok) := by
  change execAnswerWindowExpiry ok s = _
  unfold execAnswerWindowExpiry
  rw [if_neg (Bool.eq_false_iff.1 hp)]
  simp only [ho]
  exact possible_pos (by rw [hr, hw, hh]; rfl)

theorem opStep_invalid : opStep s o .invalid ok = opUnanswered (protoError s) o ok := by
  unfold opStep
  cases h : o.stage <;> rfl

theorem opStep_slots {len mask : Nat} {xs : List SlotAnswer} (h : o.stage = .inventory len mask) :
    opStep s o (.slots xs) ok = takeRound s o len mask xs ok := by
  simp only [opStep, h]

/-- A tag that does not tell its block size has blocks of 4 bytes (R527). -/
theorem opStep_systemInfo (h : o.stage = .systemInfo) :
    (∀ b, opStep s o (.systemInfo b) ok = opBlocks s o b) ∧ ∀ code, opStep s o (.error code) ok = opBlocks s o 4 := by
  simp only [opStep, h, implies_true, and_self]

theorem opStep_blocks {data : List Byte} (h : o.stage = .read) : opStep s o (.blocks data) ok =
    if data.length = o.blockSize * o.count then
      finishOp s o 0 0 (blockEntries data o.blockSize o.count) o.count false ok
    else opUnanswered (protoError s) o ok := by
  simp only [opStep, h]

theorem opStep_written (h : o.stage = .write) : opStep s o .written ok =
    let more := { o with moved := o.moved + 1, tries := 0 }
    if o.moved + 1 < o.count then opSend s more else finishOp s more 0 0 [] (o.moved + 1) false ok := by
  unfold opStep
  rw [h]

theorem opStep_error {code : Nat} (h : o.stage = .read ∨ o.stage = .write) (hc : code < 256) :
    opStep s o (.error code) ok = finishOp (protoError s) o 3 (0x100 + code) [] o.moved false ok := by
  unfold opStep
  rcases h with h | h
  · simp only [h, Nat.mod_eq_of_lt hc]
  · simp only [h, Nat.mod_eq_of_lt hc]

end Operation

/-! ### What goes unanswered (R518, Table 19-4) -/

section Unanswered

variable {s : State} {o : ReaderOp} {ok : Bool} {r : BadgeRun}

/-- A request to a tag is repeated twice, a write's repeats counted. -/
theorem opUnanswered_again (h : o.tries < 2) : opUnanswered s o ok = opSend
    (if o.stage = .write then s.modGate fun g => { g with writeRetries := satInc 0xFFFFFFFF g.writeRetries } else s)
    { o with tries := o.tries + 1 } := by
  unfold opUnanswered
  simp only [if_pos h, State.when, decide_eq_true_eq]

theorem opUnanswered_systemInfo (h : 2 ≤ o.tries) (st : o.stage = .systemInfo) :
    opUnanswered s o ok = opBlocks s o 4 := by
  unfold opUnanswered
  rw [if_neg (Nat.not_lt.2 h), st]

theorem opUnanswered_blocks (h : 2 ≤ o.tries) (st : o.stage = .read ∨ o.stage = .write) :
    opUnanswered s o ok = finishOp s o 6 0 [] o.moved false ok := by
  unfold opUnanswered
  rw [if_neg (Nat.not_lt.2 h)]
  rcases st with st | st <;> rw [st]

theorem opUnanswered_inventory {len mask : Nat} (h : 2 ≤ o.tries) (st : o.stage = .inventory len mask) :
    opUnanswered s o ok = nextRound s o ok := by
  unfold opUnanswered
  rw [if_neg (Nat.not_lt.2 h), st]

/-- A card that breaks the standards is gone, and its UID, where known, is barred. -/
theorem cardBroken_eq (s : State) (r : BadgeRun) (uid frame : List Byte) : cardBroken s r uid frame =
    cardGone (radioFrame (protoError s) frame)
      { r with barred := if uid = [] then r.barred else r.barred ++ [uid] } := by
  cases uid <;> rfl

/-- The stage's request is a block. -/
def CardStage.block (st : CardStage) : Bool := decide (st = .byName ∨ st = .authenticate ∨ st = .deselect)

theorem CardStage.block_iff {st : CardStage} : st.block = true ↔ st = .byName ∨ st = .authenticate ∨ st = .deselect :=
  decide_eq_true_iff

/-- The approval with one more repeat of its request. -/
def BadgeRun.again (r : BadgeRun) : BadgeRun := { r with tries := r.tries + 1 }

/-- A block is asked for again twice and any other frame sent again once; then the card is gone, and a signature in hand
is verified. -/
theorem cardUnanswered_eq (s : State) (r : BadgeRun) : cardUnanswered s r =
    if r.tries < if r.stage.block then 2 else 1 then
      radioFrame (s.modGate fun g => { g with approval := some r.again })
        (if r.stage.block then [0xB2#8] else cardFrame r.again (badgeMessage s))
    else if r.stage = .deselect then finishBadge s r
    else cardGone s r := rfl

theorem cardUnanswered_block (hb : r.stage.block = true) (h : r.tries < 2) : cardUnanswered s r =
    radioFrame (s.modGate fun g => { g with approval := some r.again }) [0xB2#8] := by
  rw [cardUnanswered_eq, hb]
  exact if_pos h

theorem cardUnanswered_frame (hb : r.stage.block = false) (h : r.tries < 1) : cardUnanswered s r =
    radioFrame (s.modGate fun g => { g with approval := some r.again }) (cardFrame r.again (badgeMessage s)) := by
  rw [cardUnanswered_eq, hb]
  exact if_pos h

theorem cardUnanswered_deselect (h : 2 ≤ r.tries) (hd : r.stage = .deselect) :
    cardUnanswered s r = finishBadge s r := by
  rw [cardUnanswered_eq, if_neg (by split <;> omega), if_pos hd]

theorem cardUnanswered_gone (h : (1 ≤ r.tries ∧ r.stage.block = false) ∨ (2 ≤ r.tries ∧ r.stage ≠ .deselect)) :
    cardUnanswered s r = cardGone s r := by
  obtain ⟨tries, frame⟩ | ⟨tries, other⟩ := h
  · have other : r.stage ≠ .deselect := fun hd => by rw [hd] at frame; exact absurd frame (by decide)
    rw [cardUnanswered_eq, frame]
    exact (if_neg (Nat.not_lt.2 tries)).trans (if_neg other)
  · rw [cardUnanswered_eq, if_neg (by split <;> omega), if_neg other]

end Unanswered

/-! ### Baselines (R532) -/

section Baselines

variable {s : State} {b : BaselineRun} {c : Cmd}

/-- The average of an antenna's codes is stored. -/
def BaselineRun.store (b : BaselineRun) (s : State) (a : Nat) : State :=
  let r := pingAverage s (tget [] b.codes a)
  storeBase r.2 a r.1

theorem BaselineRun.cmd_store (n a : Nat) : (b.store s a).cmd n = s.cmd n := by
  unfold BaselineRun.store storeBase
  split <;> rfl

theorem settleBaseline_due (h : b.due s.gate.pinged ≠ none) :
    settleBaseline s b = s.modGate fun g => { g with baseline := some b } :=
  if_pos (Option.isSome_iff_ne_none.2 h)

theorem settleBaseline_done (h : b.due s.gate.pinged = none) (hc : s.cmd b.cmd = some c) : settleBaseline s b =
    doneCmd ((s.gate.pinged.foldl b.store s).modGate fun g => { g with baseline := none }) c [0#8] := by
  have kept : (s.gate.pinged.foldl b.store s).cmd b.cmd = some c :=
    List.foldlRecOn (motive := fun t => t.cmd b.cmd = some c) s.gate.pinged b.store hc
      fun t ht a _ => (BaselineRun.cmd_store b.cmd a).trans ht
  unfold BaselineRun.store at kept
  unfold settleBaseline
  rw [h]
  simp only [State.cmd_modGate, kept]
  rfl

end Baselines

/-- Settles O59: each command is met by the law of its row, an answer and a silent window by that of what they are
an answer to: a poll, a stage of the approval, or a stage of the operation. -/
theorem gatehouseReader : Obligations.GatehouseReader := by
  unfold Obligations.GatehouseReader
  refine ⟨fun s => ⟨?turnOn, ?settle, fun a mA hp hb hf ha ht => exec_antennaFaultRetry hp hb hf ha ht, ?ping, ?sweep,
    ?polls, ?badge, ?operation⟩, ?unanswered, fun v r uid frame => cardBroken_eq v r uid frame, ?silentCard, ?baseline⟩
  case turnOn =>
    exact fun a mA hp hw hf ht => ⟨fun lo hi => exec_fieldTurnOn_passes hp hw hf ht ⟨lo, hi⟩,
      exec_fieldTurnOn_fails hp hw hf ht⟩
  case settle =>
    exact fun hf hs => ⟨exec_fieldSettle_polls hf hs, exec_fieldSettle_sweeps hf hs,
      fun o => exec_fieldSettle_operates hf hs, exec_fieldSettle_silent hf hs⟩
  case ping =>
    intro a code hp ha hc he hm ht
    refine ⟨fun base hf hn hb => ?_, fun b hb hq hd hw hh => exec_ping_baseline hp ha hc he hm ht hb hq hd hw hh⟩
    have compared := exec_ping_free hp ha hc he hm ht hf hn hb
    refine ⟨fun within => compared.trans ?_, fun off held => compared.trans ?_, fun off free => compared.trans ?_⟩
    · exact congrArg _ (if_pos within)
    · exact congrArg _ ((if_neg (Nat.not_lt.2 off)).trans (if_pos held))
    · exact congrArg _ ((if_neg (Nat.not_lt.2 off)).trans (if_neg free))
  case sweep =>
    intro a tags more hr hb hl
    have replaced := exec_sweepComplete (more := more) hr hb hl
    refine ⟨fun hc => replaced.trans ?_, fun hc same => replaced.trans ?_, fun hc changed => replaced.trans ?_⟩
    · exact congrArg _ (if_pos hc)
    · exact congrArg _ ((if_neg (not_not.2 hc)).trans (if_pos same))
    · exact congrArg _ ((if_neg (not_not.2 hc)).trans (if_neg changed))
  case polls =>
    intro hp
    let u : State := { s with emitted := [] }
    exact ⟨poll_answered (v := u) (exec_cardAnswer_atqa hp),
      poll_unanswered (v := protoError u) (exec_cardAnswer_badFrame hp),
      fun ans hw hb => poll_answered (v := protoError u) (exec_cardAnswer_malformed hp hw hb),
      fun ok => poll_unanswered (v := u) (exec_answerWindowExpiry_polled hp)⟩
  case badge =>
    intro r ha hr hp hh
    refine ⟨fun hs ho hb hc => exec_wupaPoll ha hr ho hb hc hs, fun hs => ?_⟩
    have answer := fun {a v} (e : badgeStep { s with emitted := [] } r a = v) =>
      (exec_cardAnswer ha hr hp hh hs).trans (congrArg Host.Outcome.next e)
    refine ⟨fun hd => answer (badgeStep_badFrame hs hd), fun st => ?atqa, fun st => ?select, fun st => ?rats,
      fun st => ?pps, fun st => ?block, fun st a => answer (badgeStep_deselect st),
      fun ho ok => exec_answerWindowExpiry_badge ha hr hp hh hs ho,
      fun h1 h2 => exec_cardHoldLimit ha hr hh (CardStage.held_iff.2 ⟨hs, h1, h2⟩)⟩
    case atqa =>
      exact ⟨answer (badgeStep_atqa st).1, fun a hw hb => answer ((badgeStep_atqa st).2 a hw hb)⟩
    case select =>
      exact ⟨fun bytes last barred => answer (badgeStep_uidPart_barred st barred),
        fun bytes last free => answer (badgeStep_uidPart_selects st free),
        fun bytes last => answer (badgeStep_uidPart_malformed st)⟩
    case rats =>
      exact ⟨fun k slow => answer (badgeStep_ats_slow st slow), fun k fast => answer (badgeStep_ats_fast st fast),
        fun k => answer (badgeStep_ats_malformed st)⟩
    case pps =>
      exact ⟨answer (badgeStep_pps st).1, fun a hp hb => answer ((badgeStep_pps st).2 a hp hb)⟩
    case block =>
      refine ⟨answer (badgeStep_block st nofun), answer (badgeStep_block st nofun),
        fun bytes => answer (badgeStep_block st nofun), fun bytes one => ?_, fun bytes one => ?_, fun bytes two => ?_,
        fun bytes two => ?_⟩
      · exact fun accepted => answer ((badgeStep_byName one).trans (if_pos accepted))
      · exact fun refused => answer ((badgeStep_byName one).trans (if_neg refused))
      · exact fun len status => answer ((badgeStep_authenticate two).trans (if_pos ⟨len, status⟩))
      · exact fun refused => answer ((badgeStep_authenticate two).trans (if_neg refused))
  case operation =>
    intro o ok ho hr hw hp hh
    have answer := fun {a v} (e : opStep { s with emitted := [] } o a ok = v) =>
      (exec_bankTagAnswer ho hr hw hh).trans (congrArg Host.Outcome.next e)
    refine ⟨exec_answerWindowExpiry_op ho hr hw hp hh, answer opStep_invalid,
      fun len mask xs st => answer (opStep_slots st), fun st => ?info, fun st => ?read,
      fun st => answer (opStep_written st), fun st code hc => answer (opStep_error st hc)⟩
    case info =>
      exact ⟨fun b => answer ((opStep_systemInfo st).1 b), fun code => answer ((opStep_systemInfo st).2 code)⟩
    case read =>
      exact ⟨fun data whole => answer ((opStep_blocks st).trans (if_pos whole)),
        fun data other => answer ((opStep_blocks st).trans (if_neg other))⟩
  case unanswered =>
    exact fun v o ok => ⟨opUnanswered_again, opUnanswered_systemInfo, opUnanswered_blocks,
      fun len mask => opUnanswered_inventory⟩
  case silentCard =>
    intro v r
    exact ⟨fun block => cardUnanswered_block (CardStage.block_iff.2 block),
      fun frame => cardUnanswered_frame (Bool.eq_false_iff.2 (mt CardStage.block_iff.1 frame)),
      cardUnanswered_deselect, fun gone => cardUnanswered_gone
        (gone.imp_left (And.imp_right fun frame => Bool.eq_false_iff.2 (mt CardStage.block_iff.1 frame)))⟩
  case baseline =>
    exact fun v b => ⟨settleBaseline_due, fun c due held => settleBaseline_done due held⟩

end Sys2Proof.Machine
end

section
/-! PROOFS. The belfry (chapter 20): a brew sample period and its rings, the decision of a drip frame, the detector of a
pattern, its wakes, and the reseal timers. -/

namespace Sys2Proof.Machine

/-! ### A ring of the carafe: `n` entries by INDEX -/

/-- The ring of `n` entries with `v` at `k`; the entry of `n` before makes room. -/
def ringPut {α : Type} [DecidableEq α] (d : α) (n : Nat) (t : Tbl α) (k : Nat) (v : α) : Tbl α :=
  if n ≤ k then tdel (tput d t k v) (k - n) else tput d t k v

section Ring

variable {α : Type} [DecidableEq α] {d v : α} {n k i : Nat} {t : Tbl α}

theorem tget_ringPut_self (hn : 0 < n) : tget d (ringPut d n t k v) k = v := by
  unfold ringPut
  split
  · rw [tget_tdel_ne d _ (by omega), tget_tput_self]
  · exact tget_tput_self ..

theorem tget_ringPut_oldest (h : n ≤ k) : tget d (ringPut d n t k v) (k - n) = d := by
  rw [ringPut, if_pos h, tget_tdel_self]

theorem tget_ringPut_other (hk : i ≠ k) (ho : i + n ≠ k) : tget d (ringPut d n t k v) i = tget d t i := by
  unfold ringPut
  split
  · rw [tget_tdel_ne d _ (by omega), tget_tput_ne d t v hk]
  · exact tget_tput_ne d t v hk

end Ring

/-! ### One brew sample period (R542, R543, R554) -/

/-- The sample of channel `c` for the bits of a period; a disabled channel's is zero (R542). -/
def Belfry.sampleOf (b : Belfry) (c : Nat) (bits : BitVec 96) : BitVec 16 :=
  if cfgChannel b.cfg c then ((tget Channel.fresh b.channels c).period b.live bits).2 else 0#16

/-- The three channels have taken their bits of a period. -/
def Belfry.fed (b : Belfry) (x y z : BitVec 96) : Belfry :=
  (((b.channelPeriod 0 x).1.channelPeriod 1 y).1.channelPeriod 2 z).1

/-- A drip frame ends with every 1,024th sample (R546). -/
def Belfry.endFrame (b : Belfry) : Belfry := if b.live % 1024 = 0 then b.takeFrame else b

section Period

variable {b : Belfry} {x y z : BitVec 96}

theorem Belfry.channelPeriod_sample (c : Nat) (bits : BitVec 96) : (b.channelPeriod c bits).2 = b.sampleOf c bits := by
  unfold Belfry.channelPeriod Belfry.sampleOf
  split <;> rfl

/-- The channels are decimated each by itself. -/
theorem Belfry.sampleOf_channelPeriod {c j : Nat} (bits w : BitVec 96) (h : j ≠ c) :
    (b.channelPeriod c bits).1.sampleOf j w = b.sampleOf j w := by
  simp only [Belfry.sampleOf, Belfry.channelPeriod, tget_tput_ne _ _ _ h]

theorem Belfry.period_stages : b.period x y z =
    ((b.fed x y z).store [b.sampleOf 0 x, b.sampleOf 1 y, b.sampleOf 2 z]).closeBlock.endFrame := by
  have second : (b.channelPeriod 0 x).1.sampleOf 1 y = b.sampleOf 1 y := Belfry.sampleOf_channelPeriod x y (by decide)
  have third : ((b.channelPeriod 0 x).1.channelPeriod 1 y).1.sampleOf 2 z = b.sampleOf 2 z :=
    (Belfry.sampleOf_channelPeriod y z (by decide)).trans (Belfry.sampleOf_channelPeriod x z (by decide))
  unfold Belfry.period
  simp only [Belfry.channelPeriod_sample, second, third]
  rfl

/-! What a block's end and a frame's end leave as it is. -/

theorem Belfry.closeBlock_within (h : b.live % 256 ≠ 0) : b.closeBlock = b := if_pos h

theorem Belfry.endFrame_within (h : b.live % 1024 ≠ 0) : b.endFrame = b := if_neg h

theorem Belfry.endFrame_ends (h : b.live % 1024 = 0) : b.endFrame = b.takeFrame := if_pos h

theorem Belfry.due_takeFrame : b.takeFrame.due = some ⟨b.live / 1024 - 1,
    (List.range 3).map fun c => (tget Channel.fresh b.channels c).frame, b.next⟩ := rfl

theorem Belfry.closeBlock_frame :
    b.closeBlock = { b with channels := b.closeBlock.channels, blocks := b.closeBlock.blocks } := by
  unfold Belfry.closeBlock
  split <;> rfl

theorem Belfry.endFrame_frame : b.endFrame =
    { b with channels := b.endFrame.channels, due := b.endFrame.due, next := b.endFrame.next } := by
  unfold Belfry.endFrame
  split <;> rfl

@[simp] theorem Belfry.live_closeBlock : b.closeBlock.live = b.live := by rw [Belfry.closeBlock_frame]

@[simp] theorem Belfry.brew_closeBlock : b.closeBlock.brew = b.brew := by rw [Belfry.closeBlock_frame]

@[simp] theorem Belfry.due_closeBlock : b.closeBlock.due = b.due := by rw [Belfry.closeBlock_frame]

@[simp] theorem Belfry.next_closeBlock : b.closeBlock.next = b.next := by rw [Belfry.closeBlock_frame]

@[simp] theorem Belfry.live_endFrame : b.endFrame.live = b.live := by rw [Belfry.endFrame_frame]

@[simp] theorem Belfry.brew_endFrame : b.endFrame.brew = b.brew := by rw [Belfry.endFrame_frame]

@[simp] theorem Belfry.blocks_endFrame : b.endFrame.blocks = b.blocks := by rw [Belfry.endFrame_frame]

/-! The fields after a period. -/

theorem Belfry.live_period : (b.period x y z).live = (b.live + 1) % 2 ^ 64 := by
  rw [Belfry.period_stages, Belfry.live_endFrame, Belfry.live_closeBlock]
  rfl

theorem Belfry.brew_period : (b.period x y z).brew =
    ringPut noSamples brewSize b.brew b.live [b.sampleOf 0 x, b.sampleOf 1 y, b.sampleOf 2 z] := by
  rw [Belfry.period_stages, Belfry.brew_endFrame, Belfry.brew_closeBlock]
  rfl

theorem Belfry.blocks_period_within (h : (b.period x y z).live % 256 ≠ 0) : (b.period x y z).blocks = b.blocks := by
  rw [Belfry.live_period] at h
  rw [Belfry.period_stages, Belfry.blocks_endFrame, Belfry.closeBlock_within h]
  rfl

/-- Every 256th sample completes a block, of zeros while the belfry is disabled (R554). -/
theorem Belfry.blocks_period_complete (h : (b.period x y z).live % 256 = 0) : ∃ bytes,
    (b.period x y z).blocks = ringPut noBlock blockCount b.blocks ((b.period x y z).live / 256 - 1) bytes ∧
    (cfgOn b.cfg = false → bytes = noBlock) := by
  rw [Belfry.live_period] at h ⊢
  rw [Belfry.period_stages, Belfry.blocks_endFrame]
  exact ⟨_, congrArg Belfry.blocks (if_neg (not_not.2 h)), fun off => if_neg (Bool.eq_false_iff.1 off)⟩

theorem Belfry.due_period_within (h : (b.period x y z).live % 1024 ≠ 0) :
    (b.period x y z).due = b.due ∧ (b.period x y z).next = b.next := by
  rw [Belfry.live_period] at h
  rw [Belfry.period_stages, Belfry.endFrame_within (by rwa [Belfry.live_closeBlock]), Belfry.due_closeBlock,
    Belfry.next_closeBlock]
  exact ⟨rfl, rfl⟩

/-- The frame that ends waits with the configuration that waited for it (R546). -/
theorem Belfry.due_period_ends (h : (b.period x y z).live % 1024 = 0) :
    (b.period x y z).next = none ∧ ∃ samples, samples.length = 3 ∧
      (b.period x y z).due = some ⟨(b.period x y z).live / 1024 - 1, samples, b.next⟩ := by
  rw [Belfry.live_period] at h ⊢
  rw [Belfry.period_stages, Belfry.endFrame_ends (by rwa [Belfry.live_closeBlock]), Belfry.due_takeFrame,
    Belfry.live_closeBlock, Belfry.next_closeBlock]
  refine ⟨rfl, _, ?_, rfl⟩
  rfl

theorem Belfry.period_frame : b.period x y z =
    { b with
      live := (b.period x y z).live, brew := (b.period x y z).brew, blocks := (b.period x y z).blocks
      due := (b.period x y z).due, next := (b.period x y z).next, channels := (b.period x y z).channels } := by
  rw [Belfry.period_stages, Belfry.endFrame_frame, Belfry.closeBlock_frame]
  rfl

end Period

/-! ### When a frame is decided (R546, R550) -/

/-- The frame that waits must be decided before the next period: a configuration stands behind it, or that period ends
the next frame. -/
def Belfry.late (b : Belfry) : Bool :=
  match b.due with
  | some f => f.cfg.isSome || decide (b.live % 1024 = 1023)
  | none => false

theorem Belfry.late_iff {b : Belfry} :
    b.late = true ↔ ∃ f, b.due = some f ∧ (f.cfg ≠ none ∨ b.live % 1024 = 1023) := by
  unfold Belfry.late
  cases b.due with
  | none => simp
  | some f => simp [Option.isSome_iff_ne_none]

section Decide

variable {s : State} {f : FrameDue} {x y z : BitVec 96}

theorem exec_brewSamplePeriod (hp : s.pw.porDone = true) : exec (.brewSamplePeriod x y z) s = .next (
    let v := ({ s with emitted := [] } : State).when s.bel.late decideFrame
    { v with bel := v.bel.period x y z }) := by
  change execBrewSamplePeriod x y z s = _
  exact possible_pos hp

theorem exec_brewSamplePeriod_in_time (hp : s.pw.porDone = true) (h : s.bel.late = false) :
    exec (.brewSamplePeriod x y z) s = .next { s with emitted := [], bel := s.bel.period x y z } := by
  rw [exec_brewSamplePeriod hp, when_neg h]

theorem exec_brewSamplePeriod_late (hp : s.pw.porDone = true) (h : s.bel.late = true) :
    exec (.brewSamplePeriod x y z) s = .next (
      let v := decideFrame { s with emitted := [] }
      { v with bel := v.bel.period x y z }) := by
  rw [exec_brewSamplePeriod hp, when_pos h]

/-- The configuration behind a frame takes effect (R546). -/
def FrameDue.behind (f : FrameDue) (s : State) : State :=
  match f.cfg with
  | some c => { s with bel := applyCfg s.bel c }
  | none => s

theorem exec_dripFrameEnd (hd : s.bel.due = some f) : exec .dripFrameEnd s = .next (f.behind (
    let u : State := { s with emitted := [], bel := { s.bel with due := none } }
    if s.bel.excluded ≠ 0 then { u with bel := { u.bel with excluded := s.bel.excluded - 1 } }
    else [0, 1, 2, 3].foldl (decidePattern f) u)) := by
  change execDripFrameEnd s = _
  refine (possible_pos (by rw [hd]; rfl)).trans (congrArg _ ?_)
  unfold decideFrame
  simp only [hd]
  rfl

end Decide

/-! ### The detector (R547-R550) and its wakes (R551, R552) -/

section Detector

variable {s : State} {f : FrameDue} {i : Nat} {d : PatState} {p : Pattern} {m : Bool}

theorem decidePattern_disabled (h : (cfgPattern s.bel.cfg i).enabled = false) : decidePattern f s i = s :=
  if_pos (by rw [h]; rfl)

/-- An enabled pattern's detector takes the frame's outcome. -/
theorem decidePattern_enabled (h : (cfgPattern s.bel.cfg i).enabled = true) : decidePattern f s i =
    let r := (tget PatState.fresh s.bel.patterns i).next (cfgPattern s.bel.cfg i)
      ((cfgPattern s.bel.cfg i).matched f.samples)
    let v := { s with bel := { s.bel with patterns := tput PatState.fresh s.bel.patterns i r.1 } }
    if r.2 then patternWake v i (4 * (256 * f.number + 256)) false else v :=
  if_neg (by rw [h]; decide)

/-- The model's number of matches of a history is their count. -/
theorem length_filter_id (hist : List Bool) : (hist.filter id).length = hist.count true := by
  rw [← List.countP_eq_length_filter, List.count]
  exact List.countP_congr (by simp)

theorem PatState.next_wakes (ha : d.armed = true) (h : p.hit ≤ ((m :: d.hist).take p.win).count true) :
    d.next p m = (⟨false, [], 0⟩, true) :=
  if_pos (by rw [ha, length_filter_id, decide_eq_true h]; rfl)

theorem PatState.next_armed (ha : d.armed = true) (h : ((m :: d.hist).take p.win).count true < p.hit) :
    d.next p m = ({ d with hist := (m :: d.hist).take p.win }, false) :=
  (if_neg (by rw [length_filter_id, decide_eq_false (Nat.not_le.2 h), Bool.and_false]; decide)).trans (if_pos ha)

/-- A disarmed detector counts its frames without a match towards REARM. -/
theorem PatState.next_disarmed (ha : d.armed = false) : d.next p m =
    let hist := (m :: d.hist).take p.win
    let quiet := if m then 0 else d.quiet + 1
    if p.rearm ≤ quiet then (⟨true, hist, 0⟩, false) else (⟨false, hist, quiet⟩, false) :=
  (if_neg (by rw [ha, Bool.false_and]; decide)).trans (if_neg (by rw [ha]; decide))

/-- The belfry after a wake, at INDEX `index`, of pattern `i`. -/
def Belfry.woken (b : Belfry) (i index : Nat) (synthetic : Bool) : Belfry :=
  let w := { b with wakes := satInc 0xFFFFFFFF b.wakes, lastPattern := i, lastSynthetic := synthetic }
  if b.sealed then { w with sealed := false, wakeIndex := index, synthetic := synthetic } else w

theorem patternWake_eq (s : State) (i index : Nat) (synthetic : Bool) : patternWake s i index synthetic =
    let v := { s with bel := s.bel.woken i index synthetic }
    if s.pw.recording then wakeSource v 0x13
    else post v wakeCode 255 ([0x13#8, 0#8] ++ zeros 6 ++ le 8 s.tsNow.toNat) := by
  have woken : { s.bel.unsealed index synthetic with
      wakes := satInc 0xFFFFFFFF s.bel.wakes, lastPattern := i, lastSynthetic := synthetic } =
      s.bel.woken i index synthetic := by
    unfold Belfry.unsealed Belfry.woken
    split <;> rfl
  unfold patternWake
  simp only [woken]
  rfl

end Detector

/-! ### The reseal timers (R556) -/

theorem exec_resealTimeout {s : State} {total : Bool} (hp : s.pw.porDone = true) (ho : s.bel.sealed = false) :
    exec (.resealTimeout total) s =
      .next { s with emitted := [], bel := { s.bel with sealed := true, synthetic := false } } := by
  change execResealTimeout total s = _
  exact possible_pos (by rw [hp, ho]; rfl)

/-- Settles O60: a period is its stages, and the law of the rings says what they keep; a frame's decision, a detector's
step and a wake are one equation each, split where the statement splits them. -/
theorem belfryPeriodsAndWakes : Obligations.BelfryPeriodsAndWakes := by
  unfold Obligations.BelfryPeriodsAndWakes
  refine ⟨fun s x y z hp => ⟨
      fun early => exec_brewSamplePeriod_in_time hp (Bool.eq_false_iff.2 (mt Belfry.late_iff.1 early)),
      fun late => exec_brewSamplePeriod_late hp (Belfry.late_iff.2 late)⟩, ?period, ?frame, ?pattern,
    ?detector, ?wake, fun s total => exec_resealTimeout⟩
  case period =>
    intro b x y z v sample zeroSamples k
    have brew : v.brew = ringPut zeroSamples 26484 b.brew b.live [sample 0 x, sample 1 y, sample 2 z] :=
      Belfry.brew_period
    refine ⟨Belfry.live_period, ?_, fun full => ?_, fun i new oldest => ?_, Belfry.blocks_period_within,
      fun complete => ?_, Belfry.due_period_within, Belfry.due_period_ends, Belfry.period_frame⟩
    · rw [brew]; exact tget_ringPut_self (by decide)
    · rw [brew]; exact tget_ringPut_oldest full
    · rw [brew]; exact tget_ringPut_other new oldest
    · obtain ⟨bytes, blocks, off⟩ := Belfry.blocks_period_complete complete
      have blocks : v.blocks = ringPut (zeros 396) 414 b.blocks k bytes := blocks
      rw [blocks]
      exact ⟨fun disabled => (tget_ringPut_self (by decide)).trans (off disabled), tget_ringPut_oldest,
        fun j => tget_ringPut_other⟩
  case frame =>
    intro s f hd u behind
    have decided : exec .dripFrameEnd s = .next (behind _) := exec_dripFrameEnd hd
    exact ⟨fun excluded => decided.trans (congrArg (Host.Outcome.next ∘ behind) (if_pos excluded)),
      fun counted => decided.trans (congrArg (Host.Outcome.next ∘ behind) (if_neg (not_not.2 counted)))⟩
  case pattern =>
    intro f s i p r v
    exact ⟨decidePattern_disabled,
      fun enabled quiet => (decidePattern_enabled enabled).trans (if_neg (Bool.eq_false_iff.1 quiet)),
      fun enabled wakes => (decidePattern_enabled enabled).trans (if_pos wakes)⟩
  case detector =>
    intro d p m hist quiet
    exact ⟨PatState.next_wakes, PatState.next_armed,
      fun disarmed enough => (PatState.next_disarmed disarmed).trans (if_pos enough),
      fun disarmed few => (PatState.next_disarmed disarmed).trans (if_neg (Nat.not_le.2 few))⟩
  case wake =>
    intro s i index synthetic b v
    exact ⟨fun asleep => (patternWake_eq s i index synthetic).trans (if_pos asleep),
      fun awake => (patternWake_eq s i index synthetic).trans (if_neg (Bool.eq_false_iff.1 awake))⟩

end Sys2Proof.Machine
end

section
/-! PROOFS. Every command answers a next state, keeps the queue and keeps the package invariant: one law per row of the
dispatch, put together from the laws of the shared operations; then the laws of a step. -/

namespace Sys2Proof.Machine

section Rows

variable {s s0 : State}

/-! ### Runs -/

/-- The command answers a next state, with the queue of `s`, and with the invariant where it holds of `s`. -/
def State.Runs (s : State) (o : Res) : Prop := ∃ t, o = .next t ∧ s.Keeps t

theorem runs_next (h : s0.Keeps s) : s0.Runs (.next s) := ⟨s, rfl, h⟩

theorem runs_self : s.Runs (.next s) := runs_next (.refl s)

/-- A command that can only answer a next state runs where every next state it answers is kept. -/
theorem runs_of_ran {o : Res} (h : ∃ t, o = .next t) (r : s.Ran o) : s.Runs o :=
  h.elim fun t e => ⟨t, e, r t e⟩

theorem runs_possible {c : Bool} {k : State → State} (hk : ∀ t, s.Keeps t → s.Keeps (k t)) :
    s.Runs (possible c s k) := runs_of_ran ⟨_, rfl⟩ (ran_possible (.refl s) hk)

theorem runs_issueIns {row : Row} {g t : Nat} {k : State → Ins → State}
    (hk : ∀ t i, s.Keeps t → s.Keeps (k t i)) : s.Runs (issueIns row g t s k) :=
  runs_of_ran (by unfold issueIns; split <;> exact ⟨_, rfl⟩) (ran_issueIns (.refl s) hk)

theorem runs_consumeSystem {g kind : Nat} {k : State → ChFlit → State}
    (hk : ∀ t f, s.Keeps t → s.Keeps (k t f)) : s.Runs (consumeSystem g kind s k) :=
  runs_of_ran (by unfold consumeSystem; split <;> exact ⟨_, rfl⟩) (ran_consumeSystem (.refl s) hk)

theorem runs_runCmdPre {n op : Nat} {pre : State → Cmd → Option (Nat × Nat)} {k : State → Cmd → State}
    (hk : ∀ t c, s.Keeps t → s.Keeps (k t c)) : s.Runs (runCmdPre n op s pre k) :=
  runs_of_ran (by unfold runCmdPre; split <;> exact ⟨_, rfl⟩) (ran_runCmdPre (.refl s) hk)

theorem runs_runCmd {n op : Nat} {k : State → Cmd → State} (hk : ∀ t c, s.Keeps t → s.Keeps (k t c)) :
    s.Runs (runCmd n op s k) := runs_runCmdPre hk

theorem runs_runningCmd {n op : Nat} {c? : State → Cmd → Bool} {k : State → Cmd → State}
    (hk : ∀ t c, s.Keeps t → s.Keeps (k t c)) : s.Runs (runningCmd n op s c? k) :=
  runs_of_ran (by unfold runningCmd; split <;> exact ⟨_, rfl⟩) (ran_runningCmd (.refl s) hk)

theorem runs_ctrlRow {t op arg : Nat} {body : List Byte} : s.Runs (ctrlRow s t op arg body) :=
  runs_of_ran ⟨_, rfl⟩ (ran_ctrlRow (.refl s))

theorem runs_tagRequest {k : State → State} (hk : ∀ t, s.Keeps t → s.Keeps (k t)) : s.Runs (tagRequest s k) :=
  runs_of_ran ⟨_, rfl⟩ (ran_tagRequest (.refl s) hk)

theorem runs_tagCommand {a : TagAddr} {k : State → State} (hk : ∀ t, s.Keeps t → s.Keeps (k t)) :
    s.Runs (tagCommand a s k) := runs_of_ran ⟨_, rfl⟩ (ran_tagCommand (.refl s) hk)

/-! ### Changes of one part of the package the invariant does not speak of -/

theorem keeps_pw {x : Power} (h : s0.Keeps s) (hx : x.limitW = s.pw.limitW) : s0.Keeps { s with pw := x } :=
  keeps_mk h rfl hx rfl ⟨rfl, rfl, rfl⟩ ⟨rfl, rfl, rfl, rfl, rfl⟩ rfl rfl rfl rfl rfl rfl rfl

theorem keeps_heat {x : Heat} (h : s0.Keeps s) (hx : x.rate = s.heat.rate) : s0.Keeps { s with heat := x } :=
  keeps_mk h rfl rfl hx ⟨rfl, rfl, rfl⟩ ⟨rfl, rfl, rfl, rfl, rfl⟩ rfl rfl rfl rfl rfl rfl rfl

theorem keeps_flt {x : Faults} (h : s0.Keeps s)
    (hx : x.logN = s.flt.logN ∧ x.logS = s.flt.logS ∧ x.history = s.flt.history) : s0.Keeps { s with flt := x } :=
  keeps_mk h rfl rfl rfl hx ⟨rfl, rfl, rfl, rfl, rfl⟩ rfl rfl rfl rfl rfl rfl rfl

theorem keeps_flash {x : Flash} (h : s0.Keeps s) : s0.Keeps { s with flash := x } :=
  h.trans ⟨rfl, fun i => { i with }⟩

theorem keeps_feb {x : Febupor} (h : s0.Keeps s) : s0.Keeps { s with feb := x } :=
  h.trans ⟨rfl, fun i => { i with }⟩

theorem keeps_gate {x : Gatehouse} (h : s0.Keeps s) : s0.Keeps { s with gate := x } :=
  h.trans ⟨rfl, fun i => { i with }⟩

theorem keeps_bel {x : Belfry} (h : s0.Keeps s) : s0.Keeps { s with bel := x } := h.trans ⟨rfl, fun i => { i with }⟩

/-! ### Updates that the invariant does speak of -/

theorem keeps_cells {g : Nat} {f : Cell → Cell} (h : s0.Keeps s) (hf : ∀ c, (f c).store = c.store) :
    s0.Keeps (s.modCell g f) := keeps_modCell h fun c hc => by unfold Cell.ok; rw [hf]; exact hc

theorem limiterStep_in_range {rate sum count tenths : Nat} (h : 1 ≤ rate ∧ rate ≤ 16) :
    1 ≤ limiterStep rate sum count tenths ∧ limiterStep rate sum count tenths ≤ 16 := by
  unfold limiterStep
  split
  · omega
  · split <;> omega

theorem Interlock.sample_in_range {k : Interlock} {a b : Bool} (h : k.state ≤ 2 ∧ k.disc ≤ 0xFFFF) :
    (k.sample a b).state ≤ 2 ∧ (k.sample a b).disc ≤ 0xFFFF := by
  have sat : satInc 0xFFFF k.disc ≤ 0xFFFF := by unfold satInc; split <;> omega
  unfold Interlock.sample
  dsimp only
  split
  · exact ⟨h.1, by dsimp only; split <;> simp [sat, h.2]⟩
  · exact ⟨h.1, by dsimp only; split <;> simp [sat, h.2]⟩

theorem keeps_limitW {w : Nat} (hs : s0.Keeps s) (h : 1200 ≤ w ∧ w ≤ 2100) :
    s0.Keeps { s with pw := { s.pw with limitW := w } } := hs.trans ⟨rfl, fun i => { i with limit := h }⟩

theorem keeps_rate {x : Heat} (hs : s0.Keeps s)
    (h : 1 ≤ s.heat.rate ∧ s.heat.rate ≤ 16 → 1 ≤ x.rate ∧ x.rate ≤ 16) : s0.Keeps { s with heat := x } :=
  hs.trans ⟨rfl, fun i => { i with rate := h i.rate }⟩

theorem keeps_logCleared {x : Power} {y : Faults} (hs : s0.Keeps s) (hx : x.limitW = s.pw.limitW)
    (hy : y.logN = [] ∧ y.logS = [] ∧ y.history = []) : s0.Keeps { s with pw := x, flt := y } := by
  obtain ⟨n, o, p⟩ := hy
  refine hs.trans ⟨rfl, fun i => { i with limit := ?_, logs := ?_, history := ?_ }⟩
  · show 1200 ≤ x.limitW ∧ x.limitW ≤ 2100
    rw [hx]; exact i.limit
  · simp [n, o]
  · simp [p]

theorem keeps_hbmLost {x : Power} (hs : s0.Keeps s) (hx : x.limitW = s.pw.limitW) :
    s0.Keeps { s with pw := x, hbm := {} } :=
  (keeps_hbm (x := {}) (keeps_pw hs hx) fun _ => rfl)

theorem keeps_belfryCfg {x : Belfry} {y : Flash} (h : s0.Keeps s) : s0.Keeps { s with bel := x, flash := y } :=
  h.trans ⟨rfl, fun i => { i with }⟩

theorem keeps_calStore {x : Option CalStore} (hs : s0.Keeps s) : s0.Keeps { s with clo := { s.clo with store := x } } :=
  keeps_clo hs fun i => ⟨i.alertCause, i.alertEn, i.wakeSrcEn, i.interlock, i.tag⟩

/-! ### The rows of Cells -/

theorem runs_execIllegalInstruction {cell tid : Nat} : s.Runs (execIllegalInstruction cell tid s) :=
  runs_possible fun _ h => keeps_settleStop (keeps_raise (keeps_modCell h fun _ hc => Cell.ok_mk (Cell.ok_modCtx hc)))

theorem runs_execMemError {cell tid : Nat} : s.Runs (execMemError cell tid s) := by
  unfold execMemError
  exact runs_possible fun _ h => by grind [keeps_enterExc, keeps_modCtx, keeps_settleStop]

/-! ### The rows of Scalar -/

theorem runs_execScalarAlu {cell tid : Nat} : s.Runs (execScalarAlu cell tid s) :=
  runs_issueIns fun _ i h => by grind [keeps_setRd]

theorem runs_execImmediateAlu {cell tid : Nat} : s.Runs (execImmediateAlu cell tid s) :=
  runs_issueIns fun _ i h => by grind [keeps_setRd]

theorem runs_execShi {cell tid : Nat} : s.Runs (execShi cell tid s) :=
  runs_issueIns fun _ i h => by grind [keeps_setRd]

theorem runs_execInsk {cell tid : Nat} : s.Runs (execInsk cell tid s) :=
  runs_issueIns fun _ i h => by grind [keeps_setRd]

theorem runs_execMultiplyDivide {cell tid : Nat} : s.Runs (execMultiplyDivide cell tid s) :=
  runs_issueIns fun _ i h => by grind [keeps_setRd]

theorem runs_execScalarFloatingPoint {cell tid : Nat} : s.Runs (execScalarFloatingPoint cell tid s) :=
  runs_issueIns fun _ i h => by grind [keeps_setRd]

theorem runs_execBranch {cell tid : Nat} : s.Runs (execBranch cell tid s) :=
  runs_issueIns fun _ i h => by grind [keeps_goTo, keeps_next]

theorem runs_execJal {cell tid : Nat} : s.Runs (execJal cell tid s) :=
  runs_issueIns fun _ i h => by grind [keeps_jumpTo]

theorem runs_execJalr {cell tid : Nat} : s.Runs (execJalr cell tid s) :=
  runs_issueIns fun _ i h => by grind [keeps_jumpTo]

theorem runs_execSpawn {cell tid : Nat} : s.Runs (execSpawn cell tid s) :=
  runs_issueIns fun _ i h => by grind [keeps_modCtx, keeps_next, keeps_raise, keeps_setRd, keeps_startThread]

theorem runs_execBrk {cell tid : Nat} : s.Runs (execBrk cell tid s) :=
  runs_issueIns fun _ i h => by grind [keeps_raise]

theorem runs_execEret {cell tid : Nat} : s.Runs (execEret cell tid s) :=
  runs_issueIns fun _ i h => by grind [keeps_leaveHandler, keeps_raise]

theorem runs_execEretR {cell tid : Nat} : s.Runs (execEretR cell tid s) :=
  runs_issueIns fun _ i h => by grind [keeps_leaveHandler, keeps_raise]

theorem runs_execRdsr {cell tid : Nat} : s.Runs (execRdsr cell tid s) :=
  runs_issueIns fun _ i h => by grind [keeps_modCtx, keeps_next]

theorem runs_execWrsr {cell tid : Nat} : s.Runs (execWrsr cell tid s) :=
  runs_issueIns fun _ i h => by grind [keeps_modCtx, keeps_next, keeps_raise]

/-! ### The rows of Access -/

theorem runs_execLoad {cell tid : Nat} : s.Runs (execLoad cell tid s) :=
  runs_issueIns fun _ i h => by grind [keeps_access, keeps_modCtx]

theorem runs_execStore {cell tid : Nat} : s.Runs (execStore cell tid s) :=
  runs_issueIns fun _ i h => by grind [keeps_access, Cell.ok_localStore, keeps_modCell]

theorem runs_execVld {cell tid : Nat} : s.Runs (execVld cell tid s) :=
  runs_issueIns fun _ i h => by grind [keeps_access, keeps_modCtx]

theorem runs_execVst {cell tid : Nat} : s.Runs (execVst cell tid s) :=
  runs_issueIns fun _ i h => by grind [keeps_access, Cell.ok_localStore, keeps_modCell]

theorem runs_execAtomic {cell tid : Nat} : s.Runs (execAtomic cell tid s) :=
  runs_issueIns fun _ i h => by grind [keeps_acquire, keeps_atomicBody, keeps_released]

theorem runs_execFenceAcq {cell tid : Nat} : s.Runs (execFenceAcq cell tid s) :=
  runs_issueIns fun _ i h => by grind [keeps_acquire, keeps_next]

theorem runs_execFenceRel {cell tid : Nat} : s.Runs (execFenceRel cell tid s) :=
  runs_issueIns fun _ i h => by grind [keeps_fenceAll]

theorem runs_execFenceFull {cell tid : Nat} : s.Runs (execFenceFull cell tid s) :=
  runs_issueIns fun _ i h => by grind [keeps_fenceAll]

theorem runs_execExit {cell tid : Nat} : s.Runs (execExit cell tid s) :=
  runs_issueIns fun _ i h => by grind [keeps_exitThread]

theorem runs_execBarCell {cell tid : Nat} : s.Runs (execBarCell cell tid s) :=
  runs_issueIns fun _ i h => by grind [keeps_arriveBarrier, keeps_passes, keeps_released]

/-! ### The rows of Tally -/

theorem runs_execTallyClaim {cell tid : Nat} : s.Runs (execTallyClaim cell tid s) :=
  runs_issueIns fun _ i h => by grind [keeps_modCell, keeps_modCtx, Cell.ok_modTally, keeps_next, keeps_setRd]

theorem runs_execTallyRelease {cell tid : Nat} : s.Runs (execTallyRelease cell tid s) :=
  runs_issueIns fun _ i h => by grind [keeps_modCell, Cell.ok_modTally, keeps_next, keeps_owned]

theorem runs_execTallyInit {cell tid : Nat} : s.Runs (execTallyInit cell tid s) :=
  runs_issueIns fun _ i h => by grind [keeps_tallyPush]

theorem runs_execTallyFold {cell tid : Nat} : s.Runs (execTallyFold cell tid s) :=
  runs_issueIns fun _ i h => by grind [keeps_tallyPush]

theorem runs_execTallyFeed {cell tid : Nat} : s.Runs (execTallyFeed cell tid s) :=
  runs_issueIns fun _ i h => by grind [keeps_tallyPush]

theorem runs_execTallyRd {cell tid : Nat} : s.Runs (execTallyRd cell tid s) :=
  runs_issueIns fun _ i h => by grind [keeps_modCtx, keeps_tallyPush]

theorem runs_execTallyPerform {cell : Nat} : s.Runs (execTallyPerform cell s) := by
  unfold execTallyPerform
  split
  · exact runs_self
  · exact runs_possible fun _ h => by grind [keeps_afterTally, keeps_modCell, Cell.ok_modTally, keeps_performTally]

/-! ### The rows of Messages -/

theorem runs_execSend {cell tid : Nat} : s.Runs (execSend cell tid s) :=
  runs_issueIns fun _ i h => by grind [keeps_sendWord]

theorem runs_execSendRel {cell tid : Nat} : s.Runs (execSendRel cell tid s) :=
  runs_issueIns fun _ i h => by grind [keeps_released, keeps_sendWord]

theorem runs_execSendCh {cell tid : Nat} : s.Runs (execSendCh cell tid s) :=
  runs_issueIns fun _ i h => by grind [keeps_sendChan]

theorem runs_execSendChRel {cell tid : Nat} : s.Runs (execSendChRel cell tid s) :=
  runs_issueIns fun _ i h => by grind [keeps_released, keeps_sendChan]

theorem runs_execChanOpen {cell tid : Nat} : s.Runs (execChanOpen cell tid s) :=
  runs_issueIns fun _ i h => by
    have open_ {t : State} {x : Nat} {y : ChanTx} (h : s.Keeps t) : s.Keeps (t.modCell cell (·.modTx x fun _ => y)) :=
      keeps_modCell h fun _ hc => Cell.ok_modTx hc
    split
    · dsimp only
      split_ifs
      · exact keeps_raise h
      · exact keeps_raise h
      · split
        · exact keeps_setRd h
        · exact keeps_passes h fun _ k => keeps_wait (keeps_pushSystem (open_ k))
    · exact h

theorem runs_execChanClose {cell tid : Nat} : s.Runs (execChanClose cell tid s) :=
  runs_issueIns fun _ i h => by grind [keeps_finishClose, keeps_modCell, Cell.ok_modTx, keeps_passes,
      keeps_raise, keeps_wait]

theorem runs_execMessageArrival {cell : Nat} : s.Runs (execMessageArrival cell s) := by
  unfold execMessageArrival
  split
  · exact runs_self
  · exact runs_possible fun _ h => keeps_placeMessage (keeps_modCell h fun _ hc => hc)

theorem runs_execHret {cell tid : Nat} : s.Runs (execHret cell tid s) :=
  runs_issueIns fun _ i h => by grind [keeps_exitThread, keeps_goTo, keeps_raise, keeps_retireRecord]

theorem runs_execRecordDispatch {cell turn : Nat} : s.Runs (execRecordDispatch cell turn s) :=
  runs_possible fun _ h => by grind [keeps_dispatchTurn]

theorem runs_execTurnWait {cell tid : Nat} : s.Runs (execTurnWait cell tid s) :=
  runs_issueIns fun _ i h => by
    grind [keeps_raise, keeps_passes, keeps_wait, keeps_cells, keeps_dispatchTurn]

theorem runs_execChannelOpen {cell : Nat} : s.Runs (execChannelOpen cell s) :=
  runs_consumeSystem fun _ f h => by grind [keeps_modCell, Cell.ok_modRx, keeps_pushSystem]

theorem runs_execChannelOpenReply {cell : Nat} : s.Runs (execChannelOpenReply cell s) :=
  runs_consumeSystem fun _ f h => by grind [keeps_modCell, Cell.ok_modTx, Cell.ok_openAnswer]

theorem runs_execChannelCredit {cell : Nat} : s.Runs (execChannelCredit cell s) :=
  runs_consumeSystem fun _ f h => by grind [keeps_finishClose, keeps_modCell, Cell.ok_modTx, Cell.ok_retryWhere]

theorem runs_execCreditRepeat {cell chan : Nat} : s.Runs (execCreditRepeat cell chan s) := by
  unfold execCreditRepeat
  exact runs_possible fun _ h => by grind [keeps_sendCredit]

theorem runs_execOpenRepeat {cell handle : Nat} : s.Runs (execOpenRepeat cell handle s) := by
  unfold execOpenRepeat
  exact runs_possible fun _ h => by grind [keeps_modCell, Cell.ok_modTx, keeps_pushSystem]

theorem runs_execChannelOpenGiveUp {cell handle : Nat} : s.Runs (execChannelOpenGiveUp cell handle s) := by
  unfold execChannelOpenGiveUp
  exact runs_possible fun _ h => by grind [keeps_modCell, Cell.ok_modTx, Cell.ok_openAnswer]

/-! ### The rows of Slype -/

theorem runs_execSlypeGo {cell tid : Nat} : s.Runs (execSlypeGo cell tid s) :=
  runs_issueIns fun _ i h => by grind [keeps_modCtx, keeps_modEng, keeps_next, keeps_raise, keeps_released,
      keeps_setRd]

theorem runs_execSlypeWait {cell tid : Nat} : s.Runs (execSlypeWait cell tid s) :=
  runs_issueIns fun _ i h => by grind [keeps_setRd, keeps_wait]

theorem runs_execSlypeUnitIssue {mover : Mover} : s.Runs (execSlypeUnitIssue mover s) := by
  have quiet : s.Keeps { s with emitted := [] } := (State.Keeps.refl s).trans ⟨rfl, fun i => { i with }⟩
  cases mover with
  | engine cell eng =>
    unfold execSlypeUnitIssue
    dsimp only
    split
    · split
      next e => exact runs_next (keeps_engineStep quiet _ e)
      · exact runs_self
    · exact runs_self
  | sacristy =>
    unfold execSlypeUnitIssue
    dsimp only
    split
    · split
      next e => exact runs_next (keeps_moverStep quiet _ e)
      · exact runs_self
    · exact runs_self

/-! ### The rows of Aisle -/

theorem runs_execAislePacketArrival {cell : Nat} {dir : Dir} {damage : Damage} :
    s.Runs (execAislePacketArrival cell dir damage s) := by
  unfold execAislePacketArrival
  split
  · exact runs_self
  · exact runs_possible fun _ h => by grind [keeps_aisleArrive, Cell.ok_modAisle, keeps_modCell]

theorem runs_execOutputGrant {cell : Nat} {out : Dir} : s.Runs (execOutputGrant cell out s) := by
  unfold execOutputGrant
  split
  · exact runs_self
  · exact runs_possible fun _ h => by grind [keeps_grant]

theorem runs_execInjectionClaim {cell : Nat} {out : Dir} {gate : Bool} :
    s.Runs (execInjectionClaim cell out gate s) := by
  unfold execInjectionClaim
  exact runs_possible fun _ h => by grind [Cell.ok_modAisle, keeps_modCell]

theorem runs_execAisleEjection {cell : Nat} {src : AisleSrc} : s.Runs (execAisleEjection cell src s) := by
  unfold execAisleEjection
  dsimp only
  split
  · exact runs_self
  · exact runs_possible fun _ h => keeps_ejectPkt (keeps_modCell h fun _ hc => Cell.ok_serve hc)

theorem runs_execCastTrackerTimeout {cell index : Nat} : s.Runs (execCastTrackerTimeout cell index s) := by
  unfold execCastTrackerTimeout
  split
  · exact runs_self
  · exact runs_possible fun _ h => by grind [keeps_closeCast]

theorem runs_execUniAAck {cell : Nat} : s.Runs (execUniAAck cell s) :=
  runs_consumeSystem fun _ f h => by grind [keeps_ackCopy]

theorem runs_execUniARetransmit {cell index : Nat} : s.Runs (execUniARetransmit cell index s) := by
  unfold execUniARetransmit
  split
  · exact runs_self
  · exact runs_possible fun _ h => by grind [keeps_aislePush, keeps_modBayAisle, keeps_modCell, Cell.ok_modUni]

theorem runs_execUniAExhausted {cell index : Nat} : s.Runs (execUniAExhausted cell index s) := by
  unfold execUniAExhausted
  split
  · exact runs_self
  · exact runs_possible fun _ h => by grind [keeps_dropCopy, keeps_faultK, keeps_modBayAisle, keeps_uniUnitsFail]

/-! ### The rows of Sums -/

theorem runs_execSumC {cell tid : Nat} : s.Runs (execSumC cell tid s) :=
  runs_issueIns fun _ i h => by grind [keeps_aislePush, keeps_next, keeps_raise, keeps_released, keeps_wait]

theorem runs_execSumW {cell tid : Nat} : s.Runs (execSumW cell tid s) :=
  runs_issueIns fun _ i h => by
    have node {t : State} {f : SumNode → SumNode} (h : s.Keeps t) : s.Keeps (t.modCell cell (·.modSumNode f)) :=
      keeps_modCell h fun _ hc => Cell.ok_modSumNode hc
    split
    · dsimp only
      split
      · exact keeps_raise h
      · split
        · exact keeps_next h fun _ k => keeps_modCtx (keeps_writeResult (node k))
        · exact keeps_passes h fun _ k => keeps_wait (node k)
    · exact h

theorem runs_execSumResultArrival {cell : Nat} : s.Runs (execSumResultArrival cell s) := by
  unfold execSumResultArrival
  split
  · exact runs_self
  · exact runs_possible fun _ h => by grind [keeps_modCell, Cell.ok_modSumNode, keeps_takeResult]

theorem runs_execSumWaitTimeout {cell tid : Nat} : s.Runs (execSumWaitTimeout cell tid s) := by
  unfold execSumWaitTimeout
  split
  · exact runs_self
  · exact runs_possible fun _ h => by grind [keeps_endSumWait]

theorem runs_execSumOperandArrival {cell : Nat} : s.Runs (execSumOperandArrival cell s) := by
  unfold execSumOperandArrival
  split
  · exact runs_self
  · exact runs_possible fun _ h => by grind [keeps_enterSlot, keeps_modCell, Cell.ok_modSumNode]

theorem runs_execSumCombineDone {cell group : Nat} : s.Runs (execSumCombineDone cell group s) := by
  unfold execSumCombineDone
  exact runs_possible fun _ h => by grind [keeps_modCell, Cell.ok_modSum, keeps_sumOutcome]

theorem runs_execSumSlotTimeout {cell group : Nat} : s.Runs (execSumSlotTimeout cell group s) := by
  unfold execSumSlotTimeout
  exact runs_possible fun _ h => by grind [keeps_failInst]

theorem runs_execSumReleaseToggle {cell group : Nat} : s.Runs (execSumReleaseToggle cell group s) := by
  unfold execSumReleaseToggle
  split
  · exact runs_self
  · exact runs_possible fun _ h => by grind [keeps_modCell, Cell.ok_modSum, keeps_parentReleased]

theorem runs_execSumReleaseWaitTimeout {cell group : Nat} : s.Runs (execSumReleaseWaitTimeout cell group s) :=
  runs_possible fun _ h => by grind [keeps_parentReleased]

/-! ### The rows of Chantry -/

theorem runs_execChantryFlitArrival {cell : Nat} {ins bad : List Dir} :
    s.Runs (execChantryFlitArrival cell ins bad s) :=
  runs_possible fun _ h => by grind [keeps_foldl, keeps_modCell, Cell.ok_modCh, keeps_placeAll, keeps_refuseFlit,
      keeps_settleHold]

theorem runs_execChantryInjection {cell : Nat} : s.Runs (execChantryInjection cell s) := by
  have quiet : s.Keeps { s with emitted := [] } := (State.Keeps.refl s).trans ⟨rfl, fun i => { i with }⟩
  unfold execChantryInjection
  split
  · split
    next e => exact runs_next (keeps_chantryInject quiet _ e)
    · exact runs_self
  · exact runs_self

theorem runs_execChantryHold {cell : Nat} {starved : Bool} : s.Runs (execChantryHold cell starved s) := by
  unfold execChantryHold
  exact runs_possible fun _ h => by grind [keeps_modCell, Cell.ok_modCh]

/-! ### The rows of Rings -/

theorem runs_execDoorbellWrite {p : HPort} {offset size : Nat} {value : BitVec 64} :
    s.Runs (execDoorbellWrite p offset size value s) :=
  runs_possible fun _ h => by grind [keeps_ringBell]

theorem runs_execCompletionHeadDoorbell {p : HPort} {offset size : Nat} {value : BitVec 64} :
    s.Runs (execCompletionHeadDoorbell p offset size value s) :=
  runs_possible fun _ h => by grind [keeps_ringBell]

theorem runs_execEventHeadDoorbell {p : HPort} {offset size : Nat} {value : BitVec 64} :
    s.Runs (execEventHeadDoorbell p offset size value s) :=
  runs_possible fun _ h => by grind [keeps_ringBell]

theorem runs_execRingConfigWrite {p : HPort} {offset size : Nat} {value : BitVec 64} :
    s.Runs (execRingConfigWrite p offset size value s) :=
  runs_possible fun _ h => by grind [keeps_eventBlockWrite, keeps_ringBlockWrite]

theorem runs_execRingEnable {p : HPort} {ring : Nat} {value : BitVec 32} : s.Runs (execRingEnable p ring value s) :=
  runs_possible fun _ h => by grind [keeps_ringBlockWrite]

theorem runs_execRingDisable {p : HPort} {ring : Nat} {value : BitVec 32} : s.Runs (execRingDisable p ring value s) :=
  runs_possible fun _ h => by grind [keeps_ringBlockWrite]

theorem runs_execEventRingEnable {p : HPort} {value : BitVec 32} : s.Runs (execEventRingEnable p value s) :=
  runs_possible fun _ h => by grind [keeps_eventBlockWrite]

theorem runs_execEventRingDisable {p : HPort} {value : BitVec 32} : s.Runs (execEventRingDisable p value s) :=
  runs_possible fun _ h => by grind [keeps_eventBlockWrite]

theorem runs_execMsixUnmask {p : HPort} {fn vector : Nat} : s.Runs (execMsixUnmask p fn vector s) :=
  runs_possible fun _ h => by grind [keeps_deliverPending, keeps_modHp]

theorem runs_execBusMasterEnableSet {p : HPort} {fn : Nat} : s.Runs (execBusMasterEnableSet p fn s) :=
  runs_possible fun _ h => by grind [keeps_deliverPending, keeps_foldl, keeps_modHp, keeps_releasePf]

theorem runs_execLinkL0Reached {p : HPort} {rate width : Nat} : s.Runs (execLinkL0Reached p rate width s) := by
  unfold execLinkL0Reached
  exact runs_possible fun _ h => by grind [keeps_flushEvents, keeps_modHp, keeps_postOn, keeps_pw]

/-! ### The rows of Febupor -/

theorem runs_execEntryFetch {n : Nat} {data : Option (List Byte)} : s.Runs (execEntryFetch n data s) := by
  unfold execEntryFetch
  split
  · exact runs_self
  · exact runs_possible fun _ h => by grind [keeps_entryFetched, keeps_fetchFail]

theorem runs_execEntryFetchTimeout {n : Nat} : s.Runs (execEntryFetchTimeout n s) := by
  unfold execEntryFetchTimeout
  split
  · exact runs_self
  · exact runs_possible fun _ h => by grind [keeps_fetchFail]

theorem runs_execDataBufferReadCompletion {n : Nat} {data : Option (List Byte)} :
    s.Runs (execDataBufferReadCompletion n data s) := by
  unfold execDataBufferReadCompletion
  split
  · exact runs_self
  · exact runs_possible fun _ h => by grind [keeps_checkParams, keeps_modCmd, keeps_readFail]

theorem runs_execDataBufferReadTimeout {n : Nat} : s.Runs (execDataBufferReadTimeout n s) := by
  unfold execDataBufferReadTimeout
  split
  · exact runs_self
  · exact runs_possible fun _ h => by grind [keeps_readFail]

/-! ### The rows of AmbCore -/

theorem runs_execAmbFlitArrival {at_ : AmbInput} {corrupt : Option (List Byte)} :
    s.Runs (execAmbFlitArrival at_ corrupt s) := by
  cases at_ with
  | lane l pos => exact runs_possible fun _ h => keeps_ambNodeCycle (keeps_laneArrive h)
  | inject ep =>
    unfold execAmbFlitArrival
    dsimp only
    split
    · exact runs_self
    · exact runs_possible fun _ h => keeps_ambNodeCycle (keeps_injectArrive h)

/-! ### The rows of Power -/

theorem runs_execClkLoss : s.Runs (execClkLoss s) :=
  runs_possible fun _ h => by grind [keeps_mainLoss]

theorem runs_execRailLoss : s.Runs (execRailLoss s) :=
  runs_possible fun _ h => by grind [keeps_mainLoss]

theorem runs_execPwrgdMainFall : s.Runs (execPwrgdMainFall s) :=
  runs_possible fun _ h => by grind [keeps_unrequestedCrypt, keeps_wakeBringUp, keeps_pw]

theorem runs_execPwrgdMainRise : s.Runs (execPwrgdMainRise s) :=
  runs_possible fun _ h => by grind [keeps_startBringUp, keeps_pw]

theorem runs_execMainDomainsStable : s.Runs (execMainDomainsStable s) :=
  runs_possible fun _ h => by grind [keeps_pw]

theorem runs_execPllLock : s.Runs (execPllLock s) :=
  runs_possible fun _ h => by grind [keeps_pw]

theorem runs_execChancelResetRelease : s.Runs (execChancelResetRelease s) :=
  runs_possible fun _ h => keeps_newEpoch (keeps_logCleared h rfl ⟨rfl, rfl, rfl⟩)

theorem runs_execCryptReached : s.Runs (execCryptReached s) :=
  runs_possible fun _ h => by grind [keeps_assertWakePins, keeps_mainReset, keeps_wakeBringUp, keeps_when, keeps_pw]

theorem runs_execTranseptHeldRetrainDone {port : Nat} : s.Runs (execTranseptHeldRetrainDone port s) :=
  runs_possible fun _ h => by grind [keeps_modLink, keeps_setLinkState]

theorem runs_execLimiterSample {watts : Nat} : s.Runs (execLimiterSample watts s) :=
  runs_possible fun _ h => keeps_rate h fun r => by
    dsimp only
    split
    · decide
    · exact limiterStep_in_range r

theorem runs_execSensorSample {sensor : Nat} {milliC : Int} : s.Runs (execSensorSample sensor milliC s) :=
  runs_possible fun _ h => by grind [keeps_modSensor]

theorem runs_execThermalStateChange {sensor : Nat} : s.Runs (execThermalStateChange sensor s) := by
  unfold execThermalStateChange
  exact runs_possible fun _ h => by grind [keeps_bayTrip, keeps_faultP, keeps_modSensor, keeps_thermtripLow]

theorem runs_execThermtripComparator {sensor : Nat} : s.Runs (execThermtripComparator sensor s) :=
  runs_possible fun _ h => by grind [keeps_thermtripLow]

theorem runs_execThermalEventPost : s.Runs (execThermalEventPost s) := by
  unfold execThermalEventPost
  exact runs_possible fun _ h => by grind [keeps_foldl, keeps_logC, keeps_modSensor, keeps_post, keeps_heat]

theorem runs_execPerstRelease {p : HPort} : s.Runs (execPerstRelease p s) := by
  unfold execPerstRelease
  cases p <;> exact runs_possible fun _ h => keeps_wakeSource (keeps_pw h rfl)

theorem runs_execHostL1Exit {p : HPort} : s.Runs (execHostL1Exit p s) :=
  runs_possible fun _ h => by grind [keeps_modHp, keeps_wakeSource]

theorem runs_execRailLeavesToleranceInCrypt {group : Nat} : s.Runs (execRailLeavesToleranceInCrypt group s) :=
  runs_possible fun _ h => by exact keeps_ite (keeps_hbmLost h rfl) h

/-! ### The rows of Hbm -/

theorem runs_execHbmAccessDone {m : Nat} {onDie : OnDie} {dec : EccDecode} :
    s.Runs (execHbmAccessDone m onDie dec s) := by
  unfold execHbmAccessDone
  split
  · exact runs_self
  · exact runs_possible fun _ h => by grind [keeps_modStack, keeps_performBlock, keeps_performReq]

theorem runs_execHbmScrub {m : Nat} {onDie : OnDie} {dec : EccDecode} : s.Runs (execHbmScrub m onDie dec s) := by
  unfold execHbmScrub
  refine runs_possible fun _ h => keeps_ite (keeps_hbm ?_ Hbm.wf_markSector) ?_
  all_goals exact keeps_modStack (keeps_noteRead h)

theorem runs_execStackTempSample {m : Nat} {milliC : Int} : s.Runs (execStackTempSample m milliC s) :=
  runs_possible fun _ h => by grind [keeps_modSensor, keeps_modStack]

theorem runs_execStackThermalChange {m : Nat} : s.Runs (execStackThermalChange m s) := by
  unfold execStackThermalChange
  exact runs_possible fun _ h => by grind [keeps_faultP, keeps_hbmFail, keeps_modSensor]

theorem runs_execCoalesceEntryExpiry {m block : Nat} : s.Runs (execCoalesceEntryExpiry m block s) := by
  unfold execCoalesceEntryExpiry
  exact runs_possible fun _ h => by grind [keeps_modStack]

/-! ### The rows of Transept -/

theorem runs_execTranseptFrameSend {port : Nat} : s.Runs (execTranseptFrameSend port s) := by
  unfold execTranseptFrameSend
  exact runs_possible fun _ h => by grind [keeps_modLink, keeps_sendFrame, keeps_sendNew]

theorem runs_execHello {port : Nat} {asset : BitVec 64} {peerPort : Nat} {mask : BitVec 8} :
    s.Runs (execHello port asset peerPort mask s) := runs_ctrlRow

theorem runs_execOwner {port chapel : Nat} : s.Runs (execOwner port chapel s) := runs_ctrlRow

theorem runs_execLaneDrop {port : Nat} {mask : BitVec 8} : s.Runs (execLaneDrop port mask s) := runs_ctrlRow

theorem runs_execLaneRestore {port : Nat} {mask : BitVec 8} : s.Runs (execLaneRestore port mask s) := runs_ctrlRow

theorem runs_execLaneRetrain {port lane : Nat} : s.Runs (execLaneRetrain port lane s) := runs_ctrlRow

theorem runs_execDepart {port : Nat} {body : List Byte} : s.Runs (execDepart port body s) :=
  runs_possible fun _ h => by grind [keeps_ctrlReceived]

theorem runs_execDown {port cause : Nat} : s.Runs (execDown port cause s) := runs_ctrlRow

theorem runs_execUnknown {port op : Nat} : s.Runs (execUnknown port op s) := runs_ctrlRow

theorem runs_execCtrlOpRepeatExpiry {port : Nat} : s.Runs (execCtrlOpRepeatExpiry port s) :=
  runs_possible fun _ h => by grind [keeps_modLink]

theorem runs_execTranseptFrameReceived {port : Nat} {rx : FrameRx} :
    s.Runs (execTranseptFrameReceived port rx s) := by
  unfold execTranseptFrameReceived
  exact runs_possible fun _ h => by grind [keeps_countErrors, keeps_countLink, keeps_frameFails, keeps_frameGood]

theorem runs_execReplayTimer {port : Nat} : s.Runs (execReplayTimer port s) := by
  unfold execReplayTimer
  exact runs_possible fun _ h => by grind [keeps_countLink, keeps_modLink]

theorem runs_execReplayExhausted {port : Nat} : s.Runs (execReplayExhausted port s) := by
  unfold execReplayExhausted
  exact runs_possible fun _ h => by grind [keeps_linkDown]

theorem runs_execPeerSilent {port : Nat} : s.Runs (execPeerSilent port s) :=
  runs_possible fun _ h => by grind [keeps_linkDown]

theorem runs_execLaneLoss {port lane : Nat} : s.Runs (execLaneLoss port lane s) := by
  unfold execLaneLoss
  exact runs_possible fun _ h => by grind [keeps_modLink, keeps_ownLoss]

theorem runs_execRestripeComplete {port : Nat} : s.Runs (execRestripeComplete port s) :=
  runs_possible fun _ h => by grind [keeps_modLink, keeps_ownLoss, keeps_setLinkState, keeps_settleRestore]

theorem runs_execLaneRetrainTimer {port : Nat} : s.Runs (execLaneRetrainTimer port s) := by
  unfold execLaneRetrainTimer
  exact runs_possible fun _ h => by grind [keeps_modLink, keeps_sendCtrl]

theorem runs_execLaneRetrainDone {port lane : Nat} {ok : Bool} : s.Runs (execLaneRetrainDone port lane ok s) :=
  runs_possible fun _ h => by grind [keeps_modLink, keeps_sendCtrl, keeps_settleRestore]

theorem runs_execLaneRestoreStart {port : Nat} : s.Runs (execLaneRestoreStart port s) :=
  runs_possible fun _ h => by grind [keeps_startRestore]

theorem runs_execLinkTrain {n : Nat} : s.Runs (execLinkTrain n s) := by
  unfold execLinkTrain
  split
  · exact runs_self
  · exact runs_runCmd fun _ c h => by grind [keeps_linkTrain]

theorem runs_execLaneTrainingDone {port : Nat} {good wrong : BitVec 8} :
    s.Runs (execLaneTrainingDone port good wrong s) := by
  unfold execLaneTrainingDone
  exact runs_possible fun _ h => by grind [keeps_foldl, keeps_linkDown, keeps_logLink, keeps_modLink,
      keeps_sendCtrl]

theorem runs_execLinkTrainComplete {n micros : Nat} : s.Runs (execLinkTrainComplete n micros s) :=
  runs_runningCmd fun _ c h => by grind [keeps_doneCmd, keeps_modLink, keeps_sendCtrl, keeps_setLinkState]

theorem runs_execLinkTrainTimeout {n : Nat} : s.Runs (execLinkTrainTimeout n s) :=
  runs_runningCmd fun _ c h => by grind [keeps_linkDown]

theorem runs_execLinkStatus {n : Nat} {wrOk : Bool} : s.Runs (execLinkStatus n wrOk s) :=
  runs_runCmd fun _ c h => by grind [keeps_okWrite]

theorem runs_execLinkAssign {n : Nat} : s.Runs (execLinkAssign n s) :=
  runs_runCmd fun _ c h => by grind [keeps_linkAssign]

/-! ### The rows of Amb -/

theorem runs_execAmbRequestAtTarget {ep : Nat} : s.Runs (execAmbRequestAtTarget ep s) := by
  unfold execAmbRequestAtTarget
  split
  · exact runs_self
  · exact runs_possible fun _ h => by grind [keeps_acceptReq, keeps_modEnd, keeps_refuseReq, keeps_respondErr]

theorem runs_execAmbResponse {ep : Nat} : s.Runs (execAmbResponse ep s) := by
  unfold execAmbResponse
  split
  · exact runs_self
  · exact runs_possible fun _ h => by grind [keeps_modEnd, keeps_responseAt]

theorem runs_execTrackerTimeout {owner : TrackerOwner} {txn : Nat} : s.Runs (execTrackerTimeout owner txn s) := by
  unfold execTrackerTimeout
  exact runs_possible fun _ h => by grind [keeps_completeAccess, keeps_engineResponse, keeps_moverResponse,
      keeps_relayDone]

theorem runs_execBayFence {bay : Nat} : s.Runs (execBayFence bay s) :=
  runs_possible fun _ h => by grind [keeps_modBay]

theorem runs_execBayDrained {bay : Nat} : s.Runs (execBayDrained bay s) :=
  runs_possible fun _ h => by grind [keeps_modBay]

theorem runs_execBayDrainForced {bay : Nat} : s.Runs (execBayDrainForced bay s) :=
  runs_possible fun _ h => by grind [keeps_abortTrackers, keeps_foldl, keeps_logC, keeps_modBay]

theorem runs_execFenceAck {bay : Nat} : s.Runs (execFenceAck bay s) :=
  runs_possible fun _ h => by grind [keeps_modBay, keeps_filterCells]

theorem runs_execBayPowerOnRequest {bay : Nat} : s.Runs (execBayPowerOnRequest bay s) := by
  unfold execBayPowerOnRequest
  exact runs_possible fun _ h => by grind [keeps_modBay]

theorem runs_execBayPowerGood {bay : Nat} : s.Runs (execBayPowerGood bay s) :=
  runs_possible fun _ h => by grind [keeps_modBay]

/-! ### The rows of Belfry -/

theorem runs_execDripFrameEnd : s.Runs (execDripFrameEnd s) :=
  runs_possible fun _ h => by grind [keeps_decideFrame]

theorem runs_execBrewSamplePeriod {b0 b1 b2 : BitVec 96} : s.Runs (execBrewSamplePeriod b0 b1 b2 s) :=
  runs_possible fun _ h => by grind [keeps_decideFrame, keeps_when, keeps_bel]

theorem runs_execSvcBelfryCfg {n : Nat} : s.Runs (execSvcBelfryCfg n s) :=
  runs_runCmd fun _ _ h => by exact keeps_ite (keeps_refuse h) (keeps_doneCmd (keeps_belfryCfg h))

theorem runs_execSvcBelfryRead {n : Nat} {wrOk : Bool} : s.Runs (execSvcBelfryRead n wrOk s) :=
  runs_runCmd fun _ c h => by grind [keeps_okWrite, keeps_refuse, keeps_reseal]

theorem runs_execResealTimeout {total : Bool} : s.Runs (execResealTimeout total s) :=
  runs_possible fun _ h => by grind [keeps_reseal]

/-! ### The rows of Chapels -/

theorem runs_execChapelCreate {n : Nat} : s.Runs (execChapelCreate n s) := by
  unfold execChapelCreate
  split
  · exact runs_self
  · exact runs_runCmd fun _ c h => by grind [keeps_doneCmd, keeps_failCmd, keeps_formChapel, keeps_refuse]

theorem runs_execChapelLaunch {n : Nat} : s.Runs (execChapelLaunch n s) :=
  runs_runCmd fun _ c h => by grind [keeps_doneCmd, keeps_failCmd, Cell.ok_foldl, keeps_modCells,
      keeps_modChapel, Cell.ok_modCtx, keeps_refuse, keeps_setChState]

theorem runs_execChapelPause {n : Nat} : s.Runs (execChapelPause n s) :=
  runs_runCmd fun _ c h => by grind [keeps_askStopChapel, keeps_refuse]

theorem runs_execPauseComplete {chapel : Nat} : s.Runs (execPauseComplete chapel s) := by
  unfold execPauseComplete
  exact runs_possible fun _ h => by grind [keeps_becomePaused]

theorem runs_execChapelPauseTimeout {n : Nat} : s.Runs (execChapelPauseTimeout n s) :=
  runs_runningCmd fun _ c h => by grind [keeps_becomePaused, keeps_completeCmd, keeps_hardStopChapel, keeps_touch]

theorem runs_execDeparturePauseHard {chapel : Nat} : s.Runs (execDeparturePauseHard chapel s) := by
  unfold execDeparturePauseHard
  exact runs_possible fun _ h => by grind [keeps_becomePaused, keeps_hardStopChapel]

theorem runs_execChapelResume {n : Nat} : s.Runs (execChapelResume n s) := by
  unfold execChapelResume
  split
  · exact runs_self
  · exact runs_runCmd fun _ c h => by grind [keeps_doneCmd, keeps_failCmd, keeps_modCells, keeps_modChapel,
      keeps_refuse, Cell.ok_resume, keeps_setChState, keeps_settleChapel]

theorem runs_execChapelEvict {n : Nat} : s.Runs (execChapelEvict n s) :=
  runs_runCmd fun _ c h => by grind [keeps_evictChapel, keeps_modCmd, keeps_refuse]

theorem runs_execEvictTeardownComplete {chapel : Nat} : s.Runs (execEvictTeardownComplete chapel s) :=
  runs_possible fun _ h => by grind [keeps_evictDone]

theorem runs_execChapelRetire {n : Nat} : s.Runs (execChapelRetire n s) := by
  unfold execChapelRetire
  split
  · exact runs_self
  · exact runs_runCmd fun _ c h => by grind [keeps_doneCmd, keeps_refuse, keeps_setChState, keeps_settleChapel,
      keeps_teardown]

theorem runs_execChapelRetireTimeout {n : Nat} : s.Runs (execChapelRetireTimeout n s) :=
  runs_runningCmd fun _ c h => by grind [keeps_completeCmd, keeps_evictChapel, keeps_modCmd, keeps_touch]

theorem runs_execChapelQuery {n : Nat} {wrOk : Bool} : s.Runs (execChapelQuery n wrOk s) :=
  runs_runCmdPre fun _ c h => by grind [keeps_okWrite]

/-! ### The rows of Vector -/

theorem runs_execVectorInteger {cell tid : Nat} : s.Runs (execVectorInteger cell tid s) :=
  runs_issueIns fun _ i h => by grind [keeps_setRd, keeps_setVd]

theorem runs_execVectorFloatingPoint {cell tid : Nat} : s.Runs (execVectorFloatingPoint cell tid s) :=
  runs_issueIns fun _ i h => by grind [keeps_setRd, keeps_setVd]

theorem runs_execVcvt {cell tid : Nat} : s.Runs (execVcvt cell tid s) :=
  runs_issueIns fun _ i h => by grind [keeps_setVd]

theorem runs_execVectorReduction {cell tid : Nat} : s.Runs (execVectorReduction cell tid s) :=
  runs_issueIns fun _ i h => by grind [keeps_setRd]

/-! ### The rows of Choir -/

theorem runs_execChoirGo {cell tid : Nat} : s.Runs (execChoirGo cell tid s) :=
  runs_issueIns fun _ i h => by grind [keeps_cells, keeps_modCtx, keeps_next, keeps_raise, keeps_wait]

theorem runs_execChoirPassStart {cell : Nat} : s.Runs (execChoirPassStart cell s) := by
  unfold execChoirPassStart
  exact runs_possible fun _ h => keeps_modCell h fun _ hc => Cell.ok_mk hc

theorem runs_execChoirPassEnd {cell : Nat} : s.Runs (execChoirPassEnd cell s) := by
  unfold execChoirPassEnd
  split
  · exact runs_self
  · refine runs_possible fun _ h => ?_
    have ended {t : State} {j : ChoirJob} {v : Nat} (h : s.Keeps t) : s.Keeps (t.modCell cell (·.choirAnswer j v)) :=
      keeps_modCell h fun _ hc => Cell.ok_choirAnswer hc
    have idle := keeps_modCell (g := cell) (f := fun c => { c with choir := { c.choir with running := none } }) h
      fun _ hc => hc
    split
    · exact ended idle
    · exact ended (keeps_ite (keeps_spoilRows idle) (keeps_modCell idle fun _ hc => Cell.ok_writeRows hc))

/-! ### The rows of Screens -/

theorem runs_execScreenPropose {n : Nat} : s.Runs (execScreenPropose n s) :=
  runs_runCmd fun _ c h => by grind [keeps_failCmd, keeps_recordProposal, keeps_refuse]

theorem runs_execPartyEnrol {n : Nat} : s.Runs (execPartyEnrol n s) :=
  runs_runCmdPre fun _ c h => by grind [keeps_doneCmd, keeps_recordProposal, keeps_refuse, keeps_setParty]

theorem runs_execSvcSyntheticWake {n : Nat} : s.Runs (execSvcSyntheticWake n s) :=
  runs_runCmdPre fun _ c h => by grind [keeps_recordProposal, keeps_refuse]

theorem runs_execScreenApprove {n : Nat} : s.Runs (execScreenApprove n s) :=
  runs_runCmdPre fun _ c h => by grind [keeps_badgeApproval, keeps_failCmd, keeps_hostApproval]

theorem runs_execScreenApplyComplete : s.Runs (execScreenApplyComplete s) := by
  unfold execScreenApplyComplete
  split
  · exact runs_self
  · exact runs_possible fun _ h => by grind [keeps_approved, keeps_dropProposal, keeps_feb]

theorem runs_execBadgeApprovalTimeout {n : Nat} : s.Runs (execBadgeApprovalTimeout n s) :=
  runs_runningCmd fun _ c h => by grind [keeps_expireProposal, keeps_failBadge, keeps_finishBadge,
      keeps_proposalEvent, keeps_tsReach]

theorem runs_execProposalExpiry : s.Runs (execProposalExpiry s) := by
  unfold execProposalExpiry
  split
  · exact runs_self
  · exact runs_possible fun _ h => by grind [keeps_expireProposal, keeps_failBadge, keeps_proposalEvent,
      keeps_tsReach]

theorem runs_execScreenWithdraw {n : Nat} : s.Runs (execScreenWithdraw n s) :=
  runs_runCmdPre fun _ c h => by grind [keeps_doneCmd, keeps_dropProposal, keeps_failCmd, keeps_proposalEvent,
      keeps_refuse]

theorem runs_execScreenRead {n : Nat} {wrOk : Bool} : s.Runs (execScreenRead n wrOk s) :=
  runs_runCmdPre fun _ c h => by grind [keeps_failCmd, keeps_okWrite]

/-! ### The rows of Gatehouse -/

theorem runs_execWupaPoll : s.Runs (execWupaPoll s) := by
  unfold execWupaPoll
  split
  · exact runs_self
  · exact runs_possible fun _ h => by grind [keeps_badgeSend]

theorem runs_execBankTagAnswer {ans : BankAnswer} {wrOk : Bool} : s.Runs (execBankTagAnswer ans wrOk s) := by
  unfold execBankTagAnswer
  split
  · exact runs_self
  · exact runs_possible fun _ h => by grind [keeps_opStep]

theorem runs_execSvcGatehouseOp {n : Nat} : s.Runs (execSvcGatehouseOp n s) :=
  runs_runCmd fun _ c h => by grind [keeps_failCmd, keeps_modGate]

theorem runs_execGatehouseOpTimeout {n : Nat} {wrOk : Bool} : s.Runs (execGatehouseOpTimeout n wrOk s) :=
  runs_runningCmd fun _ c h => by grind [keeps_completeCmd, keeps_finishOp, keeps_modGate, keeps_touch]

theorem runs_execSweepComplete {bank : Nat} {tags : List BankTag} {more : Bool} :
    s.Runs (execSweepComplete bank tags more s) :=
  runs_possible fun _ h => by grind [keeps_cardDetect, keeps_falseDetect, keeps_modGate]

theorem runs_execPing {antenna code : Nat} : s.Runs (execPing antenna code s) := by
  unfold execPing
  exact runs_possible fun _ h => by grind [keeps_modGate, keeps_settleBaseline]

theorem runs_execCardAnswer {ans : CardAnswer} : s.Runs (execCardAnswer ans s) := by
  unfold execCardAnswer
  split
  · exact runs_possible fun _ h => by grind [keeps_wupaAnswered, keeps_wupaUnanswered, keeps_protoError]
  · split
    · exact runs_self
    · exact runs_possible fun _ h => keeps_badgeStep h

theorem runs_execAnswerWindowExpiry {wrOk : Bool} : s.Runs (execAnswerWindowExpiry wrOk s) := by
  unfold execAnswerWindowExpiry
  split
  · exact runs_possible fun _ h => keeps_wupaUnanswered h
  · split
    · exact runs_possible fun _ h => keeps_opUnanswered h
    · exact runs_possible fun _ h => keeps_cardUnanswered h
    · exact runs_self

theorem runs_execCardHoldLimit : s.Runs (execCardHoldLimit s) := by
  unfold execCardHoldLimit
  split
  · exact runs_self
  · exact runs_possible fun _ h => by grind [keeps_cardGone, keeps_finishBadge, keeps_modGate, keeps_protoError,
      keeps_radioFrame]

theorem runs_execFieldTurnOn {antenna milliAmp : Nat} : s.Runs (execFieldTurnOn antenna milliAmp s) :=
  runs_possible fun _ h => by grind [keeps_faultUser, keeps_modGate]

theorem runs_execFieldSettle : s.Runs (execFieldSettle s) :=
  runs_possible fun _ h => by grind [keeps_modGate, keeps_radioFrame]

theorem runs_execAntennaFaultRetry {antenna milliAmp : Nat} : s.Runs (execAntennaFaultRetry antenna milliAmp s) :=
  runs_possible fun _ h => by grind [keeps_modGate]

/-! ### The rows of Interlock -/

theorem runs_execInterlockSample {aOpen bOpen : Bool} : s.Runs (execInterlockSample aOpen bOpen s) :=
  runs_possible fun _ h => keeps_modIlk (keeps_settleInterlock h) fun _ => Interlock.sample_in_range

theorem runs_execInterlockOpenDeclared : s.Runs (execInterlockOpenDeclared s) :=
  runs_possible fun _ h => by grind [keeps_declareOpen]

theorem runs_execInterlockClosedDeclared : s.Runs (execInterlockClosedDeclared s) :=
  runs_possible fun _ h => by grind [keeps_declareClosed]

theorem runs_execInterlockDiscrepancyLatch : s.Runs (execInterlockDiscrepancyLatch s) :=
  runs_possible fun _ h => by grind [keeps_latchDiscrepancy]

/-! ### The rows of Reliquary -/

theorem runs_execTagInventory {slots16 : Bool} {maskLen : Nat} {mask : BitVec 64} :
    s.Runs (execTagInventory slots16 maskLen mask s) :=
  runs_tagRequest fun _ h => by grind [keeps_tagAnswer]

theorem runs_execStayQuiet {uid : BitVec 64} : s.Runs (execStayQuiet uid s) :=
  runs_tagCommand fun _ h => by grind [keeps_modTag]

theorem runs_execSelect {uid : BitVec 64} : s.Runs (execSelect uid s) :=
  runs_tagRequest fun _ h => by grind [keeps_modTag, keeps_tagAnswer]

theorem runs_execResetToReady {addr : TagAddr} : s.Runs (execResetToReady addr s) :=
  runs_tagCommand fun _ h => by grind [keeps_modTag, keeps_tagAnswer]

theorem runs_execGetSystemInformation {addr : TagAddr} : s.Runs (execGetSystemInformation addr s) :=
  runs_tagCommand fun _ h => by grind [keeps_tagAnswer]

theorem runs_execReadSingleBlock {addr : TagAddr} {option : Bool} {block : Nat} :
    s.Runs (execReadSingleBlock addr option block s) :=
  runs_tagCommand fun _ h => by grind [keeps_tagAnswer, keeps_tagError]

theorem runs_execReadMultipleBlocks {addr : TagAddr} {option : Bool} {first count : Nat} :
    s.Runs (execReadMultipleBlocks addr option first count s) :=
  runs_tagCommand fun _ h => by grind [keeps_tagAnswer, keeps_tagError]

theorem runs_execWriteSingleBlock {addr : TagAddr} {block : Nat} {data : List Byte} :
    s.Runs (execWriteSingleBlock addr block data s) := by
  unfold execWriteSingleBlock
  split
  · exact runs_self
  · exact runs_tagCommand fun _ h => by grind [keeps_noteWrite, keeps_tagError]

theorem runs_execWriteMultipleBlocks {addr : TagAddr} {first count : Nat} {data : List Byte} :
    s.Runs (execWriteMultipleBlocks addr first count data s) := by
  unfold execWriteMultipleBlocks
  split
  · exact runs_self
  · exact runs_tagCommand fun _ h => by grind [keeps_noteWrite, keeps_tagError]

theorem runs_execTagOtherCommand {addr : TagAddr} {code : Nat} : s.Runs (execTagOtherCommand addr code s) :=
  runs_tagCommand fun _ h => by grind [keeps_tagError]

theorem runs_execFieldDrop {blocks : List Nat} : s.Runs (execFieldDrop blocks s) :=
  runs_possible fun _ h => by grind [keeps_fieldGone, keeps_tearBlocks]

theorem runs_execFdNAssert : s.Runs (execFdNAssert s) :=
  runs_possible fun _ h => by grind [keeps_modTag, keeps_wakeSource]

theorem runs_execFdNRelease : s.Runs (execFdNRelease s) :=
  runs_possible fun _ h => by grind [keeps_fieldGone, keeps_modTag]

theorem runs_execCapsuleTagWrite : s.Runs (execCapsuleTagWrite s) := by
  unfold execCapsuleTagWrite
  split
  · exact runs_self
  · exact runs_possible fun _ h => keeps_clo (keeps_modTag h fun _ ht => Tag.ok_putBlocks ht)
      fun i => ⟨i.alertCause, i.alertEn, i.wakeSrcEn, i.interlock, i.tag⟩

theorem runs_execSmbTagRead {first count : Nat} : s.Runs (execSmbTagRead first count s) :=
  runs_possible fun _ h => by grind [keeps_smbus]

theorem runs_execSmbTagWrite {first : Nat} {data : List Byte} : s.Runs (execSmbTagWrite first data s) :=
  runs_possible fun _ h => by grind [keeps_modTag, keeps_smbus]

theorem runs_execSvcTagWrite {n : Nat} : s.Runs (execSvcTagWrite n s) :=
  runs_runCmd fun _ c h => by grind [keeps_failCmd, keeps_modTag]

theorem runs_execTagCommit : s.Runs (execTagCommit s) := by
  unfold execTagCommit
  split
  · exact runs_self
  · exact runs_possible fun _ h => by grind [keeps_answerStaged, keeps_modTag, Tag.ok_putBlocks]

theorem runs_execWireAccessBusy {who : WireAccess} : s.Runs (execWireAccessBusy who s) := by
  unfold execWireAccessBusy
  cases who with
  | capsule => exact runs_self
  | svcTagWrite =>
    dsimp only
    split
    · exact runs_possible fun _ h => keeps_answerStaged h
    · exact runs_self
  | smbus =>
    exact runs_possible fun _ h => by
      split
      · exact keeps_answerStaged h
      · exact keeps_smbus h

/-! ### The rows of Cloister -/

theorem runs_execKeySet {bytes : List Byte} : s.Runs (execKeySet bytes s) :=
  runs_possible fun _ h => by grind [keeps_putKey, keeps_setNonce, keeps_smbus]

theorem runs_execKeyClear {bytes : List Byte} : s.Runs (execKeyClear bytes s) :=
  runs_possible fun _ h => by grind [keeps_putKey, keeps_smbus]

theorem runs_execAlertResponse : s.Runs (execAlertResponse s) :=
  runs_possible fun _ h => by grind [keeps_smbus]

theorem runs_execSmbTstampRead : s.Runs (execSmbTstampRead s) :=
  runs_possible fun _ h => by grind [keeps_smbus]

theorem runs_execSvcCalStore {n : Nat} {wrOk : Bool} : s.Runs (execSvcCalStore n wrOk s) :=
  runs_runCmd fun _ c h => by
    split
    · exact keeps_ite (keeps_failCmd h) (keeps_ite (keeps_failCmd h) (keeps_putSlot (keeps_calStore h)))
    · exact keeps_okWrite h
    · exact keeps_doneCmd (keeps_putSlot h)

theorem runs_execCalStoreWriteDone {readBack : Bool} : s.Runs (execCalStoreWriteDone readBack s) := by
  unfold execCalStoreWriteDone
  split
  · exact runs_self
  · refine runs_possible fun _ h => ?_
    have emptied := keeps_calStore (x := none) h
    cases readBack with
    | true =>
      dsimp only [if_true]
      split
      · exact keeps_putSlot emptied
      · exact keeps_doneCmd (keeps_putSlot emptied)
    | false =>
      dsimp only [Bool.false_eq_true, if_false]
      split
      · exact emptied
      · exact keeps_completeCmd (keeps_touch (keeps_freeNat emptied))

theorem runs_execDiagLogRead {n : Nat} {wrOk : Bool} : s.Runs (execDiagLogRead n wrOk s) :=
  runs_runCmd fun _ c h => by grind [keeps_okWrite]

theorem runs_execDiagCapsuleRead {n : Nat} {wrOk : Bool} : s.Runs (execDiagCapsuleRead n wrOk s) :=
  runs_runCmd fun _ c h => by grind [keeps_okWrite]

theorem runs_execDiagPattern {n : Nat} : s.Runs (execDiagPattern n s) :=
  runs_runCmd fun _ c h => by grind [keeps_failCmd, keeps_refuse]

theorem runs_execDiagPatternEnd {n errors bits : Nat} : s.Runs (execDiagPatternEnd n errors bits s) :=
  runs_runningCmd fun _ c h => by grind [keeps_okCmd]

/-! ### The rows of Departure -/

theorem runs_execPortsFenced : s.Runs (execPortsFenced s) := by
  unfold execPortsFenced
  split
  · exact runs_self
  · exact runs_possible fun _ h => by grind [keeps_fencePort, keeps_foldl, keeps_flt]

theorem runs_execSacristyLockstep : s.Runs (execSacristyLockstep s) :=
  runs_possible fun _ h => keeps_cloisterCapsule (keeps_depart (keeps_foldl _
    (keeps_logEntry (keeps_flt (keeps_latchP h) ⟨rfl, rfl, rfl⟩)) fun _ _ => keeps_signal))

theorem runs_execScreenParity {loc : Nat} : s.Runs (execScreenParity loc s) :=
  runs_possible fun _ h => by grind [keeps_faultP]

theorem runs_execCapsulePeriodic : s.Runs (execCapsulePeriodic s) :=
  runs_possible fun _ h => by grind [keeps_makeCapsule]

/-! ### The rows of Loads -/

theorem runs_execMcastLoad {n : Nat} : s.Runs (execMcastLoad n s) :=
  runs_runCmdPre fun _ c h => by grind [keeps_doneCmd, keeps_loadGate, keeps_modChapel]

theorem runs_execSumTreeLoad {n : Nat} : s.Runs (execSumTreeLoad n s) :=
  runs_runCmdPre fun _ _ h => keeps_loadGate h (keeps_ite (keeps_failCmd h)
    (keeps_doneCmd (keeps_modCells (keeps_modChapel h) fun _ hc => hc)))

theorem runs_execHandlerLoad {n : Nat} : s.Runs (execHandlerLoad n s) :=
  runs_runCmdPre fun _ c h => by grind [keeps_doneCmd, keeps_failCmd, keeps_foldl, Cell.ok_loadHandlers,
      keeps_modCell, keeps_refuse]

theorem runs_execFabricDrain {n : Nat} : s.Runs (execFabricDrain n s) :=
  runs_runCmd fun _ c h => by grind [keeps_refuse]

theorem runs_execDrainComplete {n : Nat} : s.Runs (execDrainComplete n s) :=
  runs_runningCmd fun _ c h => by grind [keeps_doneCmd, keeps_modChapel]

theorem runs_execFabricDrainTimeout {n : Nat} : s.Runs (execFabricDrainTimeout n s) :=
  runs_runningCmd fun _ c h => by grind [keeps_completeCmd]

/-! ### The rows of Windows -/

theorem runs_execMemWindowMap {n : Nat} : s.Runs (execMemWindowMap n s) := by
  unfold execMemWindowMap
  split
  · exact runs_runningCmd fun _ _ h => keeps_putWindow h
  · exact runs_runCmdPre fun _ _ h => keeps_startWindow h

theorem runs_execLecternDefine {n : Nat} : s.Runs (execLecternDefine n s) :=
  runs_runCmd fun _ c h => by grind [keeps_closeEntries, keeps_doneCmd, keeps_failCmd, keeps_putLectern,
      keeps_refuse]

theorem runs_execSlypeCopy {n : Nat} : s.Runs (execSlypeCopy n s) :=
  runs_runCmd fun _ c h => by grind [keeps_startCopy, keeps_startMover]

/-! ### The rows of HostPorts -/

theorem runs_execHostPortRequest {p : HPort} : s.Runs (execHostPortRequest p s) := by
  unfold execHostPortRequest
  split
  · exact runs_self
  · exact runs_possible fun _ h => by grind [keeps_emit, keeps_logHost, keeps_modHp, keeps_respondErr,
      keeps_wakeLink]

theorem runs_execHostWriteTransmitted {p : HPort} {tag : Nat} : s.Runs (execHostWriteTransmitted p tag s) := by
  unfold execHostWriteTransmitted
  split
  · exact runs_self
  · exact runs_possible fun _ h => by grind [keeps_emit, keeps_modHp, keeps_respond, keeps_wakeLink]

theorem runs_execHostReadCompletion {p : HPort} {tag : Nat} {result : PcieResult} :
    s.Runs (execHostReadCompletion p tag result s) := by
  unfold execHostReadCompletion
  exact runs_possible fun _ h => by grind [keeps_freeRead, keeps_hostReadFails, keeps_moverHostData, keeps_respond]

theorem runs_execHostCompletionTimeout {p : HPort} {tag : Nat} : s.Runs (execHostCompletionTimeout p tag s) := by
  unfold execHostCompletionTimeout
  exact runs_possible fun _ h => by grind [keeps_freeRead, keeps_hostReadFails]

theorem runs_execVfFlr {p : HPort} {vf : Nat} : s.Runs (execVfFlr p vf s) :=
  runs_possible fun _ h => by grind [keeps_failHostRequests, keeps_modHp]

theorem runs_execPfFlr {p : HPort} : s.Runs (execPfFlr p s) :=
  runs_possible fun _ h => by grind [keeps_portReset]

theorem runs_execHostPortReset {p : HPort} {why : PortResetCause} : s.Runs (execHostPortReset p why s) := by
  unfold execHostPortReset
  exact runs_possible fun _ h => by grind [keeps_portReset, keeps_pw]

theorem runs_execBusMasterEnableClear {p : HPort} {fn : Nat} : s.Runs (execBusMasterEnableClear p fn s) :=
  runs_possible fun _ h => by grind [keeps_modHp, keeps_moverAbort]

/-! ### The rows of Package -/

theorem runs_execShedHardGate : s.Runs (execShedHardGate s) :=
  runs_possible fun _ h => by grind [keeps_foldl, keeps_shedHardChapel, keeps_heat]

theorem runs_execPkgInterlockAck {n : Nat} : s.Runs (execPkgInterlockAck n s) :=
  runs_runCmd fun _ c h => by grind [keeps_doneCmd, keeps_failCmd, keeps_foldl, keeps_modIlk,
      keeps_reportInterlock, keeps_settleInterlock, keeps_unholdChapel, keeps_when, keeps_heat]

theorem runs_execPkgIdentify {n : Nat} {wrOk : Bool} : s.Runs (execPkgIdentify n wrOk s) :=
  runs_runCmd fun _ c h => by grind [keeps_okWrite]

theorem runs_execPkgPowerLimit {n : Nat} : s.Runs (execPkgPowerLimit n s) :=
  runs_runCmd fun _ c h => by
    dsimp only
    split
    · exact keeps_failCmd h
    · exact keeps_doneCmd (keeps_limitW h (by omega))

theorem runs_execPkgPowerState {n : Nat} : s.Runs (execPkgPowerState n s) := by
  unfold execPkgPowerState
  split
  · exact runs_self
  · exact runs_runCmd fun _ c h => by grind [keeps_completeCmd, keeps_doneCmd, keeps_leaveIdle, keeps_refuse,
      keeps_touch, keeps_wantOff, keeps_pw]

theorem runs_execPkgReset {n : Nat} : s.Runs (execPkgReset n s) :=
  runs_runCmd fun _ c h => by grind [keeps_evictChapel, keeps_failCmd, keeps_foldl, keeps_packageReset,
      keeps_refuse, keeps_settleReset]

/-! ### The rows of Registers -/

theorem runs_execRcRegisterRead {tgt : RegTarget} {size : Nat} {hw : BitVec 8} :
    s.Runs (execRcRegisterRead tgt size hw s) := by
  unfold execRcRegisterRead
  cases tgt with
  | pf p o => exact runs_possible fun _ h => keeps_readPf h
  | vf p fn o => exact runs_possible fun _ h => keeps_emit h
  | smbus code => exact runs_possible fun _ h => by grind [keeps_smbus, keeps_emit]
  | memorySpaceEnable p fn => exact runs_possible fun _ h => keeps_emit h
  | vfCount p => exact runs_possible fun _ h => keeps_emit h

theorem runs_execLowHalfRead {p : HPort} {offset : Nat} : s.Runs (execLowHalfRead p offset s) :=
  runs_possible fun _ h => by grind [keeps_readPf]

theorem runs_execBarMissRequest {p : HPort} {read : Bool} {addr : BitVec 64} :
    s.Runs (execBarMissRequest p read addr s) :=
  runs_possible fun _ h => by grind [keeps_emit, keeps_when]

theorem runs_execRegisterWrite {tgt : RegTarget} {size : Nat} {value : BitVec 64} {hwSet : BitVec 32} :
    s.Runs (execRegisterWrite tgt size value hwSet s) := by
  cases tgt with
  | pf p o => exact runs_possible fun _ h => keeps_pfWrite h
  | vf p fn o => exact runs_possible fun _ h => keeps_vfWrite h
  | smbus code => exact runs_possible fun _ h => keeps_smbusWrite h
  | memorySpaceEnable p fn => exact runs_possible fun _ h => keeps_modHp h
  | vfCount p => exact runs_possible fun _ h => keeps_modHp h

theorem runs_execAmbCtrlWrite {p : HPort} {value : BitVec 32} : s.Runs (execAmbCtrlWrite p value s) :=
  runs_possible fun _ h => by grind [keeps_pkgWrite]

/-! ### The rows of System -/

theorem runs_execPwrgdAonRise : s.Runs (execPwrgdAonRise s) :=
  runs_possible fun _ h => by grind [keeps_dark, keeps_pw]

theorem runs_execPwrgdAonFall : s.Runs (execPwrgdAonFall s) :=
  runs_possible fun _ h => by grind [keeps_dark]

theorem runs_execXtalCheckPass : s.Runs (execXtalCheckPass s) :=
  runs_possible fun _ h => by grind [keeps_pw]

theorem runs_execXtalCheckFail : s.Runs (execXtalCheckFail s) :=
  runs_possible fun _ h => by grind [keeps_pw]

theorem runs_execCloisterPorComplete : s.Runs (execCloisterPorComplete s) :=
  runs_possible fun _ h => by
    refine keeps_ite (keeps_startBringUp (keeps_restoreCapsule ?_)) (keeps_restoreCapsule ?_)
    all_goals
      split
      · exact keeps_bel (keeps_gate (keeps_pw h rfl))
      · exact keeps_gate (keeps_pw h rfl)

theorem runs_execFirmwareReady {hbmStacks : List StackInit} : s.Runs (execFirmwareReady hbmStacks s) :=
  runs_possible fun _ h => by
    refine keeps_foldl _ (keeps_ite ?_ (keeps_gate (keeps_foldl _ ?_ fun _ _ k => keeps_ite (keeps_logC k) k)))
      fun _ _ => keeps_initStack
    all_goals exact keeps_pw h rfl

theorem runs_execHbmTrainingComplete {marginPass : Bool} {best : List Nat} :
    s.Runs (execHbmTrainingComplete marginPass best s) :=
  runs_possible fun _ h => by grind [keeps_fullTraining, keeps_setTrain, keeps_pw]

theorem runs_execPackageReady : s.Runs (execPackageReady s) :=
  runs_possible fun _ h => keeps_releaseBells (keeps_finishReset (keeps_reportOwed (keeps_foldl _
    (keeps_startFloor (keeps_pw h rfl)) fun _ _ k => keeps_ite (keeps_postPort k) k)))

end Rows

/-! ### The dispatch and the step -/

/-- Whatever the command, it answers a next state, with the queue untouched and the invariant kept. -/
theorem runs_exec (i : Instr) (s : State) : s.Runs (exec i s) :=
  match i with
  | .registerWrite .. => runs_execRegisterWrite
  | .rcRegisterRead .. => runs_execRcRegisterRead
  | .lowHalfRead .. => runs_execLowHalfRead
  | .clkLoss => runs_execClkLoss
  | .railLoss => runs_execRailLoss
  | .pwrgdMainFall => runs_execPwrgdMainFall
  | .pwrgdMainRise => runs_execPwrgdMainRise
  | .pwrgdAonRise => runs_execPwrgdAonRise
  | .xtalCheckPass => runs_execXtalCheckPass
  | .xtalCheckFail => runs_execXtalCheckFail
  | .cloisterPorComplete => runs_execCloisterPorComplete
  | .pwrgdAonFall => runs_execPwrgdAonFall
  | .mainDomainsStable => runs_execMainDomainsStable
  | .pllLock => runs_execPllLock
  | .chancelResetRelease => runs_execChancelResetRelease
  | .firmwareReady .. => runs_execFirmwareReady
  | .sweepComplete _ _ more => runs_execSweepComplete (more := more)
  | .hbmTrainingComplete .. => runs_execHbmTrainingComplete
  | .packageReady => runs_execPackageReady
  | .pkgIdentify .. => runs_execPkgIdentify
  | .pkgReset .. => runs_execPkgReset
  | .pkgPowerState .. => runs_execPkgPowerState
  | .cryptReached => runs_execCryptReached
  | .transeptHeldRetrainDone .. => runs_execTranseptHeldRetrainDone
  | .pkgPowerLimit .. => runs_execPkgPowerLimit
  | .limiterSample .. => runs_execLimiterSample
  | .shedHardGate => runs_execShedHardGate
  | .pkgInterlockAck .. => runs_execPkgInterlockAck
  | .sensorSample .. => runs_execSensorSample
  | .thermalStateChange .. => runs_execThermalStateChange
  | .thermtripComparator .. => runs_execThermtripComparator
  | .thermalEventPost => runs_execThermalEventPost
  | .doorbellWrite .. => runs_execDoorbellWrite
  | .completionHeadDoorbell .. => runs_execCompletionHeadDoorbell
  | .eventHeadDoorbell .. => runs_execEventHeadDoorbell
  | .barMissRequest _ _ addr => runs_execBarMissRequest (addr := addr)
  | .msixUnmask .. => runs_execMsixUnmask
  | .busMasterEnableSet .. => runs_execBusMasterEnableSet
  | .busMasterEnableClear .. => runs_execBusMasterEnableClear
  | .vfFlr .. => runs_execVfFlr
  | .pfFlr .. => runs_execPfFlr
  | .hostPortReset .. => runs_execHostPortReset
  | .perstRelease .. => runs_execPerstRelease
  | .hostL1Exit .. => runs_execHostL1Exit
  | .linkL0Reached .. => runs_execLinkL0Reached
  | .hostPortRequest .. => runs_execHostPortRequest
  | .hostReadCompletion .. => runs_execHostReadCompletion
  | .hostCompletionTimeout .. => runs_execHostCompletionTimeout
  | .hostWriteTransmitted .. => runs_execHostWriteTransmitted
  | .ringConfigWrite .. => runs_execRingConfigWrite
  | .ringEnable .. => runs_execRingEnable
  | .ringDisable .. => runs_execRingDisable
  | .eventRingEnable .. => runs_execEventRingEnable
  | .eventRingDisable .. => runs_execEventRingDisable
  | .entryFetch .. => runs_execEntryFetch
  | .entryFetchTimeout .. => runs_execEntryFetchTimeout
  | .dataBufferReadTimeout .. => runs_execDataBufferReadTimeout
  | .chapelCreate .. => runs_execChapelCreate
  | .chapelLaunch .. => runs_execChapelLaunch
  | .chapelPause .. => runs_execChapelPause
  | .chapelPauseTimeout .. => runs_execChapelPauseTimeout
  | .pauseComplete .. => runs_execPauseComplete
  | .chapelResume .. => runs_execChapelResume
  | .chapelRetire .. => runs_execChapelRetire
  | .chapelRetireTimeout .. => runs_execChapelRetireTimeout
  | .chapelEvict .. => runs_execChapelEvict
  | .evictTeardownComplete .. => runs_execEvictTeardownComplete
  | .chapelQuery .. => runs_execChapelQuery
  | .handlerLoad .. => runs_execHandlerLoad
  | .mcastLoad .. => runs_execMcastLoad
  | .sumTreeLoad .. => runs_execSumTreeLoad
  | .fabricDrain .. => runs_execFabricDrain
  | .drainComplete .. => runs_execDrainComplete
  | .fabricDrainTimeout .. => runs_execFabricDrainTimeout
  | .memWindowMap .. => runs_execMemWindowMap
  | .lecternDefine .. => runs_execLecternDefine
  | .slypeCopy .. => runs_execSlypeCopy
  | .linkTrain .. => runs_execLinkTrain
  | .linkTrainComplete .. => runs_execLinkTrainComplete
  | .linkTrainTimeout .. => runs_execLinkTrainTimeout
  | .linkStatus .. => runs_execLinkStatus
  | .linkAssign .. => runs_execLinkAssign
  | .screenPropose .. => runs_execScreenPropose
  | .screenApprove .. => runs_execScreenApprove
  | .screenApplyComplete => runs_execScreenApplyComplete
  | .badgeApprovalTimeout .. => runs_execBadgeApprovalTimeout
  | .proposalExpiry => runs_execProposalExpiry
  | .screenWithdraw .. => runs_execScreenWithdraw
  | .screenRead .. => runs_execScreenRead
  | .partyEnrol .. => runs_execPartyEnrol
  | .svcGatehouseOp .. => runs_execSvcGatehouseOp
  | .gatehouseOpTimeout .. => runs_execGatehouseOpTimeout
  | .svcBelfryCfg .. => runs_execSvcBelfryCfg
  | .svcBelfryRead .. => runs_execSvcBelfryRead
  | .svcSyntheticWake .. => runs_execSvcSyntheticWake
  | .svcTagWrite .. => runs_execSvcTagWrite
  | .svcCalStore .. => runs_execSvcCalStore
  | .calStoreWriteDone .. => runs_execCalStoreWriteDone
  | .diagLogRead .. => runs_execDiagLogRead
  | .diagCapsuleRead .. => runs_execDiagCapsuleRead
  | .diagPattern .. => runs_execDiagPattern
  | .diagPatternEnd .. => runs_execDiagPatternEnd
  | .scalarAlu .. => runs_execScalarAlu
  | .immediateAlu .. => runs_execImmediateAlu
  | .shi .. => runs_execShi
  | .insk .. => runs_execInsk
  | .multiplyDivide .. => runs_execMultiplyDivide
  | .scalarFloatingPoint .. => runs_execScalarFloatingPoint
  | .load .. => runs_execLoad
  | .store .. => runs_execStore
  | .vld .. => runs_execVld
  | .vst .. => runs_execVst
  | .atomic .. => runs_execAtomic
  | .branch .. => runs_execBranch
  | .jal .. => runs_execJal
  | .jalr .. => runs_execJalr
  | .fenceAcq .. => runs_execFenceAcq
  | .fenceRel .. => runs_execFenceRel
  | .fenceFull .. => runs_execFenceFull
  | .exit .. => runs_execExit
  | .spawn .. => runs_execSpawn
  | .barCell .. => runs_execBarCell
  | .brk .. => runs_execBrk
  | .eret .. => runs_execEret
  | .eretR .. => runs_execEretR
  | .rdsr .. => runs_execRdsr
  | .wrsr .. => runs_execWrsr
  | .vectorInteger .. => runs_execVectorInteger
  | .vectorFloatingPoint .. => runs_execVectorFloatingPoint
  | .vcvt .. => runs_execVcvt
  | .vectorReduction .. => runs_execVectorReduction
  | .send .. => runs_execSend
  | .sendRel .. => runs_execSendRel
  | .sendCh .. => runs_execSendCh
  | .sendChRel .. => runs_execSendChRel
  | .chanOpen .. => runs_execChanOpen
  | .chanClose .. => runs_execChanClose
  | .turnWait .. => runs_execTurnWait
  | .hret .. => runs_execHret
  | .sumC .. => runs_execSumC
  | .sumW .. => runs_execSumW
  | .tallyClaim .. => runs_execTallyClaim
  | .tallyRelease .. => runs_execTallyRelease
  | .tallyInit .. => runs_execTallyInit
  | .tallyFold .. => runs_execTallyFold
  | .tallyFeed .. => runs_execTallyFeed
  | .tallyRd .. => runs_execTallyRd
  | .tallyPerform .. => runs_execTallyPerform
  | .choirGo .. => runs_execChoirGo
  | .choirPassStart .. => runs_execChoirPassStart
  | .choirPassEnd .. => runs_execChoirPassEnd
  | .slypeGo .. => runs_execSlypeGo
  | .slypeWait .. => runs_execSlypeWait
  | .slypeUnitIssue .. => runs_execSlypeUnitIssue
  | .illegalInstruction .. => runs_execIllegalInstruction
  | .memError .. => runs_execMemError
  | .messageArrival .. => runs_execMessageArrival
  | .recordDispatch .. => runs_execRecordDispatch
  | .aislePacketArrival .. => runs_execAislePacketArrival
  | .outputGrant .. => runs_execOutputGrant
  | .injectionClaim .. => runs_execInjectionClaim
  | .aisleEjection .. => runs_execAisleEjection
  | .castTrackerTimeout .. => runs_execCastTrackerTimeout
  | .uniARetransmit .. => runs_execUniARetransmit
  | .uniAExhausted .. => runs_execUniAExhausted
  | .uniAAck .. => runs_execUniAAck
  | .sumOperandArrival .. => runs_execSumOperandArrival
  | .sumCombineDone .. => runs_execSumCombineDone
  | .sumSlotTimeout .. => runs_execSumSlotTimeout
  | .sumReleaseToggle .. => runs_execSumReleaseToggle
  | .sumReleaseWaitTimeout .. => runs_execSumReleaseWaitTimeout
  | .sumResultArrival .. => runs_execSumResultArrival
  | .sumWaitTimeout .. => runs_execSumWaitTimeout
  | .chantryFlitArrival .. => runs_execChantryFlitArrival
  | .chantryInjection .. => runs_execChantryInjection
  | .chantryHold .. => runs_execChantryHold
  | .channelOpen .. => runs_execChannelOpen
  | .channelOpenReply .. => runs_execChannelOpenReply
  | .channelCredit .. => runs_execChannelCredit
  | .creditRepeat .. => runs_execCreditRepeat
  | .openRepeat .. => runs_execOpenRepeat
  | .channelOpenGiveUp .. => runs_execChannelOpenGiveUp
  | .ambFlitArrival .. => runs_execAmbFlitArrival
  | .ambRequestAtTarget .. => runs_execAmbRequestAtTarget
  | .coalesceEntryExpiry .. => runs_execCoalesceEntryExpiry
  | .ambResponse .. => runs_execAmbResponse
  | .trackerTimeout .. => runs_execTrackerTimeout
  | .ambCtrlWrite .. => runs_execAmbCtrlWrite
  | .bayFence .. => runs_execBayFence
  | .bayDrained .. => runs_execBayDrained
  | .bayDrainForced .. => runs_execBayDrainForced
  | .fenceAck .. => runs_execFenceAck
  | .bayPowerOnRequest .. => runs_execBayPowerOnRequest
  | .bayPowerGood .. => runs_execBayPowerGood
  | .hbmAccessDone .. => runs_execHbmAccessDone
  | .hbmScrub .. => runs_execHbmScrub
  | .stackTempSample .. => runs_execStackTempSample
  | .stackThermalChange .. => runs_execStackThermalChange
  | .transeptFrameReceived .. => runs_execTranseptFrameReceived
  | .replayTimer .. => runs_execReplayTimer
  | .replayExhausted .. => runs_execReplayExhausted
  | .peerSilent .. => runs_execPeerSilent
  | .laneTrainingDone .. => runs_execLaneTrainingDone
  | .laneLoss .. => runs_execLaneLoss
  | .restripeComplete .. => runs_execRestripeComplete
  | .laneRetrainTimer .. => runs_execLaneRetrainTimer
  | .laneRetrainDone .. => runs_execLaneRetrainDone
  | .hello .. => runs_execHello
  | .owner .. => runs_execOwner
  | .laneDrop .. => runs_execLaneDrop
  | .laneRestore .. => runs_execLaneRestore
  | .laneRetrain .. => runs_execLaneRetrain
  | .depart .. => runs_execDepart
  | .down .. => runs_execDown
  | .unknown .. => runs_execUnknown
  | .ctrlOpRepeatExpiry .. => runs_execCtrlOpRepeatExpiry
  | .portsFenced => runs_execPortsFenced
  | .departurePauseHard .. => runs_execDeparturePauseHard
  | .sacristyLockstep => runs_execSacristyLockstep
  | .capsulePeriodic => runs_execCapsulePeriodic
  | .capsuleTagWrite => runs_execCapsuleTagWrite
  | .interlockSample .. => runs_execInterlockSample
  | .interlockOpenDeclared => runs_execInterlockOpenDeclared
  | .interlockClosedDeclared => runs_execInterlockClosedDeclared
  | .interlockDiscrepancyLatch => runs_execInterlockDiscrepancyLatch
  | .smbTagRead .. => runs_execSmbTagRead
  | .smbTagWrite .. => runs_execSmbTagWrite
  | .keySet .. => runs_execKeySet
  | .keyClear .. => runs_execKeyClear
  | .alertResponse => runs_execAlertResponse
  | .smbTstampRead => runs_execSmbTstampRead
  | .wireAccessBusy .. => runs_execWireAccessBusy
  | .tagCommit => runs_execTagCommit
  | .tagInventory slots16 _ _ => runs_execTagInventory (slots16 := slots16)
  | .stayQuiet .. => runs_execStayQuiet
  | .select .. => runs_execSelect
  | .resetToReady .. => runs_execResetToReady
  | .getSystemInformation .. => runs_execGetSystemInformation
  | .readSingleBlock .. => runs_execReadSingleBlock
  | .readMultipleBlocks .. => runs_execReadMultipleBlocks
  | .writeSingleBlock .. => runs_execWriteSingleBlock
  | .writeMultipleBlocks .. => runs_execWriteMultipleBlocks
  | .tagOtherCommand _ code => runs_execTagOtherCommand (code := code)
  | .fieldDrop .. => runs_execFieldDrop
  | .fdNAssert => runs_execFdNAssert
  | .fdNRelease => runs_execFdNRelease
  | .fieldSettle => runs_execFieldSettle
  | .ping .. => runs_execPing
  | .antennaFaultRetry .. => runs_execAntennaFaultRetry
  | .wupaPoll => runs_execWupaPoll
  | .cardAnswer .. => runs_execCardAnswer
  | .bankTagAnswer .. => runs_execBankTagAnswer
  | .answerWindowExpiry .. => runs_execAnswerWindowExpiry
  | .cardHoldLimit => runs_execCardHoldLimit
  | .dripFrameEnd => runs_execDripFrameEnd
  | .resealTimeout total => runs_execResealTimeout (total := total)
  | .railLeavesToleranceInCrypt .. => runs_execRailLeavesToleranceInCrypt
  | .laneRestoreStart .. => runs_execLaneRestoreStart
  | .dataBufferReadCompletion .. => runs_execDataBufferReadCompletion
  | .screenParity .. => runs_execScreenParity
  | .brewSamplePeriod .. => runs_execBrewSamplePeriod
  | .fieldTurnOn .. => runs_execFieldTurnOn
  | .transeptFrameSend .. => runs_execTranseptFrameSend

theorem Chapel.tick_ne_fresh {c : Chapel} (h : c ≠ Chapel.fresh) : c.tick ≠ Chapel.fresh := by
  unfold Chapel.tick
  split
  next live =>
    intro e
    have empty : c.state = .empty := congrArg Chapel.state e
    rw [empty] at live
    simp at live
  · exact h

theorem chapels_tick_wf {t : Tbl Chapel} (h : Tbl.wf Chapel.fresh t = true) :
    Tbl.wf Chapel.fresh (t.map fun e => (e.1, e.2.tick)) = true := by
  have kept := Tbl.wf_mapFilter (fun e => decide (e.2 ≠ Chapel.fresh)) Chapel.tick h fun e he => of_decide_eq_true he
  rwa [List.filter_eq_self.2] at kept
  intro e he
  obtain ⟨x, hx, rfl⟩ := List.mem_map.1 he
  exact decide_eq_true (Chapel.tick_ne_fresh (((Tbl.wf_iff _ _).1 h).2 x hx))

theorem inv_idle {s : State} (h : s.Inv) : (idle s).Inv := by
  unfold idle
  split
  · exact { h with chapels := chapels_tick_wf h.chapels }
  · split <;> exact { h with }

/-- Settles O5: an idle cycle keeps the invariant, and so does every command, by its row's law. -/
theorem stepKeepsInvariant : Obligations.StepKeepsInvariant := by
  intro s t inv ran
  unfold step at ran
  split at ran
  · cases ran; exact inv_idle inv
  next c rest _ =>
    obtain ⟨u, answers, _, keeps⟩ := runs_exec c { s with pending := rest }
    cases answers.symm.trans ran
    exact keeps { inv with }

/-- Settles O6: each row's law says that it answers a next state and leaves the queue. -/
theorem everyCommandAnswersNext : Obligations.EveryCommandAnswersNext := fun i s =>
  (runs_exec i s).imp fun _ h => ⟨h.1, h.2.1⟩

/-- Settles O1: a step on a queue with a front is the command at the front, by definition. -/
theorem stepRunsFrontCommand : Obligations.StepRunsFrontCommand := fun _ _ _ => rfl

theorem tget_map {α : Type} (d : α) (f : α → α) (hf : f d = d) (t : Tbl α) (k : Nat) :
    tget d (t.map fun e => (e.1, f e.2)) k = f (tget d t k) := by
  induction t with
  | nil => exact hf.symm
  | cons e t ih =>
    obtain ⟨j, v⟩ := e
    simp only [List.map_cons, tget_cons, ih]
    split <;> rfl

/-- Settles O2: one cycle of whichever clock runs. -/
theorem emptyQueueIdlesOneCycle : Obligations.EmptyQueueIdlesOneCycle := by
  intro s empty
  have idles : step s = .next (idle s) := by unfold step; rw [empty]
  refine ⟨fun on => ?_, fun off por => ?_, fun off por => ?_⟩
  · refine ⟨idle s, idles, ?_⟩
    unfold idle
    rw [if_pos on]
    exact ⟨rfl, fun c => tget_map Chapel.fresh Chapel.tick rfl s.chapels c, rfl⟩
  · rw [idles]; unfold idle; simp [off, por]
  · rw [idles]; unfold idle; simp [off, por]

/-- Settles O3: the fields of the reset state, read off. -/
theorem resetValues : Obligations.ResetValues :=
  ⟨rfl, rfl, rfl, rfl, rfl, rfl, rfl, rfl, rfl, rfl, fun _ => ⟨rfl, rfl⟩, fun _ => rfl, rfl, rfl, rfl,
    fun p _ => by cases p <;> exact ⟨rfl, rfl⟩⟩

/-- Settles O4: at reset every register is within its range and every table is empty. -/
theorem resetMeetsInvariant : Obligations.ResetMeetsInvariant where
  limit := by decide
  rate := rate_reset
  timeout := timeout_reset
  alertCause := by decide
  alertEn := by decide
  wakeSrcEn := by decide
  interlock := by decide
  logs := by decide
  history := by decide
  stores := fun _ h => nomatch h
  hbm := rfl
  tag := rfl
  chapels := rfl
  cells := rfl
  hbmStacks := rfl
  links := rfl
  aisleBays := rfl

end Sys2Proof.Machine
end

section
/-! PROOFS. Clocks, rails, heat and bring-up (chapter 02): the limiter and the junction sensors, the loss of the main
domains, the steps of the bring-up, and the wakes that start it. -/

namespace Sys2Proof.Machine

/-! ### The limiter (R51, R53, R61) -/

section Limiter

variable {s : State}

theorem exec_limiterSample {watts : Nat} (on : s.mainOn = true) (active : s.pw.state = .active) :
    exec (.limiterSample watts) s = .next { s with
      emitted := []
      heat := { s.heat with
        watts := (watts :: s.heat.watts).take 10
        rate := if s.heat.shed ≠ .none then 1
          else limiterStep s.heat.rate ((watts :: s.heat.watts).take 10).sum ((watts :: s.heat.watts).take 10).length
            s.limitTenths } } :=
  show execLimiterSample watts s = _ from possible_pos (by simp [on, active])

/-- With no shed and no chancel sensor in THROTTLE the limiter's target is the limit itself. -/
theorem limitTenths_unthrottled (h : s.heat.shed = .none) (cool : ∀ i, 192 ≤ i → i < 200 → (s.sensor i).state < 2) :
    s.limitTenths = 10 * s.pw.limitW := by
  have none_throttles : ((List.range 8).any fun i => decide (2 ≤ (s.sensor (192 + i)).state)) = false :=
    List.any_eq_false.2 fun i hi => by
      have := List.mem_range.1 hi
      simpa using cool (192 + i) (by omega) (by omega)
  unfold State.limitTenths
  rw [if_neg (not_not.2 h), none_throttles]
  rfl

theorem limiterStep_above {r w n l : Nat} (h : l * n < w) : limiterStep r w n (10 * l) = max 1 (r - 1) :=
  if_pos (by rw [Nat.mul_assoc]; omega)

theorem limiterStep_below {r w n l : Nat} (h : 100 * w < 97 * l * n) : limiterStep r w n (10 * l) = min 16 (r + 1) := by
  have e : 97 * l * n = 97 * (l * n) := Nat.mul_assoc _ _ _
  unfold limiterStep
  rw [if_neg (by rw [Nat.mul_assoc]; omega), if_pos (by rw [show 97 * (10 * l) * n = 970 * (l * n) by ring]; omega)]

theorem limiterStep_between {r w n l : Nat} (h : w ≤ l * n) (h' : 97 * l * n ≤ 100 * w) :
    limiterStep r w n (10 * l) = r := by
  have e : 97 * l * n = 97 * (l * n) := Nat.mul_assoc _ _ _
  unfold limiterStep
  rw [if_neg (by rw [Nat.mul_assoc]; omega), if_neg (by rw [show 97 * (10 * l) * n = 970 * (l * n) by ring]; omega)]

end Limiter

/-- Settles O11: outside a shed the target is the limit, and the three cases are those of the limiter's step. -/
theorem limiterStepsRate : Obligations.LimiterStepsRate := by
  intro watts s on active w
  have sampled := exec_limiterSample (watts := watts) on active
  refine ⟨fun unshed cool => ?_, fun shed => ?_⟩
  · rw [if_neg (not_not.2 unshed), limitTenths_unthrottled unshed cool] at sampled
    refine ⟨fun above => ?_, fun below => ?_, fun low high => ?_⟩
    · rw [sampled, limiterStep_above above]
    · rw [sampled, limiterStep_below below]
    · rw [sampled, limiterStep_between low high]
  · rw [sampled, if_pos shed]

/-! ### Junction sensors (R61, R62, R65, R586) -/

section Sensors

variable {st : Nat} {xs : List Int}

theorem all_decide_true {p : Int → Prop} [DecidablePred p] (h : ∀ x ∈ xs, p x) :
    (xs.all fun x => decide (p x)) = true :=
  List.all_eq_true.2 fun x hx => decide_eq_true (h x hx)

theorem all_decide_false {p : Int → Prop} [DecidablePred p] (h : ∃ x ∈ xs, ¬p x) :
    (xs.all fun x => decide (p x)) = false := by
  obtain ⟨x, hx, hp⟩ := h
  exact List.all_eq_false.2 ⟨x, hx, by simpa using hp⟩

theorem highest_trip (h : ∀ x ∈ xs, 460 ≤ x) : junctionTable.highest xs = 3 := if_pos (all_decide_true h)

theorem highest_throttle (h : ∀ x ∈ xs, 420 ≤ x) (h' : ∃ x ∈ xs, x < 460) : junctionTable.highest xs = 2 := by
  unfold ThermalTable.highest junctionTable
  simp only [all_decide_true h, all_decide_false (p := (460 ≤ ·)) (by simpa using h')]
  rfl

theorem highest_warn (h : ∀ x ∈ xs, 380 ≤ x) (h' : ∃ x ∈ xs, x < 420) : junctionTable.highest xs = 1 := by
  obtain ⟨x, hx, low⟩ := h'
  unfold ThermalTable.highest junctionTable
  simp only [all_decide_true h, all_decide_false (p := (460 ≤ ·)) ⟨x, hx, by omega⟩,
    all_decide_false (p := (420 ≤ ·)) ⟨x, hx, by omega⟩]
  rfl

theorem highest_normal (h : ∃ x ∈ xs, x < 380) : junctionTable.highest xs = 0 := by
  obtain ⟨x, hx, low⟩ := h
  unfold ThermalTable.highest junctionTable
  simp only [all_decide_false (p := (460 ≤ ·)) ⟨x, hx, by omega⟩, all_decide_false (p := (420 ≤ ·)) ⟨x, hx, by omega⟩,
    all_decide_false (p := (380 ≤ ·)) ⟨x, hx, by omega⟩]
  rfl

theorem next_held {t : ThermalTable} (h : xs.length < 20 ∨ st = 3) : t.next st xs = st := if_pos h

/-- Twenty samples that all meet a higher state's threshold move the sensor up. -/
theorem next_rises {t : ThermalTable} (live : st < 3) (full : 20 ≤ xs.length) (h : st < t.highest xs) :
    t.next st xs = t.highest xs := by
  unfold ThermalTable.next
  rw [if_neg (by omega), if_pos h]

/-- Twenty samples at or below the leaving value move it down to the highest state they all meet. -/
theorem next_falls {t : ThermalTable} (live : st < 3) (full : 20 ≤ xs.length) (h : t.highest xs ≤ st) (warm : st ≠ 0)
    (cool : ∀ x ∈ xs, x ≤ t.leave st) : t.next st xs = t.highest xs := by
  unfold ThermalTable.next
  rw [if_neg (by omega), if_neg (by omega), if_pos ⟨warm, all_decide_true cool⟩]

theorem next_normal {t : ThermalTable} (full : 20 ≤ xs.length) (h : t.highest xs = 0) : t.next 0 xs = 0 := by
  unfold ThermalTable.next
  rw [if_neg (by omega), if_neg (by omega), if_neg (by simp)]

/-- A run that is full has a sample. -/
theorem exists_le_of_full {m : Int} (full : 20 ≤ xs.length) (h : ∀ x ∈ xs, x ≤ m) : ∃ x ∈ xs, x ≤ m := by
  obtain ⟨x, hx⟩ := List.exists_mem_of_length_pos (l := xs) (by omega)
  exact ⟨x, hx, h x hx⟩

end Sensors

/-- Settles O12: the samples' highest state decides, and a move is the sensor's alone but for a TRIP. -/
theorem junctionSensors : Obligations.JunctionSensors := by
  refine ⟨fun s i milliC on hi => show execSensorSample i milliC s = _ from possible_pos (by simp [on, hi]),
     fun st xs => next_held, fun st xs live full => ?moves,
    fun s i n on hi moved other => ?move, 
    fun s i aon hi => show execThermtripComparator i s = _ from possible_pos (by simp [aon, hi])⟩
  case moves =>
    refine ⟨fun hot => ?_, fun below hot warm => ?_, fun normal hot warm => ?_, fun warn cool => ?_,
      fun throttle cool hot => ?_, fun throttle cool cold => ?_, fun normal cold => ?_⟩
    · rw [next_rises live full (by rw [highest_trip hot]; exact live), highest_trip hot]
    · rw [next_rises live full (by rw [highest_throttle hot warm]; exact below), highest_throttle hot warm]
    · rw [next_rises live full (by rw [highest_warn hot warm, normal]; decide), highest_warn hot warm]
    · obtain ⟨x, hx, low⟩ := exists_le_of_full full cool
      have normal := highest_normal ⟨x, hx, by omega⟩
      subst warn
      rw [next_falls (t := junctionTable) live full (by omega) (by decide) cool, normal]
    · obtain ⟨x, hx, low⟩ := exists_le_of_full full cool
      have warn := highest_warn hot ⟨x, hx, by omega⟩
      subst throttle
      rw [next_falls (t := junctionTable) live full (by omega) (by decide) cool, warn]
    · have normal := highest_normal cold
      subst throttle
      rw [next_falls (t := junctionTable) live full (by omega) (by decide) cool, normal]
    · rw [normal, next_normal full (highest_normal cold)]
  case move =>
    intro u
    have changed : exec (.thermalStateChange i) s = .next (if n = 3 then
        if i < 192 then bayTrip u i else thermtripLow (faultP u 0x0102 (locSensor i) []) else u) := by
      subst moved
      change execThermalStateChange i s = _
      unfold execThermalStateChange
      exact possible_pos (by simp [on, hi, other])
    refine ⟨fun cool => ?_, fun trips bay => ?_, fun trips chancel => ?_⟩
    · rw [changed, if_neg (by omega)]
    · rw [changed, if_pos trips, if_pos bay]
    · rw [if_pos trips, if_neg (by omega)] at changed
      exact ⟨_, changed, rfl, rfl⟩

/-! ### Loss of the main domains (R40, R43, R46, R585) -/

section Loss

variable {s : State}

/-- Main reset into a CRYPT that was not requested: the main domains are lost, the cloister is as it was. -/
theorem mainLost_unrequestedCrypt (h : s.emitted = []) : s.MainLost (unrequestedCrypt s) where
  state := ⟨rfl, rfl, rfl, rfl⟩
  time := ⟨rfl, rfl, rfl⟩
  ports := ⟨rfl, rfl, rfl⟩
  febupor := rfl
  chapels := ⟨rfl, rfl, rfl, rfl, rfl⟩
  flash := rfl
  sealed := rfl
  silent := h

theorem cloisterCapsule_holds (u : State) (cause : Nat) :
    ∃ bytes, cloisterCapsule u cause = holdCapsule u (u.flash.capsuleGen + 1#32) bytes := by
  unfold cloisterCapsule
  split <;> exact ⟨_, rfl⟩

theorem latchP_eq (u : State) (cause : Nat) : latchP u cause = { u with
    clo := { u.clo with alertCause := u.clo.alertCause ||| 2#32 }
    flt := { u.flt with pLatched := true
                        pCause := if u.flt.pLatched then u.flt.pCause else cause
                        pTstamp := if u.flt.pLatched then u.flt.pTstamp else u.pw.tstamp } } := by
  unfold latchP
  by_cases h : u.flt.pLatched = true
  · simp only [if_pos h]
    rw [show u.flt = { u.flt with pLatched := true } by rw [← h]]
  · simp only [if_neg h]

/-- What the cloister does of a loss of clock or rail: it latches and makes a capsule, and the main domains are lost. -/
theorem mainLoss_lost {cause : Nat} (h : s.emitted = []) :
    s.MainLost (mainLoss s cause) ∧ (mainLoss s cause).hbm = {} ∧ (mainLoss s cause).hbmStacks = [] ∧
      (mainLoss s cause).pw.lossHeld = true ∧ (mainLoss s cause).pw.requested = false ∧
      (mainLoss s cause).pw.recording = true ∧ (mainLoss s cause).pw.wakes = [] ∧
      (mainLoss s cause).flt = { s.flt with
        departing := none, pLatched := true
        pCause := if s.flt.pLatched then s.flt.pCause else cause
        pTstamp := if s.flt.pLatched then s.flt.pTstamp else s.pw.tstamp } ∧
      (mainLoss s cause).clo = { s.clo with alertCause := s.clo.alertCause ||| 2, tagOwed := true } ∧
      (mainLoss s cause).flash.capsuleGen = s.flash.capsuleGen + 1 := by
  obtain ⟨bytes, made⟩ := cloisterCapsule_holds (latchP s cause) cause
  unfold mainLoss
  rw [made, latchP_eq]
  exact ⟨⟨⟨rfl, rfl, rfl, rfl⟩, ⟨rfl, rfl, rfl⟩, ⟨rfl, rfl, rfl⟩, rfl, ⟨rfl, rfl, rfl, rfl, rfl⟩, rfl, rfl, h⟩,
    rfl, rfl, rfl, rfl, rfl, rfl, rfl, rfl, rfl⟩

end Loss

/-- Settles O9: each loss is main reset into a CRYPT that was not requested; the two faults are first latched by the
cloister. -/
theorem mainPowerLoss : Obligations.MainPowerLoss := by
  intro s
  refine ⟨fun up => ?_, fun up on => ?_, fun on por awake staying => ?_, fun on crypt held => ?_⟩
  · obtain ⟨lost, rest⟩ := mainLoss_lost (s := { s with emitted := [] }) (cause := 0x0100) rfl
    exact ⟨_, show execClkLoss s = _ from possible_pos (decide_eq_true up), { lost with }, rest⟩
  · obtain ⟨lost, rest⟩ := mainLoss_lost (s := { s with emitted := [] }) (cause := 0x0101) rfl
    exact ⟨_, show execRailLoss s = _ from possible_pos (by simp [up, on]), { lost with }, rest⟩
  · refine ⟨unrequestedCrypt { s with emitted := [], pw := { s.pw with mainPg := false, lossHeld := false } }, ?_,
      { mainLost_unrequestedCrypt rfl with }, rfl, rfl, rfl, rfl, rfl, rfl, rfl, rfl, rfl, rfl⟩
    change execPwrgdMainFall s = _
    unfold execPwrgdMainFall
    rw [possible_pos on]
    simp [por, awake, staying]
  · change execPwrgdMainFall s = _
    unfold execPwrgdMainFall
    rw [possible_pos on]
    simp [crypt, held]

/-! ### Wakes and the start of a bring-up (R48, R71, R486-R488) -/

section Wakes

variable {s : State} {src : Nat}

theorem calSelect_clo (u : State) : calSelect u = { u with clo := (calSelect u).clo } := by
  unfold calSelect State.when
  dsimp only
  split <;> split <;> rfl

/-- A bring-up starts: the cloister chooses a calibration slot, and else only power changes. -/
theorem startBringUp_eq (u : State) : startBringUp u = { u with
    clo := (startBringUp u).clo
    pw := { u.pw with
      phase := .switches, state := .active, wakeHeld := false, thermtrip := false
      limitW := if u.pw.requested then u.pw.limitW else 1200 } } := calSelect_clo _

theorem wakeSource_unrecorded (h : s.pw.recording = false) : wakeSource s src = s := by
  unfold wakeSource
  rw [h]
  simp

/-- The first arrival of a source joins the record, and its event is held for each host. -/
theorem recordWake_first (new : ∀ w ∈ s.pw.wakes, w.source ≠ src) : State.Reports
    { s with pw := { s.pw with wakes := s.pw.wakes ++ [⟨src, s.pw.wakes.length + 1, 1, s.tsNow⟩] } }
    (recordWake s src) := by
  unfold recordWake
  rw [if_neg (by simpa using new)]
  exact State.Reports.foldl (fun _ _ => State.Reports.postOn _ _ _ _) _ _

theorem wakeEnabled_host (host : src < 0x10) : wakeEnabled s src = true := by
  unfold wakeEnabled
  rw [if_neg (by omega), if_neg (by omega), if_neg (by omega)]

/-- A host resume in a CRYPT already reached is recorded, and starts the bring-up or waits for PWRGD_MAIN. -/
theorem wakeSource_hostResume (host : src < 0x10) (por : s.pw.porDone = true) (recording : s.pw.recording = true)
    (staying : s.pw.entering = false) (crypt : s.pw.state = .crypt) (held : s.pw.phase = .held)
    (supplied : s.pw.lossHeld = false) (new : ∀ w ∈ s.pw.wakes, w.source ≠ src) :
    let t := wakeSource s src
    t.pw.wakes = s.pw.wakes ++ [⟨src, s.pw.wakes.length + 1, 1, s.tsNow⟩] ∧
      t.pw.wake0 = s.pw.wake0 ∧ t.pw.wake1 = s.pw.wake1 ∧
      (s.pw.mainPg = true → t.pw.state = .active ∧ t.pw.phase = .switches) ∧
      (s.pw.mainPg = false → t.pw.state = .crypt ∧ t.pw.phase = .held ∧ t.pw.wakeHeld = true ∧
        t.clo = { s.clo with alertCause := s.clo.alertCause ||| 1 }) ∧
      t = { s with emitted := t.emitted, pw := t.pw, clo := t.clo, h0 := t.h0, h1 := t.h1 } := by
  have recorded := recordWake_first new
  generalize made : recordWake s src = u at recorded
  have pw : u.pw = { s.pw with wakes := s.pw.wakes ++ [⟨src, s.pw.wakes.length + 1, 1, s.tsNow⟩] } := by
    rw [recorded]
  have clo : u.clo = s.clo := by rw [recorded]
  have woken : wakeSource s src = wakeBringUp u := by
    unfold wakeSource
    rw [por, recording, wakeEnabled_host host, made, Bool.and_self, Bool.and_self, if_pos rfl]
    have no_device : wakeDevice src = false := decide_eq_false (by omega)
    simp [pw, staying, crypt, held, no_device, State.when]
  rw [woken]
  unfold wakeBringUp
  rw [pw]
  simp only [supplied, Bool.false_eq_true, if_false]
  by_cases main : s.pw.mainPg = true
  · rw [if_pos main, startBringUp_eq, pw, recorded]
    simp [main]
  · rw [if_neg main, recorded]
    simp [main, crypt, held]

/-- An update of a port matters through what it makes of the port. -/
theorem State.modHp_congr {p : HPort} {f f' : HostPort → HostPort} (h : f (s.hp p) = f' (s.hp p)) :
    s.modHp p f = s.modHp p f' := by
  cases p
  · exact congrArg (fun x => { s with h0 := x }) h
  · exact congrArg (fun x => { s with h1 := x }) h

theorem exec_perstRelease_h0 (low : s.pw.perst0 = false) : exec (.perstRelease .h0) s =
    .next (wakeSource { s with emitted := [], pw := { s.pw with perst0 := true } } 1) := by
  change execPerstRelease .h0 s = _
  unfold execPerstRelease
  exact possible_pos (by simp [low])

theorem exec_perstRelease_h1 (low : s.pw.perst1 = false) : exec (.perstRelease .h1) s =
    .next (wakeSource { s with emitted := [], pw := { s.pw with perst1 := true } } 2) := by
  change execPerstRelease .h1 s = _
  unfold execPerstRelease
  exact possible_pos (by simp [low])

theorem exec_hostL1Exit {p : HPort} (h : (s.hp p).link = .l1 ∨ s.pw.state = .crypt) : exec (.hostL1Exit p) s =
    .next (wakeSource ({ s with emitted := [] }.modHp p fun h =>
      if h.link = LinkState.l1 then { h with link := .l0 } else h) (3 + portIx p)) :=
  show execHostL1Exit p s = _ from possible_pos (decide_eq_true h)

end Wakes

/-- Settles O14: each of the four is a host resume, which wakes a recording CRYPT and does nothing more elsewhere. -/
theorem hostResumesWakeThePackage : Obligations.HostResumesWakeThePackage := by
  refine ⟨fun s quiet => ⟨fun low => ?_, fun low => ?_, fun p l1 => ?_⟩,
    fun s i src resume low0 low1 por recording staying crypt held supplied new => ?_⟩
  · exact (exec_perstRelease_h0 low).trans (congrArg _ (wakeSource_unrecorded quiet))
  · exact (exec_perstRelease_h1 low).trans (congrArg _ (wakeSource_unrecorded quiet))
  · rw [exec_hostL1Exit (.inl l1), wakeSource_unrecorded (by simpa using quiet)]
    exact congrArg _ (State.modHp_congr (if_pos (by cases p <;> exact l1)))
  · simp only [List.mem_cons, Prod.mk.injEq, List.not_mem_nil, or_false] at resume
    rcases resume with ⟨rfl, rfl⟩ | ⟨rfl, rfl⟩ | ⟨rfl, rfl⟩ | ⟨rfl, rfl⟩
    · exact ⟨_, exec_perstRelease_h0 low0,
        wakeSource_hostResume (by decide) por recording staying crypt held supplied new⟩
    · exact ⟨_, exec_perstRelease_h1 low1,
        wakeSource_hostResume (by decide) por recording staying crypt held supplied new⟩
    · exact ⟨_, exec_hostL1Exit (.inr crypt),
        wakeSource_hostResume (by decide) por recording staying crypt held supplied new⟩
    · exact ⟨_, exec_hostL1Exit (.inr crypt),
        wakeSource_hostResume (by decide) por recording staying crypt held supplied new⟩

/-! ### A link that reaches L0 (R70-R72, R127) -/

theorem degradedLink_iff {rate width : Nat} :
    degradedLink rate width = false ↔ (rate = 64 ∨ rate = 32) ∧ (width = 16 ∨ width = 8) := by
  unfold degradedLink
  rw [Bool.not_eq_false', decide_eq_true_eq]

/-- Settles O15: a full link owes nothing; a degraded one posts at once where the ring is enabled, else it owes. -/
theorem hostLinkReachesL0 : Obligations.HostLinkReachesL0 := by
  intro s rate width on
  have full : (rate = 64 ∨ rate = 32) ∧ (width = 16 ∨ width = 8) → degradedLink rate width = false :=
    degradedLink_iff.2
  have degraded : ¬((rate = 64 ∨ rate = 32) ∧ (width = 16 ∨ width = 8)) → degradedLink rate width = true :=
    fun h => Bool.eq_true_of_not_eq_false (mt degradedLink_iff.1 h)
  refine ⟨fun high => ?_, fun high => ?_⟩
  · intro h u e
    have reached : exec (.linkL0Reached .h0 rate width) s = .next (flushEvents
        (if !degradedLink rate width then u else if s.h0.er.enable then postOn u .h0 e false
          else { u with h0 := { h with er := { h.er with degraded := some e } } }) .h0) := by
      change execLinkL0Reached .h0 rate width s = _
      unfold execLinkL0Reached
      exact possible_pos (by simp [on, high])
    refine ⟨fun f => ?_, fun d => ⟨fun enabled => ?_, fun disabled => ?_⟩⟩
    · rw [reached, full f]; rfl
    · rw [reached, degraded d, enabled]; rfl
    · rw [reached, degraded d, disabled]; rfl
  · intro h u e
    have reached : exec (.linkL0Reached .h1 rate width) s = .next (flushEvents
        (if !degradedLink rate width then u else if s.h1.er.enable then postOn u .h1 e false
          else { u with h1 := { h with er := { h.er with degraded := some e } } }) .h1) := by
      change execLinkL0Reached .h1 rate width s = _
      unfold execLinkL0Reached
      exact possible_pos (by simp [on, high])
    refine ⟨fun f => ?_, fun d => ⟨fun enabled => ?_, fun disabled => ?_⟩⟩
    · rw [reached, full f]; rfl
    · rw [reached, degraded d, enabled]; rfl
    · rw [reached, degraded d, disabled]; rfl

/-! ### The cloister's supply and its power-on (R43, R532, R577, R581) -/

section Cloister

variable {s : State}

theorem restoreCapsule_clo (u : State) : restoreCapsule u = { u with clo := (restoreCapsule u).clo } := by
  unfold restoreCapsule
  split
  · rfl
  · split <;> rfl

/-- What the cloister restores from CF as it leaves reset, but for the tag's capsule. -/
def State.restored (s : State) : State :=
  { s with
    emitted := [], pw := { s.pw with porDone := true, state := .crypt, recording := true }
    gate := { s.gate with base0 := s.flash.base0, base1 := s.flash.base1, base2 := s.flash.base2 }
    bel := match s.flash.belfry with
      | some cfg => applyCfg s.bel cfg
      | none => s.bel }

theorem exec_cloisterPorComplete (aon : s.pw.aonPg = true) (xtal : s.pw.xtal = true) (por : s.pw.porDone = false) :
    exec .cloisterPorComplete s = .next (if s.pw.mainPg then startBringUp (restoreCapsule s.restored)
      else restoreCapsule s.restored) := by
  have main : (restoreCapsule s.restored).pw.mainPg = s.pw.mainPg := by rw [restoreCapsule_clo]; rfl
  rw [← main]
  change execCloisterPorComplete s = _
  unfold execCloisterPorComplete State.restored
  rw [possible_pos (by simp [aon, xtal, por])]
  cases hb : s.flash.belfry <;> simp only [hb]

end Cloister

/-- Settles O7: a rise and a fall leave the dark package; the power-on's state is the record of what it restored. -/
theorem cloisterSupplyAndCrystal : Obligations.CloisterSupplyAndCrystal := by
  intro s
  refine ⟨fun low => show execPwrgdAonRise s = _ from possible_pos (by simp [low]),
    fun high => show execPwrgdAonFall s = _ from possible_pos high, fun aon unchecked unfailed => ⟨?_, ?_⟩,
    fun aon xtal por => ⟨_, exec_cloisterPorComplete aon xtal por, ?_⟩⟩
  · exact show execXtalCheckPass s = _ from possible_pos (by simp [aon, unchecked, unfailed])
  · exact show execXtalCheckFail s = _ from possible_pos (by simp [aon, unchecked, unfailed])
  · by_cases main : s.pw.mainPg = true
    · rw [if_pos main, startBringUp_eq, restoreCapsule_clo]
      exact ⟨rfl, rfl, rfl, fun off => absurd main (by simp [off]), fun _ => ⟨rfl, rfl⟩⟩
    · rw [if_neg main, restoreCapsule_clo]
      exact ⟨rfl, rfl, rfl, fun _ => rfl, fun on => absurd on main⟩

/-! ### The bring-up (R30, R32, R42, R418-R421) -/

section BringUp

variable {s : State}

theorem exec_pwrgdMainRise (low : s.pw.mainPg = false) (por : s.pw.porDone = true) (crypt : s.pw.state = .crypt)
    (held : s.pw.phase = .held) : exec .pwrgdMainRise s = .next (
      if s.pw.requested = false ∨ s.pw.wakeHeld = true
        then startBringUp { s with emitted := [], pw := { s.pw with mainPg := true } }
        else { s with emitted := [], pw := { s.pw with mainPg := true } }) := by
  change execPwrgdMainRise s = _
  unfold execPwrgdMainRise
  rw [possible_pos (by simp [low])]
  simp [por, crypt, held]

/-- What the initialisation of a stack may change outside that stack's own SPARE_MIN. -/
def State.Initialises (s t : State) : Prop :=
  t = { s with flt := t.flt, flash := t.flash, hbm := t.hbm, freeCount := t.freeCount }

theorem State.Initialises.refl (s : State) : s.Initialises s := rfl

theorem State.Initialises.trans {s t u : State} (h : s.Initialises t) (k : t.Initialises u) : s.Initialises u := by
  unfold State.Initialises at *
  rw [k, h]

theorem State.Initialises.foldl {α : Type} {f : State → α → State} (h : ∀ s x, State.Initialises s (f s x)) (l : List α)
    (s : State) : s.Initialises (l.foldl f s) := by
  induction l generalizing s with
  | nil => rfl
  | cons x l ih => exact (h s x).trans (ih _)

theorem initialises_logC (s : State) (a b c d : Nat) (e : List Byte) : s.Initialises (logC s a b c d e) := by
  rw [logC_state]
  rfl

theorem initialises_claimLists (s : State) (m id : Nat) : s.Initialises (claimLists s m id) := by
  unfold claimLists
  split <;> rfl

theorem initialises_repairPending (m : Nat) (noSpare : List Nat) (s : State) (row : Nat) :
    s.Initialises (repairPending m noSpare s row) := by
  have logged (cause : Nat) : s.Initialises (rowLog s m cause) :=
    State.Initialises.trans (t := s.freeNat.2) rfl (initialises_logC ..)
  unfold repairPending
  dsimp only
  split
  · exact logged _
  · split
    · exact logged _
    · rfl

/-- A stack's lists and rows are put in order before its SPARE_MIN is taken. -/
def repairStack (s : State) (m : Nat) (x : StackInit) : State :=
  if s.keeps then s
  else
    let s := claimLists s m x.stackId
    let s := (tget [] s.flash.rowsRepaired m).foldl (fun s r => repairRow s m r) s
    (tget [] s.flash.rowsPending m).foldl (repairPending m x.noSpare) s

theorem initStack_eq (s : State) (m : Nat) (x : StackInit) :
    initStack s m x = (repairStack s m x).modStack m fun k => { k with spareMin := x.spareMin } := rfl

theorem initialises_repairStack (s : State) (m : Nat) (x : StackInit) : s.Initialises (repairStack s m x) := by
  unfold repairStack
  split
  · rfl
  · exact ((initialises_claimLists s m _).trans 
      (State.Initialises.foldl (f := fun s r => repairRow s m r) (fun _ _ => rfl) _ _)).trans
      (State.Initialises.foldl (initialises_repairPending m _) _ _)

theorem initStack_state (s : State) (m : Nat) (x : StackInit) : initStack s m x = { s with
    flt := (initStack s m x).flt, flash := (initStack s m x).flash, hbm := (initStack s m x).hbm
    freeCount := (initStack s m x).freeCount, hbmStacks := (initStack s m x).hbmStacks } := by
  have repaired := initialises_repairStack s m x
  rw [initStack_eq]
  generalize repairStack s m x = u at *
  unfold State.Initialises at repaired
  rw [repaired]
  rfl

theorem spareMin_initStack (s : State) (m j : Nat) (x : StackInit) :
    ((initStack s m x).stack j).spareMin = if j = m then x.spareMin else (s.stack j).spareMin := by
  have same : (repairStack s m x).stack j = s.stack j := by
    rw [show repairStack s m x = _ from initialises_repairStack s m x]
    rfl
  rw [initStack_eq, State.stack_modStack]
  split
  · rfl
  · rw [same]

/-- After the stacks from `k` on have been initialised, those before `k` are as they were and the others have theirs. -/
theorem spareMin_initStacks (l : List StackInit) (k : Nat) (s : State) :
    (∀ j, j < k → (((l.zipIdx k).foldl (fun s e => initStack s e.2 e.1) s).stack j).spareMin = (s.stack j).spareMin) ∧
    (∀ m i, l[m]? = some i → (((l.zipIdx k).foldl (fun s e => initStack s e.2 e.1) s).stack (k + m)).spareMin =
      i.spareMin) := by
  induction l generalizing k s with
  | nil => exact ⟨fun _ _ => rfl, fun _ _ h => by simp at h⟩
  | cons x l ih =>
    obtain ⟨before, mine⟩ := ih (k + 1) (initStack s k x)
    simp only [List.zipIdx_cons, List.foldl_cons]
    refine ⟨fun j hj => ?_, fun m i hm => ?_⟩
    · rw [before j (by omega), spareMin_initStack, if_neg (by omega)]
    · cases m with
      | zero =>
        obtain rfl : x = i := by simpa using hm
        refine (before k (by omega)).trans ?_
        rw [spareMin_initStack, if_pos rfl]
      | succ m =>
        rw [show k + (m + 1) = k + 1 + m by omega]
        exact mine m i (by simpa using hm)

theorem initStacks_state (l : List (StackInit × Nat)) (s : State) :
    l.foldl (fun s e => initStack s e.2 e.1) s = { s with
      flt := (l.foldl (fun s e => initStack s e.2 e.1) s).flt
      flash := (l.foldl (fun s e => initStack s e.2 e.1) s).flash
      hbm := (l.foldl (fun s e => initStack s e.2 e.1) s).hbm
      freeCount := (l.foldl (fun s e => initStack s e.2 e.1) s).freeCount
      hbmStacks := (l.foldl (fun s e => initStack s e.2 e.1) s).hbmStacks } := by
  induction l generalizing s with
  | nil => rfl
  | cons e l ih =>
    rw [List.foldl_cons, ih, initStack_state]

/-- The torn calibration slots are logged at a main bring-up (R494). -/
def logTorn (s : State) : State :=
  [s.flash.slotA, s.flash.slotB].foldl (fun s x => if x.st = .torn then logC s 0 0x0106 locCloister 255 [] else s) s

theorem logTorn_state (s : State) : logTorn s = { s with flt := (logTorn s).flt } := by
  have logged (u : State) (x : CalSlot) : (if x.st = .torn then logC u 0 0x0106 locCloister 255 [] else u) =
      { u with flt := (if x.st = .torn then logC u 0 0x0106 locCloister 255 [] else u).flt } := by
    split
    · exact logC_state ..
    · rfl
  unfold logTorn
  simp only [List.foldl_cons, List.foldl_nil]
  rw [logged, logged]

theorem exec_firmwareReady {x : List StackInit} (h : s.pw.phase = .chancels) (eight : x.length = 8) :
    exec (.firmwareReady x) s = .next (
      let u := { s with emitted := [], pw := { s.pw with phase := .firmware } }
      x.zipIdx.foldl (fun s e => initStack s e.2 e.1)
        (if s.resetRuns then u else { logTorn u with gate := { (logTorn u).gate with sweeping := [1, 2] } })) :=
  show execFirmwareReady x s = _ from possible_pos (by simp [h, eight])

theorem setTrain_state (s : State) (train rate : Nat → Nat) :
    setTrain s train rate = { s with hbmStacks := (setTrain s train rate).hbmStacks } := by
  unfold setTrain
  generalize List.range 8 = l
  induction l generalizing s with
  | nil => rfl
  | cons m l ih => rw [List.foldl_cons, ih]; rfl

theorem stack_foldl_modStack {l : List Nat} (once : l.Nodup) (f : Nat → Stack → Stack) (s : State) (j : Nat) :
    (l.foldl (fun s m => s.modStack m (f m)) s).stack j = if j ∈ l then f j (s.stack j) else s.stack j := by
  induction l generalizing s with
  | nil => rfl
  | cons m l ih =>
    obtain ⟨fresh, once⟩ := List.nodup_cons.1 once
    rw [List.foldl_cons, ih once, State.stack_modStack]
    by_cases h : j = m
    · subst h
      simp [fresh]
    · simp [h]

theorem stack_setTrain {train rate : Nat → Nat} {m : Nat} (h : m < 8) (sound : (s.stack m).train ≠ 3) :
    (setTrain s train rate).stack m = { s.stack m with train := train m, rate := rate m } := by
  refine (stack_foldl_modStack List.nodup_range
    (fun m x => { x with train := if x.train = 3 then 3 else train m, rate := rate m }) s m).trans ?_
  rw [if_pos (List.mem_range.2 h), if_neg sound]

theorem exec_hbmTrainingComplete {best : List Nat} (h : s.pw.phase = .firmware) (eight : best.length = 8) :
    exec (.hbmTrainingComplete true best) s = .next (
      let u := { s with emitted := [], pw := { s.pw with phase := .hbmDone } }
      if s.keeps && !s.pw.hbmLost then setTrain u (fun _ => 2) fun m => (s.stack m).rate
      else if !s.keeps && !s.pw.hbmLost && s.storedFits best then
        setTrain u (fun _ => 0) fun _ => (s.calSlot.map CalSlot.rate).getD 0
      else fullTraining u best) :=
  show execHbmTrainingComplete true best s = _ from possible_pos (by simp [h, eight])

theorem reportOwed_none (h : s.clo.ilk.owed = []) : reportOwed s = s := by
  unfold reportOwed
  rw [h]
  change { s with clo := { s.clo with ilk := { s.clo.ilk with owed := [] } } } = s
  rw [← h]

theorem finishReset_none (h : s.resetRuns = false) : finishReset s = s := by
  unfold finishReset
  rw [List.filter_eq_nil_iff.2 fun k hk => List.any_eq_false.1 h k hk]
  rfl

theorem releaseBells_none (h : s.feb.heldBells = []) : releaseBells s = s := by
  unfold releaseBells
  rw [h]
  change { s with feb := { s.feb with heldBells := [] } } = s
  rw [← h]

theorem hp_signal_ne {p q : HPort} (fn v : Nat) (h : q ≠ p) : (signal s p fn v).hp q = s.hp q := by
  unfold signal
  dsimp only
  split
  · exact State.hp_modHp_ne _ _ h
  · rfl

theorem hp_writeEvent_ne {p q : HPort} (e : Event) (h : q ≠ p) : (writeEvent s p e).hp q = s.hp q := by
  have written (f : HostPort → HostPort) (x : Emission) : (((wakeLink s p).emit x).modHp p f).hp q = s.hp q :=
    (State.hp_modHp_ne _ _ h).trans (State.hp_modHp_ne _ _ h)
  unfold writeEvent
  dsimp only
  split
  · exact (hp_signal_ne _ _ h).trans (written _ _)
  · exact written _ _

/-- Posting on one port leaves the other port as it was. -/
theorem hp_postOn_ne {p q : HPort} (e : Event) (exempt : Bool) (h : q ≠ p) : (postOn s p e exempt).hp q = s.hp q := by
  unfold postOn
  dsimp only
  split_ifs <;> simp only [hp_writeEvent_ne e h, State.hp_modHp_ne _ _ h]

theorem hp_postPort_ne {p q : HPort} (code chapel : Nat) (detail : List Byte) (h : q ≠ p) :
    (postPort s p code chapel detail).hp q = s.hp q := by
  unfold postPort
  split
  · rfl
  · exact hp_postOn_ne _ _ h

/-- The PACKAGE_READY events on the hosts whose link is up. -/
def postReady (s : State) : State :=
  bothPorts.foldl (fun s p => if (s.hp p).link = .l0 then postPort s p 0x0001 255 [0xB0#8] else s) s

theorem postReady_reports (s : State) : State.Reports s (postReady s) :=
  State.Reports.foldl (fun s p => by
    split
    · exact State.Reports.postPort _ _ _ _ _
    · rfl) _ _

theorem postReady_links (s : State) : postReady s =
    bothPorts.foldl (fun t p => if (s.hp p).link = .l0 then postPort t p 0x0001 255 [0xB0#8] else t) s := by
  unfold postReady bothPorts
  simp only [List.foldl_cons, List.foldl_nil]
  have h1 : State.hp (if (s.hp .h0).link = .l0 then postPort s .h0 0x0001 255 [0xB0#8] else s) .h1 = s.hp .h1 := by
    split
    · exact hp_postPort_ne _ _ _ (by decide)
    · rfl
  rw [h1]

/-- With nothing owed, no PKG_RESET running and no doorbell held, only the events follow. -/
theorem afterReady_nothing (owed : s.clo.ilk.owed = []) (running : s.resetRuns = false)
    (bells : s.feb.heldBells = []) : releaseBells (finishReset (reportOwed (postReady s))) = postReady s := by
  have posted : postReady s = _ := postReady_reports s
  rw [reportOwed_none, finishReset_none, releaseBells_none] <;> rw [posted] <;> assumption

theorem startFloor_eq (s : State) : startFloor s = { s with
    heat := if s.clo.ilk.state = 0 then s.heat else { s.heat with shed := .floor, ackNeeded := true } } := by
  unfold startFloor
  split <;> rfl

theorem exec_packageReady (h : s.pw.phase = .hbmDone) (swept : s.gate.sweeping = []) :
    exec .packageReady s = .next (releaseBells (finishReset (reportOwed (postReady (startFloor { s with
      emitted := []
      pw := { s.pw with
        phase := .ready, recording := false, requested := false, hbmKeep := false, hbmLost := false } }))))) :=
  show execPackageReady s = _ from possible_pos (by simp [h, swept])

end BringUp

/-- Settles O8: each step of the bring-up by its own law, in the order of Table 02-3. -/
theorem bringUpSteps : Obligations.BringUpSteps := by
  refine ⟨fun s => ⟨fun low por crypt held => ⟨fun starts => ?_, fun requested unheld => ?_⟩, fun h => ?_, fun h => ?_,
    fun h => ?_⟩, fun s => ⟨fun x h eight => ?firmware, fun best h eight => ?training,
      fun h swept running bells owed live => ?ready⟩⟩
  · refine ⟨_, exec_pwrgdMainRise low por crypt held, ?_⟩
    rw [if_pos starts, startBringUp_eq]
  · rw [exec_pwrgdMainRise low por crypt held, if_neg (by simp [requested, unheld])]
  · exact show execMainDomainsStable s = _ from possible_pos (decide_eq_true h)
  · exact show execPllLock s = _ from possible_pos (decide_eq_true h)
  · exact show execChancelResetRelease s = _ from possible_pos (decide_eq_true h)
  case firmware =>
    have torn := logTorn_state { s with emitted := [], pw := { s.pw with phase := .firmware } }
    refine ⟨_, exec_firmwareReady h eight, ?_, fun m i hm => ?_, fun main => ?_, ?_⟩
    · rw [initStacks_state]
      split
      · rfl
      · rw [torn]
    · simpa only [Nat.zero_add] using (spareMin_initStacks x 0 _).2 m i hm
    · rw [initStacks_state, main, torn]
      rfl
    · rw [initStacks_state]
      split
      · rfl
      · rw [torn]
  case training =>
    refine ⟨_, exec_hbmTrainingComplete h eight, fun keeps kept => ?_, fun r fits lost unfit => ?_⟩
    · rw [keeps, kept]
      exact ⟨setTrain_state .., fun m hm sound => stack_setTrain hm sound⟩
    · rw [lost, unfit]
      simp only [Bool.false_and, Bool.and_false, Bool.false_eq_true, if_false]
      unfold fullTraining
      rw [fits]
      exact ⟨setTrain_state .., fun m hm sound => stack_setTrain hm sound⟩
  case ready =>
    rw [exec_packageReady h swept, afterReady_nothing, startFloor_eq, postReady_links]
    · rfl
    all_goals rw [startFloor_eq]; assumption

end Sys2Proof.Machine
end


section
/-! PROOFS. Doorbells, ring configuration and the vectors' masks (R78-R99, R593). -/

namespace Sys2Proof.Machine

/-! ### Doorbells (R78-R84) -/

section Bells

variable {s : State} {p : HPort}

theorem leaveIdle_awake (h : s.pw.state ≠ .idle) : leaveIdle s = s := if_neg fun idle => h idle.1

theorem toNat_index {idx : Nat} (h : idx < 65536) : (BitVec.ofNat 64 idx).toNat = idx := by
  rw [BitVec.toNat_ofNat, Nat.mod_eq_of_lt (by omega)]

theorem bellIndex_index {idx : Nat} (h : idx < 65536) : bellIndex (BitVec.ofNat 64 idx) = idx := by
  rw [bellIndex, toNat_index h, Nat.mod_eq_of_lt h]

theorem ringBell_misformed {offset size : Nat} {v : BitVec 64} (awake : s.pw.state ≠ .idle)
    (h : (size ≠ 4 ∧ size ≠ 8) ∨ offset % 8 ≠ 0) : ringBell s p offset size v = doorbellBad s p offset v := by
  have bad : doorbellForm offset size = false := decide_eq_false (by omega)
  unfold ringBell
  rw [leaveIdle_awake awake, bad]
  rfl

/-- A well-formed doorbell with no reserved bit takes effect at once, or is held until package-ready. -/
theorem ringBell_formed {offset size idx : Nat} (awake : s.pw.state ≠ .idle) (aligned : offset % 8 = 0)
    (width : size = 4 ∨ size = 8) (small : idx < 65536) : ringBell s p offset size (BitVec.ofNat 64 idx) =
      if s.pw.phase = .ready then acceptBell s ⟨p, offset, size, BitVec.ofNat 64 idx⟩
      else { s with feb := { s.feb with
        heldBells := s.feb.heldBells ++ [⟨p, offset, size, BitVec.ofNat 64 idx⟩] } } := by
  have good : doorbellForm offset size = true := decide_eq_true ⟨width, aligned⟩
  have clean : bellReserved size (BitVec.ofNat 64 idx) = false := by
    refine decide_eq_false ?_
    rw [toNat_index small]
    split <;> omega
  unfold ringBell
  rw [leaveIdle_awake awake, good, clean]
  rfl

/-- What identifies a command of the sequence: its number, its place in a ring, and when it was accepted. -/
def Cmd.origin (c : Cmd) : Nat × HPort × Nat × Nat × BitVec 64 := (c.n, c.port, c.ring, c.slot, c.accepted)

/-- `t` is `s` with `n` more entries of ring `i`, from `slot` on, at the end of the command sequence. -/
structure Exposes (p : HPort) (i n slot : Nat) (s t : State) : Prop where
  ring : t.ring p i = s.ring p i
  nextCmd : t.feb.nextCmd = s.feb.nextCmd + n
  cmds : t.feb.cmds.map Cmd.origin = s.feb.cmds.map Cmd.origin ++ (List.range n).map fun k =>
    (s.feb.nextCmd + k, p, i, (slot + k) % 2 ^ (s.ring p i).log2, s.pw.tstamp)
  frame : t = { s with
    emitted := t.emitted, h0 := t.h0, h1 := t.h1
    feb := { s.feb with cmds := t.feb.cmds, nextCmd := t.feb.nextCmd } }

theorem origin_modCmd (s : State) (n : Nat) {f : Cmd → Cmd} (h : ∀ c, (f c).origin = c.origin) :
    (s.modCmd n f).feb.cmds.map Cmd.origin = s.feb.cmds.map Cmd.origin := by
  rw [State.modCmd, List.map_map]
  refine List.map_congr_left fun c _ => ?_
  simp only [Function.comp_apply]
  split
  · exact h c
  · rfl

theorem ring_wakeLink (s : State) (p q : HPort) (i : Nat) : (wakeLink s p).ring q i = s.ring q i := by
  unfold wakeLink State.ring
  by_cases h : q = p
  · subst h
    rw [State.hp_modHp]
    split <;> rfl
  · rw [State.hp_modHp_ne (s := s) _ h]

theorem wakeLink_state (s : State) (p : HPort) :
    wakeLink s p = { s with h0 := (wakeLink s p).h0, h1 := (wakeLink s p).h1 } := by
  cases p <;> rfl

/-- A fetch is issued or not: the sequence, the rings and the rest of the package stay. -/
theorem exposes_fetchCmd (s : State) (c : Cmd) (p : HPort) (i : Nat) : Exposes p i 0 0 s (fetchCmd s c) := by
  unfold fetchCmd
  split
  · refine ⟨ring_wakeLink s c.port p i, ?_, ?_, ?_⟩
    · rw [wakeLink_state]; rfl
    · refine (origin_modCmd _ c.n (f := fun c => { c with fetching := true }) fun _ => rfl).trans ?_
      rw [wakeLink_state]
      simp
    · rw [wakeLink_state]; rfl
  · exact ⟨rfl, rfl, by simp, rfl⟩

theorem exposes_exposeEntries (p : HPort) (i n slot : Nat) (s : State) (h : slot < 2 ^ (s.ring p i).log2) :
    Exposes p i n slot s (exposeEntries p i n slot s) := by
  induction n generalizing slot s with
  | zero => exact ⟨rfl, rfl, by simp [exposeEntries], rfl⟩
  | succ n ih =>
    generalize hc : ({ n := s.feb.nextCmd, port := p, ring := i, slot := slot, accepted := s.pw.tstamp } : Cmd) = c
    generalize hu : ({ s with feb := { s.feb with
      nextCmd := s.feb.nextCmd + 1, cmds := s.feb.cmds ++ [c] } } : State) = u
    have fetched := exposes_fetchCmd u c p i
    have same : u.ring p i = s.ring p i := by rw [← hu]; rfl
    have rest := ih ((slot + 1) % 2 ^ (s.ring p i).log2) (fetchCmd u c)
      (by rw [fetched.ring, same]; exact Nat.mod_lt _ (Nat.two_pow_pos _))
    have opened : exposeEntries p i (n + 1) slot s =
        exposeEntries p i n ((slot + 1) % 2 ^ (s.ring p i).log2) (fetchCmd u c) := by
      rw [← same, ← hu, ← hc]; rfl
    rw [opened]
    generalize exposeEntries p i n _ (fetchCmd u c) = t at rest
    have pw : (fetchCmd u c).pw = s.pw := by rw [fetched.frame, ← hu]
    refine ⟨by rw [rest.ring, fetched.ring, same], ?_, ?_, ?_⟩
    · rw [rest.nextCmd, fetched.nextCmd, ← hu]
      show s.feb.nextCmd + 1 + 0 + n = s.feb.nextCmd + (n + 1)
      omega
    · rw [rest.cmds, fetched.cmds, fetched.nextCmd, fetched.ring, same, pw, List.range_succ_eq_map]
      simp only [← hu, ← hc]
      simp [Cmd.origin, Nat.mod_eq_of_lt h, Nat.add_assoc, Nat.add_comm 1, Function.comp_def]
    · rw [rest.frame, fetched.frame, ← hu]

theorem acceptBell_tail {i size : Nat} {v : BitVec 64} (h : i < 64) :
    acceptBell s ⟨p, 0x1000 + 8 * i, size, v⟩ = acceptTail s p (0x1000 + 8 * i) v :=
  if_pos (show 0x1000 + 8 * i < 0x1200 by omega)

theorem acceptBell_head {i size : Nat} {v : BitVec 64} (h : i < 64) :
    acceptBell s ⟨p, 0x1200 + 8 * i, size, v⟩ = acceptCplHead s p (0x1200 + 8 * i) v :=
  (if_neg (show ¬0x1200 + 8 * i < 0x1200 by omega)).trans (if_pos (show 0x1200 + 8 * i < 0x1400 by omega))

theorem doorbellBad_index {offset idx : Nat} (small : idx < 65536) :
    doorbellBad s p offset (BitVec.ofNat 64 idx) = postPort s p 0x0002 255 (le 4 offset ++ le 4 idx) := by
  rw [doorbellBad, toNat_index small]

section Tail

variable {i idx : Nat} (small : idx < 65536)

include small

theorem acceptTail_refused (bad : (s.ring p i).enable = false ∨ 2 ^ (s.ring p i).log2 ≤ idx) :
    acceptTail s p (0x1000 + 8 * i) (BitVec.ofNat 64 idx) =
      postPort s p 0x0002 255 (le 4 (0x1000 + 8 * i) ++ le 4 idx) := by
  unfold acceptTail
  simp only [bellIndex_index small, Nat.add_sub_cancel_left, Nat.mul_div_cancel_left i (show 0 < 8 by omega)]
  rw [if_pos (by rcases bad with h | h <;> simp [h]), doorbellBad_index small]

theorem acceptTail_accepted (on : (s.ring p i).enable = true) (inside : idx < 2 ^ (s.ring p i).log2) :
    acceptTail s p (0x1000 + 8 * i) (BitVec.ofNat 64 idx) = if idx = (s.ring p i).sqTail then s else
      (exposeEntries p i ((idx + 2 ^ (s.ring p i).log2 - (s.ring p i).sqTail) % 2 ^ (s.ring p i).log2)
        (s.ring p i).sqTail s).modRing p i fun r => { r with sqTail := idx } := by
  unfold acceptTail
  simp only [bellIndex_index small, Nat.add_sub_cancel_left, Nat.mul_div_cancel_left i (show 0 < 8 by omega)]
  rw [if_neg (by simp [on, inside])]

theorem acceptCplHead_refused (bad : (s.ring p i).enable = false ∨ 2 ^ (s.ring p i).log2 ≤ idx) :
    acceptCplHead s p (0x1200 + 8 * i) (BitVec.ofNat 64 idx) =
      postPort s p 0x0002 255 (le 4 (0x1200 + 8 * i) ++ le 4 idx) := by
  unfold acceptCplHead
  simp only [bellIndex_index small, Nat.add_sub_cancel_left, Nat.mul_div_cancel_left i (show 0 < 8 by omega)]
  rw [if_pos (by rcases bad with h | h <;> simp [h]), doorbellBad_index small]

theorem acceptCplHead_accepted (on : (s.ring p i).enable = true) (inside : idx < 2 ^ (s.ring p i).log2) :
    acceptCplHead s p (0x1200 + 8 * i) (BitVec.ofNat 64 idx) = if idx = (s.ring p i).cqHead then s else
      let left := (s.ring p i).cqUsed -
        (idx + 2 ^ (s.ring p i).log2 - (s.ring p i).cqHead) % 2 ^ (s.ring p i).log2
      flushRing ((s.modRing p i fun r => { r with cqHead := idx, cqUsed := left, armed := decide (left = 0) }).when
        (decide (0 < left)) fun s => signal s p 0 (i + 1)) p i := by
  unfold acceptCplHead
  simp only [bellIndex_index small, Nat.add_sub_cancel_left, Nat.mul_div_cancel_left i (show 0 < 8 by omega)]
  rw [if_neg (by simp [on, inside])]

theorem acceptEvHead_refused (bad : (s.hp p).er.enable = false ∨ 2 ^ (s.hp p).er.log2 ≤ idx) :
    acceptEvHead s p 0x1400 (BitVec.ofNat 64 idx) = postPort s p 0x0002 255 (le 4 0x1400 ++ le 4 idx) := by
  unfold acceptEvHead
  simp only [bellIndex_index small]
  rw [if_pos (by rcases bad with h | h <;> simp [h]), doorbellBad_index small]

theorem acceptEvHead_accepted (on : (s.hp p).er.enable = true) (inside : idx < 2 ^ (s.hp p).er.log2) :
    acceptEvHead s p 0x1400 (BitVec.ofNat 64 idx) = if idx = (s.hp p).er.head then s else
      let left := (s.hp p).er.used - (idx + 2 ^ (s.hp p).er.log2 - (s.hp p).er.head) % 2 ^ (s.hp p).er.log2
      flushEvents ((s.modHp p fun h => { h with er := { h.er with
        head := idx, used := left, armed := decide (left = 0) } }).when
        (decide (0 < left)) fun s => signal s p 0 0) p := by
  unfold acceptEvHead
  simp only [bellIndex_index small]
  rw [if_neg (by simp [on, inside])]

end Tail

/-- New entries of a ring and its new tail change nothing else of the package but what fetches emit and wake. -/
theorem exposes_tail {i n slot idx : Nat} {t : State} (h : Exposes p i n slot s t) :
    let u := t.modRing p i fun r => { r with sqTail := idx }
    (u.ring p i).sqTail = idx ∧ (u.ring p i).sqBase = (s.ring p i).sqBase ∧
      u.feb.nextCmd = s.feb.nextCmd + n ∧ u.feb.cmds.map Cmd.origin = s.feb.cmds.map Cmd.origin ++
        ((List.range n).map fun k => (s.feb.nextCmd + k, p, i, (slot + k) % 2 ^ (s.ring p i).log2, s.pw.tstamp)) ∧
      u = { s with
        emitted := u.emitted, h0 := u.h0, h1 := u.h1
        feb := { s.feb with cmds := u.feb.cmds, nextCmd := u.feb.nextCmd } } := by
  refine ⟨?_, ?_, ?_, ?_, ?_⟩
  · rw [State.ring_modRing]
  · rw [State.ring_modRing, h.ring]
  · rw [State.modRing_feb, h.nextCmd]
  · rw [State.modRing_feb, h.cmds]
  · rw [h.frame]
    cases p <;> rfl

end Bells

/-- Settles O17: a doorbell of a right form takes effect by its offset: it is refused, idle, or moves its index. -/
theorem doorbells : Obligations.Doorbells := by
  refine ⟨fun s p i size idx on hi width small awake => ?tail, fun s p size idx on width small awake ready =>
    ⟨fun i hi => ?cpl, ?event⟩⟩
  case tail =>
    have rung : exec (.doorbellWrite p (0x1000 + 8 * i) size (BitVec.ofNat 64 idx)) s =
        .next (ringBell { s with emitted := [] } p (0x1000 + 8 * i) size (BitVec.ofNat 64 idx)) :=
      show execDoorbellWrite _ _ _ _ s = _ from possible_pos (by simp [on]; omega)
    rw [ringBell_formed (s := { s with emitted := [] }) awake (by omega) width small,
      acceptBell_tail hi] at rung
    have accepts := acceptTail_accepted (s := { s with emitted := [] }) (p := p) (i := i) small
    intro r c n
    refine ⟨fun ready en inside inner moved => ?_, fun ready en inside same => ?_, fun ready bad => ?_,
      fun off sz v low high bad => ?_, fun held => ?_⟩
    · refine ⟨_, rung.trans (congrArg _ ((if_pos ready).trans ((accepts en inside).trans 
        (if_neg moved)))), exposes_tail (s := { s with emitted := [] })
        (exposes_exposeEntries p i n _ _ inner)⟩
    · exact rung.trans (congrArg _ ((if_pos ready).trans ((accepts en inside).trans (if_pos same))))
    · exact rung.trans (congrArg _ ((if_pos ready).trans (acceptTail_refused small bad)))
    · refine (show execDoorbellWrite p off sz v s = _ from possible_pos (by simp [on, low, high])).trans ?_
      exact congrArg _ (ringBell_misformed awake bad)
    · exact rung.trans (congrArg _ (if_neg held))
  case cpl =>
    have rung : exec (.completionHeadDoorbell p (0x1200 + 8 * i) size (BitVec.ofNat 64 idx)) s =
        .next (ringBell { s with emitted := [] } p (0x1200 + 8 * i) size (BitVec.ofNat 64 idx)) :=
      show execCompletionHeadDoorbell _ _ _ _ s = _ from possible_pos (by simp [on]; omega)
    rw [ringBell_formed (s := { s with emitted := [] }) awake (by omega) width small,
      acceptBell_head hi, if_pos ready] at rung
    have accepts := acceptCplHead_accepted (s := { s with emitted := [] }) (p := p) (i := i) small
    intro r c left u
    refine ⟨fun en inside same => ?_, fun en inside moved => ⟨fun none => ?_, fun some => ?_⟩, fun bad => ?_⟩
    · exact rung.trans (congrArg _ ((accepts en inside).trans (if_pos same)))
    · refine rung.trans (congrArg _ ((accepts en inside).trans ((if_neg moved).trans ?_)))
      exact congrArg (flushRing · p i) (when_neg (decide_eq_false (by rw [Nat.not_lt]; exact none.le)))
    · refine rung.trans (congrArg _ ((accepts en inside).trans ((if_neg moved).trans ?_)))
      exact congrArg (flushRing · p i) (when_pos (decide_eq_true some))
    · exact rung.trans (congrArg _ (acceptCplHead_refused small bad))
  case event =>
    have rung : exec (.eventHeadDoorbell p 0x1400 size (BitVec.ofNat 64 idx)) s =
        .next (ringBell { s with emitted := [] } p 0x1400 size (BitVec.ofNat 64 idx)) :=
      show execEventHeadDoorbell _ _ _ _ s = _ from possible_pos (by simp [on])
    rw [ringBell_formed (s := { s with emitted := [] }) awake (by omega) width small, if_pos ready] at rung
    have accepts := acceptEvHead_accepted (s := { s with emitted := [] }) (p := p) small
    intro r c left u
    refine ⟨fun en inside same => ?_, fun en inside moved => ⟨fun none => ?_, fun some => ?_⟩, fun bad => ?_⟩
    · exact rung.trans (congrArg _ ((accepts en inside).trans (if_pos same)))
    · refine rung.trans (congrArg _ ((accepts en inside).trans ((if_neg moved).trans ?_)))
      exact congrArg (flushEvents · p) (when_neg (decide_eq_false (by rw [Nat.not_lt]; exact none.le)))
    · refine rung.trans (congrArg _ ((accepts en inside).trans ((if_neg moved).trans ?_)))
      exact congrArg (flushEvents · p) (when_pos (decide_eq_true some))
    · exact rung.trans (congrArg _ (acceptEvHead_refused small bad))

end Sys2Proof.Machine
end

section
/-! PROOFS. Writes of the ring configuration blocks (R96-R99, R127). -/

namespace Sys2Proof.Machine

/-! ### The fields of a configuration block -/

theorem fieldN_left {a c : List Byte} {n v : Nat} (h : v < 256 ^ n) (ha : a = le n v) : fieldN (a ++ c) 0 n = v := by
  subst ha
  rw [fieldN, sliceB_left _ _ _ (length_le n v), leNat_le n v h]

theorem fieldN_right {a c : List Byte} {n m : Nat} (h : a.length = n) : fieldN (a ++ c) n m = fieldN c 0 m := by
  rw [fieldN, sliceB_right _ _ _ _ h]
  rfl

theorem patch_append {a old new rest : List Byte} {n : Nat} (ha : a.length = n) (h : old.length = new.length) :
    patch (a ++ (old ++ rest)) n new = a ++ (new ++ rest) := by
  subst ha
  unfold patch
  rw [List.take_left, ← h, ← List.drop_drop, List.drop_left, List.drop_left, List.append_assoc]

/-- The word of the ENABLE bit and LOG2_ENTRIES. -/
def cfgWord (enable : Bool) (log2 : Nat) : Nat := (if enable then 2 ^ 31 else 0) + log2

theorem cfgBytes_eq (b1 b2 : Nat) (en : Bool) (lg : Nat) :
    cfgBytes b1 b2 en lg = le 8 b1 ++ (le 8 b2 ++ le 4 (cfgWord en lg)) := List.append_assoc ..

theorem length_cfgBytes (b1 b2 : Nat) (en : Bool) (lg : Nat) : (cfgBytes b1 b2 en lg).length = 20 := by
  simp [cfgBytes_eq, length_le]

section Fields

variable {b1 b2 lg : Nat} {en : Bool}

theorem cfgWord_lt (h : lg < 16) : cfgWord en lg < 256 ^ 4 := by
  cases en <;> simp only [cfgWord, if_true, if_false, Bool.false_eq_true] <;> omega

theorem fieldN_cfgBytes_base1 (h : b1 < 2 ^ 64) : fieldN (cfgBytes b1 b2 en lg) 0 8 = b1 := by
  rw [cfgBytes_eq, fieldN_left (by simpa using h) rfl]

theorem fieldN_cfgBytes_base2 (h : b2 < 2 ^ 64) : fieldN (cfgBytes b1 b2 en lg) 8 8 = b2 := by
  rw [cfgBytes_eq, fieldN_right (length_le ..), fieldN_left (by simpa using h) rfl]

theorem fieldN_cfgBytes_word (h : lg < 16) : fieldN (cfgBytes b1 b2 en lg) 16 4 = cfgWord en lg := by
  rw [cfgBytes_eq, ← List.append_assoc, fieldN_right (by simp [length_le]), ← List.append_nil (le 4 _),
    fieldN_left (cfgWord_lt h) rfl]

theorem bitN_cfgWord (h : lg < 16) : bitN (cfgWord en lg) 31 = en := by
  have low : Nat.testBit lg 31 = false := Nat.testBit_lt_two_pow (by omega)
  cases en
  · simpa [bitN, cfgWord] using low
  · simp only [bitN, cfgWord, if_true]
    rw [Nat.testBit_two_pow_add_eq, low]
    rfl

theorem bitsN_cfgWord (h : lg < 16) : bitsN (cfgWord en lg) 30 4 = 0 := by
  cases en <;> simp only [bitsN, cfgWord, if_true, if_false, Bool.false_eq_true, Nat.shiftRight_eq_div_pow] <;> omega

theorem mod_cfgWord (h : lg < 16) : cfgWord en lg % 16 = lg := by
  cases en <;> simp only [cfgWord, if_true, if_false, Bool.false_eq_true] <;> omega

/-- A write of the word at +0x10 leaves the bases. -/
theorem cfgWritten_word {was : Bool} {lg0 : Nat} {v : BitVec 64} (hv : v.toNat = cfgWord en lg) :
    cfgWritten (cfgBytes b1 b2 was lg0) 0x10 4 v = cfgBytes b1 b2 en lg := by
  unfold cfgWritten
  rw [cfgBytes_eq, ← List.append_assoc, List.append_assoc _ (le 4 _) (zeros 108),
    patch_append (by simp [length_le]) (by simp [length_le]), hv, ← List.append_assoc, List.append_assoc (le 8 b1),
    ← cfgBytes_eq, List.take_left' (length_cfgBytes ..)]

/-- A write of the first base leaves the other base and the word. -/
theorem cfgWritten_base1 {b : Nat} {v : BitVec 64} (hv : v.toNat = b) :
    cfgWritten (cfgBytes b1 b2 en lg) 0 8 v = cfgBytes b b2 en lg := by
  unfold cfgWritten
  rw [cfgBytes_eq, List.append_assoc, ← List.nil_append (le 8 b1 ++ _),
    patch_append (a := []) (n := 0) rfl (by simp [length_le]), List.nil_append, hv, ← List.append_assoc,
    ← cfgBytes_eq, List.take_left' (length_cfgBytes ..)]

theorem cfgReserved_none {event : Bool} {off size : Nat} {v : BitVec 64} (h1 : b1 % 4096 = 0) (k1 : b1 < 2 ^ 64)
    (h2 : if event then b2 = 0 else b2 % 4096 = 0) (k2 : b2 < 2 ^ 64) (hl : lg < 16) (inside : off < 0x20) :
    cfgReserved (cfgBytes b1 b2 en lg) event off size v = false := by
  unfold cfgReserved
  rw [fieldN_cfgBytes_base1 k1, fieldN_cfgBytes_base2 k2, fieldN_cfgBytes_word hl, bitsN_cfgWord hl]
  cases event
  · simp only [Bool.false_eq_true, if_false] at h2
    simp [h1, h2]
    omega
  · simp only [if_true] at h2
    simp [h1, h2]
    omega

end Fields

/-! ### Writes of a ring's block (R97-R99) -/

section Block

variable {s : State} {p : HPort} {i : Nat}

/-- A write that sets no reserved bit leaves the block of ring `i` with these fields. -/
structure RingWrite (s : State) (p : HPort) (i off size : Nat) (v : BitVec 64) (sq cq lg : Nat) (en : Bool) : Prop where
  written : cfgWritten (cfgBytes (s.ring p i).sqBase (s.ring p i).cqBase (s.ring p i).enable (s.ring p i).log2)
    off size v = cfgBytes sq cq en lg
  inside : off < 0x20
  sq_page : sq % 4096 = 0
  sq_lt : sq < 2 ^ 64
  cq_page : cq % 4096 = 0
  cq_lt : cq < 2 ^ 64
  log2_lt : lg < 16

/-- The Table 04-2 cause of leaving ring `i` with these fields. -/
def ringCause (s : State) (p : HPort) (i sq cq lg : Nat) (en : Bool) : Nat :=
  let r := s.ring p i
  cfgCause r.enable (decide (sq = r.sqBase ∧ cq = r.cqBase ∧ lg = r.log2)) en lg
    (decide ((s.hp p).ringEntries + 2 ^ lg ≤ 4096)) (decide (sq = 0 ∨ cq = 0))

section RingWrite

variable {off size sq cq lg : Nat} {en : Bool} {v : BitVec 64} (w : RingWrite s p i off size v sq cq lg en)

include w

theorem RingWrite.effect : ringBlockWrite s p i off size v =
    let cause := ringCause s p i sq cq lg en
    if cause ≠ 0 then ringErrPost (s.modRing p i fun r => { r with ringErr := BitVec.ofNat 8 cause }) p i cause
    else if en && !(s.ring p i).enable then s.modRing p i fun r => { Ring.fresh with
      sqBase := sq, cqBase := cq, enable := true, log2 := lg, ringErr := r.ringErr, armed := true }
    else if (s.ring p i).enable && !en then
      (disableRing s p i).modRing p i fun r => { r with sqBase := sq, cqBase := cq, log2 := lg }
    else s.modRing p i fun r => { r with sqBase := sq, cqBase := cq, log2 := lg } := by
  obtain ⟨written, inside, hs, ks, hc, kc, hl⟩ := w
  unfold ringBlockWrite
  simp only [written]
  rw [cfgReserved_none (event := false) hs ks (by simpa using hc) kc hl inside, when_neg rfl]
  simp only [fieldN_cfgBytes_base1 ks, fieldN_cfgBytes_base2 kc, fieldN_cfgBytes_word hl, bitN_cfgWord hl,
    mod_cfgWord hl, Nat.div_mul_cancel (Nat.dvd_of_mod_eq_zero hs), Nat.div_mul_cancel (Nat.dvd_of_mod_eq_zero hc)]
  rfl

theorem RingWrite.errs {k : Nat} (cause : ringCause s p i sq cq lg en = k) (err : k ≠ 0) :
    ringBlockWrite s p i off size v =
      ringErrPost (s.modRing p i fun r => { r with ringErr := BitVec.ofNat 8 k }) p i k := by
  rw [w.effect, cause]
  exact if_pos err

theorem RingWrite.starts (cause : ringCause s p i sq cq lg en = 0) (on : en = true)
    (was : (s.ring p i).enable = false) : ringBlockWrite s p i off size v = s.modRing p i fun r => { Ring.fresh with
      sqBase := sq, cqBase := cq, enable := true, log2 := lg, ringErr := r.ringErr, armed := true } := by
  rw [w.effect, cause, on, was]
  rfl

theorem RingWrite.stops (clear : en = false) (was : (s.ring p i).enable = true) : ringBlockWrite s p i off size v =
    (disableRing s p i).modRing p i fun r => { r with sqBase := sq, cqBase := cq, log2 := lg } := by
  have none : ringCause s p i sq cq lg en = 0 := by rw [clear]; rfl
  rw [w.effect, none, clear, was]
  rfl

theorem RingWrite.sets (clear : en = false) (was : (s.ring p i).enable = false) : ringBlockWrite s p i off size v =
    s.modRing p i fun r => { r with sqBase := sq, cqBase := cq, log2 := lg } := by
  have none : ringCause s p i sq cq lg en = 0 := by rw [clear]; rfl
  rw [w.effect, none, clear, was]
  rfl

end RingWrite

section EventWrite

variable {off size base lg : Nat} {en : Bool} {v : BitVec 64}
  (written : cfgWritten (cfgBytes (s.hp p).er.base 0 (s.hp p).er.enable (s.hp p).er.log2) off size v =
    cfgBytes base 0 en lg) (inside : off < 0x20) (page : base % 4096 = 0) (small : base < 2 ^ 64) (hl : lg < 16)

include written inside page small hl

/-- A write of the event ring's block that sets no reserved bit, by the fields it leaves. -/
theorem eventBlockWrite_fields : eventBlockWrite s p off size v =
    let r := (s.hp p).er
    let cause := cfgCause r.enable (decide (base = r.base ∧ lg = r.log2)) en lg true (decide (base = 0))
    let setEr := fun (f : EventRing → EventRing) => s.modHp p fun h => { h with er := f h.er }
    if cause ≠ 0 then ringErrPost (setEr fun r => { r with ringErr := BitVec.ofNat 8 cause }) p 64 cause
    else if en && !r.enable then
      let s := setEr fun r => { base := base, enable := true, log2 := lg, ringErr := r.ringErr, armed := true,
                                waiting := r.waiting, pPosted := r.pPosted }
      let s := match r.degraded with
        | some e => postOn s p e false
        | none => s
      flushEvents s p
    else if r.enable && !en then
      setEr fun r => { r with base := base, enable := false, log2 := lg, waiting := keepWakes r.waiting }
    else setEr fun r => { r with base := base, log2 := lg } := by
  unfold eventBlockWrite
  simp only [written]
  rw [cfgReserved_none (event := true) page small (by simp) (by decide) hl inside, when_neg rfl]
  simp only [fieldN_cfgBytes_base1 small, fieldN_cfgBytes_word hl, bitN_cfgWord hl,
    mod_cfgWord hl, Nat.div_mul_cancel (Nat.dvd_of_mod_eq_zero page)] <;> rfl

theorem eventBlockWrite_starts (on : en = true) (was : (s.hp p).er.enable = false) (low : 4 ≤ lg) (high : lg ≤ 12)
    (set : base ≠ 0) (full : (s.hp p).er.degraded = none) : eventBlockWrite s p off size v =
      flushEvents (s.modHp p fun h => { h with er := {
        base := base, enable := true, log2 := lg, ringErr := h.er.ringErr, armed := true, waiting := h.er.waiting
        pPosted := h.er.pPosted } }) p := by
  have none : cfgCause false (decide (base = (s.hp p).er.base ∧ lg = (s.hp p).er.log2)) true lg true
      (decide (base = 0)) = 0 :=
    (if_neg (show ¬(lg < 4 ∨ 12 < lg) by omega)).trans ((if_neg Bool.false_ne_true).trans (if_neg (by simpa using set)))
  rw [eventBlockWrite_fields written inside page small hl]
  simp only [full, on, was, none]
  rfl

theorem eventBlockWrite_stops (clear : en = false) (was : (s.hp p).er.enable = true) : eventBlockWrite s p off size v =
    s.modHp p fun h => { h with er := { h.er with
      base := base, enable := false, log2 := lg, waiting := keepWakes h.er.waiting } } := by
  rw [eventBlockWrite_fields written inside page small hl]
  simp only [clear, was]
  rfl

end EventWrite

/-- An update of a ring matters through what it makes of the ring. -/
theorem State.modRing_congr {f f' : Ring → Ring} (h : f (s.ring p i) = f' (s.ring p i)) :
    s.modRing p i f = s.modRing p i f' :=
  State.modHp_congr (congrArg (fun r => { s.hp p with rings := tput Ring.fresh (s.hp p).rings i r }) h)

theorem dropWaiting_nil (s : State) (p : HPort) : dropWaiting s p [] = s := rfl

/-- A ring with no completion waiting stops: its commands leave the sequence or are marked. -/
theorem disableRing_idle (h : (s.ring p i).waiting = []) : disableRing s p i =
    stopRingCmds (s.modRing p i fun r => { r with enable := false, waiting := [], armed := false })
      fun c => decide (c.port = p ∧ c.ring = i) := by
  unfold disableRing
  rw [h, dropWaiting_nil]

theorem ring_stopRingCmds (gone : Cmd → Bool) : (stopRingCmds s gone).ring p i = s.ring p i := rfl

theorem toNat_word {en : Bool} {lg : Nat} (h : lg < 16) :
    ((BitVec.ofNat 32 (cfgWord en lg)).zeroExtend 64).toNat = cfgWord en lg := by
  have small : cfgWord en lg < 2 ^ 32 := cfgWord_lt h
  rw [BitVec.toNat_setWidth, BitVec.toNat_ofNat, Nat.mod_eq_of_lt small, Nat.mod_eq_of_lt (by omega)]

theorem getLsbD_word {en : Bool} {lg : Nat} (h : lg < 16) : (BitVec.ofNat 32 (cfgWord en lg)).getLsbD 31 = en := by
  rw [BitVec.getLsbD_ofNat]
  exact bitN_cfgWord h

end Block

/-- Settles O18: the word written is read back field by field; Table 04-2's causes are tried in their order. -/
theorem ringEnableAndDisable : Obligations.RingEnableAndDisable := by
  intro s p i lg on hi hl r
  refine ⟨fun off hs ks hc kc => ?enable, fun en hs ks hc kc same idle => ?disable⟩
  case enable =>
    have written : exec (.ringEnable p i (BitVec.ofNat 32 (2 ^ 31 + lg))) s = .next (ringBlockWrite
        { s with emitted := [] } p i 0x10 4 ((BitVec.ofNat 32 (cfgWord true lg)).zeroExtend 64)) :=
      show execRingEnable p i (BitVec.ofNat 32 (cfgWord true lg)) s = _ from
        possible_pos (by rw [getLsbD_word hl]; simp [on, hi, off, r])
    have w : RingWrite { s with emitted := [] } p i 0x10 4 ((BitVec.ofNat 32 (cfgWord true lg)).zeroExtend 64)
        r.sqBase r.cqBase lg true := ⟨cfgWritten_word (toNat_word hl), by decide, hs, ks, hc, kc, hl⟩
    have cause : ringCause { s with emitted := [] } p i r.sqBase r.cqBase lg true = if lg < 4 ∨ 12 < lg then 1
        else if !decide ((s.hp p).ringEntries + 2 ^ lg ≤ 4096) then 2
        else if decide (r.sqBase = 0 ∨ r.cqBase = 0) then 4 else 0 :=
      if_pos (show (true && !r.enable) = true by rw [off]; rfl)
    refine ⟨fun size => ?_, fun low high many => ?_, fun low high room zero => ?_, fun low high room sq cq => ?_⟩
    · exact written.trans (congrArg _ (w.errs (cause.trans (if_pos size)) (by decide)))
    · refine written.trans (congrArg _ (w.errs (cause.trans ?_) (by decide)))
      rw [if_neg (by omega), if_pos (by simpa using many)]
    · refine written.trans (congrArg _ (w.errs (cause.trans ?_) (by decide)))
      rw [if_neg (by omega), if_neg (by simpa using room), if_pos (by simpa using zero)]
    · refine written.trans (congrArg _ ((w.starts (cause.trans ?_) rfl off).trans (State.modRing_congr rfl)))
      rw [if_neg (by omega), if_neg (by simpa using room), if_neg (by simp [sq, cq])]
  case disable =>
    have written : exec (.ringDisable p i (BitVec.ofNat 32 lg)) s = .next (ringBlockWrite
        { s with emitted := [] } p i 0x10 4 ((BitVec.ofNat 32 (cfgWord false lg)).zeroExtend 64)) := by
      have word : cfgWord false lg = lg := Nat.zero_add lg
      have bit := getLsbD_word (en := false) hl
      rw [word] at bit ⊢
      exact show execRingDisable p i (BitVec.ofNat 32 lg) s = _ from
        possible_pos (by rw [bit]; simp [on, hi, en, r])
    have w : RingWrite { s with emitted := [] } p i 0x10 4 ((BitVec.ofNat 32 (cfgWord false lg)).zeroExtend 64)
        r.sqBase r.cqBase lg false := ⟨cfgWritten_word (toNat_word hl), by decide, hs, ks, hc, kc, hl⟩
    refine ⟨_, written.trans (congrArg _ ((w.stops rfl en).trans (congrArg (State.modRing · p i _)
      (disableRing_idle idle)))), ?_⟩
    refine ⟨?_, ?_, ?_, ?_, ?_, ?_⟩
    · rw [State.ring_modRing, ring_stopRingCmds, State.ring_modRing]
    · rw [State.ring_modRing, ring_stopRingCmds, State.ring_modRing]
    · rw [State.ring_modRing]
    · rw [State.ring_modRing, ring_stopRingCmds, State.ring_modRing]; rfl
    · rw [State.modRing_feb, stopRingCmds, State.modRing_feb]; simp only [decide_eq_true_eq]
    · cases p <;> rfl

/-- Settles O19: the event ring's block is written like a ring's; a base is bytes 0 to 7 of its block. -/
theorem eventRingAndConfiguration : Obligations.EventRingAndConfiguration := by
  intro s p on
  constructor
  · intro lg low high r page set small
    have fits : lg < 16 := by omega
    refine ⟨fun off full => ?enable, fun en same => ?disable⟩
    case enable =>
      have written : exec (.eventRingEnable p (BitVec.ofNat 32 (2 ^ 31 + lg))) s = .next (eventBlockWrite
          { s with emitted := [] } p 0x10 4 ((BitVec.ofNat 32 (cfgWord true lg)).zeroExtend 64)) :=
        show execEventRingEnable p (BitVec.ofNat 32 (cfgWord true lg)) s = _ from
          possible_pos (by rw [getLsbD_word fits]; simp [on, off, r])
      have word := cfgWritten_word (b1 := r.base) (b2 := 0) (was := r.enable) (lg0 := r.log2)
        (toNat_word (en := true) fits)
      have starts := eventBlockWrite_starts (s := { s with emitted := [] }) word (by decide) page small fits rfl off
        low high set full
      exact written.trans (congrArg _ (starts.trans (congrArg (flushEvents · p) (State.modHp_congr rfl))))
    case disable =>
      have written : exec (.eventRingDisable p (BitVec.ofNat 32 lg)) s = .next (eventBlockWrite
          { s with emitted := [] } p 0x10 4 ((BitVec.ofNat 32 (cfgWord false lg)).zeroExtend 64)) := by
        have word : cfgWord false lg = lg := Nat.zero_add lg
        have bit := getLsbD_word (en := false) fits
        rw [word] at bit ⊢
        exact show execEventRingDisable p (BitVec.ofNat 32 lg) s = _ from
          possible_pos (by rw [bit]; simp [on, en, r])
      have word := cfgWritten_word (b1 := r.base) (b2 := 0) (was := r.enable) (lg0 := r.log2)
        (toNat_word (en := false) fits)
      have stops := eventBlockWrite_stops (s := { s with emitted := [] }) word (by decide) page small fits rfl en
      refine written.trans (congrArg _ (stops.trans (State.modHp_congr ?_)))
      rw [← same]
      rfl
  · intro i base hi page small r hs ks hc kc hl
    have written : exec (.ringConfigWrite p (0x2000 + 128 * i) 8 (BitVec.ofNat 64 base)) s = .next (ringBlockWrite
        { s with emitted := [] } p i 0 8 (BitVec.ofNat 64 base)) := by
      have place : (0x2000 + 128 * i - 0x2000) / 128 = i ∧ (0x2000 + 128 * i) % 128 = 0 := by omega
      have form : accessForm (0x2000 + 128 * i) 8 = true := decide_eq_true (by omega)
      change execRingConfigWrite _ _ _ _ s = _
      unfold execRingConfigWrite
      rw [possible_pos (by rw [on, form]; simp; omega), if_pos (by omega), place.1, place.2]
    have value : (BitVec.ofNat 64 base).toNat = base := by rw [BitVec.toNat_ofNat, Nat.mod_eq_of_lt small]
    have w : RingWrite { s with emitted := [] } p i 0 8 (BitVec.ofNat 64 base) base r.cqBase r.log2 r.enable :=
      ⟨cfgWritten_base1 value, by decide, page, small, hc, kc, hl⟩
    refine ⟨fun en moved => ?_, fun off => ?_⟩
    · have cause : ringCause { s with emitted := [] } p i base r.cqBase r.log2 r.enable = 3 := by
        change cfgCause r.enable (decide (base = r.sqBase ∧ _)) r.enable _ _ _ = 3
        simp [cfgCause, en, moved]
      exact written.trans (congrArg _ (w.errs cause (by decide)))
    · exact written.trans (congrArg _ ((w.sets off off).trans (State.modRing_congr rfl)))

end Sys2Proof.Machine
end

section
/-! PROOFS. Masks, Bus Master Enable, resets of functions and ports, and chapels' host memory (R87-R93, R591-R593). -/

namespace Sys2Proof.Machine

/-! ### Masks and Bus Master Enable (R87, R593) -/

section Masks

variable {s : State} {p : HPort} {fn v : Nat}

theorem deliverPending_sends (h : (s.hp p).msixPend.contains (msixKey fn v) = true)
    (k : (tget MsixEntry.fresh (s.hp p).msix (msixKey fn v)).mask = false) (m : (s.hp p).busMaster fn = true) :
    deliverPending s p fn v = (s.modHp p fun h => { h with
      msixPend := h.msixPend.filter (· ≠ msixKey fn v) }).emit (.msix p fn v) := by
  unfold deliverPending
  dsimp only
  rw [if_pos (by rw [h, k, m]; rfl)]
  rfl

theorem deliverPending_keeps (h : (s.hp p).msixPend.contains (msixKey fn v) = false ∨ (s.hp p).busMaster fn = false) :
    deliverPending s p fn v = s := by
  unfold deliverPending
  dsimp only
  refine if_neg ?_
  rcases h with h | h
  · rw [h]; simp
  · rw [h]; simp

theorem exec_msixUnmask (up : (s.hp p).link ≠ .down) (has : (s.hp p).hasFn fn = true)
    (mem : (s.hp p).memSpace fn = true) (vec : (vectorsOf fn).contains v = true) : exec (.msixUnmask p fn v) s =
    .next (deliverPending ({ s with emitted := [] }.modHp p fun h => { h with
      msix := tput MsixEntry.fresh h.msix (msixKey fn v)
        { tget MsixEntry.fresh h.msix (msixKey fn v) with mask := false } }) p fn v) :=
  show execMsixUnmask p fn v s = _ from possible_pos (by rw [has, mem, vec]; simp [up])

theorem exec_busMasterEnableSet (up : (s.hp p).link ≠ .down) (has : (s.hp p).hasFn fn = true) :
    exec (.busMasterEnableSet p fn) s = .next (
      let u := (vectorsOf fn).foldl (fun s v => deliverPending s p fn v) ({ s with emitted := [] }.modHp p fun h =>
        if fn = 0 then { h with bme := true } else { h with vfBme := setInsert fn h.vfBme })
      if fn = 0 then releasePf u p else u) :=
  show execBusMasterEnableSet p fn s = _ from possible_pos (by rw [has]; simp [up])

theorem exec_busMasterEnableClear (up : (s.hp p).link ≠ .down) (has : (s.hp p).hasFn fn = true) :
    exec (.busMasterEnableClear p fn) s = .next (
      if fn ≠ 0 then { s with emitted := [] }.modHp p fun h => { h with vfBme := setErase fn h.vfBme }
      else
        let u := { s with emitted := [] }.modHp p fun h => { h with bme := false }
        if u.amb.mover.mode ≠ 0 ∧ u.amb.moverPort = portIx p then moverAbort u 0x23 else u) :=
  show execBusMasterEnableClear p fn s = _ from possible_pos (by rw [has]; simp [up])

end Masks

/-- Settles O22: an unmasked vector is delivered once where it may be; Bus Master Enable delivers what it held back. -/
theorem unmaskAndBusMaster : Obligations.UnmaskAndBusMaster := by
  intro s p fn up has
  refine ⟨fun v mem vec => ?_, fun vf => ?_, fun pf => ?_, fun vf => ?_, fun pf still => ?_⟩
  · intro k u
    have unmasked : (tget MsixEntry.fresh (u.hp p).msix k).mask = false := by
      simp only [u, State.hp_modHp]
      rw [tget_tput, if_pos rfl]
    have same : (u.hp p).msixPend = (s.hp p).msixPend ∧ (u.hp p).busMaster fn = (s.hp p).busMaster fn := by
      simp only [u, State.hp_modHp]
      exact ⟨rfl, rfl⟩
    refine ⟨fun pending master => (exec_msixUnmask up has mem vec).trans (congrArg _ ?_),
      fun none => (exec_msixUnmask up has mem vec).trans (congrArg _ ?_)⟩
    · exact deliverPending_sends (by rw [same.1]; exact pending) unmasked (by rw [same.2]; exact master)
    · exact deliverPending_keeps (by rw [same.1, same.2]; exact none)
  · rw [exec_busMasterEnableSet up has]
    simp only [if_neg vf, vectorsOf]
  · subst pf
    exact exec_busMasterEnableSet up has
  · exact (exec_busMasterEnableClear up has).trans (congrArg _ (if_pos vf))
  · refine (exec_busMasterEnableClear up has).trans (congrArg _ ((if_neg (not_not.2 pf)).trans (if_neg ?_)))
    rw [State.modHp_amb]
    exact fun moving => moving.1 still

/-! ### Resets of functions and ports (R91-R93) -/

section Resets

variable {s : State} {p : HPort}

theorem State.modHp_self {f : HostPort → HostPort} (h : f (s.hp p) = s.hp p) : s.modHp p f = s := by
  cases p
  · exact congrArg (fun x => { s with h0 := x }) h
  · exact congrArg (fun x => { s with h1 := x }) h

theorem failHostRequests_none {status : Nat} {q : Nat → Bool} (reads : (s.hp p).reads = [])
    (reqs : (s.hp p).reqs = []) (writes : (s.hp p).writes = []) : failHostRequests s p status q = s := by
  unfold failHostRequests
  simp only [reads, reqs, writes, List.map_nil, List.filter_nil, List.append_nil, List.foldl_nil]
  refine State.modHp_self ?_
  rw [reads, reqs, writes, List.filter_nil, List.filter_nil, List.filter_nil, ← reads, ← reqs, ← writes]

theorem stopRingCmds_none {gone : Cmd → Bool} (h : ∀ c ∈ s.feb.cmds, gone c = false) : stopRingCmds s gone = s := by
  have kept : s.feb.cmds.filter (fun c => !(gone c && decide (c.stage ≠ .running))) = s.feb.cmds :=
    List.filter_eq_self.2 fun c hc => by rw [h c hc]; rfl
  have same : s.feb.cmds.map (fun c => if gone c then { c with dropped := true } else c) = s.feb.cmds :=
    (List.map_congr_left fun c hc => if_neg (by rw [h c hc]; simp)).trans (List.map_id _)
  unfold stopRingCmds
  simp only [kept, same]

/-- The effects of a reset on a port whose state nothing outside it refers to. -/
def State.portReset (s : State) (p : HPort) (link : LinkState) (rate width : Nat) : State :=
  { s with feb := { s.feb with heldBells := s.feb.heldBells.filter fun b => decide (b.port ≠ p) } }.modHp p fun h =>
    { link := link, rate := rate, width := width, nextWrite := h.nextWrite
      er := { waiting := keepWakes h.er.waiting, pPosted := h.er.pPosted, degraded := h.er.degraded } }

/-- Nothing outside the port refers to it: no host request, mover copy, proposal, command or waiting completion. -/
structure State.PortIdle (s : State) (p : HPort) : Prop where
  reads : (s.hp p).reads = []
  reqs : (s.hp p).reqs = []
  writes : (s.hp p).writes = []
  mover : s.amb.mover.mode = 0
  proposal : s.feb.pending = none
  cmds : ∀ c ∈ s.feb.cmds, c.port ≠ p
  waiting : ∀ e ∈ (s.hp p).rings, e.2.waiting = []

theorem withdrawOf_none (h : s.feb.pending = none) : withdrawOf s p = s := by
  unfold withdrawOf
  rw [h]

theorem portReset_idle (link : LinkState) (h : s.PortIdle p) : portReset s p link =
    s.portReset p link (if link = .down then 0 else (s.hp p).rate) (if link = .down then 0 else (s.hp p).width) := by
  have waiting : ((s.hp p).rings.flatMap fun e => e.2.waiting) = [] := List.flatMap_eq_nil_iff.2 h.waiting
  unfold portReset State.portReset
  rw [failHostRequests_none h.reads h.reqs h.writes]
  simp only [h.mover, ne_eq, not_true_eq_false, false_and, if_false, waiting,
    stopRingCmds_none fun c hc => decide_eq_false (h.cmds c hc), dropWaiting_nil]
  rw [withdrawOf_none (by rw [State.modHp_feb]; exact h.proposal)]
  exact State.modHp_congr rfl

theorem exec_vfFlr {vf : Nat} (up : (s.hp p).link ≠ .down) (low : 1 ≤ vf) (high : vf ≤ (s.hp p).vfs) :
    exec (.vfFlr p vf) s = .next ((failHostRequests { s with emitted := [] } p 0x20
      fun c => decide (c + 1 = vf)).modHp p fun h => h.vfReset vf) :=
  show execVfFlr p vf s = _ from possible_pos (decide_eq_true ⟨up, low, high⟩)

theorem exec_pfFlr (up : (s.hp p).link ≠ .down) :
    exec (.pfFlr p) s = .next (portReset { s with emitted := [] } p (s.hp p).link) := by
  cases p <;> exact show execPfFlr _ s = _ from possible_pos (decide_eq_true up)

theorem exec_hostPortReset {why : PortResetCause} (up : (s.hp p).link ≠ .down) (other : why ≠ .perst) :
    exec (.hostPortReset p why) s = .next (portReset { s with emitted := [] } p .down) := by
  change execHostPortReset p why s = _
  unfold execHostPortReset
  rw [possible_pos (by rw [if_neg other]; exact decide_eq_true up)]
  cases why <;> first | rfl | exact absurd rfl other

theorem exec_hostPortReset_perst0 (high : s.pw.perst0 = true) : exec (.hostPortReset .h0 .perst) s =
    .next (portReset { s with emitted := [], pw := { s.pw with perst0 := false } } .h0 .down) := by
  change execHostPortReset .h0 .perst s = _
  unfold execHostPortReset
  exact possible_pos (by simpa using high)

theorem exec_hostPortReset_perst1 (high : s.pw.perst1 = true) : exec (.hostPortReset .h1 .perst) s =
    .next (portReset { s with emitted := [], pw := { s.pw with perst1 := false } } .h1 .down) := by
  change execHostPortReset .h1 .perst s = _
  unfold execHostPortReset
  exact possible_pos (by simpa using high)

end Resets

/-- Settles O23: an idle port's reset touches its own state and its held doorbells alone. -/
theorem functionAndPortResets : Obligations.FunctionAndPortResets := by
  intro s p up
  refine ⟨fun vf low high => ⟨exec_vfFlr up low high, fun reads reqs writes => ?_⟩, ?_⟩
  · rw [exec_vfFlr up low high, failHostRequests_none (s := { s with emitted := [] }) reads reqs writes]
    rfl
  · intro reads reqs writes mover proposal cmds waiting
    have idle : State.PortIdle { s with emitted := [] } p := ⟨reads, reqs, writes, mover, proposal, cmds, waiting⟩
    intro quiet
    refine ⟨?_, fun why other => ?_, fun hp high => ?_, fun hp high => ?_⟩
    · rw [exec_pfFlr up, portReset_idle _ idle, if_neg up, if_neg up]
      rfl
    · rw [exec_hostPortReset up other, portReset_idle _ idle]
      rfl
    · subst hp
      exact (exec_hostPortReset_perst0 high).trans (congrArg _ (portReset_idle .down { idle with }))
    · subst hp
      exact (exec_hostPortReset_perst1 high).trans (congrArg _ (portReset_idle .down { idle with }))

/-! ### Chapels' host memory (R88, R90, R591, R592) -/

section HostMemory

variable {s : State} {p : HPort} {f : AmbFlit} {tag : Nat}

theorem wakeLink_up {s : State} (h : (s.hp p).link ≠ .l1) : wakeLink s p = s := State.modHp_self (if_neg h)

theorem wakeLink_modHp_up {g : HostPort → HostPort} (h : (g (s.hp p)).link ≠ .l1) :
    wakeLink (s.modHp p g) p = s.modHp p g :=
  wakeLink_up (by rwa [State.hp_modHp])

theorem hostAddr_modHp (g : HostPort → HostPort) : hostAddr (s.modHp p g) f = hostAddr s f := by
  rw [hostAddr, State.targetWindow, State.modHp_amb]
  rfl

/-- The chapel's VF is enabled and masters the bus. -/
def HostPort.serves (h : HostPort) (f : AmbFlit) : Bool := h.hasFn (f.chapel + 1) && h.busMaster (f.chapel + 1)

section Request

variable {rest : List AmbFlit} (on : s.mainOn = true) (first : (s.hp p).reqs = f :: rest)

include on first

theorem exec_hostPortRequest_off (off : (s.hp p).serves f = false) : exec (.hostPortRequest p) s =
    .next (logC (respondErr ({ s with emitted := [] }.modHp p fun h => { h with reqs := rest }) f 0x20 false) 0 0x0020
      (locHost p) f.chapel []) := by
  unfold HostPort.serves at off
  change execHostPortRequest p s = _
  unfold execHostPortRequest
  rw [first]
  refine (possible_pos (by simp [on, off])).trans (congrArg _ (if_pos ?_))
  rw [off]
  rfl

theorem exec_hostPortRequest_write (serves : (s.hp p).serves f = true) (write : f.op = .write) :
    exec (.hostPortRequest p) s = .next (({ s with emitted := [] }.modHp p fun h => { h with reqs := rest }).modHp p
      fun h => { h with writes := h.writes ++ [(⟨h.nextWrite, f⟩ : HostWrite)], nextWrite := h.nextWrite + 1 }) := by
  unfold HostPort.serves at serves
  change execHostPortRequest p s = _
  unfold execHostPortRequest
  rw [first]
  refine (possible_pos (by simp [on, write])).trans (congrArg _ ((if_neg ?_).trans (if_pos write)))
  simp [serves]

theorem exec_hostPortRequest_read (serves : (s.hp p).serves f = true) (read : f.op ≠ .write)
    (clear : (s.hp p).writes = []) (link : (s.hp p).link = .l0) (free : freeTag s p = some tag) :
    exec (.hostPortRequest p) s = .next (((({ s with emitted := [] }.modHp p fun h => { h with reqs := rest }).modHp p
      fun h => { h with reads := tput noRead h.reads tag f })).emit
        (.memRead p (f.chapel + 1) ((s.targetWindow f.chapel f.win).base + f.addr) (sizeBytes f.size) tag)) := by
  unfold HostPort.serves at serves
  change execHostPortRequest p s = _
  unfold execHostPortRequest
  rw [first]
  refine (possible_pos (by simp [on, clear, free])).trans (congrArg _ ((if_neg ?_).trans ((if_neg read).trans ?_)))
  · simp [serves]
  · have still : freeTag ({ s with emitted := [] }.modHp p fun h => { h with reqs := rest }) p = some tag := by
      rw [← free]
      simp only [freeTag, State.hp_modHp]
      cases p <;> rfl
    have up : (s.hp p).link ≠ .l1 := by rw [link]; decide
    simp only [still]
    rw [wakeLink_modHp_up (by rw [State.hp_modHp]; exact up), hostAddr_modHp, hostAddr_modHp]
    rfl

end Request

section Completion

variable (on : s.mainOn = true) (real : tget noRead (s.hp p).reads tag ≠ noRead)

include on real

theorem exec_hostReadCompletion_data {bytes : List Byte}
    (whole : bytes.length = sizeBytes (tget noRead (s.hp p).reads tag).size)
    (chapel : (tget noRead (s.hp p).reads tag).chapel ≠ 0xFE) : exec (.hostReadCompletion p tag (.data bytes)) s =
      .next (respond (freeRead { s with emitted := [] } p tag) (tget noRead (s.hp p).reads tag) 0 bytes) := by
  change execHostReadCompletion p tag (.data bytes) s = _
  unfold execHostReadCompletion
  exact (possible_pos (by simp [on, real, whole])).trans (congrArg _ (if_neg chapel))

theorem exec_hostReadCompletion_poisoned : exec (.hostReadCompletion p tag .poisoned) s =
    .next (hostReadFails (freeRead { s with emitted := [] } p tag) p (tget noRead (s.hp p).reads tag) 0x22) := by
  change execHostReadCompletion p tag .poisoned s = _
  unfold execHostReadCompletion
  exact possible_pos (by simp [on, real])

theorem exec_hostReadCompletion_refused {result : PcieResult}
    (h : result = .unsupportedRequest ∨ result = .completerAbort) : exec (.hostReadCompletion p tag result) s =
    .next (hostReadFails (freeRead { s with emitted := [] } p tag) p (tget noRead (s.hp p).reads tag) 7) := by
  change execHostReadCompletion p tag result s = _
  unfold execHostReadCompletion
  rcases h with rfl | rfl <;> exact possible_pos (by simp [on, real])

theorem exec_hostCompletionTimeout : exec (.hostCompletionTimeout p tag) s =
    .next (hostReadFails (freeRead { s with emitted := [] } p tag) p (tget noRead (s.hp p).reads tag) 7) := by
  change execHostCompletionTimeout p tag s = _
  unfold execHostCompletionTimeout
  exact possible_pos (by simp [on, real])

end Completion

end HostMemory

/-- Settles O24: what the oldest request, the oldest posted write and the end of a read each do. -/
theorem hostMemoryTraffic : Obligations.HostMemoryTraffic := by
  intro s p on
  refine ⟨fun f rest first => ?_, fun w rest first link => ?_, fun tag f held real chapel => ?_⟩
  · intro serves u
    exact ⟨exec_hostPortRequest_off on first, exec_hostPortRequest_write on first,
      fun tag => exec_hostPortRequest_read on first⟩
  · have up : (s.hp p).link ≠ .l1 := by rw [link]; decide
    change execHostWriteTransmitted p w.tag s = _
    unfold execHostWriteTransmitted
    rw [first]
    refine (possible_pos (by simp [on, link])).trans (congrArg _ ?_)
    dsimp only
    rw [wakeLink_modHp_up (s := { s with emitted := [] }) up, hostAddr_modHp]
    rfl
  · intro u failed
    have fails (status : Nat) :
        Host.Outcome.next (hostReadFails u p f status) = failed status (decide (status = 0x22)) :=
      congrArg _ (if_neg chapel)
    subst held
    exact ⟨fun bytes whole => exec_hostReadCompletion_data on real whole chapel,
      (exec_hostReadCompletion_poisoned on real).trans (fails 0x22),
      (exec_hostReadCompletion_refused on real (.inl rfl)).trans (fails 7),
      (exec_hostReadCompletion_refused on real (.inr rfl)).trans (fails 7),
      (exec_hostCompletionTimeout on real).trans (fails 7)⟩

end Sys2Proof.Machine
end


section
/-! PROOFS. What a cell's arithmetic and program flow make of the thread that issues it (chapter 07). -/

namespace Sys2Proof.Machine

/-! ### Results in a register (R204-R211, R217-R221) -/

section Registers

variable (x : Ctx) (r q : Nat)

theorem getS_setS (v : Word) : (x.setS r v).getS q = if q = r ∧ r ≠ 0 then v else x.getS q := by
  unfold Ctx.setS Ctx.getS
  by_cases hr : r = 0
  · simp [hr]
  · by_cases hq : q = 0
    · simp [hr, hq, Ne.symm hr]
    · simp [hr, hq, tget_tput]

theorem v_setS (v : Word) : (x.setS r v).v = x.v := by
  unfold Ctx.setS
  split <;> rfl

theorem getV_setV (v : VWord) : (x.setV r v).getV q = if q = r then v else x.getV q := tget_tput ..

end Registers

section Results

variable {s : State} {g t : Nat} {i : Ins} {c : Instr}

/-- An instruction that computes one scalar register from the thread's registers. -/
theorem goesOnAt_scalar {row : Row} {k : State → Ins → State} {rd : Nat} (value : Ctx → Word) (h : s.Ready g t i)
    (e : exec c s = issueIns row g t s k) (r : i.row = row) (hk : ∀ u, k u i = setRd u g t rd (value (u.ctx g t))) :
    s.GoesOnAt g t i c ((s.ctx g t).pc.toNat + 4)
      (((s.ctx g t).issued i).setS rd (value ((s.ctx g t).issued i))) := by
  let k (u : State) := u.modCtx g t (·.setS rd (value ((s.ctx g t).issued i)))
  refine goesOnAt_next (k := k) ?_ (Became.mod (became_issued s g t i) _)
  rw [State.Ends, e, issueIns_runs h r, hk, ctx_issued]
  rfl

/-- An instruction that computes one vector register from the thread's registers. -/
theorem goesOnAt_vector {row : Row} {k : State → Ins → State} {vd : Nat} (value : Ctx → VWord) (h : s.Ready g t i)
    (e : exec c s = issueIns row g t s k) (r : i.row = row) (hk : ∀ u, k u i = setVd u g t vd (value (u.ctx g t))) :
    s.GoesOnAt g t i c ((s.ctx g t).pc.toNat + 4)
      (((s.ctx g t).issued i).setV vd (value ((s.ctx g t).issued i))) := by
  let k (u : State) := u.modCtx g t (·.setV vd (value ((s.ctx g t).issued i)))
  refine goesOnAt_next (k := k) ?_ (Became.mod (became_issued s g t i) _)
  rw [State.Ends, e, issueIns_runs h r, hk, ctx_issued]
  rfl

end Results

section Division

variable (a : Word)

theorem divOp_zero (signed : Bool) : divOp signed a 0#64 = BitVec.allOnes 64 := rfl

theorem remOp_zero (signed : Bool) : remOp signed a 0#64 = a := rfl

end Division

/-- Settles O41: each row computes one register and goes on; the registers' and the divider's laws say with what. -/
theorem arithmeticResults : Obligations.ArithmeticResults := by
  refine ⟨?rows, fun x r q v => ⟨getS_setS x r q v, rfl, v_setS x r v, rfl⟩,
    fun x r q v => ⟨getV_setV x r q v, rfl⟩,
    fun a => ⟨divOp_zero a _, divOp_zero a _, remOp_zero a _, remOp_zero a _⟩, by decide, by decide⟩
  intro s g t i h x pc gives sets setsV
  refine ⟨?alu, ?imm, ?shi, ?insk, ?mulDiv, ?fp, ?vint, ?vfp, ?vcvt, ?vred⟩
  case alu =>
    rintro f rd ra rb rfl
    exact goesOnAt_scalar (fun x => aluOp f (x.getS ra) (x.getS rb)) h
      (show _ = execScalarAlu g t s from rfl) rfl fun _ => rfl
  case imm =>
    rintro k rd ra imm rfl
    exact goesOnAt_scalar (fun x => immOp k (x.getS ra) imm) h
      (show _ = execImmediateAlu g t s from rfl) rfl fun _ => rfl
  case shi =>
    rintro k rd ra n rfl
    exact goesOnAt_scalar (fun x => shiftWord k (x.getS ra) n) h (show _ = execShi g t s from rfl) rfl fun _ => rfl
  case insk =>
    rintro rd hw imm rfl
    exact goesOnAt_scalar (fun x => inskOp (x.getS rd) hw imm) h (show _ = execInsk g t s from rfl) rfl fun _ => rfl
  case mulDiv =>
    rintro f rd ra rb rfl
    exact goesOnAt_scalar (fun x => mulDivOp f (x.getS ra) (x.getS rb)) h
      (show _ = execMultiplyDivide g t s from rfl) rfl fun _ => rfl
  case fp =>
    rintro f rd ra rb rfl
    exact goesOnAt_scalar (fun x => fpOp f (x.getS ra) (x.getS rb)) h
      (show _ = execScalarFloatingPoint g t s from rfl) rfl fun _ => rfl
  case vint =>
    rintro f et vd va vb rs rfl
    exact ⟨fun mask => goesOnAt_scalar (fun x => vintMask f et (x.getV va) (x.getV vb)) h
        (show _ = execVectorInteger g t s from rfl) rfl fun _ => if_pos mask,
      fun lanes => goesOnAt_vector (fun x => vintOp f et (x.getV va) (x.getV vb) (x.getS rs)) h
        (show _ = execVectorInteger g t s from rfl) rfl fun _ => if_neg lanes⟩
  case vfp =>
    rintro f et vd va vb rs rfl
    exact ⟨fun mask => goesOnAt_scalar (fun x => vfpMask f et (x.getV va) (x.getV vb)) h
        (show _ = execVectorFloatingPoint g t s from rfl) rfl fun _ => if_pos mask,
      fun lanes => goesOnAt_vector (fun x => vfpOp f et (x.getV va) (x.getV vb) (x.getV vd) (x.getS rs)) h
        (show _ = execVectorFloatingPoint g t s from rfl) rfl fun _ => if_neg lanes⟩
  case vcvt =>
    rintro f et vd va p rfl
    exact goesOnAt_vector (fun x => vcvtOp f et p (x.getV va) (x.getV vd)) h
      (show _ = execVcvt g t s from rfl) rfl fun _ => rfl
  case vred =>
    rintro f et va rs rfl
    exact goesOnAt_scalar (fun x => vredOp f et (x.getV va)) h
      (show _ = execVectorReduction g t s from rfl) rfl fun _ => rfl

/-! ### Program flow (R164, R165, R204, R205) -/

section Flow

variable {s : State} {g t : Nat}

theorem goesOnAt_branch {k ra rb off : Nat} (h : s.Ready g t (.branch k ra rb off)) :
    s.GoesOnAt g t (.branch k ra rb off) (.branch g t)
      (if compareOp k ((s.ctx g t).getS ra) ((s.ctx g t).getS rb) then branchPc (s.ctx g t).pc.toNat 16 off
        else (s.ctx g t).pc.toNat + 4) ((s.ctx g t).issued (.branch k ra rb off)) := by
  refine goesOnAt_goTo (k := id) ?_ (became_issued ..)
  change execBranch g t s = _
  refine (issueIns_runs (row := .branch) h rfl _).trans ?_
  simp only [next, ctx_issued]
  refine congrArg (fun u => Host.Outcome.next (settleStop u g t)) ?_
  by_cases taken : compareOp k ((s.ctx g t).getS ra) ((s.ctx g t).getS rb) = true
  · rw [if_pos taken]
    exact if_pos taken
  · rw [if_neg taken]
    exact if_neg taken

/-- A jump writes the next PC to rd and goes on at its target. -/
theorem goesOnAt_jumpTo {i : Ins} {c : Instr} {rd target : Nat}
    (e : s.Ends g t c (jumpTo (s.issued g t i) g t rd target)) : s.GoesOnAt g t i c target
      (((s.ctx g t).issued i).setS rd (BitVec.ofNat 64 ((s.ctx g t).pc.toNat + 4))) := by
  let k (u : State) := u.modCtx g t (·.setS rd (BitVec.ofNat 64 ((s.ctx g t).pc.toNat + 4)))
  refine goesOnAt_goTo (k := k) ?_ (Became.mod (became_issued s g t i) _)
  unfold jumpTo at e
  rw [ctx_issued] at e
  exact e

theorem ends_jal {rd off : Nat} (h : s.Ready g t (.jal rd off)) : s.Ends g t (.jal g t)
    (jumpTo (s.issued g t (.jal rd off)) g t rd (branchPc (s.ctx g t).pc.toNat 21 off)) := by
  change execJal g t s = _
  refine (issueIns_runs (row := .jal) h rfl _).trans ?_
  simp only [ctx_issued]
  rfl

theorem ends_jalr {rd ra imm : Nat} (h : s.Ready g t (.jalr rd ra imm)) : s.Ends g t (.jalr g t)
    (jumpTo (s.issued g t (.jalr rd ra imm)) g t rd (effAddr ((s.ctx g t).getS ra) imm)) := by
  change execJalr g t s = _
  refine (issueIns_runs (row := .jalr) h rfl _).trans ?_
  simp only [ctx_issued]
  rfl

/-- Issuing makes no context FREE and takes none. -/
theorem freeCtx_issued (i : Ins) : ((s.issued g t i).cell g).freeCtx = (s.cell g).freeCtx := by
  have mode (j : Nat) : (((s.issued g t i).cell g).ctx j).mode = ((s.cell g).ctx j).mode := by
    by_cases h : j = t
    · subst h
      change ((s.issued g j i).ctx g j).mode = _
      rw [ctx_issued]
      rfl
    · exact congrArg Ctx.mode (ctx_issued_ne s g t i h)
  unfold Cell.freeCtx
  simp only [mode]

section Spawn

variable {rd ra rb : Nat} (h : s.Ready g t (.spawn rd ra rb))

include h

theorem ends_spawn_range (range : pcOk ((s.ctx g t).getS ra).toNat = false) :
    s.Raises g t (.spawn rd ra rb) (.spawn g t) 0x07 0 := by
  change execSpawn g t s = _
  refine (issueIns_runs (row := .spawn) h rfl _).trans ?_
  simp only [ctx_issued]
  refine congrArg (fun u => Host.Outcome.next (settleStop u g t)) (if_pos ?_)
  exact congrArg not range

theorem goesOnAt_spawn_none (ok : pcOk ((s.ctx g t).getS ra).toNat = true)
    (none : (s.cell g).freeCtx = none ∨ (s.chapel (s.chapelIx g)).state = .retiring) :
    s.GoesOnAt g t (.spawn rd ra rb) (.spawn g t) ((s.ctx g t).pc.toNat + 4)
      (((s.ctx g t).issued (.spawn rd ra rb)).setS rd (BitVec.allOnes 64)) := by
  let k (u : State) := u.modCtx g t (·.setS rd (BitVec.allOnes 64))
  refine goesOnAt_next (k := k) ?_ (Became.mod (became_issued ..) _)
  change execSpawn g t s = _
  refine (issueIns_runs (row := .spawn) h rfl _).trans ?_
  simp only [ctx_issued, freeCtx_issued]
  refine congrArg (fun u => Host.Outcome.next (settleStop u g t)) ((if_neg ?_).trans ?_)
  · exact fun bad => by simp [show pcOk (Ctx.getS ((s.ctx g t).issued _) ra).toNat = true from ok] at bad
  · rcases none with none | ends
    · rw [none]
      rfl
    · cases (s.cell g).freeCtx with
      | none => rfl
      | some j => exact if_pos ends

theorem ends_spawn_starts {j : Nat} (ok : pcOk ((s.ctx g t).getS ra).toNat = true)
    (free : (s.cell g).freeCtx = some j) (runs : (s.chapel (s.chapelIx g)).state ≠ .retiring) :
    s.Ends g t (.spawn g t) (next (s.issued g t (.spawn rd ra rb)) g t fun u =>
      (startThread u g j ((s.ctx g t).getS ra).toNat ((s.ctx g t).getS rb)).modCtx g t
        (·.setS rd (BitVec.ofNat 64 j))) := by
  change execSpawn g t s = _
  refine (issueIns_runs (row := .spawn) h rfl _).trans ?_
  simp only [ctx_issued, freeCtx_issued, free]
  refine congrArg (fun u => Host.Outcome.next (settleStop u g t)) ((if_neg ?_).trans (if_neg runs))
  exact fun bad => by simp [show pcOk (Ctx.getS ((s.ctx g t).issued _) ra).toNat = true from ok] at bad

end Spawn

/-! ### EXIT (R165, R166, R189) -/

theorem ends_exit (h : s.Ready g t .exit) :
    s.Ends g t (.exit g t) (settleExit (wait (s.issued g t .exit) g t .exit) g t) := by
  change execExit g t s = _
  exact issueIns_runs (row := .exit) h rfl _

theorem exitReady_wait_issued (i : Ins) (w : Waiting) :
    ((wait (s.issued g t i) g t w).cell g).exitReady t = (s.cell g).exitReady t := by
  rw [(became_wait w).inside]
  rfl

theorem settleExit_waits (h : (s.cell g).exitReady t = false) : settleExit s g t = s := by
  unfold settleExit
  simp only [h, Bool.and_false, Bool.false_eq_true, if_false]

/-- The thread's context is FREE, and what outlives the thread has lost its tie to it. -/
def State.freed (s : State) (g t : Nat) : State :=
  s.modCell g fun c => ((c.forget t).barrierLoses t).modCtx t fun _ => Ctx.fresh

theorem settleExit_frees (w : (s.ctx g t).waiting = .exit) (h : (s.cell g).exitReady t = true) :
    settleExit s g t = settleChapel (s.freed g t) (s.chapelIx g) := by
  have w : ((s.cell g).ctx t).waiting = .exit := w
  unfold settleExit
  simp only [w, h, decide_true, Bool.and_true, if_true]
  rfl

theorem cell_freed_ne {j : Nat} (h : j ≠ g) : (s.freed g t).cell j = s.cell j := by
  unfold State.freed
  rw [State.cell_modCell, if_neg h]

theorem ctx_freed_self : (s.freed g t).ctx g t = Ctx.fresh := by
  unfold State.freed State.ctx
  rw [State.cell_modCell, if_pos rfl, Cell.ctx_modCtx, if_pos rfl]

theorem ctx_freed_ne {j : Nat} (h : j ≠ t) (idle : (s.cell g).barrier = none) :
    (s.freed g t).ctx g j = s.ctx g j := by
  have lone : ((s.cell g).forget t).barrierLoses t = (s.cell g).forget t := by
    unfold Cell.barrierLoses
    rw [show ((s.cell g).forget t).barrier = none from idle]
  unfold State.freed State.ctx
  rw [State.cell_modCell, if_pos rfl, lone, Cell.ctx_modCtx, if_neg h]
  rfl

end Flow

/-- Settles O42: branches, jumps, SPAWN and EXIT, each by its own law. -/
theorem controlFlow : Obligations.ControlFlow := by
  intro s g t i h x pc u goes
  refine ⟨?branch, ?jal, ?jalr, ?spawn, ?exit⟩
  case branch =>
    rintro k ra rb off rfl
    exact goesOnAt_branch h
  case jal =>
    rintro rd off rfl
    exact goesOnAt_jumpTo (ends_jal h)
  case jalr =>
    rintro rd ra imm rfl
    exact goesOnAt_jumpTo (ends_jalr h)
  case spawn =>
    rintro rd ra rb rfl
    intro free ends
    refine ⟨ends_spawn_range h, fun ok none => goesOnAt_spawn_none h ok (none.imp_right of_decide_eq_true),
      fun k ok some runs => ?_⟩
    have starts := ends_spawn_starts h ok some (of_decide_eq_false runs)
    rw [next_issued] at starts
    refine ⟨fun inside => ?_, fun outside => ?_⟩
    · unfold goTo at starts
      rw [if_pos inside] at starts
      exact starts
    · rw [goTo_range outside] at starts
      exact starts
  case exit =>
    rintro rfl
    have waited := became_wait (s := s) (g := g) (t := t) (i := .exit) .exit
    have ready := exitReady_wait_issued (s := s) (g := g) (t := t) .exit .exit
    have barrier : ((wait u g t .exit).cell g).barrier = (s.cell g).barrier := by rw [waited.inside]
    refine ⟨fun busy => ⟨wait u g t .exit, ?_, waited⟩, fun done => ⟨(wait u g t .exit).freed g t, ?_, ?_, ?_, ?_, ?_⟩⟩
    · have ends := ends_exit h
      rwa [settleExit_waits (ready.trans busy)] at ends
    · have ends := ends_exit h
      rw [settleExit_frees (congrArg Ctx.waiting waited.thread) (ready.trans done)] at ends
      exact ends
    · rfl
    · exact fun j hj => (cell_freed_ne hj).trans (waited.others j hj)
    · exact ctx_freed_self
    · exact fun none j hj => (ctx_freed_ne hj (barrier.trans none)).trans (waited.threads j hj)

end Sys2Proof.Machine
end


section
/-! PROOFS. Diagnostics, the package opcodes and the coolant interlock (R44-R55, R121, R470, R477-R480, R489-R492). -/

namespace Sys2Proof.Machine

/-! ### Diagnostics (Table 04-16) -/

/-- Settles O40: each command's effect from the state in which it has begun, by the branches of its own row. -/
theorem diagnosticCommands : Obligations.DiagnosticCommands := by
  intro s n c u d
  refine ⟨fun h ok => ?log, fun h ok => ?capsule, ?pattern, fun h errors bits => ?done⟩
  case log =>
    have runs : exec (.diagLogRead n ok) s = .next (
        let log := if decide (c.byte 24 = 1) then s.flt.logS else s.flt.logN
        let lost := if decide (c.byte 24 = 1) then s.flt.overS else s.flt.overN
        okWrite u d (padTo c.dataLen (((log.drop (fieldN c.entry 26 2)).take (fieldN c.entry 28 2)).flatMap
          LogEntry.bytes)) (le 4 lost ++ le 2 log.length) ok) := runCmd_runs h _
    refine ⟨fun south => ?_, fun north => ?_⟩
    · rw [runs, decide_eq_true south]
      rfl
    · rw [runs, decide_eq_false north]
      rfl
  case capsule =>
    have runs : exec (.diagCapsuleRead n ok) s = .next (okWrite u d (padTo 2048 (s.flash.capsule.getD (zeros 2048)))
        (sliceB (s.flash.capsule.getD (zeros 2048)) 4 4 ++ zeros 4 ++
          sliceB (s.flash.capsule.getD (zeros 2048)) 8 8) ok) := runCmd_runs h _
    refine ⟨fun b stored => by rw [runs, stored]; rfl, fun none => ?_⟩
    rw [runs, none, Option.getD_none, padTo, sliceB_zeros, sliceB_zeros, sliceB_zeros]
    rfl
  case pattern =>
    intro h id
    have runs : exec (.diagPattern n) s = .next (
        if c.byte 24 = 0 then
          if (s.bay id).st = .draining ∨ (s.bay id).st = .fenced then failCmd u d 0x0F 0
          else if (s.chapelOfBay id).isSome then refuse u d 0 else u
        else if (s.link id).state = 5 then failCmd u d 0x0F 0
        else if (s.link id).owner ≠ 255 then refuse u d 0 else u) := runCmd_runs h _
    rw [runs]
    refine ⟨fun bay off => ?_, fun bay undrained unfenced => ⟨fun taken => ?_, fun free => ?_⟩,
      fun port => ⟨fun fenced => ?_, fun unfenced owned => ?_, fun unfenced free => ?_⟩⟩
    · rw [if_pos bay, if_pos off]
    · rw [if_pos bay, if_neg (by simp [undrained, unfenced]), if_pos taken]
    · rw [if_pos bay, if_neg (by simp [undrained, unfenced]), if_neg (by simp [free])]
    · rw [if_neg port, if_pos fenced]
    · rw [if_neg port, if_neg unfenced, if_pos owned]
    · rw [if_neg port, if_neg unfenced, if_neg (by simp [free])]
  case done => exact runningCmd_runs h (fun _ _ => true) rfl _

/-! ### The package opcodes (Table 04-9) -/

theorem settleInterlock_nothing {s : State} (o : s.clo.ilk.openDue = false) (l : s.clo.ilk.latchDue = false)
    (k : s.clo.ilk.closedDue = false) : settleInterlock s = s := by
  unfold settleInterlock
  simp only [o, l, k, Bool.false_eq_true, if_false]

/-- Settles O28: each command's effect from the state in which it has begun. -/
theorem packageIdentityLimitAndAck : Obligations.PackageIdentityLimitAndAck := by
  intro s n c u d
  refine ⟨fun h ok => runCmd_runs h _, fun h => ⟨fun inside => ?_, fun outside => ?_⟩,
    fun h => ⟨fun early => ?_, fun closed o l k => ?_⟩⟩
  · exact (show execPkgPowerLimit n s = _ from runCmd_runs h _).trans
      (congrArg _ (if_neg (show ¬(fieldN c.entry 24 2 < 1200 ∨ 2100 < fieldN c.entry 24 2) by omega)))
  · exact (show execPkgPowerLimit n s = _ from runCmd_runs h _).trans (congrArg _ (if_pos outside))
  · exact (show execPkgInterlockAck n s = _ from runCmd_runs h _).trans (congrArg _ (if_pos early))
  · intro v w
    have settled : settleInterlock u = u := settleInterlock_nothing o l k
    have latched : u.clo.ilk.state = s.clo.ilk.state := rfl
    refine (show execPkgInterlockAck n s = _ from runCmd_runs h _).trans
      (congrArg _ ((if_neg (show ¬s.clo.ilk.bothClosed < 2 by omega)).trans ?_))
    simp only [u] at settled latched
    simp only [settled, latched, State.when, decide_eq_true_eq]
    rfl

theorem cmdWaits_moves {s : State} {n : Nat} {c : Cmd} (held : s.cmd n = some c) (moves : State → Cmd → Bool) :
    cmdWaits s n moves = moves s c := by
  unfold cmdWaits
  rw [held]

theorem wantOff_state (s : State) (l : List Nat) : wantOff s l = { s with amb := (wantOff s l).amb } :=
  foldl_modBay_state l (fun _ y => if y.st = .off then { y with onWanted := false }
    else { y with offWanted := true, onWanted := false }) s

/-- Settles O29: each command's effect from the state in which it has begun. -/
theorem powerStateAndReset : Obligations.PowerStateAndReset := by
  intro s n c u d anyChapel
  refine ⟨fun held moves => ?waits, fun h still => ?power, fun h => ?reset⟩
  case waits => exact if_pos ((cmdWaits_moves held _).trans moves)
  case power =>
    have runs : exec (.pkgPowerState n) s = .next (
        let before := [BitVec.ofNat 8 s.pw.state.code]
        match c.byte 24 with
        | 0 => doneCmd (leaveIdle u) d before
        | 1 =>
          if anyChapel fun x => decide (x = .running ∨ x = .retiring ∨ x = .evicting) then refuse u d 0
          else completeCmd (touch u c.n d.objs) d 0 0 before false (if s.pw.state = .idle then .nothing else .enterIdle)
        | _ =>
          if anyChapel fun x => decide (x ≠ .empty) then refuse u d 0
          else
            let v := wantOff u (List.range 192)
            let v := { v with pw := { v.pw with
              hbmKeep := bitN (c.byte 25) 0, hbmLost := false, wakeEn0 := bitN (c.byte 25) 1
              wakeEn1 := bitN (c.byte 25) 2 } }
            completeCmd (touch v c.n d.objs) d 0 0 before false .enterCrypt) := by
      have waits : cmdWaits s n (fun s _ => s.powerMoves) = false := (cmdWaits_moves h.held _).trans still
      refine (if_neg (by rw [waits]; decide)).trans ((runCmd_runs h _).trans ?_)
      rfl
    rw [cmd_number h.held] at runs
    refine ⟨fun active => ?_, fun idle => ⟨fun busy => ?_, fun quiet => ?_⟩,
      fun crypt => ⟨fun busy => ?_, fun quiet => ?_⟩⟩
    · simp only [active] at runs
      exact runs
    · simp only [idle] at runs
      exact runs.trans (congrArg _ (if_pos busy))
    · simp only [idle] at runs
      exact runs.trans (congrArg _ (if_neg (by rw [quiet]; decide)))
    · simp only [crypt] at runs
      exact runs.trans (congrArg _ (if_pos busy))
    · simp only [crypt] at runs
      refine runs.trans (congrArg _ ((if_neg (by rw [quiet]; decide)).trans ?_))
      rw [wantOff_state]
      rfl
  case reset =>
    have runs : exec (.pkgReset n) s = .next (
        if s.pw.thermtrip then failCmd u d 3 0x102
        else if c.byte 24 % 2 = 1 then settleReset ((chapelIds.filter fun k => decide ((s.chapel k).state ≠ .empty ∧
          (s.chapel k).state ≠ .evicting)).foldl evictChapel u)
        else if !s.allEmpty then refuse u d 0 else packageReset u) := runCmd_runs h _
    rw [runs]
    refine ⟨fun hot => ?_, fun cool plain => ⟨fun used => ?_, fun empty => ?_⟩, fun cool force => ?_⟩
    · rw [if_pos hot]
    · rw [if_neg (by simp [cool]), if_neg (by omega), if_pos (by simp [used])]
    · rw [if_neg (by simp [cool]), if_neg (by omega), if_neg (by simp [empty])]
    · rw [if_neg (by simp [cool]), if_pos force]

/-! ### The coolant interlock (R489-R491) -/

section Interlock

variable {s : State}

theorem possible_neg {c : Bool} {k : State → State} (h : c = false) : possible c s k = .next s := by
  simp [possible, h]

/-- From `s` to `t` only the chapels and their cells may differ. -/
def State.Asks (s t : State) : Prop := t = { s with cells := t.cells, chapels := t.chapels }

/-- What the start of a shed asks of one chapel (Tables 02-5, 02-5a). -/
def shedChapel (s : State) (c : Nat) : State :=
  match (s.chapel c).state with
  | .running => askStopChapel s c
  | .retiring => shedRetiring s c
  | _ => s

theorem asks_shedChapel (s : State) (c : Nat) : s.Asks (shedChapel s c) := by
  unfold shedChapel
  split
  · unfold State.Asks askStopChapel
    rw [modCells_state]
    rfl
  · unfold State.Asks shedRetiring
    rw [modCells_state]
    rfl
  · rfl

theorem asks_foldl_shedChapel (l : List Nat) (s : State) : s.Asks (l.foldl shedChapel s) := by
  induction l generalizing s with
  | nil => rfl
  | cons c l ih =>
    have first := asks_shedChapel s c
    have rest := ih (shedChapel s c)
    unfold State.Asks at *
    rw [List.foldl_cons, rest, first]

theorem startShed_eq (s : State) : startShed s = chapelIds.foldl shedChapel
    { s with heat := { s.heat with rate := 1, shed := .shedding, ackNeeded := true } } := rfl

theorem startShed_state (s : State) : startShed s = { s with
    heat := { s.heat with rate := 1, shed := .shedding, ackNeeded := true }
    cells := (startShed s).cells, chapels := (startShed s).chapels } := by
  rw [startShed_eq]
  exact asks_foldl_shedChapel chapelIds _

/-- The shed that an open interlock starts while the main domains run. -/
theorem interlockShed_on (on : s.mainOn = true) :
    (interlockShed s).heat.ackNeeded = true ∧ (interlockShed s).heat.shed ≠ .none ∧
      interlockShed s = { s with
        heat := (interlockShed s).heat, cells := (interlockShed s).cells
        chapels := (interlockShed s).chapels } := by
  unfold interlockShed
  rw [on]
  by_cases idle : s.heat.shed = .none
  · simp only [idle, if_true, Bool.not_true, Bool.false_eq_true, if_false]
    rw [startShed_state]
    simp
  · simp [idle]

theorem interlockShed_off (off : s.mainOn = false) : interlockShed s = s := by
  unfold interlockShed
  rw [off]
  rfl

theorem reportInterlock_on (value : Nat) (on : s.mainOn = true) : reportInterlock s value = { s with
    flt := (reportInterlock s value).flt, h0 := (reportInterlock s value).h0, h1 := (reportInterlock s value).h1
    emitted := (reportInterlock s value).emitted } := by
  have posted (u : State) : post u 0x0008 255 [BitVec.ofNat 8 value] = _ := State.Reports.post u _ _ _
  unfold reportInterlock
  simp only [on, if_true]
  split
  · rw [posted, logC_state]
  · rw [posted]

theorem reportInterlock_off (value : Nat) (off : s.mainOn = false) :
    reportInterlock s value = s.modIlk fun k => { k with owed := k.owed ++ [value] } := by
  unfold reportInterlock
  rw [off]
  rfl

/-- The interlock state changes to one that sheds: what is set in the cloister, and the shed of the main domains. -/
theorem declared_sheds (st value : Nat) (bits : BitVec 32) :
    let v := reportInterlock (interlockShed (alert (s.modIlk fun k => { k with state := st }) bits)) value
    v.clo.ilk = { s.clo.ilk with state := st, owed := v.clo.ilk.owed } ∧
      v.clo.alertCause = s.clo.alertCause ||| bits ∧
      (s.mainOn = true → v.heat.ackNeeded = true ∧ v.heat.shed ≠ .none ∧ v.clo.ilk.owed = s.clo.ilk.owed) ∧
      (s.mainOn = false → v = { s with clo := v.clo } ∧ v.clo.ilk.owed = s.clo.ilk.owed ++ [value]) := by
  generalize hu : alert (s.modIlk fun k => { k with state := st }) bits = u
  have same : u.mainOn = s.mainOn := by rw [← hu]; rfl
  cases on : s.mainOn with
  | true =>
    obtain ⟨ack, shed, frame⟩ := interlockShed_on (same.trans on)
    generalize interlockShed u = w at *
    have up : w.mainOn = true := by rw [frame]; exact same.trans on
    have clo : w.clo = u.clo := by rw [frame]
    rw [reportInterlock_on value up]
    change w.clo.ilk = { s.clo.ilk with state := st, owed := w.clo.ilk.owed } ∧ w.clo.alertCause = _ ∧
      (_ → w.heat.ackNeeded = true ∧ w.heat.shed ≠ .none ∧ w.clo.ilk.owed = _) ∧ _
    rw [clo]
    subst hu
    exact ⟨rfl, rfl, fun _ => ⟨ack, shed, rfl⟩, fun off => absurd off (by decide)⟩
  | false =>
    rw [interlockShed_off (same.trans on), reportInterlock_off value (same.trans on)]
    subst hu
    exact ⟨rfl, rfl, fun on => absurd on (by decide), fun _ => ⟨rfl, rfl⟩⟩

/-- The interlock is closed: what is reported changes no more than the hosts see. -/
theorem declared_closed :
    let v := reportInterlock (s.modIlk fun k => { k with state := 0 }) 0
    v = { s with clo := v.clo, h0 := v.h0, h1 := v.h1, emitted := v.emitted } ∧
      v.clo.ilk = { s.clo.ilk with state := 0, owed := v.clo.ilk.owed } ∧ v.clo.alertCause = s.clo.alertCause ∧
      v.clo.ilk.owed = (if s.mainOn then s.clo.ilk.owed else s.clo.ilk.owed ++ [0]) := by
  generalize hu : s.modIlk (fun k => { k with state := 0 }) = u
  have same : u.mainOn = s.mainOn := by rw [← hu]; rfl
  cases on : s.mainOn with
  | true =>
    have posted : reportInterlock u 0 = post u 0x0008 255 [0] := by
      unfold reportInterlock
      rw [same.trans on]
      rfl
    have reports : post u 0x0008 255 [0] = _ := State.Reports.post u _ _ _
    rw [posted, reports]
    subst hu
    exact ⟨rfl, rfl, rfl, rfl⟩
  | false =>
    rw [reportInterlock_off 0 (same.trans on)]
    subst hu
    exact ⟨rfl, rfl, rfl, rfl⟩

theorem exec_interlockSample (por : s.pw.porDone = true) (o : s.clo.ilk.openDue = false)
    (l : s.clo.ilk.latchDue = false) (c : s.clo.ilk.closedDue = false) (a b : Bool) : exec (.interlockSample a b) s =
      .next ({ s with emitted := [] }.modIlk fun k => k.sample a b) := by
  refine (show execInterlockSample a b s = _ from possible_pos por).trans (congrArg _ ?_)
  rw [settleInterlock_nothing (s := { s with emitted := [] }) o l c]

/-- Equal samples end a disagreement run. -/
theorem sample_equal (k : Interlock) (a : Bool) : k.sample a a = { k with
    aOpen := a, bOpen := a, run := 0, counted := false
    disc := if k.run ≠ 0 ∧ k.counted = false then satInc 0xFFFF k.disc else k.disc
    bothOpen := if a then min 2 (k.bothOpen + 1) else 0
    bothClosed := if a then 0 else min 2 (k.bothClosed + 1) } := by
  unfold Interlock.sample
  simp

/-- Unequal samples go on with a disagreement run, which is counted on its 53rd tick. -/
theorem sample_unequal (k : Interlock) (a : Bool) : k.sample a (!a) = { k with
    aOpen := a, bOpen := !a, run := min 54 (k.run + 1), bothOpen := 0, bothClosed := 0
    counted := k.counted || decide (k.run = 52), disc := if k.run = 52 then satInc 0xFFFF k.disc else k.disc } := by
  have count : min 54 (k.run + 1) = 53 ↔ k.run = 52 := by omega
  unfold Interlock.sample
  simp [latchTick, count]

end Interlock

/-- Settles O30: samples are counted, and each declaration sets the state and reports it. -/
theorem interlockDeclarations : Obligations.InterlockDeclarations := by
  intro s por k
  refine ⟨fun o l c => ⟨fun a => ?_, fun a => ?_⟩, fun closed twice => ?_, fun closed run once => ?_,
    fun opened twice => ?_, fun o => ?_, fun l => ?_, fun c => ?_⟩
  · rw [exec_interlockSample por o l c]
    exact congrArg (fun x => Host.Outcome.next (State.modIlk _ x)) (funext fun k => sample_equal k a)
  · rw [exec_interlockSample por o l c]
    exact congrArg (fun x => Host.Outcome.next (State.modIlk _ x)) (funext fun k => sample_unequal k a)
  · have due : k.openDue = true := decide_eq_true ⟨closed, twice⟩
    exact ⟨_, show execInterlockOpenDeclared s = _ from possible_pos (by rw [por, due]; rfl),
      declared_sheds (s := { s with emitted := [] }) 1 1 4#32⟩
  · have due : k.latchDue = true := decide_eq_true ⟨closed, run⟩
    exact ⟨_, show execInterlockDiscrepancyLatch s = _ from possible_pos (by rw [por, due]; rfl),
      declared_sheds (s := { s with emitted := [] }) 2 2 12#32⟩
  · have due : k.closedDue = true := decide_eq_true ⟨opened, twice⟩
    exact ⟨_, show execInterlockClosedDeclared s = _ from possible_pos (by rw [por, due]; rfl),
      declared_closed (s := { s with emitted := [] })⟩
  · exact show execInterlockOpenDeclared s = _ from possible_neg (by rw [o, Bool.and_false])
  · exact show execInterlockDiscrepancyLatch s = _ from possible_neg (by rw [l, Bool.and_false])
  · exact show execInterlockClosedDeclared s = _ from possible_neg (by rw [c, Bool.and_false])

end Sys2Proof.Machine
end


section
/-! PROOFS. The service commands (Table 04-15): gatehouse, belfry, tag and calibration store. -/

namespace Sys2Proof.Machine

/-! ### Each row at its turn -/

section Service

variable {s : State} {n : Nat} {c : Cmd}

/-- The antennas an operation of the gatehouse needs (Table 04-15). -/
def Cmd.antennas (c : Cmd) (s : State) : BitVec 3 :=
  if c.byte 24 = 3 then 1#3 ||| s.gate.pingEn else 1#3 <<< c.byte 25

theorem exec_svcGatehouseOp (h : s.Turn n 0x0601 c) : exec (.svcGatehouseOp n) s = .next (
    if s.gate.antFault &&& c.antennas s ≠ 0#3 then failCmd (s.begin c) (s.started c) 4 0xB0
    else if c.byte 24 = 3 then (s.begin c).modGate fun g => { g with baseline := some { cmd := n } }
    else (s.begin c).modGate fun g => { g with op := some {
      cmd := n, op := c.byte 24, bank := c.byte 25, uid := fieldN c.entry 32 8, first := c.byte 26
      count := c.byte 27, stage := if c.byte 24 = 0 then .inventory 0 0 else .systemInfo } }) := by
  rw [← cmd_number h.held]
  exact show execSvcGatehouseOp c.n s = _ from runCmd_runs (cmd_number h.held ▸ h) _

theorem exec_gatehouseOpTimeout_op {o : ReaderOp} {ok : Bool} (h : s.Running n 0x0601 c) (op : s.gate.op = some o) :
    exec (.gatehouseOpTimeout n ok) s = .next (
      if o.op = 0 then finishOp { s with emitted := [] } o 6 0 (uidList o.found) o.found.length false ok
      else finishOp { s with emitted := [] } o 6 0 [] o.moved false ok) := by
  refine (show execGatehouseOpTimeout n ok s = _ from
    runningCmd_runs h (fun _ _ => true) rfl _).trans (congrArg _ ?_)
  simp only [op]

theorem exec_gatehouseOpTimeout_baseline {ok : Bool} (h : s.Running n 0x0601 c) (op : s.gate.op = none) :
    exec (.gatehouseOpTimeout n ok) s = .next (completeCmd (touch ({ s with emitted := [] }.modGate fun g =>
      { g with baseline := none }.off) c.n c.objs) c 6 0 [] false .nothing) := by
  refine (show execGatehouseOpTimeout n ok s = _ from
    runningCmd_runs h (fun _ _ => true) rfl _).trans (congrArg _ ?_)
  simp only [op]

theorem exec_svcTagWrite (h : s.Turn n 0x0605 c) : exec (.svcTagWrite n) s = .next (
    if c.byte 24 < 8 then failCmd (s.begin c) (s.started c) 3 0xA0
    else if c.byte 24 < 192 ∧ 64 < c.byte 24 + c.byte 25 then failCmd (s.begin c) (s.started c) 3 0
    else (s.begin c).modTag fun t => { t with staged := t.staged ++ [⟨c.byte 24, c.plain, some n⟩] }) := by
  rw [← cmd_number h.held]
  exact show execSvcTagWrite c.n s = _ from runCmd_runs (cmd_number h.held ▸ h) _

theorem exec_svcCalStore_write {ok : Bool} (h : s.Turn n 0x0606 c) (op : c.byte 24 = 0) :
    exec (.svcCalStore n ok) s = .next (
      if s.hbmDown then failCmd (s.begin c) (s.started c) 4 0x81
      else if s.flash.topGen = 0xFFFFFFFE then failCmd (s.begin c) (s.started c) 4 0xC0
      else putSlot { s.begin c with clo := { s.clo with store := some ⟨s.flash.targetB, stageCal (s.begin c), n⟩ } }
        s.flash.targetB { st := .torn }) := by
  refine (show execSvcCalStore n ok s = _ from runCmd_runs h _).trans (congrArg _ ?_)
  have byte : (s.started c).byte 24 = 0 := op
  simp only [byte]
  rw [show (s.started c).n = n from (cmd_number h.held : c.n = n)]
  rfl

theorem exec_svcCalStore_read {ok : Bool} (h : s.Turn n 0x0606 c) (op : c.byte 24 = 1) :
    exec (.svcCalStore n ok) s = .next (okWrite (s.begin c) (s.started c)
      (sealReply (s.begin c) (s.started c) (calState (s.begin c))) (calResult (s.begin c)) ok) := by
  refine (show execSvcCalStore n ok s = _ from runCmd_runs h _).trans (congrArg _ ?_)
  have byte : (s.started c).byte 24 = 1 := op
  simp only [byte]

theorem exec_svcCalStore_empty {ok : Bool} (h : s.Turn n 0x0606 c) (op : c.byte 24 = 2) :
    exec (.svcCalStore n ok) s = .next (doneCmd (putSlot (s.begin c) (decide (c.byte 25 = 1)) {}) (s.started c)
      (calResult (putSlot (s.begin c) (decide (c.byte 25 = 1)) {}))) := by
  refine (show execSvcCalStore n ok s = _ from runCmd_runs h _).trans (congrArg _ ?_)
  have byte : (s.started c).byte 24 = 2 := op
  simp only [byte]
  rfl

theorem cmd_putSlot (s : State) (toB : Bool) (x : CalSlot) (k : Nat) : (putSlot s toB x).cmd k = s.cmd k := by
  cases toB <;> rfl

section Done

variable {x : CalStore} (por : s.pw.porDone = true) (store : s.clo.store = some x) (held : s.cmd x.cmd = some c)

include por store held

theorem exec_calStoreWriteDone_good : exec (.calStoreWriteDone true) s = .next (
    let w := putSlot { s with emitted := [], clo := { s.clo with store := none } } x.toB x.slot
    doneCmd w c (calResult w)) := by
  change execCalStoreWriteDone true s = _
  unfold execCalStoreWriteDone
  rw [store]
  refine (possible_pos por).trans (congrArg _ ?_)
  have here : (putSlot { s with emitted := [], clo := { s.clo with store := none } } x.toB x.slot).cmd x.cmd = some c :=
    (cmd_putSlot ..).trans held
  simp only [if_true, here]

theorem exec_calStoreWriteDone_torn : exec (.calStoreWriteDone false) s = .next (
    let v := { s with emitted := [], clo := { s.clo with store := none } }
    completeCmd (touch { v with freeCount := s.freeCount + 1 } c.n c.objs) c (s.freeNat.1 % 256) 0 (calResult v)
      false .nothing) := by
  change execCalStoreWriteDone false s = _
  unfold execCalStoreWriteDone
  rw [store]
  refine (possible_pos por).trans (congrArg _ ?_)
  have here : State.cmd { s with emitted := [], clo := { s.clo with store := none } } x.cmd = some c := held
  simp only [Bool.false_eq_true, if_false, here]
  rfl

end Done

end Service

/-- Settles O39: each service command by its row's branches, in the order of its checks. -/
theorem serviceCommands : Obligations.ServiceCommands := by
  intro s n c u d e
  refine ⟨?reader, fun h ok => ⟨fun o op => ?inventory, fun none => ?baseline⟩,
    fun h => ⟨fun unsealed => ?_, fun shut => ?_⟩,
    fun h ok => ⟨fun shut => ?_, ?read⟩, fun h => ⟨fun low => ?_, fun low mid past => ?_, fun low free => ?_⟩,
    fun h ok => ⟨fun op down => ?_, fun op up top => ?_, fun op up room => ?_, fun op => ?_, fun op => ?_⟩,
    fun x por store held => ⟨?_, ?_⟩⟩
  case reader =>
    intro h needs
    refine ⟨fun fault => ?_, fun sound op => ?_, fun sound op => ?_⟩
    · exact (exec_svcGatehouseOp h).trans (congrArg _ (if_pos fault))
    · exact (exec_svcGatehouseOp h).trans (congrArg _ ((if_neg (not_not.2 sound)).trans (if_pos op)))
    · exact (exec_svcGatehouseOp h).trans (congrArg _ ((if_neg (not_not.2 sound)).trans (if_neg op)))
  case inventory => exact exec_gatehouseOpTimeout_op h op
  case baseline => exact exec_gatehouseOpTimeout_baseline h none
  · exact (show execSvcBelfryCfg n s = _ from runCmd_runs h _).trans
      (congrArg _ (if_pos (congrArg not unsealed)))
  · exact (show execSvcBelfryCfg n s = _ from runCmd_runs h _).trans
      (congrArg _ (if_neg (show ¬(!s.bel.sealed) = true by rw [shut]; decide)))
  · exact (show execSvcBelfryRead n ok s = _ from runCmd_runs h _).trans (congrArg _ (if_pos shut))
  case read =>
    intro unsealed
    exact (show execSvcBelfryRead n ok s = _ from runCmd_runs h _).trans
      (congrArg _ (if_neg (show ¬s.bel.sealed = true by rw [unsealed]; decide)))
  · exact (exec_svcTagWrite h).trans (congrArg _ (if_pos low))
  · exact (exec_svcTagWrite h).trans (congrArg _ ((if_neg (by omega)).trans (if_pos ⟨mid, past⟩)))
  · exact (exec_svcTagWrite h).trans (congrArg _ ((if_neg (by omega)).trans (if_neg (by omega))))
  · exact (exec_svcCalStore_write h op).trans (congrArg _ (if_pos down))
  · exact (exec_svcCalStore_write h op).trans (congrArg _ ((if_neg (by rw [up]; decide)).trans (if_pos top)))
  · exact (exec_svcCalStore_write h op).trans (congrArg _ ((if_neg (by rw [up]; decide)).trans (if_neg room)))
  · exact exec_svcCalStore_read h op
  · exact exec_svcCalStore_empty h op
  · exact exec_calStoreWriteDone_good por store held
  · exact exec_calStoreWriteDone_torn por store held

end Sys2Proof.Machine
end


section
/-! PROOFS. The chapel opcodes that start threads and answer queries, and the loads of a chapel's tables (Tables 04-10
and 04-11). -/

namespace Sys2Proof.Machine

/-! ### CHAPEL_CREATE, CHAPEL_LAUNCH, CHAPEL_RESUME, CHAPEL_QUERY -/

section Chapels

variable {s : State} {n : Nat} {c : Cmd}

/-- A command that may wait for a transition of what it names has its effect at its turn where it does not wait. -/
theorem waiting_runs {op : Nat} {moves : State → Cmd → Bool} (h : s.Turn n op c) (still : moves s c = false)
    (k : State → Cmd → State) :
    (if cmdWaits s n moves then .next s else runCmd n op s k) = Host.Outcome.next (k (s.begin c) (s.started c)) := by
  rw [cmdWaits_moves h.held, still]
  exact runCmd_runs h k

theorem waiting_waits {op : Nat} {moves : State → Cmd → Bool} (held : s.cmd n = some c) (waits : moves s c = true)
    (k : State → Cmd → State) : (if cmdWaits s n moves then Host.Outcome.next s else runCmd n op s k) = .next s := by
  rw [cmdWaits_moves held, waits]
  rfl

theorem tget_filter {α : Type} (d : α) (t : Tbl α) (keep : Nat → Bool) (j : Nat) :
    tget d (t.filter fun e => keep e.1) j = if keep j then tget d t j else d := by
  induction t with
  | nil => simp
  | cons e t ih =>
    obtain ⟨k, x⟩ := e
    by_cases kept : keep k = true
    · rw [List.filter_cons_of_pos (p := fun e : Nat × α => keep e.1) kept, tget_cons, tget_cons, ih]
      split_ifs with here <;> simp_all
    · rw [List.filter_cons_of_neg (p := fun e : Nat × α => keep e.1) kept, tget_cons, ih]
      split_ifs with live here <;> simp_all

theorem exec_chapelCreate (h : s.Turn n 0x0101 c) (still : createWaits s c = false) : exec (.chapelCreate n) s = .next (
    let k : Chapel := { policy := c.byte 25, origin := fieldN c.entry 26 2, width := c.byte 28, height := c.byte 29 }
    let r := s.chapelRec c.ch
    if (s.chapel c.ch).state ≠ .empty ∨ r.rect k.origin k.width k.height = false then
      refuse (s.begin c) (s.started c) 0
    else if c.createBays.any fun b => decide ((s.sensor b).state = 3) then failCmd (s.begin c) (s.started c) 4 0x102
    else if s.hbmDown then failCmd (s.begin c) (s.started c) 4 0x81
    else doneCmd (formChapel (s.begin c) c.ch k r.grant) (s.started c)
      (le 2 k.ncells ++ le 2 (k.width * k.height))) :=
  waiting_runs h still _

/-- The tables and bays of a chapel that is formed are ready, and its state still to change. -/
def State.formed (s : State) (i : Nat) (k : Chapel) (grant : Nat) : State :=
  (k.bays.foldl (fun (s : State) b => s.modBay b fun _ => { st := .on }) { s with
    cells := s.cells.filter fun e => !k.holds e.1
    aisleBays := s.aisleBays.filter fun e => !k.bays.contains e.1
    amb := { s.amb with targets := { s.amb.targets with grants := tput 0 s.amb.targets.grants i grant } } }).modChapel i
      fun x => { k with changedAt := x.changedAt }

theorem formChapel_eq (s : State) (i : Nat) (k : Chapel) (grant : Nat) :
    formChapel s i k grant = setChState (s.formed i k grant) i .formed := rfl

section Formed

variable (v : State) (i : Nat) (k : Chapel) (grant : Nat)

theorem formed_state : v.formed i k grant = { v with
    chapels := (v.formed i k grant).chapels, cells := v.cells.filter fun e => !k.holds e.1
    aisleBays := (v.formed i k grant).aisleBays, amb := (v.formed i k grant).amb } := by
  unfold State.formed
  rw [foldl_modBay_state]
  rfl

theorem chapel_formed (j : Nat) : (v.formed i k grant).chapel j =
    if j = i then { k with changedAt := (v.chapel i).changedAt } else v.chapel j := by
  unfold State.formed
  rw [foldl_modBay_state, State.chapel_modChapel]
  rfl

theorem cell_formed (g : Nat) : State.cell { v with cells := v.cells.filter fun e => !k.holds e.1 } g =
    if k.holds g then Cell.fresh else v.cell g := by
  refine (tget_filter Cell.fresh v.cells (fun g => !k.holds g) g).trans ?_
  cases k.holds g <;> rfl

end Formed

theorem exec_chapelLaunch (h : s.Turn n 0x0102 c) : exec (.chapelLaunch n) s = .next (
    let k := s.chapel c.ch
    if k.state ≠ .formed then refuse (s.begin c) (s.started c) 0
    else if s.interlockBlocks then failCmd (s.begin c) (s.started c) 0x0D 0
    else if k.tripped then failCmd (s.begin c) (s.started c) 4 0x102
    else
      let ts := maskTids (BitVec.ofNat 16 (fieldN c.entry 26 2))
      let x := Ctx.started (fieldN c.entry 32 4) (BitVec.ofNat 64 (fieldN c.entry 40 8)) k.cycles.toNat
      let v := (s.begin c).modCells c.ch fun cell => ts.foldl (fun cell t => cell.modCtx t fun _ => x) cell
      doneCmd (setChState (v.modChapel c.ch fun h => { h with drained := false }) c.ch .running) (s.started c)
        (le 4 (k.ncells * ts.length))) :=
  runCmd_runs h _

theorem exec_chapelResume (h : s.Turn n 0x0104 c) (still : pausingFor s c = false) : exec (.chapelResume n) s = .next (
    let k := s.chapel c.ch
    if k.state ≠ .paused then refuse (s.begin c) (s.started c) 0
    else if s.interlockBlocks then failCmd (s.begin c) (s.started c) 0x0D 0
    else if k.departed && s.ownsFenced c.ch then refuse (s.begin c) (s.started c) 0x91
    else
      let v := (s.begin c).modChapel c.ch fun h =>
        { h with drained := false, pauseHard := false, shedHard := false, departed := false }
      settleChapel (doneCmd (setChState (v.modCells c.ch Cell.resume) c.ch .running) (s.started c) []) c.ch) :=
  waiting_runs h still _

theorem rectOf_self {i : Nat} (h : (s.chapel i).state ≠ .empty) : s.rectOf i = s.chapel i := if_neg h

section Query

variable {ok : Bool} (h : s.Turn n 0x0107 c)

include h

theorem exec_chapelQuery (fits : c.dataLen = 0 ∨ 32 * (s.rectOf c.ch).bays.length ≤ c.dataLen) :
    exec (.chapelQuery n ok) s = .next (okWrite (s.begin c) (s.started c)
      (if c.dataLen = 0 ∨ (s.chapel c.ch).state = .empty then []
        else (s.chapel c.ch).bays.flatMap fun b => (s.bayAisle b).bytes) (queryResult (s.begin c) c.ch) ok) :=
  show execChapelQuery n ok s = _ from runCmdPre_runs h _ _
    (if_neg (show ¬(c.dataLen ≠ 0 ∧ c.dataLen < 32 * (s.rectOf c.ch).bays.length) by omega))

theorem exec_chapelQuery_short (some : c.dataLen ≠ 0) (short : c.dataLen < 32 * (s.rectOf c.ch).bays.length) :
    exec (.chapelQuery n ok) s = .next (failCmd (s.begin c) (s.started c) 1 16) :=
  show execChapelQuery n ok s = _ from runCmdPre_fails h _ _
    (if_pos (show c.dataLen ≠ 0 ∧ c.dataLen < 32 * (s.rectOf c.ch).bays.length from ⟨some, short⟩))

end Query

end Chapels

/-- Settles O31: each chapel command by its row's checks in their order; a formed chapel by its tables' laws. -/
theorem chapelStarts : Obligations.ChapelStarts := by
  intro s n c u d h
  refine ⟨fun held waits => waiting_waits held waits _, ?create, ?formed, fun turn => ?launch,
    fun held waits => waiting_waits held waits _, fun turn still => ?resume, fun turn ok => ?query⟩
  case create =>
    intro turn still k r fits
    have runs := exec_chapelCreate turn still
    have formable (empty : (s.chapel c.ch).state = .empty) (fit : fits = true) :
        ¬((s.chapel c.ch).state ≠ .empty ∨ r.rect k.origin k.width k.height = false) := by
      rintro (used | unfit)
      · exact used empty
      · exact absurd (unfit.symm.trans fit) (by decide)
    refine ⟨fun unfit => ?_, fun empty fit trip => ?_, fun empty fit sound => ⟨fun down => ?_, fun up => ?_⟩⟩
    · exact runs.trans (congrArg _ (if_pos unfit))
    · exact runs.trans (congrArg _ ((if_neg (formable empty fit)).trans (if_pos trip)))
    · exact runs.trans (congrArg _ ((if_neg (formable empty fit)).trans ((if_neg (by rw [sound]; decide)).trans
        (if_pos down))))
    · exact runs.trans (congrArg _ ((if_neg (formable empty fit)).trans ((if_neg (by rw [sound]; decide)).trans
        (if_neg (by rw [up]; decide)))))
  case formed =>
    intro v i k grant empty t
    have changes : ((v.formed i k grant).chapel i).state ≠ .formed := by
      rw [chapel_formed, if_pos rfl]
      simp [empty]
    have pw : (v.formed i k grant).pw = v.pw := by rw [formed_state]
    have cells (g : Nat) : t.cell g = if k.holds g then Cell.fresh else v.cell g := by
      rw [← cell_formed]
      exact congrArg (fun x => tget Cell.fresh x g) ((cells_setChState _ i _ changes).trans (by rw [formed_state]))
    refine ⟨?_, fun j hj => ?_, fun g hg => ?_, fun g hg => ?_⟩
    · refine (chapel_setChState (v.formed i k grant) i i _ changes).trans ?_
      rw [if_pos rfl, chapel_formed, if_pos rfl, pw]
    · refine (chapel_setChState (v.formed i k grant) i j _ changes).trans ?_
      rw [if_neg hj, chapel_formed, if_neg hj]
    · rw [cells, hg, if_pos rfl]
    · rw [cells, hg]
      rfl
  case launch =>
    have runs := exec_chapelLaunch turn
    refine ⟨fun unformed => ?_, fun formed shed => ?_, fun formed calm trip => ?_, fun formed calm sound => ?_⟩
    · exact runs.trans (congrArg _ (if_pos unformed))
    · exact runs.trans (congrArg _ ((if_neg (not_not.2 formed)).trans (if_pos shed)))
    · exact runs.trans (congrArg _ ((if_neg (not_not.2 formed)).trans ((if_neg (by rw [calm]; decide)).trans
        (if_pos trip))))
    · exact runs.trans (congrArg _ ((if_neg (not_not.2 formed)).trans ((if_neg (by rw [calm]; decide)).trans
        (if_neg (show ¬h.tripped = true by rw [sound]; decide)))))
  case resume =>
    have runs := exec_chapelResume turn still
    refine ⟨fun other => ?_, fun paused shed => ?_, fun paused calm gone fenced => ?_, fun paused calm free => ?_⟩
    · exact runs.trans (congrArg _ (if_pos other))
    · exact runs.trans (congrArg _ ((if_neg (not_not.2 paused)).trans (if_pos shed)))
    · exact runs.trans (congrArg _ ((if_neg (not_not.2 paused)).trans ((if_neg (by rw [calm]; decide)).trans
        (if_pos (show (h.departed && s.ownsFenced c.ch) = true by rw [gone, fenced]; rfl)))))
    · have goes : ¬(h.departed && s.ownsFenced c.ch) = true := by
        rcases free with free | free
        · rw [free]; simp
        · rw [free]; simp
      exact runs.trans (congrArg _ ((if_neg (not_not.2 paused)).trans ((if_neg (by rw [calm]; decide)).trans
        (if_neg goes))))
  case query =>
    refine ⟨fun none => ?_, fun fits some used => ?_, fun short some used => ?_⟩
    · rw [exec_chapelQuery turn (.inl none), if_pos (.inl none)]
    · rw [exec_chapelQuery turn (.inr (by rwa [rectOf_self used])), if_neg (not_or.2 ⟨some, used⟩)]
    · exact exec_chapelQuery_short turn some (by rwa [rectOf_self used])

/-! ### Loads of a chapel's tables (Table 04-11) -/

section Loads

variable {s : State} {n : Nat} {c : Cmd}

section Image

variable {len : Chapel → Nat} {bad : Chapel → List Nat} (rect : s.hasRect c.ch = true)

include rect

theorem imageCheck_length (h : c.dataLen ≠ len (s.rectOf c.ch)) : imageCheck s c len bad = some (1, 16) := by
  unfold imageCheck
  rw [rect]
  exact if_pos h

theorem imageCheck_image (h : c.dataLen = len (s.rectOf c.ch)) :
    imageCheck s c len bad = (lowest (bad (s.rectOf c.ch))).map fun o => (1, inBuffer o) := by
  unfold imageCheck
  rw [rect]
  exact if_neg (not_not.2 h)

end Image

/-- The chapel's tables may be loaded: it is FORMED, or PAUSED and drained. -/
def State.mayLoad (s : State) (i : Nat) : Prop :=
  (s.chapel i).state = .formed ∨ ((s.chapel i).state = .paused ∧ (s.chapel i).drained = true)

theorem loadGate_refuses {k : State} (h : ¬s.mayLoad c.ch) :
    loadGate s c k = refuse s c (if (s.chapel c.ch).state = .paused then 0x20 else 0) := if_neg h

theorem loadGate_trips {k : State} (h : s.mayLoad c.ch) (trip : (s.chapel c.ch).tripped = true) :
    loadGate s c k = failCmd s c 4 0x102 := (if_pos h).trans (if_pos trip)

theorem loadGate_loads {k : State} (h : s.mayLoad c.ch) (sound : (s.chapel c.ch).tripped = false) :
    loadGate s c k = k := (if_pos h).trans (if_neg (by rw [sound]; decide))

/-- What breaks Table 10-7 in the image of a MCAST_LOAD. -/
def Cmd.mcastBad (c : Cmd) (h : Chapel) : List Nat :=
  (List.range (fieldN c.entry 28 2)).flatMap fun k => groupBad h c.buf (k * h.groupBytes)

theorem exec_mcastLoad_bad (h : s.Turn n 0x0201 c) {a b : Nat}
    (bad : imageCheck s c (fun h => fieldN c.entry 28 2 * h.groupBytes) c.mcastBad = some (a, b)) :
    exec (.mcastLoad n) s = .next (failCmd (s.begin c) (s.started c) a b) :=
  show execMcastLoad n s = _ from runCmdPre_fails h _ _ bad

theorem exec_mcastLoad (h : s.Turn n 0x0201 c)
    (good : imageCheck s c (fun h => fieldN c.entry 28 2 * h.groupBytes) c.mcastBad = none) :
    exec (.mcastLoad n) s = .next (loadGate (s.begin c) (s.started c)
      (doneCmd ((s.begin c).modChapel c.ch fun h => { h with
        mcast := (List.range (fieldN c.entry 28 2)).foldl (fun t k => tput McastGroup.fresh t (fieldN c.entry 26 2 + k)
          (parseGroup h c.buf (k * h.groupBytes))) h.mcast }) (s.started c) [])) :=
  show execMcastLoad n s = _ from runCmdPre_runs h _ _ good

theorem exec_sumTreeLoad_bad (h : s.Turn n 0x0202 c) {a b : Nat}
    (bad : imageCheck s c (fun h => 32 + 8 * h.ncells) (fun h => sumImageBad h (s.screenSlot c.ch) c.buf) =
      some (a, b)) : exec (.sumTreeLoad n) s = .next (failCmd (s.begin c) (s.started c) a b) :=
  show execSumTreeLoad n s = _ from runCmdPre_fails h _ _ bad

theorem exec_sumTreeLoad (h : s.Turn n 0x0202 c)
    (good : imageCheck s c (fun h => 32 + 8 * h.ncells) (fun h => sumImageBad h (s.screenSlot c.ch) c.buf) = none) :
    exec (.sumTreeLoad n) s = .next (loadGate (s.begin c) (s.started c) (
      let h := s.chapel c.ch
      let sums := tput SumGroup.fresh h.sums (c.byte 25) (parseSum h c.buf)
      if slotsExceeded h sums then failCmd (s.begin c) (s.started c) 4 0x70
      else doneCmd (((s.begin c).modChapel c.ch fun h => { h with sums := sums }).modCells c.ch fun x =>
        { x with sum := { x.sum with insts := tdel x.sum.insts (c.byte 25) } }) (s.started c) [])) :=
  show execSumTreeLoad n s = _ from runCmdPre_runs h _ _ good

/-- The cell a HANDLER_LOAD names alone lies outside the chapel's rectangle. -/
def Cmd.handlerOutside (c : Cmd) (s : State) : Prop :=
  s.hasRect c.ch = true ∧ fieldN c.entry 26 2 ≠ 0xFFFF ∧ (s.rectOf c.ch).ncells ≤ fieldN c.entry 26 2

theorem exec_handlerLoad_outside (h : s.Turn n 0x0108 c) (outside : c.handlerOutside s) :
    exec (.handlerLoad n) s = .next (failCmd (s.begin c) (s.started c) 5 0) :=
  show execHandlerLoad n s = _ from runCmdPre_fails h _ _ (if_pos outside)

theorem exec_handlerLoad (h : s.Turn n 0x0108 c) (inside : ¬c.handlerOutside s) :
    exec (.handlerLoad n) s = .next (
      let h := s.chapel c.ch
      if ¬(h.state = .formed ∨ h.state = .paused) then refuse (s.begin c) (s.started c) 0
      else if (c.handlerCells h).any fun g => (s.cell g).turnBusy then refuse (s.begin c) (s.started c) 0x60
      else if h.tripped then failCmd (s.begin c) (s.started c) 4 0x102
      else doneCmd ((c.handlerCells h).foldl (fun v g => v.modCell g (·.loadHandlers c.buf)) (s.begin c))
        (s.started c) []) :=
  show execHandlerLoad n s = _ from runCmdPre_runs h _ _ (if_neg inside)

end Loads

/-- Settles O34: the image is checked first, then the chapel's state and its bays. -/
theorem loadsAndDrain : Obligations.LoadsAndDrain := by
  intro s n c u d h may groups mbad sbad
  refine ⟨fun turn rect long => ?_, fun turn rect fits => ⟨fun o low => ?_, fun clean => ?mcast⟩,
    fun turn rect long => ?_, fun turn rect fits => ⟨fun o low => ?_, fun clean => ?sums⟩, ?handlers,
    fun turn => ⟨fun able => ?_, fun other => ?_⟩, ?drain⟩
  · exact exec_mcastLoad_bad turn (imageCheck_length rect long)
  · refine exec_mcastLoad_bad turn ((imageCheck_image rect fits).trans ?_)
    rw [show lowest (c.mcastBad (s.rectOf c.ch)) = some o from low]
    rfl
  case mcast =>
    have good : imageCheck s c (fun h => fieldN c.entry 28 2 * h.groupBytes) c.mcastBad = none := by
      rw [imageCheck_image rect fits, show lowest (c.mcastBad (s.rectOf c.ch)) = none from clean]
      rfl
    have loads := exec_mcastLoad turn good
    exact ⟨fun other => loads.trans (congrArg _ (loadGate_refuses other)),
      fun able trip => loads.trans (congrArg _ (loadGate_trips able trip)),
      fun able sound => loads.trans (congrArg _ (loadGate_loads able sound))⟩
  · exact exec_sumTreeLoad_bad turn (imageCheck_length rect long)
  · refine exec_sumTreeLoad_bad turn ((imageCheck_image rect fits).trans ?_)
    rw [show lowest (sumImageBad (s.rectOf c.ch) (s.screenSlot c.ch) c.buf) = some o from low]
    rfl
  case sums =>
    have good : imageCheck s c (fun h => 32 + 8 * h.ncells) (fun h => sumImageBad h (s.screenSlot c.ch) c.buf) =
        none := by
      rw [imageCheck_image rect fits,
        show lowest (sumImageBad (s.rectOf c.ch) (s.screenSlot c.ch) c.buf) = none from clean]
      rfl
    have loads := exec_sumTreeLoad turn good
    refine ⟨fun other => loads.trans (congrArg _ (loadGate_refuses other)),
      fun able trip => loads.trans (congrArg _ (loadGate_trips able trip)), fun able sound sums hs => ?_⟩
    have gate := loads.trans (congrArg _ (loadGate_loads able sound))
    subst hs
    exact ⟨fun many => gate.trans (congrArg _ (if_pos many)),
      fun room => gate.trans (congrArg _ (if_neg (by rw [room]; decide)))⟩
  case handlers =>
    intro turn cells
    refine ⟨fun rect one outside => exec_handlerLoad_outside turn ⟨rect, one, outside⟩, fun inside => ?_⟩
    have runs := exec_handlerLoad turn (by
      rintro ⟨rect, one, outside⟩
      rcases inside with inside | inside | inside
      · exact absurd (inside.symm.trans rect) (by decide)
      · exact one inside
      · omega)
    refine ⟨fun other => ?_, fun able busy => ?_, fun able idle => ⟨fun trip => ?_, fun sound => ?_⟩⟩
    · exact runs.trans (congrArg _ (if_pos other))
    · exact runs.trans (congrArg _ ((if_neg (not_not.2 able)).trans (if_pos busy)))
    · exact runs.trans (congrArg _ ((if_neg (not_not.2 able)).trans
        ((if_neg (show ¬(cells.any fun g => (s.cell g).turnBusy) = true by rw [idle]; decide)).trans (if_pos trip))))
    · exact runs.trans (congrArg _ ((if_neg (not_not.2 able)).trans
        ((if_neg (show ¬(cells.any fun g => (s.cell g).turnBusy) = true by rw [idle]; decide)).trans
          (if_neg (show ¬h.tripped = true by rw [sound]; decide)))))
  · exact (show execFabricDrain n s = _ from runCmd_runs turn _).trans (congrArg _ (if_pos able))
  · exact (show execFabricDrain n s = _ from runCmd_runs turn _).trans (congrArg _ (if_neg other))
  case drain =>
    intro running v
    exact ⟨fun empty => show execDrainComplete n s = _ from
        runningCmd_runs running (fun s c => s.fabricEmpty c.ch) empty _,
      show execFabricDrainTimeout n s = _ from runningCmd_runs running (fun _ _ => true) rfl _⟩

end Sys2Proof.Machine
end


section
/-! PROOFS. The memory opcodes (Table 04-12): windows, lecterns and copies. -/

namespace Sys2Proof.Machine

section Memory

variable {s : State} {n : Nat} {c : Cmd}

theorem Turn.not_running {op : Nat} (h : s.Turn n op c) : c.stage ≠ .running := by
  have turn := h.turn
  unfold turnCame at turn
  intro running
  simp [running] at turn

/-! ### Windows (R137, R386) -/

theorem exec_memWindowMap (h : s.Turn n 0x0301 c) (known : c.byte 26 ≠ 0 ∨ c.oldWindow s ≠ {}) :
    exec (.memWindowMap n) s = .next (startWindow (s.begin c) (s.started c)) := by
  change execMemWindowMap n s = _
  unfold execMemWindowMap
  rw [cmdWaits_moves h.held, decide_eq_false (Turn.not_running h)]
  refine (if_neg (by decide)).trans (runCmdPre_runs h _ _ ?_)
  exact if_neg (show ¬(c.byte 26 = 0 ∧ c.oldWindow s = {}) from fun none => known.elim (· none.1) (· none.2))

theorem exec_memWindowMap_none (h : s.Turn n 0x0301 c) (unmap : c.byte 26 = 0) (none : c.oldWindow s = {}) :
    exec (.memWindowMap n) s = .next (failCmd (s.begin c) (s.started c) 5 0) := by
  change execMemWindowMap n s = _
  unfold execMemWindowMap
  rw [cmdWaits_moves h.held, decide_eq_false (Turn.not_running h)]
  refine (if_neg (by decide)).trans (runCmdPre_fails h _ _ ?_)
  exact if_pos (show c.byte 26 = 0 ∧ c.oldWindow s = {} from ⟨unmap, none⟩)

theorem exec_memWindowMap_closed (h : s.Running n 0x0301 c) (quiet : windowQuiet s c.ch (c.byte 25) = true) :
    exec (.memWindowMap n) s = .next (putWindow { s with emitted := [] } c) := by
  change execMemWindowMap n s = _
  unfold execMemWindowMap
  rw [cmdWaits_moves h.held, decide_eq_true h.stage]
  exact runningCmd_runs h (fun s c => windowQuiet s c.ch (c.byte 25)) quiet _

/-- The window a command names leaves the cells' tables first. -/
def State.closeWindow (s : State) (c : Cmd) : State :=
  s.modChapel c.ch fun h => { h with
    windows := tput {} h.windows (c.byte 25) { tget {} h.windows (c.byte 25) with closing := true } }

section Start

variable (forms : (s.chapel c.ch).state = .formed ∨ (s.chapel c.ch).state = .paused)

include forms

theorem startWindow_refused (maps : c.byte 26 ≠ 0) (bad : windowRefused s c = true) : startWindow s c = refuse s c 0 :=
  (if_neg (not_not.2 forms)).trans (if_pos ⟨maps, bad⟩)

theorem startWindow_hbmDown (hbm : c.byte 26 = 1) (good : windowRefused s c = false) (down : s.hbmDown = true) :
    startWindow s c = failCmd s c 4 0x81 :=
  (if_neg (not_not.2 forms)).trans ((if_neg fun bad => absurd (bad.2.symm.trans good) (by decide)).trans
    (if_pos ⟨hbm, down⟩))

theorem startWindow_starts (may : c.byte 26 = 0 ∨ (windowRefused s c = false ∧ (c.byte 26 ≠ 1 ∨ s.hbmDown = false))) :
    startWindow s c = if c.oldWindow s = {} then putWindow s c
      else if windowQuiet (s.closeWindow c) c.ch (c.byte 25) then putWindow (s.closeWindow c) c
      else s.closeWindow c := by
  have allowed : ¬(c.byte 26 ≠ 0 ∧ windowRefused s c = true) := by
    rintro ⟨maps, bad⟩
    rcases may with unmaps | ⟨good, -⟩
    · exact maps unmaps
    · exact absurd (bad.symm.trans good) (by decide)
  have up : ¬(c.byte 26 = 1 ∧ s.hbmDown = true) := by
    rintro ⟨hbm, down⟩
    rcases may with unmaps | ⟨-, other | up⟩
    · omega
    · exact other hbm
    · exact absurd (down.symm.trans up) (by decide)
  exact (if_neg (not_not.2 forms)).trans ((if_neg allowed).trans (if_neg up))

end Start

/-! ### Lecterns (R252, R259) -/

theorem exec_lecternDefine (h : s.Turn n 0x0302 c) : exec (.lecternDefine n) s = .next (
    let l := s.lectern c.ch
    let base := fieldN c.entry 32 8
    let size := fieldN c.entry 40 8
    if c.byte 25 = 1 then
      if lecternGranted s c.ch then refuse (s.begin c) (s.started c) 0
      else if s.hbmDown then failCmd (s.begin c) (s.started c) 4 0x81
      else doneCmd (putLectern (closeEntries (s.begin c) l.base l.size) c.ch {}) (s.started c) []
    else if l.defined || hbmWindowMeets s (fun _ => true) base size || lecternMeets s base size then
      refuse (s.begin c) (s.started c) 0
    else if s.hbmDown then failCmd (s.begin c) (s.started c) 4 0x81
    else doneCmd (putLectern (s.begin c) c.ch ⟨true, base, size⟩) (s.started c) []) :=
  runCmd_runs h _

/-! ### Copies (R191, R593) -/

theorem exec_slypeCopy (h : s.Turn n 0x0303 c) : exec (.slypeCopy n) s = .next (
    if c.ch = 0xFE then startMover (s.begin c) (s.started c) else startCopy (s.begin c) (s.started c)) :=
  runCmd_runs h _

/-- The HBM end of a copy by the mover. -/
def Cmd.moverBase (c : Cmd) : Nat := if c.byte 26 = 1 then fieldN c.entry 32 8 else fieldN c.entry 40 8

/-- The HBM end of a copy by the mover meets a window or a lectern. -/
def moverMeets (s : State) (c : Cmd) : Bool :=
  hbmWindowMeets s (fun _ => true) c.moverBase (fieldN c.entry 48 8) || lecternMeets s c.moverBase (fieldN c.entry 48 8)

theorem startMover_eq : startMover s c =
    if moverMeets s c then refuse s c 0
    else if s.hbmDown then failCmd s c 4 0x81
    else if s.amb.mover.mode ≠ 0 then failCmd s c 0x0E 0
    else
      let v := { s with amb := { s.amb with
        mover := s.amb.mover.begin_ (fieldN c.entry 32 8) (fieldN c.entry 40 8) (fieldN c.entry 48 8) 16 (some c.n)
        moverOut := decide (c.byte 26 = 1), moverPort := c.byte 25 } }
      if (s.hp (portOf (c.byte 25))).bme then v else moverAbort v 0x23 := by
  unfold startMover moverMeets Cmd.moverBase
  simp only [decide_eq_true_eq]
  rfl

end Memory

/-- Settles O35: each row's checks in their order, then what the command starts. -/
theorem windowsLecternsCopies : Obligations.WindowsLecternsCopies := by
  intro s n c u d h forms
  refine ⟨fun turn => ⟨exec_memWindowMap_none turn, fun known => ?windows⟩, exec_memWindowMap_closed, ?put,
    ?lecterns, ?copies⟩
  case windows =>
    have runs := exec_memWindowMap turn known
    refine ⟨fun other => runs.trans (congrArg _ (if_pos other)),
      fun able maps bad => runs.trans (congrArg _ (startWindow_refused able maps bad)),
      fun able hbm good down => runs.trans (congrArg _ (startWindow_hbmDown able hbm good down)),
      fun able may => ?_⟩
    have starts := runs.trans (congrArg _ (startWindow_starts able may))
    exact ⟨fun fresh => starts.trans (congrArg _ (if_pos fresh)),
      fun mapped quiet => starts.trans (congrArg _ ((if_neg mapped).trans (if_pos quiet))),
      fun mapped busy => starts.trans (congrArg _ ((if_neg mapped).trans
        (if_neg fun quiet => absurd (quiet.symm.trans busy) (by decide))))⟩
  case put =>
    intro v
    unfold putWindow
    rw [Nat.mul_comm]
    rfl
  case lecterns =>
    intro turn l base size meets
    have runs := exec_lecternDefine turn
    have free (a : l.defined = false) (b : meets = false) : ¬(l.defined || hbmWindowMeets s (fun _ => true) base size ||
        lecternMeets s base size) = true := by
      rw [Bool.or_assoc, a]
      exact fun m => absurd (m.symm.trans b) (by decide)
    refine ⟨fun op granted => ?_, fun op free up => ?_, fun op bad => ?_, fun op fresh clear up => ?_,
      fun able down => ?_⟩
    · exact runs.trans (congrArg _ ((if_pos op).trans (if_pos granted)))
    · exact runs.trans (congrArg _ ((if_pos op).trans ((if_neg (by rw [free]; decide)).trans
        (if_neg (by rw [up]; decide)))))
    · refine runs.trans (congrArg _ ((if_neg op).trans (if_pos ?_)))
      rw [Bool.or_assoc]
      rcases bad with bad | bad
      · exact Bool.or_eq_true_iff.2 (.inl bad)
      · exact Bool.or_eq_true_iff.2 (.inr bad)
    · exact runs.trans (congrArg _ ((if_neg op).trans ((if_neg (free fresh clear)).trans
        (if_neg (by rw [up]; decide)))))
    · rcases able with ⟨op, ungranted⟩ | ⟨op, fresh, clear⟩
      · exact runs.trans (congrArg _ ((if_pos op).trans ((if_neg (by rw [ungranted]; decide)).trans (if_pos down))))
      · exact runs.trans (congrArg _ ((if_neg op).trans ((if_neg (free fresh clear)).trans (if_pos down))))
  case copies =>
    intro turn src dst len g
    have runs := exec_slypeCopy turn
    refine ⟨fun chapel => ?_, fun sacristy => ?_⟩
    · have copies := runs.trans (congrArg _ (if_neg chapel))
      refine ⟨fun other => copies.trans (congrArg _ (if_pos other)), fun able => ⟨fun down => ?_, fun up busy => ?_,
        fun up idle => ?_⟩⟩
      · exact copies.trans (congrArg _ ((if_neg (not_not.2 able)).trans (if_pos down)))
      · exact copies.trans (congrArg _ ((if_neg (not_not.2 able)).trans
          ((if_neg (show ¬s.hbmDown = true by rw [up]; decide)).trans (if_pos busy))))
      · refine copies.trans (congrArg _ ((if_neg (not_not.2 able)).trans
          ((if_neg (show ¬s.hbmDown = true by rw [up]; decide)).trans ((if_neg (not_not.2 idle)).trans ?_))))
        rw [← cmd_number turn.held]
        rfl
    · intro base meets
      have moves := runs.trans (congrArg _ ((if_pos sacristy).trans startMover_eq))
      refine ⟨fun met => ?_, fun clear down => ?_, fun clear up busy => ?_, fun clear up idle => ?_⟩
      · exact moves.trans (congrArg _ (if_pos met))
      all_goals have unmet : ¬moverMeets u d = true := fun met => absurd (met.symm.trans clear) (by decide)
      · exact moves.trans (congrArg _ ((if_neg unmet).trans (if_pos down)))
      all_goals have working : ¬u.hbmDown = true := fun down => absurd (down.symm.trans up) (by decide)
      · exact moves.trans (congrArg _ ((if_neg unmet).trans ((if_neg working).trans (if_pos busy))))
      · refine moves.trans (congrArg _ ((if_neg unmet).trans ((if_neg working).trans
          ((if_neg (not_not.2 idle)).trans ?_))))
        rw [← cmd_number turn.held]
        rfl

end Sys2Proof.Machine
end


section
/-! PROOFS. The screen opcodes (Table 04-14): proposals, approvals and parties. -/

namespace Sys2Proof.Machine

section Screens

variable {s : State} {n : Nat} {c : Cmd}

/-! ### Proposals (R143 to R148, R152, R590) -/

theorem exec_screenPropose_few (h : s.Turn n 0x0501 c) (few : s.partyCount < 2) :
    exec (.screenPropose n) s = .next (refuse (s.begin c) (s.started c) 0x40) := by
  refine (show exec (.screenPropose n) s = _ from runCmd_runs h _).trans (congrArg _ ?_)
  exact if_pos few

theorem exec_screenPropose_noParty (h : s.Turn n 0x0501 c) (enough : 2 ≤ s.partyCount)
    (empty : s.party (c.byte 24) = none) :
    exec (.screenPropose n) s = .next (refuse (s.begin c) (s.started c) 0x43) := by
  refine (show exec (.screenPropose n) s = _ from runCmd_runs h _).trans (congrArg _ ?_)
  refine (if_neg (show ¬s.partyCount < 2 by omega)).trans ?_
  rw [show (s.begin c).party ((s.started c).byte 24) = none from empty]

theorem exec_screenPropose (h : s.Turn n 0x0501 c) (enough : 2 ≤ s.partyCount) {q : Party}
    (party : s.party (c.byte 24) = some q) :
    exec (.screenPropose n) s = .next (
      if q.kind ≠ .host c.port then refuse (s.begin c) (s.started c) 0x43
      else if !ecdsaVerify q.key c.image (c.buf.drop 6400) then failCmd (s.begin c) (s.started c) 3 0x46
      else if staleImage s c.image then refuse (s.begin c) (s.started c) 0x42
      else if liveChange s c.image then refuse (s.begin c) (s.started c) 0x41
      else recordProposal (s.begin c) (s.started c) .screen c.image (c.byte 24)) := by
  refine (show exec (.screenPropose n) s = _ from runCmd_runs h _).trans (congrArg _ ?_)
  refine (if_neg (show ¬s.partyCount < 2 by omega)).trans ?_
  rw [show (s.begin c).party ((s.started c).byte 24) = some q from party]
  rfl

theorem exec_partyEnrol_missing (h : s.Turn n 0x0505 c) (withdraws : c.byte 25 = 3)
    (empty : s.party (c.byte 24) = none) :
    exec (.partyEnrol n) s = .next (failCmd (s.begin c) (s.started c) 5 0) := by
  change execPartyEnrol n s = _
  refine runCmdPre_fails h _ _ ?_
  exact if_pos (show c.byte 25 = 3 ∧ s.party (c.byte 24) = none from ⟨withdraws, empty⟩)

theorem exec_partyEnrol (h : s.Turn n 0x0505 c) (named : c.byte 25 ≠ 3 ∨ s.party (c.byte 24) ≠ none) :
    exec (.partyEnrol n) s = .next (
      if !decide (s.partyCount < 2) && (s.hostParty c.port).isNone then refuse (s.begin c) (s.started c) 0x43
      else if hostSlotTaken s (c.byte 24) (c.byte 25) then refuse (s.begin c) (s.started c) 0x4A
      else if decide (s.partyCount < 2) then
        doneCmd (setParty (s.begin c) (c.byte 24) (c.byte 25) c.buf) (s.started c) []
      else if c.byte 25 = 3 ∧ s.partyCount < 3 then refuse (s.begin c) (s.started c) 0x49
      else recordProposal (s.begin c) (s.started c) .enrol c.proposalBytes ((s.hostParty c.port).getD 0)) := by
  change execPartyEnrol n s = _
  refine runCmdPre_runs h _ _ ?_
  exact if_neg (show ¬(c.byte 25 = 3 ∧ s.party (c.byte 24) = none) from
    fun missing => named.elim (· missing.1) (· missing.2))

theorem exec_svcSyntheticWake_off (h : s.Turn n 0x0604 c) (off : patternRecordOn s (c.byte 24) = false) :
    exec (.svcSyntheticWake n) s = .next (failCmd (s.begin c) (s.started c) 5 0) := by
  change execSvcSyntheticWake n s = _
  refine runCmdPre_fails h _ _ ?_
  exact if_neg (show ¬patternRecordOn s (c.byte 24) = true by simp [off])

theorem exec_svcSyntheticWake (h : s.Turn n 0x0604 c) (on : patternRecordOn s (c.byte 24) = true) :
    exec (.svcSyntheticWake n) s = .next ((s.hostParty c.port).elim (refuse (s.begin c) (s.started c) 0x43)
      (recordProposal (s.begin c) (s.started c) .synthetic c.proposalBytes)) := by
  have good : (if patternRecordOn s (c.byte 24) then none else some (5, 0)) = none := if_pos on
  change execSvcSyntheticWake n s = _
  refine (runCmdPre_runs h _ _ good).trans (congrArg _ ?_)
  change (match s.hostParty c.port with | none => _ | some _ => _) = _
  cases s.hostParty c.port <;> rfl

theorem exec_screenWithdraw_missing (h : s.Turn n 0x0503 c)
    (other : ∀ p, s.feb.pending = some p → p.id.toNat ≠ fieldN c.entry 28 4) :
    exec (.screenWithdraw n) s = .next (failCmd (s.begin c) (s.started c) 5 0) := by
  have missing : namesPending s c = false := by
    unfold namesPending
    cases pending : s.feb.pending with
    | none => rfl
    | some p => exact decide_eq_false (other p pending)
  change execScreenWithdraw n s = _
  refine runCmdPre_fails h _ _ ?_
  exact if_neg (show ¬namesPending s c = true by simp [missing])

theorem exec_screenWithdraw (h : s.Turn n 0x0503 c) {p : Proposal} (pending : s.feb.pending = some p)
    (named : p.id.toNat = fieldN c.entry 28 4) :
    exec (.screenWithdraw n) s = .next (
      if p.port ≠ c.port then refuse (s.begin c) (s.started c) 0x43
      else proposalEvent (doneCmd (dropProposal (s.begin c)) (s.started c) []) 2 p.id) := by
  have names : namesPending s c = true := by
    unfold namesPending
    rw [pending]
    exact decide_eq_true named
  have good : (if namesPending s c then none else some (5, 0)) = none := if_pos names
  change execScreenWithdraw n s = _
  refine (runCmdPre_runs h _ _ good).trans (congrArg _ ?_)
  rw [show (s.begin c).feb.pending = some p from pending]
  rfl

theorem exec_screenRead_none (h : s.Turn n 0x0504 c) (ok : Bool) (missing : readImage s (c.byte 24) = none) :
    exec (.screenRead n ok) s = .next (failCmd (s.begin c) (s.started c) 5 0) := by
  change execScreenRead n ok s = _
  refine runCmdPre_fails h _ _ (show readBad s c = some (5, 0) from ?_)
  unfold readBad
  rw [missing]

theorem exec_screenRead_short (h : s.Turn n 0x0504 c) (ok : Bool) {r : List Byte × BitVec 32}
    (found : readImage s (c.byte 24) = some r) (short : c.dataLen < r.1.length + 48) :
    exec (.screenRead n ok) s = .next (failCmd (s.begin c) (s.started c) 1 16) := by
  change execScreenRead n ok s = _
  refine runCmdPre_fails h _ _ (show readBad s c = some (1, 16) from ?_)
  unfold readBad
  rw [found]
  exact if_pos short

theorem exec_screenRead (h : s.Turn n 0x0504 c) (ok : Bool) {r : List Byte × BitVec 32}
    (found : readImage s (c.byte 24) = some r) (fits : r.1.length + 48 ≤ c.dataLen) :
    exec (.screenRead n ok) s = .next (okWrite (s.begin c) (s.started c) (r.1 ++ sha384 r.1)
      (le 4 r.1.length ++ le 4 r.2.toNat) ok) := by
  have good : readBad s c = none := by
    unfold readBad
    rw [found]
    exact if_neg (by omega)
  change execScreenRead n ok s = _
  refine (runCmdPre_runs h _ _ good).trans (congrArg _ ?_)
  rw [show readImage (s.begin c) ((s.started c).byte 24) = some r from found]

end Screens

/-- Settles O36: each opcode's checks in their order; what passes them all is one recorded proposal. -/
theorem proposals : Obligations.Proposals := by
  intro s n c u d
  refine ⟨fun turn => ⟨exec_screenPropose_few turn, exec_screenPropose_noParty turn, fun q enough party => ?propose⟩,
    fun turn => ⟨exec_partyEnrol_missing turn, fun named => ?enrol⟩,
    fun turn => ⟨exec_svcSyntheticWake_off turn, ?_, ?_⟩,
    ?record, fun turn => ⟨exec_screenWithdraw_missing turn, fun p pending named => ?withdraw⟩,
    fun turn ok => ⟨exec_screenRead_none turn ok, fun r found =>
      ⟨exec_screenRead_short turn ok found, exec_screenRead turn ok found⟩⟩⟩
  case propose =>
    have runs := exec_screenPropose turn enough party
    refine ⟨fun other => runs.trans (congrArg _ (if_pos other)), fun own bad => ?_, fun own good => ?_⟩
    · simpa [own, bad] using runs
    · refine ⟨fun stale => ?_, fun fresh live => ?_, fun fresh calm => ?_⟩
      · simpa [own, good, stale] using runs
      · simpa [own, good, fresh, live] using runs
      · refine runs.trans (congrArg _ ((if_neg (not_not.2 own)).trans ?_))
        simp only [good, fresh, calm]
        rfl
  case enrol =>
    have runs := exec_partyEnrol turn named
    refine ⟨fun enough stranger => runs.trans (congrArg _ (if_pos ?_)), fun may => ?_⟩
    · rw [decide_eq_false (by omega), stranger]
      rfl
    have allowed : (!decide (s.partyCount < 2) && (s.hostParty c.port).isNone) = false := by
      rcases may with few | party
      · rw [decide_eq_true few]
        rfl
      · rw [Option.isNone_eq_false_iff.2 (Option.isSome_iff_ne_none.2 party), Bool.and_false]
    rw [allowed] at runs
    refine ⟨fun taken => ?_, fun free => ⟨fun few => ?_, fun two withdraws => ?_, fun enough may => ?_⟩⟩
    · simpa [taken] using runs
    · simpa [free, few] using runs
    · rw [free] at runs
      simpa [two, withdraws] using runs
    · have many : ¬s.partyCount < 2 := by omega
      have leaves : ¬(c.byte 25 = 3 ∧ s.partyCount < 3) := by omega
      simpa [free, many, leaves] using runs
  case record =>
    intro v k kind image slot id
    refine ⟨fun busy => if_pos (Option.isSome_iff_ne_none.2 busy), fun free last => ?_, fun free more => ?_⟩
    · exact (if_neg (by simp [free])).trans (if_pos last)
    · exact (if_neg (by simp [free])).trans (if_neg more)
  case withdraw =>
    have runs := exec_screenWithdraw turn pending named
    exact ⟨fun other => runs.trans (congrArg _ (if_pos other)),
      fun own => runs.trans (congrArg _ (if_neg (not_not.2 own)))⟩
  · intro on stranger
    rw [exec_svcSyntheticWake turn on, stranger]
    rfl
  · intro x on party
    rw [exec_svcSyntheticWake turn on, party]
    rfl


section Approvals

variable {s : State} {n : Nat} {c : Cmd} {p : Proposal} {q : Party}

/-! ### Approvals (R149 to R155) -/

theorem exec_screenApprove_noParty (h : s.Turn n 0x0502 c) (empty : s.party (c.byte 24) = none) :
    exec (.screenApprove n) s = .next (failCmd (s.begin c) (s.started c) 5 0) := by
  change execScreenApprove n s = _
  exact runCmdPre_fails h _ _ (show approveMissing s c = some (5, 0) from if_pos empty)

theorem exec_screenApprove_missing (h : s.Turn n 0x0502 c) (party : s.party (c.byte 24) ≠ none)
    (other : ∀ p, s.feb.pending = some p → p.id ≠ BitVec.ofNat 32 (fieldN c.entry 28 4)) :
    exec (.screenApprove n) s = .next (failCmd (s.begin c) (s.started c)
      (if s.feb.expired.contains (BitVec.ofNat 32 (fieldN c.entry 28 4)) then 0x0B else 0x05) 0) := by
  change execScreenApprove n s = _
  refine runCmdPre_fails h _ _ (show approveMissing s c = some (_, 0) from ?_)
  refine (if_neg party).trans ?_
  cases pending : s.feb.pending with
  | none => exact (apply_ite (fun x => some (x, 0)) _ _ _).symm
  | some p => exact (if_neg (other p pending)).trans (apply_ite (fun x => some (x, 0)) _ _ _).symm

theorem exec_screenApprove (h : s.Turn n 0x0502 c) (party : s.party (c.byte 24) = some q)
    (pending : s.feb.pending = some p) (named : p.id = BitVec.ofNat 32 (fieldN c.entry 28 4)) :
    exec (.screenApprove n) s = .next (if c.dataLen = 0 then badgeApproval (s.begin c) (s.started c) p q
      else hostApproval (s.begin c) (s.started c) p q) := by
  change execScreenApprove n s = _
  have known : approveMissing s c = none := by
    unfold approveMissing
    rw [party, pending]
    exact if_pos named
  refine (runCmdPre_runs h _ _ known).trans (congrArg _ ?_)
  rw [show (s.begin c).feb.pending = some p from pending,
    show (s.begin c).party ((s.started c).byte 24) = some q from party]
  rfl

theorem countApproval_late (late : p.expiry ≤ s.ts) :
    countApproval s c p = proposalEvent (failCmd (expireProposal s p) c 0x0B 0) 3 p.id := if_pos late

theorem countApproval_screen (early : s.ts < p.expiry) (kind : p.kind = .screen) : countApproval s c p =
    if staleImage s p.image then proposalEvent (failCmd (touch (dropProposal s) c.n c.objs) c 3 0x42) 2 p.id
    else if liveChange s p.image then refuse s c 0x41
    else { s with feb := { s.feb with applying := some (c.n, screenOf p.image) } } := by
  unfold countApproval
  rw [if_neg (by omega), kind]

theorem countApproval_enrol (early : s.ts < p.expiry) (kind : p.kind = .enrol) : countApproval s c p =
    approved (setParty s (byteAt p.image 24).toNat (byteAt p.image 25).toNat (p.image.drop 64)) c p := by
  unfold countApproval
  rw [if_neg (by omega), kind]

/-- The package as the new screen comes into force. -/
def State.screenApplied (s : State) (x : Screen) : State :=
  { s with feb := { s.feb with screen := x, applying := none }, emitted := [] }

section Applying

variable {x : Screen} (applying : s.feb.applying = some (n, x)) (live : s.flt.halted = false)

include applying live

theorem exec_screenApplyComplete (held : s.cmd n = some c) (pending : s.feb.pending = some p) :
    exec .screenApplyComplete s = .next (approved (s.screenApplied x) c p) := by
  change execScreenApplyComplete s = _
  unfold execScreenApplyComplete
  rw [applying]
  refine (possible_pos (by simp [live])).trans (congrArg _ ?_)
  change (match s.cmd n, s.feb.pending with | some c, some p => approved (s.screenApplied x) c p | _, _ => _) = _
  rw [held, pending]

theorem exec_screenApplyComplete_gone (gone : s.cmd n = none) :
    exec .screenApplyComplete s = .next (dropProposal (s.screenApplied x)) := by
  change execScreenApplyComplete s = _
  unfold execScreenApplyComplete
  rw [applying]
  refine (possible_pos (by simp [live])).trans (congrArg _ ?_)
  change (match s.cmd n, s.feb.pending with | some c, some p => _ | _, _ => dropProposal (s.screenApplied x)) = _
  rw [gone]

end Applying

/-! ### Expiry and limit (R149, R155) -/

section Pending

variable (pending : s.feb.pending = some p)

include pending

theorem exec_proposalExpiry (idle : s.feb.applying = none) (live : s.flt.halted = false) (pll : s.pw.pll = true) :
    exec .proposalExpiry s = .next (proposalEvent
      (failBadge (expireProposal (tsReach { s with emitted := [] } p.expiry) p) 0x0B 0) 3 p.id) := by
  change execProposalExpiry s = _
  unfold execProposalExpiry
  rw [pending]
  exact possible_pos (by simp [idle, live, pll])

theorem exec_badgeApprovalTimeout (h : s.Running n 0x0502 c) {r : BadgeRun} (approval : s.gate.approval = some r)
    (own : r.cmd = n) : exec (.badgeApprovalTimeout n) s = .next (
      let u := tsReach { s with emitted := [] } (min c.limitEnd p.expiry)
      if r.stage = .deselect then finishBadge u r
      else if p.expiry ≤ c.limitEnd then proposalEvent (failBadge (expireProposal u p) 0x0B 0) 3 p.id
      else failBadge u 6 0) := by
  change execBadgeApprovalTimeout n s = _
  unfold execBadgeApprovalTimeout
  refine (runningCmd_runs h _ (by simp [approval, own, pending]) _).trans (congrArg _ ?_)
  simp only [approval, pending]

end Pending

end Approvals

/-- Settles O37: an approval's checks in their order, then what counts, what applies and what ends it. -/
theorem approvals : Obligations.Approvals := by
  refine ⟨fun s n c turn => ?approve, fun s c p => ?count, fun s n x applying live => ?apply,
    fun s p pending idle live => ?expire⟩
  case approve =>
    intro u d id
    refine ⟨exec_screenApprove_noParty turn, exec_screenApprove_missing turn, fun p q party pending named => ?_⟩
    have runs := exec_screenApprove turn party pending named
    refine ⟨fun badge => ?_, fun host => ?_⟩
    · have runs := runs.trans (congrArg _ (if_pos badge))
      refine ⟨fun other => runs.trans (congrArg _ (if_pos other)), fun kind own => ?_, fun kind foreign faulty => ?_,
        fun kind foreign good => ?_⟩
      · exact runs.trans (congrArg _ ((if_neg (not_not.2 kind)).trans (if_pos own)))
      · exact runs.trans (congrArg _ ((if_neg (not_not.2 kind)).trans ((if_neg foreign).trans (if_pos faulty))))
      · have sound : ¬(s.begin c).gate.antFault.getLsbD 0 = true := by
          rw [show (s.begin c).gate = s.gate from rfl, good]
          decide
        refine runs.trans (congrArg _ ((if_neg (not_not.2 kind)).trans ((if_neg foreign).trans
          ((if_neg sound).trans ?_))))
        rw [show (s.started c).n = c.n from rfl, cmd_number turn.held]
        rfl
    · have runs := runs.trans (congrArg _ (if_neg host))
      refine ⟨fun kind => runs.trans (congrArg _ (if_pos kind)), fun kind own => ?_, fun kind foreign other => ?_,
        fun kind foreign digest => ?_, fun kind foreign digest => ⟨fun bad => ?_, fun good => ?_⟩⟩
      · exact runs.trans (congrArg _ ((if_neg kind).trans (if_pos own)))
      · exact runs.trans (congrArg _ ((if_neg kind).trans ((if_neg foreign).trans (if_pos other))))
      all_goals
        have notBadge : q.kind ≠ .badge := by simp [kind]
        have runs := runs.trans (congrArg _ ((if_neg notBadge).trans ((if_neg foreign).trans
          (if_neg (not_not.2 kind)))))
      · exact runs.trans (congrArg _ (if_pos digest))
      · exact runs.trans (congrArg _ ((if_neg (not_not.2 digest)).trans
          (if_pos (show (!_) = true from congrArg _ bad))))
      · exact runs.trans (congrArg _ ((if_neg (not_not.2 digest)).trans
          (if_neg (show ¬(!ecdsaVerify q.key p.message (c.buf.drop 48)) = true by simp [Proposal.message, good]))))
  case count =>
    intro gone
    refine ⟨countApproval_late, fun early kind => ?_, countApproval_enrol⟩
    have counts := countApproval_screen (c := c) early kind
    refine ⟨fun stale => counts.trans (if_pos stale), fun fresh live => ?_, fun fresh calm => ?_⟩
    · exact counts.trans ((if_neg (by simp [fresh])).trans (if_pos live))
    · exact counts.trans ((if_neg (by simp [fresh])).trans (if_neg (by simp [calm])))
  case apply =>
    intro u
    exact ⟨fun c p held pending => exec_screenApplyComplete applying live held pending,
      exec_screenApplyComplete_gone applying live⟩
  case expire =>
    intro ended
    refine ⟨exec_proposalExpiry pending idle live, fun n c r running approval own => ?_⟩
    intro at_
    have runs := exec_badgeApprovalTimeout pending running approval own
    refine ⟨fun last => runs.trans (congrArg _ (if_pos last)), fun more expired => ?_, fun more limit => ?_⟩
    · refine runs.trans (congrArg _ ((if_neg more).trans ((if_pos expired).trans ?_)))
      rw [Nat.min_eq_right expired]
      rfl
    · exact runs.trans (congrArg _ ((if_neg more).trans (if_neg (by omega))))

end Sys2Proof.Machine
end

section
/-! PROOFS. The commands of a Transept link (Table 04-13): training, status and assignment. -/

namespace Sys2Proof.Machine

section Links

variable {s : State} {n : Nat} {c : Cmd}

/-! ### LINK_TRAIN (R116, R436, R467) -/

theorem exec_linkTrain_waits (held : s.cmd n = some c)
    (moves : (s.link (c.byte 24)).state = 1 ∨ (s.link (c.byte 24)).state = 3) : exec (.linkTrain n) s = .next s := by
  have waits : portMoves s n = true := by
    unfold portMoves
    rw [held]
    exact decide_eq_true moves
  exact if_pos waits

theorem exec_linkTrain (h : s.Turn n 0x0401 c) (still : (s.link (c.byte 24)).state ≠ 1)
    (whole : (s.link (c.byte 24)).state ≠ 3) : exec (.linkTrain n) s = .next (linkTrain (s.begin c) (s.started c)) := by
  have rests : portMoves s n = false := by
    unfold portMoves
    rw [h.held]
    exact decide_eq_false (by rintro (a | b); exacts [still a, whole b])
  exact (if_neg (show ¬portMoves s n = true by simp [rests])).trans (runCmd_runs h _)

theorem link_logLink (s : State) (t period cause sub lane q : Nat) :
    (logLink s t period cause sub lane).link q = s.link q := by
  unfold logLink
  rw [logC_state]
  rfl

/-- What the port of a training starts from: its loss class and cable, and nothing of the link before (R435, R436). -/
def TPort.training (l : TPort) (cls : Nat) (serial : Option Nat) : TPort :=
  { l.cleared with
    trained := 0#8, losses := [], retired := [], lossClass := cls, serial := serial, peerAsset := 0, ctrl := none,
    ctrlQueue := [], echo := 0, lastCtrl := none }

theorem beginTrain_eq (s : State) (t : Nat) : ∃ (cls : Nat) (serial : Option Nat) (v : State),
    (∀ q, v.link q = s.link q) ∧ beginTrain s t = setLinkState (v.modLink t (TPort.training · cls serial)) t 1 := by
  refine ⟨_, _, _, fun q => ?_, rfl⟩
  split
  · exact link_logLink ..
  · rfl

theorem setLinkState_modLink_self (s : State) (t st : Nat) (f : TPort → TPort) : ∃ state changedAt,
    (setLinkState (s.modLink t f) t st).link t = { f (s.link t) with state := state, changedAt := changedAt } ∧
      state = st := by
  rw [link_setLinkState, State.link_modLink_self]
  split
  next => exact ⟨st, _, rfl, rfl⟩
  next same => exact ⟨_, _, rfl, by simpa using same⟩

theorem setLinkState_modLink_other (s : State) (t st q : Nat) (f : TPort → TPort) (other : q ≠ t) :
    (setLinkState (s.modLink t f) t st).link q = s.link q := by
  rw [link_setLinkState, if_neg (other ·.1), State.link_modLink, if_neg other]

/-! ### The end of a training (R437, R438, R446) -/

theorem exec_linkTrainComplete (h : s.Running n 0x0401 c) (micros : Nat) (trains : (s.link (c.byte 24)).state = 1)
    (lanes : 2 ≤ laneCount (s.link (c.byte 24)).laneSet) : exec (.linkTrainComplete n micros) s = .next (
      let t := c.byte 24
      let v := { s with emitted := [] }.modLink t fun l => { l with mask := l.laneSet, trained := l.laneSet }
      let w := setLinkState v t (v.link t).upState
      let x := sendCtrl w t 2 (w.link t).owner []
      doneCmd x c (trainResult (x.link t) micros)) :=
  runningCmd_runs h (fun s c => decide ((s.link (c.byte 24)).state = 1 ∧ 2 ≤ laneCount (s.link (c.byte 24)).laneSet))
    (decide_eq_true ⟨trains, lanes⟩) _

theorem exec_laneTrainingDone {p : Nat} (good : BitVec 8) (live : linkLive s p = true) (trains : (s.link p).state = 1)
    (first : (s.link p).good = 0#8) (free : (s.link p).heldState = false) :
    exec (.laneTrainingDone p good 0#8) s = .next (
      let u := { s with emitted := [] }
      if laneCount good < 2 then linkDown u p 8
      else
        let v := u.modLink p fun l => { l with good := good }
        if (s.link p).peerMask.any fun m => decide (laneCount (good &&& m) < 2) then linkDown v p 8
        else sendCtrl v p 1 0 (padTo 32 (s.assetLow ++ [BitVec.ofNat 8 p, good]))) := by
  change execLaneTrainingDone p good 0#8 s = _
  unfold execLaneTrainingDone
  refine (possible_pos (by simp [live, trains, first, free])).trans (congrArg _ ?_)
  have all : good &&& ~~~0#8 = good := (congrArg (good &&& ·) BitVec.not_zero).trans BitVec.and_allOnes
  have nobody : lanesOf 0#8 = [] := by decide
  simp only [all, nobody, List.foldl_nil]
  cases (s.link p).peerMask <;> rfl

end Links

/-- Settles O38: each command's checks in their order, and what training leaves of a port. -/
theorem linkCommands : Obligations.LinkCommands := by
  intro s n c u d t l
  refine ⟨exec_linkTrain_waits, fun turn still whole => ?train, ?begins, ?completes, ?timeout, ?lanes, ?status, ?assign⟩
  case train =>
    have runs := exec_linkTrain turn still whole
    refine ⟨fun op => ?_, fun op fenced => ?_, fun op free up => ?_, fun op down => ?_, fun op other up free => ?_⟩
    · exact runs.trans (congrArg _ (if_pos op))
    · exact runs.trans (congrArg _ ((if_neg op).trans (if_pos fenced)))
    · have notTwo : c.byte 25 ≠ 2 := by omega
      exact runs.trans (congrArg _ ((if_neg notTwo).trans ((if_neg free).trans (if_pos ⟨op, up⟩))))
    · refine runs.trans (congrArg _ ((if_neg op).trans ((if_neg (?_ : ¬l.state = 5)).trans
        ((if_neg fun both => both.2 down).trans (congrArg (beginTrain · t) (if_pos down))))))
      omega
    · exact runs.trans (congrArg _ ((if_neg op).trans ((if_neg free).trans
        ((if_neg fun both => other both.1).trans (congrArg (beginTrain · t) (if_neg up))))))
  case begins =>
    intro v p w
    obtain ⟨cls, serial, x, same, begun⟩ := beginTrain_eq v p
    obtain ⟨state, changedAt, trained, up⟩ := setLinkState_modLink_self x p 1 (TPort.training · cls serial)
    rw [show w = _ from begun, trained]
    exact ⟨up, rfl, rfl, rfl, fun q other => (setLinkState_modLink_other _ _ _ _ _ other).trans (same q)⟩
  case completes => exact fun micros running => exec_linkTrainComplete running micros
  case timeout => exact fun running => runningCmd_runs running (fun _ _ => true) rfl _
  case lanes =>
    intro p good live trains first free
    have runs := exec_laneTrainingDone good live trains first free
    refine ⟨fun few => runs.trans (congrArg _ (if_pos few)), fun enough alone => ?_⟩
    refine runs.trans (congrArg _ ((if_neg (by omega)).trans ?_))
    simp only [alone]
    rfl
  case status => exact fun turn ok => runCmd_runs turn _
  case assign =>
    intro turn x k r
    have runs : exec (.linkAssign n) s = .next (linkAssign u d) := runCmd_runs turn _
    refine ⟨fun fenced => runs.trans (congrArg _ (if_pos fenced)), fun free named strange => ?_,
      fun free given owner span => ?_, fun free given changes => ?_⟩
    · exact runs.trans (congrArg _ ((if_neg free).trans (if_pos ⟨named, strange⟩)))
    all_goals
      intro v w
      have may : ¬(x ≠ 255 ∧ ¬(r.owner = x ∧ r.span = k)) := fun bad => given.elim bad.1 bad.2
      refine runs.trans (congrArg _ ((if_neg free).trans ((if_neg may).trans ?_)))
    · rw [show decide ((u.link (d.byte 24)).owner = d.byte 25 ∧ (u.link (d.byte 24)).span = d.byte 26) = true from
        decide_eq_true ⟨owner, span⟩]
      rfl
    · rw [show decide ((u.link (d.byte 24)).owner = d.byte 25 ∧ (u.link (d.byte 24)).span = d.byte 26) = false from
        decide_eq_false changes]
      rfl

end Sys2Proof.Machine
end


section
/-! PROOFS. What happens to a fetched entry (Table 04-5): the duplicate window and the checks. -/

namespace Sys2Proof.Machine

section Entries

variable {s : State} {n : Nat} {c : Cmd} {e : List Byte}

/-! ### The fetch (R106, R589) -/

section Fetch

variable (held : s.cmd n = some c) (stage : c.stage = .accepted) (fetching : c.fetching = true)
  (live : s.flt.halted = false)

include held stage fetching live

theorem exec_entryFetch (whole : e.length = 64) :
    exec (.entryFetch n (some e)) s = .next (entryFetched { s with emitted := [] } c e) := by
  change execEntryFetch n (some e) s = _
  unfold execEntryFetch
  rw [held]
  exact possible_pos (by simp [stage, fetching, live, whole])

theorem exec_entryFetch_failed : exec (.entryFetch n none) s = .next (fetchFail { s with emitted := [] } c) := by
  change execEntryFetch n none s = _
  unfold execEntryFetch
  rw [held]
  exact possible_pos (by simp [stage, fetching, live])

theorem exec_entryFetchTimeout : exec (.entryFetchTimeout n) s = .next (fetchFail { s with emitted := [] } c) := by
  change execEntryFetchTimeout n s = _
  unfold execEntryFetchTimeout
  rw [held]
  exact possible_pos (by simp [stage, fetching, live])

end Fetch

/-! ### The duplicate window (R110 to R112) -/

/-- The entry of the ring's window with the COMMAND_ID of `e`. -/
def State.duplicate (s : State) (c : Cmd) (e : List Byte) : Option DupEntry :=
  (s.ring c.port c.ring).dup.find? fun d => decide (fieldN d.bytes 4 4 = fieldN e 4 4)

theorem entryFetched_new (new : s.duplicate c e = none) : entryFetched s c e =
    checkHeader ((recordEntry s c e).modCmd c.n fun _ => { c with entry := e }) { c with entry := e } := by
  unfold State.duplicate at new
  unfold entryFetched entryId
  rw [new]
  rfl

theorem entryFetched_repeated {x : DupEntry} (known : s.duplicate c e = some x) :
    entryFetched s c e = repeatEntry s c e x := by
  unfold State.duplicate at known
  unfold entryFetched entryId
  rw [known]

theorem repeatEntry_differs {x : DupEntry} {o : Nat} (differs : firstDiff 0 x.bytes e = some o) :
    repeatEntry s c e x = replayMismatch s c e o := by
  unfold repeatEntry
  rw [differs]

theorem repeatEntry_answered {x : DupEntry} {a : Completion} (same : x.bytes = e) (answer : x.answer = some a) :
    repeatEntry s c e x = postCompletion (s.dropCmd c.n) c.port c.ring { a with slot := c.slot, replayed := true } := by
  unfold repeatEntry
  rw [same, firstDiff_self, answer]

/-! ### The checks of a new entry (R6, R106) -/

theorem checkHeader_unknown (unknown : opcodes.contains c.opcode = false) : checkHeader s c = failCmd s c 2 0 :=
  if_pos (show (!_) = true from congrArg _ unknown)

section Known

variable (known : opcodes.contains c.opcode = true)

include known

theorem checkHeader_malformed {o : Nat} (bad : lowest (headerBad c.opcode c.entry) = some o) :
    checkHeader s c = failCmd s c 1 o := by
  unfold checkHeader
  rw [known, bad]
  rfl

theorem checkHeader_bufferless (good : lowest (headerBad c.opcode c.entry) = none) (none_ : c.dataLen = 0) :
    checkHeader s c = checkParams s c := by
  unfold checkHeader
  rw [known, good, none_]
  simp

end Known

theorem checkParams_malformed {o : Nat} (bad : step5Bad c.opcode c.entry c.buf = some o) :
    checkParams s c = failCmd s c 1 o := by
  unfold checkParams
  rw [bad]

theorem checkParams_missing (good : step5Bad c.opcode c.entry c.buf = none)
    (missing : indexMissing c.opcode c.entry = true) : checkParams s c = failCmd s c 5 0 := by
  unfold checkParams
  rw [good]
  exact if_pos missing

theorem checkParams_ready (good : step5Bad c.opcode c.entry c.buf = none)
    (named : indexMissing c.opcode c.entry = false) (geometry : geometryBad c.opcode c.entry = false)
    (open_ : opSecured c.opcode = false) : checkParams s c = s.modCmd c.n fun x => { x with stage := .ready } := by
  unfold checkParams
  simp [good, named, geometry, open_]

end Entries

/-- Settles O25: the window decides first; a new entry then meets the checks in their order. -/
theorem entryFetchChecks : Obligations.EntryFetchChecks := by
  intro s n c e held stage fetching live whole u d k v
  have number : c.n = n := cmd_number held
  have fetched := exec_entryFetch held stage fetching live whole
  have recorded : (recordEntry u c e).modCmd c.n (fun _ => k) = v := by rw [number]
  refine ⟨fun new => ?new, fun x known => ?known, ?failed⟩
  case new =>
    have checks : exec (.entryFetch n (some e)) s = .next (checkHeader v k) := by
      rw [fetched, entryFetched_new (s := u) new, recorded]
    refine ⟨fun unknown => ?_, fun o known bad => ?_, fun known good empty open_ buffer => ?_⟩
    · rw [checks, checkHeader_unknown (c := k) unknown]
    · rw [checks, checkHeader_malformed (c := k) known bad]
    have params : exec (.entryFetch n (some e)) s = .next (checkParams v k) := by
      rw [checks, checkHeader_bufferless (c := k) known good empty]
    rw [← buffer]
    refine ⟨fun o bad => ?_, fun good missing => ?_, fun good named geometry => ?_⟩
    · rw [params, checkParams_malformed (c := k) bad]
    · rw [params, checkParams_missing (c := k) good missing]
    · rw [params, checkParams_ready (c := k) good named geometry open_, show k.n = n from number]
  case known =>
    have repeats : exec (.entryFetch n (some e)) s = .next (repeatEntry u c e x) := by
      rw [fetched, entryFetched_repeated (s := u) known]
    refine ⟨fun o differs => ?_, fun a same answer => ?_⟩
    · rw [repeats, repeatEntry_differs differs, ← number]
      rfl
    · rw [repeats, repeatEntry_answered same answer, number]
  case failed =>
    intro failed
    have fails : fetchFail u c = failed := by
      unfold fetchFail
      rw [number]
      rfl
    exact ⟨(exec_entryFetch_failed held stage fetching live).trans (congrArg _ fails),
      (exec_entryFetchTimeout held stage fetching live).trans (congrArg _ fails)⟩

end Sys2Proof.Machine
end


section
/-! PROOFS. The tally and the choir of a cell: what their instructions and passes do (chapters 08 and 14). -/

namespace Sys2Proof.Machine

/-! ### Instructions that go on at PC + 4 -/

section Issue

variable {s : State} {g t : Nat} {i : Ins} {c : Instr}

theorem Ends.congr {v w : State} (e : s.Ends g t c v) (same : v = w) : s.Ends g t c w := same ▸ e

/-- An instruction that ends with its effect and the next PC. -/
theorem goes_next {k : State → State} (e : s.Ends g t c (next (s.issued g t i) g t k)) : s.Goes g t i c k := by
  rw [next_issued] at e
  unfold goTo at e
  exact ⟨fun ok => by rwa [if_pos ok] at e, fun bad => by rwa [if_neg (by simp [bad])] at e⟩

/-- The effect of an instruction matters on the state in which it has issued alone. -/
theorem Goes.congr {k k' : State → State} (h : s.Goes g t i c k) (same : k (s.issued g t i) = k' (s.issued g t i)) :
    s.Goes g t i c k' := by
  unfold State.Goes at h ⊢
  simpa only [same] using h

theorem State.modCell_congr {f f' : Cell → Cell} (same : f (s.cell g) = f' (s.cell g)) :
    s.modCell g f = s.modCell g f' := by
  unfold State.modCell
  rw [same]

theorem State.cell_modCell_self (s : State) (g : Nat) (f : Cell → Cell) : (s.modCell g f).cell g = f (s.cell g) := by
  rw [State.cell_modCell, if_pos rfl]

theorem tally_issued : ((s.issued g t i).cell g).tally = (s.cell g).tally := by
  rw [cell_issued]

theorem choir_issued : ((s.issued g t i).cell g).choir = (s.cell g).choir := by
  rw [cell_issued]

end Issue

/-! ### The tally (R224, R393 to R398) -/

section Tally

variable {s : State} {g t rd : Nat}

theorem ends_tallyClaim (h : s.Ready g t (.tallyClaim rd)) :
    let u := s.issued g t (.tallyClaim rd)
    s.Ends g t (.tallyClaim g t) ((s.cell g).tally.owner.elim
      (next u g t fun s => (s.modCell g fun c => { c with tally :=
        { c.tally with owner := some t, crc := crcInit, releasing := false } }).modCtx g t (·.setS rd 0#64))
      fun o =>
        if o = t then next u g t fun s =>
          (s.modCell g fun c => { c with tally := { c.tally with releasing := false } }).modCtx g t (·.setS rd 0#64)
        else setRd u g t rd 1#64) := by
  change execTallyClaim g t s = _
  refine (issueIns_runs (row := .tallyClaim) h rfl _).trans ?_
  simp only [tally_issued]
  cases (s.cell g).tally.owner <;> rfl

theorem ends_tallyRelease (h : s.Ready g t .tallyRelease) :
    s.Ends g t (.tallyRelease g t) (owned (s.issued g t .tallyRelease) g t fun s => next s g t fun s =>
      s.modCell g (·.modTally fun t => if t.queue.isEmpty then t.released else { t with releasing := true })) := by
  change execTallyRelease g t s = _
  exact issueIns_runs (row := .tallyRelease) h rfl _

/-- A thread that does not own the tally has no use of it (R224). -/
theorem raises_notOwned {i : Ins} {c : Instr} {k : State → State} (e : s.Ends g t c (owned (s.issued g t i) g t k))
    (stranger : (s.cell g).tally.owner ≠ some t) : s.Raises g t i c 0x0A 0 := by
  unfold owned at e
  rwa [tally_issued, if_neg stranger] at e

theorem ends_owned {i : Ins} {c : Instr} {k : State → State} (e : s.Ends g t c (owned (s.issued g t i) g t k))
    (owner : (s.cell g).tally.owner = some t) : s.Ends g t c (k (s.issued g t i)) := by
  unfold owned at e
  rwa [tally_issued, if_pos owner] at e

/-- What an instruction that joins the tally's queue does (R224, R395). -/
theorem tallyPush_ends {i : Ins} {c : Instr} {op : TallyOp} {k : State → State}
    (e : s.Ends g t c (tallyPush (s.issued g t i) g t op k)) :
    ((s.cell g).tally.owner ≠ some t → s.Raises g t i c 0x0A 0) ∧
    ((s.cell g).tally.owner = some t → 4 ≤ (s.cell g).tally.queue.length → s.WaitsFor g t i c .tallySlot) ∧
    ((s.cell g).tally.owner = some t → (s.cell g).tally.queue.length < 4 → s.Goes g t i c fun v =>
      k (v.modCell g fun x => { x with tally := { x.tally with queue := x.tally.queue ++ [op] } })) := by
  refine ⟨raises_notOwned e, fun owner full => ?_, fun owner room => ?_⟩ <;>
    have ends := ends_owned e owner <;> rw [tally_issued] at ends
  · rw [if_pos full] at ends
    exact waitsFor_of ends
  · rw [if_neg (by omega)] at ends
    exact goes_next ends

/-! ### Performance (R394 to R396) -/

theorem exec_tallyPerform {op : TallyOp} {rest : List TallyOp} (queue : (s.cell g).tally.queue = op :: rest)
    (clocked : s.cellClocked g = true) : exec (.tallyPerform g) s = .next (afterTally (performTally
      ({ s with emitted := [] }.modCell g fun c => { c with tally := { c.tally with queue := rest } }) g op) g) := by
  change execTallyPerform g s = _
  unfold execTallyPerform
  rw [queue]
  exact possible_pos clocked

end Tally

/-! ### The choir (R225, R238 to R244) -/

section Choir

variable {s : State} {g t rd ra : Nat}

theorem ends_choirGo (h : s.Ready g t (.choirGo rd ra)) :
    let u := s.issued g t (.choirGo rd ra)
    let off := ((s.ctx g t).getS ra).toNat
    s.Ends g t (.choirGo g t) (if off % 64 ≠ 0 then raise u g t 0x04 (ownAddr u g off)
      else if 524288 ≤ off then raise u g t 0x02 (ownAddr u g off)
      else if 4 ≤ (s.cell g).choir.queue.length + (s.cell g).choir.running.toList.length then wait u g t .choirSlot
      else next u g t fun s =>
        let v := s.modCell g fun c => { c with choir := { c.choir with
          queue := c.choir.queue ++ [⟨Memory.readBytes (s.cell g).store off 64, t, rd, false⟩] } }
        if rd = 0 then v else v.modCtx g t fun x => { x with awaits := x.awaits ++ [rd] }) := by
  change execChoirGo g t s = _
  refine (issueIns_runs (row := .choirGo) h rfl _).trans ?_
  simp only [choir_issued, ctx_issued]
  rfl

theorem exec_choirPassStart {j : ChoirJob} {rest : List ChoirJob} (cell : g < 3072) (runs : s.cellRuns g = true)
    (idle : (s.cell g).choir.running = none) (queue : (s.cell g).choir.queue = j :: rest) :
    exec (.choirPassStart g) s =
      .next ({ s with emitted := [] }.modCell g fun c => { c with choir := ⟨some j, rest⟩ }) := by
  change execChoirPassStart g s = _
  unfold execChoirPassStart
  refine (possible_pos (by simp [cell, runs, idle, queue])).trans (congrArg _ (State.modCell_congr ?_))
  change { s.cell g with choir := ⟨(s.cell g).choir.queue.head?, (s.cell g).choir.queue.drop 1⟩ } = _
  rw [queue]
  rfl

theorem exec_choirPassEnd {j : ChoirJob} (cell : g < 3072) (on : (s.bay (bayOf g)).st = .on)
    (running : (s.cell g).choir.running = some j) : exec (.choirPassEnd g) s = .next (
      let v := { s with emitted := [] }.modCell g fun c => { c with choir := { c.choir with running := none } }
      let d := choirDesc j.desc
      (lowest (choirBad j.desc)).elim
        ((if j.spoiled then spoilRows v g d.cRows
          else v.modCell g fun c => c.writeRows d.cRows (choirResult c.store d)).modCell g (·.choirAnswer j 0))
        fun off => v.modCell g (·.choirAnswer j (256 * off + 1))) := by
  change execChoirPassEnd g s = _
  unfold execChoirPassEnd
  rw [running]
  refine (possible_pos (by simp [cell, on])).trans (congrArg _ ?_)
  cases bad : lowest (choirBad j.desc) <;> rfl

end Choir

/-- Settles O46: who owns the tally decides; then the queues of four, and the passes they hold. -/
theorem tallyAndChoir : Obligations.TallyAndChoir := by
  refine ⟨fun s g t i h => ?issue, fun s g => ?perform⟩
  case issue =>
    intro x y put push awaited
    refine ⟨?claim, ?release, ?init, ?fold, ?feed, ?rd, ?choirGo⟩
    case claim =>
      rintro rd rfl
      have ends := ends_tallyClaim h
      refine ⟨fun free => goes_next ?_, fun own => goes_next ?_, fun o owner other => goes_next ?_⟩
      · rwa [free] at ends
      · rw [own] at ends
        exact Ends.congr ends (if_pos rfl)
      · rw [owner] at ends
        exact Ends.congr ends (if_neg other)
    case release =>
      rintro rfl
      have ends := ends_tallyRelease h
      refine ⟨raises_notOwned ends, fun owner empty => ?_, fun owner holds => ?_⟩ <;>
        refine Goes.congr (goes_next (ends_owned ends owner)) (State.modCell_congr ?_)
      · simp only [Cell.modTally, tally_issued, show (s.cell g).tally.queue.isEmpty = true from
          List.isEmpty_iff.2 empty]
        rfl
      · simp only [Cell.modTally, tally_issued, show (s.cell g).tally.queue.isEmpty = false from
          List.isEmpty_eq_false_iff.2 holds]
        rfl
    case init =>
      rintro rfl
      exact tallyPush_ends (show execTallyInit g t s = _ from issueIns_runs (row := .tallyInit) h rfl _)
    case fold =>
      rintro ra rfl
      refine tallyPush_ends (show execTallyFold g t s = _ from (issueIns_runs (row := .tallyFold) h rfl _).trans ?_)
      simp only [ctx_issued]
      rfl
    case feed =>
      rintro n ra rfl
      refine tallyPush_ends (show execTallyFeed g t s = _ from (issueIns_runs (row := .tallyFeed) h rfl _).trans ?_)
      simp only [ctx_issued]
      rfl
    case rd =>
      rintro rd rfl
      exact tallyPush_ends (show execTallyRd g t s = _ from issueIns_runs (row := .tallyRd) h rfl _)
    case choirGo =>
      rintro rd ra rfl
      intro off ch held
      have ends := ends_choirGo h
      refine ⟨fun odd => ?_, fun even past => ?_, fun even own full => ?_, fun even own room => ?_⟩
      · exact Ends.congr ends (if_pos odd)
      · exact Ends.congr ends ((if_neg (not_not.2 even)).trans (if_pos past))
      all_goals have ends := Ends.congr ends ((if_neg (not_not.2 even)).trans (if_neg (Nat.not_le.2 own)))
      · exact waitsFor_of (Ends.congr ends (if_pos full))
      · exact goes_next (Ends.congr ends (if_neg (Nat.not_le.2 room)))
  case perform =>
    intro u
    refine ⟨fun op rest queue clocked => ?performs, fun j rest => exec_choirPassStart, fun j cell on running => ?ends⟩
    case performs =>
      intro v sets
      have tally : (v.cell g).tally = { (s.cell g).tally with queue := rest } := by
        rw [State.cell_modCell_self]
        rfl
      refine (exec_tallyPerform queue clocked).trans (congrArg (fun w => Host.Outcome.next (afterTally w g)) ?_)
      cases op with
      | init => rfl
      | fold bs => rfl
      | feed bs =>
        change v.modCell g (·.modTally fun t => { t with crc := crcFeed t.crc bs }) = _
        refine State.modCell_congr ?_
        change { v.cell g with tally := { (v.cell g).tally with crc := crcFeed (v.cell g).tally.crc bs } } = _
        rw [tally]
      | rd k rd =>
        change v.modCtx g k (fun x => { (x.setS rd (((v.cell g).tally.crc ^^^ crcInit).zeroExtend 64)) with
          awaits := x.awaits.erase rd }) = _
        rw [tally]
        rfl
    case ends =>
      intro v d written
      have ends := exec_choirPassEnd cell on running
      refine ⟨fun off bad => ?_, fun good whole => ?_, fun good spoiled => ?_⟩
      · rw [bad] at ends
        exact ends
      · rw [good, whole] at ends
        exact ends
      · rw [good, spoiled] at ends
        exact ends

end Sys2Proof.Machine
end


section
/-! PROOFS. The slype engines, the mover, and a cell's side of the sums (chapters 06 and 11). -/

namespace Sys2Proof.Machine

section Options

variable {s v : State} {g t : Nat} {c : Instr} {α : Type} {o : Option α} {k : α → State}

theorem Ends.elim_none (e : s.Ends g t c (o.elim v k)) (h : o = none) : s.Ends g t c v := by rwa [h] at e

theorem Ends.elim_some {x : α} (e : s.Ends g t c (o.elim v k)) (h : o = some x) : s.Ends g t c (k x) := by
  rwa [h] at e

end Options

section Engines

variable {s : State} {g t e : Nat}

theorem eng_issued (i : Ins) (e : Nat) : ((s.issued g t i).cell g).eng e = (s.cell g).eng e := by
  unfold Cell.eng
  rw [cell_issued]

/-! ### SLYPE.GO and SLYPE.WAIT (R190 to R194, R226) -/

theorem ends_slypeGo {rd ra rb rc : Nat} (h : s.Ready g t (.slypeGo rd ra rb rc e)) :
    let u := s.issued g t (.slypeGo rd ra rb rc e)
    let src := ((s.ctx g t).getS ra).toNat
    let dst := ((s.ctx g t).getS rb).toNat
    let len := ((s.ctx g t).getS rc).toNat
    s.Ends g t (.slypeGo g t)
      (if src % 64 ≠ 0 ∨ dst % 64 ≠ 0 ∨ len = 0 ∨ len % 64 ≠ 0 ∨ 2 ^ 40 < len then
        raise u g t 0x04 (if src % 64 = 0 ∧ dst % 64 ≠ 0 then dst else src)
      else released u g t fun _ =>
        if ((s.cell g).eng e).mode ≠ 0 then setRd u g t rd 1#64
        else next u g t fun s =>
          (s.modEng g e fun e => e.begin_ src dst len t none).modCtx g t (·.setS rd 0#64)) := by
  change execSlypeGo g t s = _
  refine (issueIns_runs (row := .slypeGo) h rfl _).trans ?_
  simp only [ctx_issued, released, eng_issued]
  rfl

theorem ends_slypeWait {rd : Nat} (h : s.Ready g t (.slypeWait rd e)) :
    let u := s.issued g t (.slypeWait rd e)
    s.Ends g t (.slypeWait g t) (if ((s.cell g).eng e).mode = 0 then setRd u g t rd ((s.cell g).eng e).stat
      else wait u g t (.slype e)) := by
  change execSlypeWait g t s = _
  refine (issueIns_runs (row := .slypeWait) h rfl _).trans ?_
  simp only [eng_issued]

end Engines

section Sums

variable {s : State} {g t : Nat}

/-! ### SUM.C and SUM.W (R223, R331, R343 to R345) -/

theorem getS_issued (x : Ctx) (i : Ins) (r : Nat) : (x.issued i).getS r = x.getS r := rfl

/-- The packet of a contribution. -/
def State.contribution (s : State) (g : Nat) (w : Word) (off len : Nat) : AislePkt :=
  { cls := 3, kind := 2, chapel := s.chapelIx g, dest := g, src := g, seq := swRound w, units := len / 64 - 1
    kindBytes := sumFields (swGroup w) (swSlice w) ((s.chapel (s.chapelIx g)).sum (swGroup w)).op 0 1 0
    payload := Memory.readBytes (s.cell g).store off len }

theorem contribution_issued (i : Ins) (w : Word) (off len : Nat) :
    (s.issued g t i).contribution g w off len = s.contribution g w off len := by
  unfold State.contribution
  rw [cell_issued]
  rfl

theorem ends_sumC {rl ra rb : Nat} (h : s.Ready g t (.sumC rl ra rb)) :
    let u := s.issued g t (.sumC rl ra rb)
    let w := (s.ctx g t).getS ra
    let off := ((s.ctx g t).getS rb).toNat
    let len := ((s.ctx g t).getS rl).toNat
    s.Ends g t (.sumC g t) ((sumCheck u g w off (some len)).elim
      (released u g t fun s =>
        if (s.cell g).aisle.injHold then wait s g t .aisleQueue
        else next s g t fun s => aislePush s g none (s.contribution g w off len).sealed)
      fun bad => raise u g t bad.1 bad.2) := by
  change execSumC g t s = _
  refine (issueIns_runs (row := .sumC) h rfl _).trans ?_
  simp only [ctx_issued, getS_issued]
  cases sumCheck (s.issued g t (.sumC rl ra rb)) g ((s.ctx g t).getS ra) ((s.ctx g t).getS rb).toNat
    (some ((s.ctx g t).getS rl).toNat) <;> rfl

theorem ends_sumW {rd ra rb : Nat} (h : s.Ready g t (.sumW rd ra rb)) :
    let u := s.issued g t (.sumW rd ra rb)
    let w := (s.ctx g t).getS ra
    let off := ((s.ctx g t).getS rb).toNat
    s.Ends g t (.sumW g t) ((sumCheck u g w off none).elim
      (((s.cell g).sum.landing.find? (·.fits (swGroup w) (swRound w) (swSlice w))).elim
        (passes u g t fun s => wait (s.modCell g (·.modSumNode fun n =>
          { n with posted := n.posted ++ [⟨swGroup w, swRound w, swSlice w, off, t⟩] })) g t (.sum rd))
        fun r => next u g t fun s =>
          (writeResult (s.modCell g (·.modSumNode fun n => { n with landing := n.landing.erase r })) g off r).modCtx g t
            (·.setS rd r.status))
      fun bad => raise u g t bad.1 bad.2) := by
  change execSumW g t s = _
  refine (issueIns_runs (row := .sumW) h rfl _).trans ?_
  have sums : ((s.issued g t (.sumW rd ra rb)).cell g).sum = (s.cell g).sum := by rw [cell_issued]
  simp only [ctx_issued, getS_issued, sums]
  cases sumCheck (s.issued g t (.sumW rd ra rb)) g ((s.ctx g t).getS ra) ((s.ctx g t).getS rb).toNat none with
  | none =>
    cases (s.cell g).sum.landing.find? fun r => r.fits (swGroup ((s.ctx g t).getS ra))
      (swRound ((s.ctx g t).getS ra)) (swSlice ((s.ctx g t).getS ra)) <;> rfl
  | some bad => rfl

end Sums

section Units

variable {s : State} {g e : Nat}

/-! ### A unit of an engine (R192, R312) -/

theorem State.modEng_congr {f f' : Slype → Slype} (same : f ((s.cell g).eng e) = f' ((s.cell g).eng e)) :
    s.modEng g e f = s.modEng g e f' := by
  refine State.modCell_congr ?_
  unfold Cell.modEng
  unfold Cell.eng at same
  by_cases first : e = 0
  · simp only [if_pos first] at same ⊢
    rw [same]
  · simp only [if_neg first] at same ⊢
    rw [same]

theorem store_modEng (f : Slype → Slype) : ((s.modEng g e f).cell g).store = (s.cell g).store := by
  unfold State.modEng Cell.modEng
  rw [State.cell_modCell_self]
  split <;> rfl

theorem exec_slypeUnitIssue_engine (clocked : s.cellClocked g = true) (two : e < 2)
    (busy : ((s.cell g).eng e).mode = 1) (sound : ((s.cell g).eng e).failed = none) :
    exec (.slypeUnitIssue (.engine g e)) s = .next ((engineStep { s with emitted := [] } g e).getD s) := by
  change execSlypeUnitIssue (.engine g e) s = _
  refine (if_pos (by simp [clocked, two, busy, sound])).trans ?_
  cases engineStep { s with emitted := [] } g e <;> rfl

theorem unitPlaces_bad {x : Slype} {i code : Nat} (bad : checkAddr s g .load 64 (x.src + 64 * i) = .error code) :
    unitPlaces s g x i = .error ((x.src + 64 * i) % 2 ^ 48) := by
  unfold unitPlaces unitPlace
  simp only [bad]

theorem unitDst_amb {x : Slype} {i : Nat} {c : Bool} {d : Place} (host : x.host = none) (low : x.dst < 2 ^ 48)
    (place : checkAddr s g .store 64 (x.dst + 64 * i) = .ok d) (far : cellPlace (s.chapel (s.chapelIx g)) g d = none) :
    unitDst s g x i c = .ok (.amb d) := by
  have mode : x.dstMode = 0 := by
    unfold Slype.dstMode
    rw [host]
    change x.dst / 2 ^ 62 % 4 = 0
    omega
  unfold unitDst
  simp only [mode, if_neg (show ¬2 ^ 48 ≤ x.dst by omega), unitPlace, Nat.mod_eq_of_lt low, place, far]

theorem unitPlaces_amb {x : Slype} {i : Nat} {p d : Place} (host : x.host = none) (low : x.dst < 2 ^ 48)
    (source : checkAddr s g .load 64 (x.src + 64 * i) = .ok p)
    (place : checkAddr s g .store 64 (x.dst + 64 * i) = .ok d) (far : cellPlace (s.chapel (s.chapelIx g)) g d = none) :
    unitPlaces s g x i = .ok (p, .amb d) := by
  unfold unitPlaces unitPlace
  simp only [source, unitDst_amb host low place far]

/-- With no unit under way an engine's step is about its next unit. -/
theorem engineStep_refused {a : Nat} (fresh : ((s.cell g).eng e).units = [])
    (more : ((s.cell g).eng e).nextUnit < ((s.cell g).eng e).total)
    (bad : unitPlaces s g ((s.cell g).eng e) ((s.cell g).eng e).nextUnit = .error a) :
    engineStep s g e = some (refuseUnit s g e 1 a) := by
  have first : ((s.cell g).eng e).firstUnit = ((s.cell g).eng e).nextUnit := by
    unfold Slype.firstUnit
    rw [fresh]
  unfold engineStep
  simp only [first, bad]
  exact if_pos more

theorem engineStep_amb {p d : Place} (fresh : ((s.cell g).eng e).units = [])
    (more : ((s.cell g).eng e).nextUnit < ((s.cell g).eng e).total)
    (good : unitPlaces s g ((s.cell g).eng e) ((s.cell g).eng e).nextUnit = .ok (p, .amb d)) :
    engineStep s g e = issueAmb s g e ((s.cell g).eng e).nextUnit ((s.cell g).eng e) p d := by
  have first : ((s.cell g).eng e).firstUnit = ((s.cell g).eng e).nextUnit := by
    unfold Slype.firstUnit
    rw [fresh]
  unfold engineStep
  simp only [first, good]
  refine (if_pos more).trans ?_
  unfold issueUnit
  simp only [good]

theorem refuseUnit_fresh {a : Nat} (fresh : ((s.cell g).eng e).units = []) (sound : ((s.cell g).eng e).failed = none) :
    refuseUnit s g e 1 a = settleEngine (s.modEng g e fun x => { x with failed := some (1, a), units := [] }) g e := by
  refine congrArg (settleEngine · g e) (State.modEng_congr ?_)
  unfold Slype.fail
  rw [fresh, sound]
  rfl

/-- The engine holds its next unit under tracker `k`. -/
def State.takesUnit (s : State) (g e k : Nat) : State :=
  s.modEng g e fun y => { y with
    nextUnit := ((s.cell g).eng e).nextUnit + 1
    units := y.units ++ [⟨((s.cell g).eng e).nextUnit, none, some k⟩] }

section Issue

variable {p d : Place} {k : Nat} (free : freeTracker ((s.cell g).eng e).trackers 192 = some k)

include free

theorem issueAmb_own {o : Nat} (own : p = .own o) (far : cellPlace (s.chapel (s.chapelIx g)) g d = none) :
    let x := (s.cell g).eng e
    issueAmb s g e x.nextUnit x p d = some (engSend (s.takesUnit g e k) g e k x.nextUnit
      ((x.dst + 64 * x.nextUnit) % 2 ^ 48) d { op := .write, data := Memory.readBytes (s.cell g).store o 64 }) := by
  intro x
  unfold issueAmb
  rw [free, own]
  refine congrArg some ?_
  simp only [store_modEng]
  cases d with
  | own o => cases far
  | _ => rfl

theorem issueAmb_read (other : ∀ o, p ≠ .own o) :
    let x := (s.cell g).eng e
    issueAmb s g e x.nextUnit x p d = some (engSend (s.takesUnit g e k) g e k x.nextUnit
      ((x.src + 64 * x.nextUnit) % 2 ^ 48) p { op := .read }) := by
  intro x
  unfold issueAmb
  rw [free]
  cases p with
  | own o => exact absurd rfl (other o)
  | _ => rfl

end Issue

end Units

section Mover

variable {s : State}

/-! ### A unit of the mover (Table 04-12) -/

section Copying

variable (on : s.mainOn = true) (active : s.pw.state = .active) (busy : s.amb.mover.mode = 1)
  (sound : s.amb.mover.failed = none)

include on active busy sound

theorem exec_slypeUnitIssue_mover :
    exec (.slypeUnitIssue .sacristy) s = .next ((moverStep { s with emitted := [] }).getD s) := by
  change execSlypeUnitIssue .sacristy s = _
  refine (if_pos (by simp [on, active, busy, sound])).trans ?_
  cases moverStep { s with emitted := [] } <;> rfl

end Copying

theorem moverStep_idle (nothing : s.amb.mover.total ≤ s.amb.mover.nextUnit ∨
    freeTracker s.amb.mover.trackers 256 = none) : moverStep s = none := by
  unfold moverStep
  by_cases last : s.amb.mover.total ≤ s.amb.mover.nextUnit
  · exact if_pos last
  · refine (if_neg last).trans ?_
    rw [nothing.resolve_left last]

/-- The mover holds its next unit under tracker `k`. -/
def State.moverTakes (s : State) (k : Nat) : State :=
  s.modMover fun y => { y with
    nextUnit := s.amb.mover.nextUnit + 1, units := y.units ++ [⟨s.amb.mover.nextUnit, none, some k⟩] }

/-- The mover reads its next unit of host memory under tracker `k` and the tag `tag`. -/
def State.moverReadsHost (s : State) (k tag : Nat) : State :=
  let i := s.amb.mover.nextUnit
  let p := portOf s.amb.moverPort
  let r : AmbFlit := { chapel := 0xFE, src := epSacristy, txn := k, addr := i, size := 4 }
  let t : Tracker :=
    { busy := true, sent := false, landing := .unit i, epoch := (tget Tracker.fresh s.amb.mover.trackers k).epoch }
  let v := ((s.moverTakes k).modMover (·.modTracker k fun _ => t)).modHp p fun h =>
    { h with reads := tput noRead h.reads tag r }
  (wakeLink v p).emit (.memRead p 0 (s.amb.mover.src + 64 * i) 64 tag)

section Free

variable {k : Nat} (more : s.amb.mover.nextUnit < s.amb.mover.total)
  (free : freeTracker s.amb.mover.trackers 256 = some k)

include more free

theorem moverStep_hbm (out : s.amb.moverOut = true) : moverStep s = some (moverSend (s.moverTakes k) k
    s.amb.mover.nextUnit (s.amb.mover.src + 64 * s.amb.mover.nextUnit) { op := .read }) := by
  unfold moverStep
  simp only [free, out, if_neg (Nat.not_le.2 more)]
  rfl

theorem moverStep_host (host : s.amb.moverOut = false) :
    moverStep s = (freeTag s (portOf s.amb.moverPort)).map (s.moverReadsHost k) := by
  unfold moverStep
  simp only [free, host, if_neg (Nat.not_le.2 more)]
  rfl

end Free

theorem moverReadsHost_state (k tag : Nat) : s.moverReadsHost k tag =
    { (s.moverTakes k).modMover (·.modTracker k fun _ =>
        { busy := true, sent := false, landing := .unit s.amb.mover.nextUnit
          epoch := (tget Tracker.fresh s.amb.mover.trackers k).epoch }) with
      h0 := (s.moverReadsHost k tag).h0, h1 := (s.moverReadsHost k tag).h1
      emitted := s.emitted ++ [.memRead (portOf s.amb.moverPort) 0
        (s.amb.mover.src + 64 * s.amb.mover.nextUnit) 64 tag] } := by
  unfold State.moverReadsHost
  cases portOf s.amb.moverPort <;> rfl

end Mover

/-- Settles O47: the checks at issue first; then a copy, a contribution, a result or a wait; and a unit by its places. -/
theorem slypeAndSumsAtACell : Obligations.SlypeAndSumsAtACell := by
  refine ⟨fun s g t i h => ?issue, fun s g e clocked two => ?engine, fun s => ?mover⟩
  case issue =>
    intro x out answers
    refine ⟨?go, ?wait, ?sumC, ?sumW⟩
    case go =>
      rintro rd ra rb rc e rfl
      intro src dst len sound
      have ends := ends_slypeGo h
      have held : ((s.issued g t (.slypeGo rd ra rb rc e)).cell g).outstanding t = out := outstanding_issued ..
      have refused (bad : ¬sound) : src % 64 ≠ 0 ∨ dst % 64 ≠ 0 ∨ len = 0 ∨ len % 64 ≠ 0 ∨ 2 ^ 40 < len := by
        by_contra good
        exact bad (show _ ∧ _ by omega)
      have taken (good : sound) : ¬(src % 64 ≠ 0 ∨ dst % 64 ≠ 0 ∨ len = 0 ∨ len % 64 ≠ 0 ∨ 2 ^ 40 < len) := by omega
      refine ⟨fun bad => Ends.congr ends (if_pos (refused bad)), fun good waits => ?_, fun good free busy => ?_,
        fun good free idle => ?_⟩ <;>
        have ends := Ends.congr ends (if_neg (taken good))
      · exact waitsFor_of (Ends.congr ends (released_waits (held.trans waits)))
      all_goals have ends := Ends.congr ends (released_goes (held.trans free))
      · exact goes_next (Ends.congr ends (if_pos busy))
      · exact goes_next (Ends.congr ends (if_neg (not_not.2 idle)))
    case wait =>
      rintro rd e rfl
      have ends := ends_slypeWait h
      exact ⟨fun idle => goes_next (Ends.congr ends (if_pos idle)),
        fun busy => waitsFor_of (Ends.congr ends (if_neg busy))⟩
    case sumC =>
      rintro rl ra rb rfl
      intro w off len r
      have ends := ends_sumC h
      have held : ((s.issued g t (.sumC rl ra rb)).cell g).outstanding t = out := outstanding_issued ..
      have hold : ((s.issued g t (.sumC rl ra rb)).cell g).aisle = (s.cell g).aisle := by rw [cell_issued]
      refine ⟨fun code a bad => Ends.elim_some (x := (code, a)) ends bad,
        fun good waits => ?_, fun good free full => ?_, fun good free room => ?_⟩ <;>
        have ends := Ends.elim_none ends good
      · exact waitsFor_of (Ends.congr ends (released_waits (held.trans waits)))
      all_goals have ends := Ends.congr ends (released_goes (held.trans free))
      · exact waitsFor_of (Ends.congr ends (if_pos (by rw [hold, full])))
      · refine Goes.congr (goes_next (Ends.congr ends (if_neg (by rw [hold, room]; decide)))) ?_
        rw [contribution_issued]
        rfl
    case sumW =>
      rintro rd ra rb rfl
      intro w off r landed
      have ends := ends_sumW h
      refine ⟨fun code a bad => Ends.elim_some (x := (code, a)) ends bad,
        fun d good found => ?_, fun good none_ bad => ?_, fun good none_ ok => ?_⟩ <;>
        have ends := Ends.elim_none ends good
      · exact goes_next (Ends.elim_some (x := d) ends found)
      all_goals have ends := Ends.elim_none ends none_
      · exact Ends.congr ends (passes_range (by rw [ctx_issued]; exact bad))
      · exact Ends.congr ends (passes_goes (by rw [ctx_issued]; exact ok))
  case engine =>
    intro u x n srcAt dstAt place busy sound fresh more
    have runs := exec_slypeUnitIssue_engine clocked two busy sound
    refine ⟨fun code bad => ?_, fun p d source target host low far => ?_⟩
    · rw [runs, engineStep_refused (s := u) fresh more (unitPlaces_bad bad), Option.getD_some,
        refuseUnit_fresh (s := u) fresh sound]
      rfl
    · have steps := engineStep_amb (s := u) fresh more (unitPlaces_amb host low source target far)
      refine ⟨fun full => ?_, fun k free => ?_⟩
      · rw [runs, steps]
        unfold issueAmb
        rw [show freeTracker ((u.cell g).eng e).trackers 192 = none from full]
        rfl
      · intro v
        refine ⟨fun o own => ?_, fun other => ?_⟩
        · rw [runs, steps, issueAmb_own (s := u) free own far]
          rfl
        · rw [runs, steps, issueAmb_read (s := u) free other]
          rfl
  case mover =>
    intro u x n p taken on active busy sound
    have runs := exec_slypeUnitIssue_mover on active busy sound
    refine ⟨fun nothing => ?_, fun k more free => ⟨fun out => ?_, fun tag host found => ?_, fun host full => ?_⟩⟩
    · rw [runs, moverStep_idle (s := u) nothing]
      rfl
    · rw [runs, moverStep_hbm (s := u) more free out]
      rfl
    · refine ⟨u.moverReadsHost k tag, ?_, ?_⟩
      · rw [runs, moverStep_host (s := u) more free host, found]
        rfl
      · rw [moverReadsHost_state]
        refine ⟨rfl, rfl, rfl, ?_, rfl, rfl, rfl, rfl⟩
        simp only [State.modMover, Slype.modTracker, tget_tput, if_pos]
        rfl
    · rw [runs, moverStep_host (s := u) more free host, full]
      rfl

end Sys2Proof.Machine
end


section
/-! PROOFS. Messages as a thread sends them, the sending end of a channel, and a thread's turns (chapter 09). -/

namespace Sys2Proof.Machine

section Sending

variable {s : State} {g t : Nat} {i : Ins} {c : Instr}

/-! ### What issuing leaves of the cell -/

theorem store_issued : ((s.issued g t i).cell g).store = (s.cell g).store := by rw [cell_issued]

theorem aisle_issued : ((s.issued g t i).cell g).aisle = (s.cell g).aisle := by rw [cell_issued]

theorem chantryRoom_issued : ((s.issued g t i).cell g).chantryRoom = (s.cell g).chantryRoom := by
  rw [cell_issued]
  rfl

theorem assuredRoom_issued (key n : Nat) :
    ((s.issued g t i).cell g).assuredRoom key n = (s.cell g).assuredRoom key n := by
  rw [cell_issued]
  rfl

theorem tx_issued (n : Nat) : ((s.issued g t i).cell g).tx n = (s.cell g).tx n := by
  unfold Cell.tx
  rw [cell_issued]

theorem turn_issued (n : Nat) : ((s.issued g t i).cell g).turn n = (s.cell g).turn n := by
  unfold Cell.turn
  rw [cell_issued]

theorem takenBy_issued (k payload : Nat) :
    ((s.issued g t i).cell g).takenBy k payload = (s.cell g).takenBy k payload := by
  unfold Cell.takenBy
  simp only [turn_issued]

/-! ### Carriage (R263, R325) -/

/-- The message's bytes in the own store. -/
def State.messageBytes (s : State) (g : Nat) (r : SendReq) : List Byte :=
  Memory.readBytes (s.cell g).store r.off r.len

/-- The message is for a slot with no port up. -/
def State.messageDown (s : State) (g : Nat) (r : SendReq) : Prop :=
  mwRemote r.word = true ∧ slotUp s (s.chapelIx g) (mwSpan r.word) = false

theorem messageDown_iff (r : SendReq) : s.messageDown g r ↔
    (mwRemote r.word && !slotUp s (s.chapelIx g) (mwSpan r.word)) = true := by
  simp [State.messageDown]

/-- The aisle's queue or the assured buffer takes none of the message. -/
def State.messageFull (s : State) (g : Nat) (r : SendReq) : Prop :=
  (s.cell g).aisle.injHold = true ∨ (s.cell g).assuredRoom (uniKey (mwRemote r.word) (mwSpan r.word)
    ((s.chapel (s.chapelIx g)).globalOf (mwDest r.word))) ((r.len + 63) / 64 * 64) = false

/-- What carrying a message does, with `k` done as it leaves. -/
def State.Carries (s : State) (g t : Nat) (i : Ins) (c : Instr) (r : SendReq) (k : State → State) : Prop :=
  (r.len ≤ 48 → (s.cell g).chantryRoom = false → s.WaitsFor g t i c .chantryQueue) ∧
  (r.len ≤ 48 → (s.cell g).chantryRoom = true → s.Goes g t i c fun v =>
    let p := padFree (k v) 48 (s.messageBytes g r)
    p.2.modCell g fun y => { y with ch := { y.ch with injQ := y.ch.injQ ++ [messageFlit s g t r p.1] } }) ∧
  (48 < r.len → s.messageDown g r → s.Goes g t i c fun v => messageLinkDown (k v) g t r) ∧
  (48 < r.len → ¬s.messageDown g r → s.messageFull g r → s.WaitsFor g t i c .aisleQueue) ∧
  (48 < r.len → ¬s.messageDown g r → ¬s.messageFull g r → s.Goes g t i c fun v =>
    let p := padFree (k v) ((r.len + 63) / 64 * 64) (s.messageBytes g r)
    sendUniA p.2 g (messagePacket s g t r p.1))

theorem carry_issued (r : SendReq) (k : State → State) : carry (s.issued g t i) g t r k =
    if r.len ≤ 48 then
      if (s.cell g).chantryRoom then next (s.issued g t i) g t fun v =>
        let p := padFree (k v) 48 (s.messageBytes g r)
        p.2.modCell g (·.modCh fun n => { n with injQ := n.injQ ++ [messageFlit v g t r p.1] })
      else wait (s.issued g t i) g t .chantryQueue
    else if mwRemote r.word && !slotUp s (s.chapelIx g) (mwSpan r.word) then
      next (s.issued g t i) g t fun v => messageLinkDown (k v) g t r
    else if (s.cell g).aisle.injHold || !(s.cell g).assuredRoom (uniKey (mwRemote r.word) (mwSpan r.word)
        ((s.chapel (s.chapelIx g)).globalOf (mwDest r.word))) ((r.len + 63) / 64 * 64) then
      wait (s.issued g t i) g t .aisleQueue
    else next (s.issued g t i) g t fun v =>
      let p := padFree (k v) ((r.len + 63) / 64 * 64) (s.messageBytes g r)
      sendUniA p.2 g (messagePacket v g t r p.1) := by
  unfold carry State.messageBytes
  simp only [store_issued, aisle_issued, chantryRoom_issued, assuredRoom_issued]
  rfl

theorem carries_of {r : SendReq} {k : State → State} (e : s.Ends g t c (carry (s.issued g t i) g t r k)) :
    s.Carries g t i c r k := by
  rw [carry_issued] at e
  refine ⟨fun short full => ?_, fun short room => ?_, fun long down => ?_, fun long up full => ?_,
    fun long up room => ?_⟩
  · exact waitsFor_of (Ends.congr e ((if_pos short).trans (if_neg (by simp [full]))))
  · exact Goes.congr (goes_next (Ends.congr e ((if_pos short).trans (if_pos room)))) rfl
  all_goals have e := Ends.congr e (if_neg (Nat.not_le.2 long))
  · exact goes_next (Ends.congr e (if_pos ((messageDown_iff r).1 down)))
  all_goals have e := Ends.congr e (if_neg (mt (messageDown_iff r).2 up))
  · refine waitsFor_of (Ends.congr e (if_pos ?_))
    simpa [State.messageFull] using full
  · refine Goes.congr (goes_next (Ends.congr e (if_neg ?_))) rfl
    simpa [State.messageFull] using room

/-! ### The checks at issue (R222, R283) -/

/-- The payload's checks, before `k` says what its length and offset do. -/
def State.ChecksPayload (s : State) (g t : Nat) (i : Ins) (c : Instr) (len off : Nat) (k : Prop) : Prop :=
  (off % 8 ≠ 0 → s.Raises g t i c 0x04 (ownAddr s g off)) ∧
  (off % 8 = 0 → 524288 < off + len → s.Raises g t i c 0x02 (ownAddr s g off)) ∧
  (off % 8 = 0 → off + len ≤ 524288 → 8192 < len ∨ len % 8 ≠ 0 → s.Raises g t i c 0x09 0) ∧
  (off % 8 = 0 → off + len ≤ 524288 → len ≤ 8192 → len % 8 = 0 → k)

theorem checksPayload_of {rl rb : Word} {v : State → State} {k : Prop}
    (e : s.Ends g t c (sendChecks (s.issued g t i) g t rl rb v)) (goes : s.Ends g t c (v (s.issued g t i)) → k) :
    s.ChecksPayload g t i c rl.toNat rb.toNat k := by
  unfold sendChecks at e
  refine ⟨fun odd => Ends.congr e (if_pos odd), fun even past => ?_, fun even own bad => ?_,
    fun even own short whole => goes ?_⟩ <;> have e := Ends.congr e (if_neg (not_not.2 even))
  · exact Ends.congr e (if_pos past)
  all_goals have e := Ends.congr e (if_neg (Nat.not_lt.2 own))
  · exact Ends.congr e (if_pos bad)
  · exact Ends.congr e (if_neg (by omega))

theorem sendWord_ends {rl ra rb : Nat} (e : s.Ends g t c (sendWord (s.issued g t i) g t rl ra rb)) :
    s.ChecksPayload g t i c ((s.ctx g t).getS rl).toNat ((s.ctx g t).getS rb).toNat
      ((wordOk s (s.chapelIx g) ((s.ctx g t).getS ra) = false → s.Raises g t i c 0x08 0) ∧
      (wordOk s (s.chapelIx g) ((s.ctx g t).getS ra) = true → s.Carries g t i c
        ⟨(s.ctx g t).getS ra, ((s.ctx g t).getS rl).toNat, ((s.ctx g t).getS rb).toNat, none⟩ id)) := by
  unfold sendWord at e
  simp only [ctx_issued, getS_issued] at e
  refine checksPayload_of e fun e => ⟨fun bad => Ends.congr e (if_pos ?_), fun good =>
    carries_of (Ends.congr e (if_neg ?_))⟩
  · exact congrArg (!·) bad
  · exact fun bad => absurd ((congrArg (!·) good).symm.trans bad) (by decide)

/-- What a channel's send does of the channel, once the payload has passed its checks (R283, R284, R287). -/
def State.SendsChannel (s : State) (g t : Nat) (i : Ins) (c : Instr) (n len off : Nat) : Prop :=
  let y := (s.cell g).tx n
  let bad := 64 ≤ n ∨ y.phase ≠ 1
  let r : SendReq := ⟨y.peer, len, off, some (y.chan, y.nextSeq)⟩
  (bad → s.Raises g t i c 0x08 0) ∧
  (¬bad → y.maxLen < len → s.Raises g t i c 0x09 0) ∧
  (¬bad → len ≤ y.maxLen → s.messageDown g r → s.Goes g t i c fun v =>
    let v := v.modCell g (·.closeTx n)
    if len ≤ 48 then v else messageLinkDown v g t ⟨y.peer, len, 0, none⟩) ∧
  (¬bad → len ≤ y.maxLen → ¬s.messageDown g r → y.credits = 0 → s.WaitsFor g t i c (.chanCredit n)) ∧
  (¬bad → len ≤ y.maxLen → ¬s.messageDown g r → y.credits ≠ 0 → s.Carries g t i c r fun v =>
    v.modCell g (·.modTx n fun z => { z with
      credits := z.credits - 1, nextSeq := (z.nextSeq + 1) % 65536, sent := (z.sent + 1) % 65536 }))

theorem sendChan_ends {rl ra rb : Nat} (e : s.Ends g t c (sendChan (s.issued g t i) g t rl ra rb)) :
    s.ChecksPayload g t i c ((s.ctx g t).getS rl).toNat ((s.ctx g t).getS rb).toNat
      (s.SendsChannel g t i c ((s.ctx g t).getS ra).toNat ((s.ctx g t).getS rl).toNat
        ((s.ctx g t).getS rb).toNat) := by
  unfold sendChan at e
  simp only [ctx_issued, getS_issued] at e
  refine checksPayload_of e fun e => ?_
  simp only [tx_issued] at e
  refine ⟨fun bad => Ends.congr e (if_pos bad), fun good long => ?_, fun good fits down => ?_,
    fun good fits up spent => ?_, fun good fits up credit => ?_⟩ <;> have e := Ends.congr e (if_neg good)
  · exact Ends.congr e (if_pos long)
  all_goals have e := Ends.congr e (if_neg (Nat.not_lt.2 fits))
  · exact goes_next (Ends.congr e (if_pos ((messageDown_iff _).1 down)))
  all_goals have e := Ends.congr e (if_neg (mt (messageDown_iff _).2 up))
  · exact waitsFor_of (Ends.congr e (if_pos spent))
  · exact carries_of (Ends.congr e (if_neg credit))

end Sending

section Channels

variable {s : State} {g t : Nat}

/-! ### Opening and closing a channel (R281, R286) -/

theorem bitsN_eq (v hi lo : Nat) : bitsN v hi lo = v / 2 ^ lo % 2 ^ (hi + 1 - lo) := by
  unfold bitsN
  rw [Nat.shiftRight_eq_div_pow]

/-- The first handle a cell has free. -/
def Cell.freeHandle (c : Cell) : Option Nat := (List.range 64).find? fun n => decide ((c.tx n).phase = 3)

theorem ends_chanOpen {rd ra rb : Nat} (h : s.Ready g t (.chanOpen rd ra rb)) :
    let u := s.issued g t (.chanOpen rd ra rb)
    let w := (s.ctx g t).getS ra
    let v := ((s.ctx g t).getS rb).toNat
    let credits := v % 256
    let maxLen := v / 65536 % 16384
    s.Ends g t (.chanOpen g t)
      (if v ≠ credits + 65536 * maxLen ∨ credits = 0 ∨ 64 < credits ∨ 8192 < maxLen ∨ maxLen % 8 ≠ 0 then
        raise u g t 0x09 0
      else if !wordOk s (s.chapelIx g) w then raise u g t 0x08 0
      else (s.cell g).freeHandle.elim (setRd u g t rd (BitVec.allOnes 64)) fun n =>
        passes u g t fun u =>
          let y : ChanTx := { phase := 0, peer := w, tid := t, maxLen := maxLen, total := credits }
          wait (pushSystem (u.modCell g (·.modTx n fun _ => y)) g (openFlit s g n y)) g t (.chanOpen n rd)) := by
  change execChanOpen g t s = _
  refine (issueIns_runs (row := .chanOpen) h rfl _).trans ?_
  unfold Cell.freeHandle
  simp only [ctx_issued, getS_issued, tx_issued, bitsN_eq]
  simp only [pow_zero, Nat.div_one]
  cases (List.range 64).find? fun n => decide (((s.cell g).tx n).phase = 3) <;> rfl

theorem ends_chanClose {ra : Nat} (h : s.Ready g t (.chanClose ra)) :
    let u := s.issued g t (.chanClose ra)
    let n := ((s.ctx g t).getS ra).toNat
    let y := (s.cell g).tx n
    s.Ends g t (.chanClose g t) (if 64 ≤ n ∨ y.phase ≠ 1 then raise u g t 0x08 0
      else passes u g t fun u =>
        let v := wait (u.modCell g (·.modTx n fun z => { z with phase := 2 })) g t (.chanClose n)
        if y.credits = y.total then finishClose v g n else v) := by
  change execChanClose g t s = _
  refine (issueIns_runs (row := .chanClose) h rfl _).trans ?_
  simp only [ctx_issued, getS_issued, tx_issued]

/-! ### Turns (R275, R279, R285) -/

/-- The enabled turns that a mask names. -/
def Cell.namedTurns (c : Cell) (mask : BitVec 8) : List Nat :=
  (List.range 8).filter fun n => mask.getLsbD n && (c.turn n).enabled

theorem ends_turnWait {rd ra : Nat} (h : s.Ready g t (.turnWait rd ra)) :
    let u := s.issued g t (.turnWait rd ra)
    let mask : BitVec 8 := ((s.ctx g t).getS ra).truncate 8
    s.Ends g t (.turnWait g t) (if ((s.cell g).namedTurns mask).isEmpty then raise u g t 0x08 0
      else passes u g t fun u =>
        let v := (wait u g t (.turn mask rd)).modCell g fun c => { c with waiters := c.waiters ++ [t] }
        (((s.cell g).namedTurns mask).find? fun n => ((s.cell g).turn n).oldest.isSome).elim v (dispatchTurn v g)) := by
  change execTurnWait g t s = _
  refine (issueIns_runs (row := .turnWait) h rfl _).trans ?_
  have turns (n : Nat) : (((wait (s.issued g t (.turnWait rd ra)) g t
      (.turn (((s.ctx g t).getS ra).truncate 8) rd)).modCell g
        fun c => { c with waiters := c.waiters ++ [t] }).cell g).turn n = (s.cell g).turn n := by
    rw [State.cell_modCell_self]
    unfold wait State.modCtx
    rw [State.cell_modCell_self]
    exact turn_issued n
  unfold Cell.namedTurns passes
  simp only [ctx_issued, getS_issued, turn_issued, turns]
  cases ((List.range 8).filter fun n => (((s.ctx g t).getS ra).truncate 8 : BitVec 8).getLsbD n &&
    ((s.cell g).turn n).enabled).find? fun n => ((s.cell g).turn n).oldest.isSome <;> rfl

theorem ends_hret (h : s.Ready g t .hret) :
    let u := s.issued g t .hret
    let target := ((s.ctx g t).getS 29).toNat
    s.Ends g t (.hret g t) (((s.cell g).takenBy t ((s.ctx g t).getS 28).toNat).elim (raise u g t 0x08 0) fun taken =>
      if target = 0 then exitThread (retireRecord u g taken.1 taken.2) g t
      else goTo u g t target fun u => retireRecord u g taken.1 taken.2) := by
  change execHret g t s = _
  refine (issueIns_runs (row := .hret) h rfl _).trans ?_
  simp only [ctx_issued, getS_issued, takenBy_issued]
  cases (s.cell g).takenBy t ((s.ctx g t).getS 28).toNat <;> rfl

theorem retireRecord_plain {r : Record} (plain : r.chan = none) :
    retireRecord s g t r = s.modCell g fun c => (c.modTurn t (·.retire r)).showTurn t := by
  unfold retireRecord
  rw [plain]

theorem retireRecord_channel {r : Record} {n : Nat} (chan : r.chan = some n) : retireRecord s g t r =
    sendCredit ((s.modCell g fun c => (c.modTurn t (·.retire r)).showTurn t).modCell g
      (·.modRx n fun x => { x with retired := (x.retired + 1) % 65536 })) g n := by
  unfold retireRecord
  rw [chan]

theorem sendCredit_eq {n retired : Nat} {x : ChanRx} (held : (s.cell g).rx n = { x with retired := retired }) :
    sendCredit s g n = (s.modCell g (·.modRx n fun y => { y with creditOut := true })).modCell g fun c =>
      { c with ch := { c.ch with sysQ := c.ch.sysQ ++
        [{ kind := 2, remote := decide (x.srcSpan ≠ 255), chapel := s.chapelIx g, dest := x.src, src := g
           span := if x.srcSpan = 255 then 0 else x.srcSpan
           tag := BitVec.ofNat 32 (retired + 65536 * x.handle) }] } } := by
  unfold sendCredit
  rw [held]
  rfl

theorem chapelIx_modCell (j : Nat) (f : Cell → Cell) : (s.modCell j f).chapelIx g = s.chapelIx g := rfl

theorem rx_modRx (c : Cell) (n : Nat) (f : ChanRx → ChanRx) : (c.modRx n f).rx n = f (c.rx n) :=
  (tget_tput ..).trans (if_pos rfl)

end Channels

/-- Settles O48: the checks at issue first; then the queue that takes the message, the channel or the turn. -/
theorem sendsChannelsAndTurns : Obligations.SendsChannelsAndTurns := by
  refine ⟨fun s g t i h => ?issue, fun s g t r => ?retire⟩
  case issue =>
    intro x u own c h' out carried checked word chan
    refine ⟨?send, ?sendRel, ?sendCh, ?sendChRel, ?chanOpen, ?chanClose, ?turnWait, ?hret⟩
    case send =>
      rintro rl ra rb rfl
      exact sendWord_ends (show execSend g t s = _ from issueIns_runs (row := .send) h rfl _)
    case sendRel =>
      rintro rl ra rb rfl
      have ends : s.Ends g t (.sendRel g t) (released u g t fun s => sendWord s g t rl ra rb) :=
        show execSendRel g t s = _ from issueIns_runs (row := .sendRel) h rfl _
      have held : (u.cell g).outstanding t = out := outstanding_issued ..
      exact ⟨fun waits => waitsFor_of (Ends.congr ends (released_waits (held.trans waits))),
        fun free => sendWord_ends (Ends.congr ends (released_goes (held.trans free)))⟩
    case sendCh =>
      rintro rl ra rb rfl
      exact sendChan_ends (show execSendCh g t s = _ from issueIns_runs (row := .sendCh) h rfl _)
    case sendChRel =>
      rintro rl ra rb rfl
      have ends : s.Ends g t (.sendChRel g t) (released u g t fun s => sendChan s g t rl ra rb) :=
        show execSendChRel g t s = _ from issueIns_runs (row := .sendChRel) h rfl _
      have held : (u.cell g).outstanding t = out := outstanding_issued ..
      exact ⟨fun waits => waitsFor_of (Ends.congr ends (released_waits (held.trans waits))),
        fun free => sendChan_ends (Ends.congr ends (released_goes (held.trans free)))⟩
    case chanOpen =>
      rintro rd ra rb rfl
      intro w v credits maxLen sound free
      have ends := ends_chanOpen h
      have refused (bad : ¬sound) : v ≠ credits + 65536 * maxLen ∨ credits = 0 ∨ 64 < credits ∨ 8192 < maxLen ∨
          maxLen % 8 ≠ 0 := by
        by_contra good
        exact bad (show _ ∧ _ by omega)
      have taken (good : sound) : ¬(v ≠ credits + 65536 * maxLen ∨ credits = 0 ∨ 64 < credits ∨ 8192 < maxLen ∨
          maxLen % 8 ≠ 0) := by
        obtain ⟨word, some_, most, short, whole⟩ := good
        omega
      refine ⟨fun bad => Ends.congr ends (if_pos (refused bad)), fun good bad => ?_, fun good named none_ => ?_,
        fun n good named found => ?_⟩ <;> have ends := Ends.congr ends (if_neg (taken good))
      · exact Ends.congr ends (if_pos (congrArg (!·) bad))
      all_goals have ends := Ends.congr ends (if_neg (fun bad =>
        absurd ((congrArg (!·) named).symm.trans bad) (by decide)))
      · exact goes_next (Ends.elim_none ends none_)
      · have ends := Ends.elim_some (x := n) ends found
        exact ⟨fun bad => Ends.congr ends (passes_range (by rw [ctx_issued]; exact bad)),
          fun ok => Ends.congr ends (passes_goes (by rw [ctx_issued]; exact ok))⟩
    case chanClose =>
      rintro ra rfl
      intro n y
      have ends := ends_chanClose h
      refine ⟨fun bad => Ends.congr ends (if_pos bad), fun few held bad => ?_, fun few held ok => ?_⟩ <;>
        have ends := Ends.congr ends (if_neg (show ¬(64 ≤ n ∨ y.phase ≠ 1) by omega))
      · exact Ends.congr ends (passes_range (by rw [ctx_issued]; exact bad))
      · exact Ends.congr ends (passes_goes (by rw [ctx_issued]; exact ok))
    case turnWait =>
      rintro rd ra rfl
      intro mask named
      have ends := ends_turnWait h
      refine ⟨fun nobody => Ends.congr ends (if_pos (List.isEmpty_iff.2 nobody)), fun some_ bad => ?_,
        fun some_ ok => ?_⟩ <;> have ends := Ends.congr ends (if_neg (mt List.isEmpty_iff.1 some_))
      · exact Ends.congr ends (passes_range (by rw [ctx_issued]; exact bad))
      · have ends := Ends.congr ends (passes_goes (by rw [ctx_issued]; exact ok))
        exact ⟨fun none_ => Ends.elim_none ends none_, fun n found => Ends.elim_some (x := n) ends found⟩
    case hret =>
      rintro rfl
      intro target taken
      have ends := ends_hret h
      refine ⟨fun none_ => Ends.elim_none ends none_, fun n r found => ?_⟩
      have ends := Ends.elim_some (x := (n, r)) ends found
      refine ⟨fun exits => Ends.congr ends (if_pos exits), fun stays ok => ?_, fun stays bad => ?_⟩ <;>
        have ends := Ends.congr ends (if_neg stays)
      · exact Ends.congr ends (if_pos ok)
      · exact Ends.congr ends (goTo_range bad)
  case retire =>
    intro v
    refine ⟨retireRecord_plain, fun n chan => ?_⟩
    intro x
    let w := v.modCell g (·.modRx n fun y => { y with retired := (y.retired + 1) % 65536 })
    have kept : (v.cell g).rx n = x := by
      rw [State.cell_modCell_self]
      rfl
    have credit : (w.cell g).rx n = { x with retired := (x.retired + 1) % 65536 } := by
      rw [State.cell_modCell_self, rx_modRx, kept]
    have home : w.chapelIx g = s.chapelIx g := (chapelIx_modCell ..).trans (chapelIx_modCell ..)
    refine ⟨_, ?_, rfl⟩
    rw [retireRecord_channel chan, sendCredit_eq credit, home]

end Sys2Proof.Machine
end


section
/-! PROOFS. Messages at their cell, records and their dispatch, and the system flits of channels (chapters 09, 12). -/

namespace Sys2Proof.Machine

/-! ### Bytes written into the own store -/

theorem fieldN_byte (bs : List Byte) (off : Nat) : fieldN bs off 1 = (byteAt bs off).toNat := by
  have head : byteAt bs off = (bs.drop off).headD 0#8 := by
    unfold byteAt
    rw [List.getD_eq_getElem?_getD, List.headD_eq_head?_getD, List.head?_eq_getElem?, List.getElem?_drop, Nat.add_zero]
  rw [head]
  unfold fieldN sliceB
  cases bs.drop off <;> simp [leNat]

theorem length_status (t : Turn) : t.status.length = 16 := by
  unfold Turn.status zeros
  simp [length_le]

theorem read_showTurn (c : Cell) {t b : Nat} (outside : b < 0x7F500 + 16 * t ∨ 0x7F500 + 16 * t + 16 ≤ b) :
    (c.showTurn t).store.read b = c.store.read b :=
  Memory.read_writeBytes_outside _ _ _ (by rwa [length_status])

theorem turn_showTurn (c : Cell) (t n : Nat) : (c.showTurn t).turn n = c.turn n := rfl

theorem turn_modTurn (c : Cell) (t n : Nat) (f : Turn → Turn) :
    (c.modTurn t f).turn n = if n = t then f (c.turn t) else c.turn n := tget_tput ..

/-- From `u` to `v` the bytes `bs`, and free ones after them up to `n`, have been written at `at_` of cell `g`'s store;
of that store the status entry of turn `turn` may have changed too, and nothing outside the cell but the draws. -/
def State.Writes (u v : State) (g turn at_ n : Nat) (bs : List Byte) : Prop :=
  v = { u with cells := v.cells, freeCount := v.freeCount } ∧ (∀ h, h ≠ g → v.cell h = u.cell h) ∧
  (∀ b, b < at_ ∨ at_ + max n bs.length ≤ b → b < 0x7F500 + 16 * turn ∨ 0x7F500 + 16 * turn + 16 ≤ b →
    (v.cell g).store.read b = (u.cell g).store.read b) ∧
  (∀ k, (h : k < bs.length) → at_ + k < 0x7F500 + 16 * turn ∨ 0x7F500 + 16 * turn + 16 ≤ at_ + k →
    (v.cell g).store.read (at_ + k) = bs[k])

section Writing

variable (u : State) (g off : Nat) (header payload : List Byte) (size : Nat)

theorem cell_writeRecord : (writeRecord u g off header payload size).cell g = { u.cell g with
    store := (u.cell g).store.writeBytes off (padFree u size (header ++ payload)).1 } := by
  unfold writeRecord
  rw [State.cell_modCell_self, padFree_state]
  rfl

theorem writeRecord_state : writeRecord u g off header payload size =
    { u with cells := (writeRecord u g off header payload size).cells
             freeCount := (writeRecord u g off header payload size).freeCount } := by
  have drawn := padFree_state u size (header ++ payload)
  unfold writeRecord
  simp only []
  rw [drawn]
  rfl

theorem cell_writeRecord_other {h : Nat} (other : h ≠ g) :
    (writeRecord u g off header payload size).cell h = u.cell h := by
  unfold writeRecord
  rw [State.cell_modCell, if_neg other, padFree_state]
  rfl

theorem writes_record {turn : Nat} {f : Cell → Cell} (shows : ∀ c b, b < 0x7F500 + 16 * turn ∨
    0x7F500 + 16 * turn + 16 ≤ b → (f c).store.read b = c.store.read b) :
    u.Writes ((writeRecord u g off header payload size).modCell g f) g turn off size (header ++ payload) := by
  refine ⟨?_, fun h other => ?_, fun b far outside => ?_, fun k inside outside => ?_⟩
  · conv_lhs => rw [writeRecord_state]
    rfl
  · rw [State.cell_modCell, if_neg other, cell_writeRecord_other _ _ _ _ _ _ other]
  all_goals rw [State.cell_modCell_self, shows _ _ outside, cell_writeRecord]
  · exact Memory.read_writeBytes_outside _ _ _ (by rwa [length_padFree])
  · have padded : k < (padFree u size (header ++ payload)).1.length := by
      rw [length_padFree]
      omega
    exact (Memory.read_writeBytes_inside _ _ _ padded).trans (getElem_padFree u size _ k inside padded)

end Writing

/-! ### A record placed in its turn (R272, R273) -/

/-- The turn with a record added at its ring's or its spill region's tail. -/
def Turn.added (t : Turn) (spill : Bool) (off size skip : Nat) (header : List Byte) : Turn :=
  let at_ := (if spill then t.spillBase else t.ringBase) + off
  let r : Record := ⟨at_, size, size + skip, header, spill, none, none, false⟩
  let y := { t with records := t.records ++ [r] }
  if spill then { y with
    spillTail := (off + size) % t.spillSize, spillHeld := t.spillHeld + size + skip, spillActive := true
    spilledTotal := satInc 0xFFFFFFFF t.spilledTotal }
  else { y with ringTail := (off + size) % t.ringSize, ringHeld := t.ringHeld + size + skip }

section Placing

variable (u : State) (g : Nat) (m : Message) (spill : Bool) (off skip : Nat)

theorem placeIn_writes :
    let tu := (u.cell g).turn m.turn
    u.Writes (placeIn u g m spill off skip) g m.turn ((if spill then tu.spillBase else tu.ringBase) + off)
      (recordSize m.len) (recordHeader m (m.rel (u.chapel (u.chapelIx g))) spill ++ m.payload) := by
  intro tu
  unfold placeIn
  exact writes_record _ _ _ _ _ _ fun c b outside => read_showTurn _ outside

theorem placeIn_turn (n : Nat) : ((placeIn u g m spill off skip).cell g).turn n =
    if n = m.turn then ((u.cell g).turn m.turn).added spill off (recordSize m.len) skip
      (recordHeader m (m.rel (u.chapel (u.chapelIx g))) spill)
    else (u.cell g).turn n := by
  unfold placeIn
  rw [State.cell_modCell_self, turn_showTurn, turn_modTurn, cell_writeRecord]
  split
  · cases spill <;> rfl
  · rfl

end Placing

/-! ### Arrival (R272, R273, R284) -/

section Arrival

variable {s u : State} {g : Nat} {m : Message}

/-- The oldest message has left its cell's inbox. -/
def State.arrived (s : State) (g : Nat) (rest : List Message) : State :=
  { s with emitted := [] }.modCell g fun c => { c with arrivals := rest }

theorem exec_messageArrival {rest : List Message} (clocked : s.cellClocked g = true)
    (inbox : (s.cell g).arrivals = m :: rest) :
    exec (.messageArrival g) s = .next (placeMessage (s.arrived g rest) g m) := by
  change execMessageArrival g s = _
  unfold execMessageArrival
  rw [inbox]
  exact possible_pos clocked

theorem cell_arrived (rest : List Message) : (s.arrived g rest).cell g = { s.cell g with arrivals := rest } :=
  State.cell_modCell_self ..

theorem placeMessage_lost (lost : (u.chapel (u.chapelIx g)).state = .evicting ∨ u.chapelOfCell g = none) :
    placeMessage u g m = u := if_pos lost

theorem placeMessage_plain (kept : ¬((u.chapel (u.chapelIx g)).state = .evicting ∨ u.chapelOfCell g = none))
    (plain : m.chan = none) : placeMessage u g m = placeRecord u g m := by
  refine (if_neg kept).trans ?_
  rw [plain]

theorem placeMessage_channel {n seq : Nat}
    (kept : ¬((u.chapel (u.chapelIx g)).state = .evicting ∨ u.chapelOfCell g = none))
    (chan : m.chan = some (n, seq)) : placeMessage u g m = placeChannel u g m n seq := by
  refine (if_neg kept).trans ?_
  rw [chan]

/-- Where a record of `n` bytes goes in the turn's ring. -/
def Turn.ringPlace (t : Turn) (n : Nat) : Option (Nat × Nat) :=
  if t.spillActive then none else regionPlace t.ringSize (t.regionHead false) t.ringTail t.ringHeld n

/-- Where a record of `n` bytes goes in the turn's spill region. -/
def Turn.spillPlace (t : Turn) (n : Nat) : Option (Nat × Nat) :=
  if t.spillUsed + n ≤ t.spillSize then regionPlace t.spillSize (t.regionHead true) t.spillTail t.spillHeld n else none

theorem placeRecord_disabled (off : ((u.cell g).turn m.turn).ringSize = 0) :
    placeRecord u g m = logC u 0 0x0118 (locCell g) (u.chapelIx g) (m.detail g) :=
  if_pos (show (!((u.cell g).turn m.turn).enabled) = true by simp [Turn.enabled, off])

theorem placeRecord_enabled (on : ((u.cell g).turn m.turn).ringSize ≠ 0) :
    placeRecord u g m = (((u.cell g).turn m.turn).ringPlace (recordSize m.len)).elim
      ((((u.cell g).turn m.turn).spillPlace (recordSize m.len)).elim
        (faultK (u.modCell g fun x => (x.modTurn m.turn fun t => { t with overflowed := true }).showTurn m.turn)
          (u.chapelIx g) 0x011A (locCell g) (m.detail g) false false)
        fun at_ => placeIn u g m true at_.1 at_.2)
      fun at_ => placeIn u g m false at_.1 at_.2 := by
  refine (if_neg (show ¬(!((u.cell g).turn m.turn).enabled) = true by simp [Turn.enabled, on])).trans ?_
  change (match ((u.cell g).turn m.turn).ringPlace (recordSize m.len) with
    | some (off, skip) => placeIn u g m false off skip
    | none => match ((u.cell g).turn m.turn).spillPlace (recordSize m.len) with
      | some (off, skip) => placeIn u g m true off skip
      | none => _) = _
  cases ((u.cell g).turn m.turn).ringPlace (recordSize m.len) with
  | none => cases ((u.cell g).turn m.turn).spillPlace (recordSize m.len) <;> rfl
  | some at_ => rfl

/-- The channel does not take the message: it names no reservation, or its slot is not free. -/
def ChanRx.turns (x : ChanRx) (seq : Nat) : Prop :=
  x.used = false ∨ x.credits ≤ (seq + 65536 - x.next) % 65536 ∨ ∃ e ∈ x.early, e.1 = seq

theorem turns_iff (x : ChanRx) (seq : Nat) : x.turns seq ↔ (!x.used ||
    decide (x.credits ≤ (seq + 65536 - x.next) % 65536) || x.early.any fun e => decide (e.1 = seq)) = true := by
  simp [ChanRx.turns, or_assoc]

theorem placeChannel_turned {n seq : Nat} (turned : ((u.cell g).rx n).turns seq) : placeChannel u g m n seq = u :=
  if_pos ((turns_iff _ _).1 turned)

/-- The message as its channel's reservation names it. -/
def Message.onChannel (m : Message) (x : ChanRx) (n seq : Nat) : Message :=
  { m with turn := x.turn, handler := x.handler, tag := x.tag, chan := some (n, seq) }

theorem placeChannel_taken {n seq : Nat} (taken : ¬((u.cell g).rx n).turns seq) : placeChannel u g m n seq =
    let x := (u.cell g).rx n
    let k := m.onChannel x n seq
    (writeRecord u g (x.base + seq % max 1 x.credits * x.slotSize)
      (recordHeader k (k.rel (u.chapel (u.chapelIx g))) false) m.payload x.slotSize).modCell g fun c =>
        (releaseEarly 64 (c.modRx n fun x => { x with early := x.early ++ [(seq, k)], creditOut := false }) n).showTurn
          x.turn := if_neg (mt (turns_iff _ _).2 taken)

end Arrival

/-! ### Dispatch (R268, R276 to R278) -/

section Dispatch

variable {s : State} {g t u : Nat} {started : Bool} {r : Record}

theorem exec_recordDispatch (oldest : ((s.cell g).turn t).oldest = some r) (taker : s.taker g t = some (u, started))
    (cell : g < 3072) (turn : t < 8) (runs : s.cellRuns g = true) :
    exec (.recordDispatch g t) s = .next (dispatchTurn { s with emitted := [] } g t) := by
  change execRecordDispatch g t s = _
  exact possible_pos (by simp [oldest, taker, cell, turn, runs])

/-- The handler entry of a record's handler in its cell's store. -/
def State.handlerEntry (s : State) (g : Nat) (r : Record) : Nat :=
  leNat (Memory.readBytes (s.cell g).store (0x7F000 + 4 * fieldN r.header 2 1) 4)

theorem dispatchTurn_eq (oldest : ((s.cell g).turn t).oldest = some r) (taker : s.taker g t = some (u, started)) :
    dispatchTurn s g t = if s.handlerEntry g r < 2 ^ 31 then
        logC (retireRecord s g t r) 0 0x0119 (locCell g) (s.chapelIx g) (messageDetail t (fieldN r.header 2 1)
          ((s.chapel (s.chapelIx g)).globalOf (fieldN r.header 4 2 % 4096)) g (fieldN r.header 6 1)
          (fieldN r.header 7 1 % 16) (BitVec.ofNat 32 (fieldN r.header 8 4)))
      else dispatchTo s g t u started r (s.handlerEntry g r % 524288) := by
  unfold dispatchTurn State.handlerEntry
  rw [oldest, taker, fieldN_byte r.header 2]
  rfl

end Dispatch

/-! ### System flits (R282, R285, R286, R359, R360) -/

theorem bitsN_low (v hi : Nat) : bitsN v hi 0 = v % 2 ^ (hi + 1) := by
  rw [bitsN_eq, pow_zero, Nat.div_one, Nat.sub_zero]

section SystemFlits

variable {s : State} {g : Nat} {f : ChFlit} {rest : List ChFlit}

/-- The cell has consumed the first of its system flits. -/
def State.consumed (s : State) (g : Nat) (rest : List ChFlit) : State :=
  { s with emitted := [] }.modCell g fun c => { c with sysIn := rest }

theorem cell_consumed (rest : List ChFlit) : (s.consumed g rest).cell g = { s.cell g with sysIn := rest } :=
  State.cell_modCell_self ..

/-- A system flit queued at a cell. -/
def State.queues (s : State) (g : Nat) (f : ChFlit) : State :=
  s.modCell g fun c => { c with ch := { c.ch with sysQ := c.ch.sysQ ++ [f] } }

section Consuming

variable (clocked : s.cellClocked g = true) (queue : (s.cell g).sysIn = f :: rest)

include clocked queue

theorem consumeSystem_runs (k : State → ChFlit → State) :
    consumeSystem g f.kind s k = .next (k (s.consumed g rest) f) := by
  unfold consumeSystem Cell.systemHead
  simp only [queue]
  refine (possible_pos clocked).trans (congrArg (fun u => Host.Outcome.next (k u f)) (State.modCell_congr ?_))
  exact congrArg (fun l => { s.cell g with sysIn := l.drop 1 }) queue

/-- The reply to an open. -/
def openReply (s : State) (g : Nat) (f : ChFlit) (n : Nat) : ChFlit :=
  { kind := 4, remote := decide (f.srcSpan ≠ 255), chapel := s.chapelIx g, dest := f.src, src := g
    span := if f.srcSpan = 255 then 0 else f.srcSpan, tag := BitVec.ofNat 32 (n + 64 * (f.tag.toNat / 2 ^ 22 % 64)) }

/-- The reservation that an open asks for again. -/
def Cell.opened (c : Cell) (f : ChFlit) : Option (Nat × ChanRx) :=
  c.chanRx.find? fun e => e.2.used &&
    decide (e.2.src = f.src ∧ e.2.srcSpan = f.srcSpan ∧ e.2.handle = f.tag.toNat / 2 ^ 22 % 64)

/-- The reservation that an open makes. -/
def ChFlit.reservation (f : ChFlit) (base : Nat) : ChanRx :=
  { used := true, src := f.src, srcSpan := f.srcSpan, handle := f.tag.toNat / 2 ^ 22 % 64, turn := f.turn
    handler := f.handler, tag := BitVec.ofNat 32 (fieldN f.payload 0 4), base := base
    slotSize := recordSize (f.tag.toNat / 256 % 2 ^ 14), credits := f.tag.toNat % 256 }

theorem exec_channelOpen (kind : f.kind = 3) : exec (.channelOpen g) s = .next (
    let u := s.consumed g rest
    ((s.cell g).opened f).elim
      (((s.cell g).reserve f.turn (f.tag.toNat % 256 * recordSize (f.tag.toNat / 256 % 2 ^ 14))).elim
        (u.queues g (openReply s g f 63))
        fun at_ => (u.modCell g (·.modRx at_.1 fun _ => f.reservation at_.2)).queues g (openReply s g f at_.1))
      fun e => u.queues g (openReply s g f e.1)) := by
  change execChannelOpen g s = _
  unfold execChannelOpen
  rw [← kind, consumeSystem_runs clocked queue]
  have cell := cell_consumed (s := s) (g := g) rest
  have reserve (t n : Nat) : { s.cell g with sysIn := rest }.reserve t n = (s.cell g).reserve t n := rfl
  have handle : bitsN f.tag.toNat 27 22 = f.tag.toNat / 2 ^ 22 % 64 := bitsN_eq ..
  have credits : bitsN f.tag.toNat 7 0 = f.tag.toNat % 256 := bitsN_low ..
  have longest : bitsN f.tag.toNat 21 8 = f.tag.toNat / 256 % 2 ^ 14 := bitsN_eq ..
  unfold Cell.opened
  simp only [cell, reserve, handle, credits, longest, slotBytes]
  cases (s.cell g).chanRx.find? fun e => e.2.used &&
    decide (e.2.src = f.src ∧ e.2.srcSpan = f.srcSpan ∧ e.2.handle = f.tag.toNat / 2 ^ 22 % 64) with
  | some e => rfl
  | none =>
    cases (s.cell g).reserve f.turn (f.tag.toNat % 256 * recordSize (f.tag.toNat / 256 % 2 ^ 14)) <;> rfl

theorem exec_channelOpenReply (kind : f.kind = 4) : exec (.channelOpenReply g) s = .next (
    let u := s.consumed g rest
    let h := f.tag.toNat / 64 % 64
    if ((s.cell g).tx h).phase ≠ 0 then u
    else if f.tag.toNat % 64 = 63 then
      u.modCell g fun c => (c.modTx h fun _ => ChanTx.fresh).openAnswer h (BitVec.allOnes 64)
    else u.modCell g fun c => (c.modTx h fun y =>
      { y with phase := 1, chan := f.tag.toNat % 64, credits := y.total }).openAnswer h (BitVec.ofNat 64 h)) := by
  change execChannelOpenReply g s = _
  unfold execChannelOpenReply
  rw [← kind, consumeSystem_runs clocked queue]
  have handle : bitsN f.tag.toNat 11 6 = f.tag.toNat / 64 % 64 := bitsN_eq ..
  have chan : bitsN f.tag.toNat 5 0 = f.tag.toNat % 64 := bitsN_low ..
  have tx (h : Nat) : { s.cell g with sysIn := rest }.tx h = (s.cell g).tx h := rfl
  simp only [cell_consumed, tx, handle, chan]

theorem exec_channelCredit (kind : f.kind = 2) : exec (.channelCredit g) s = .next (
    let u := s.consumed g rest
    let count := f.tag.toNat % 65536
    let h := f.tag.toNat / 65536 % 64
    let x := (s.cell g).tx h
    let credits := x.total - (x.sent + 65536 - count) % 65536
    let v := u.modCell g fun c => (c.modTx h fun y => { y with retired := count, credits := credits }).retryWhere
      fun w => decide (w = Waiting.chanCredit h ∧ credits ≠ 0)
    if x.phase ≠ 1 ∧ x.phase ≠ 2 then u
    else if x.phase = 2 ∧ credits = x.total then finishClose v g h else v) := by
  change execChannelCredit g s = _
  unfold execChannelCredit
  rw [← kind, consumeSystem_runs clocked queue]
  have handle : bitsN f.tag.toNat 21 16 = f.tag.toNat / 65536 % 64 := bitsN_eq ..
  have retired : bitsN f.tag.toNat 15 0 = f.tag.toNat % 65536 :=
    bitsN_low ..
  have tx (h : Nat) : { s.cell g with sysIn := rest }.tx h = (s.cell g).tx h := rfl
  simp only [cell_consumed, tx, handle, retired]

end Consuming

section Repeats

variable (clocked : s.cellClocked g = true)

include clocked

theorem exec_creditRepeat {n : Nat} (few : n < 64) (used : ((s.cell g).rx n).used = true)
    (out : ((s.cell g).rx n).creditOut = true) :
    exec (.creditRepeat g n) s = .next (sendCredit { s with emitted := [] } g n) := by
  change execCreditRepeat g n s = _
  unfold execCreditRepeat
  exact possible_pos (by simp [clocked, few, used, out])

variable {h : Nat} (few : h < 64) (opening : ((s.cell g).tx h).phase = 0)

include few opening

theorem exec_openRepeat (again : ((s.cell g).tx h).repeats < 8) : exec (.openRepeat g h) s = .next
    (({ s with emitted := [] }.modCell g (·.modTx h fun y => { y with repeats := y.repeats + 1 })).queues g
      (openFlit s g h ((s.cell g).tx h))) := by
  change execOpenRepeat g h s = _
  unfold execOpenRepeat
  exact possible_pos (by simp [clocked, few, opening, again])

theorem exec_channelOpenGiveUp (last : ((s.cell g).tx h).repeats = 8) : exec (.channelOpenGiveUp g h) s = .next
    ({ s with emitted := [] }.modCell g fun c =>
      (c.modTx h fun _ => ChanTx.fresh).openAnswer h (BitVec.allOnes 64)) := by
  change execChannelOpenGiveUp g h s = _
  unfold execChannelOpenGiveUp
  exact possible_pos (by simp [clocked, few, opening, last])

end Repeats
end SystemFlits

/-- Settles O49: where an arriving message goes, who takes a record, and what each system flit of a channel does. -/
theorem messagesAndChannels : Obligations.MessagesAndChannels := by
  refine ⟨fun s g m rest clocked inbox => ?arrival, fun s g t u started r => ?dispatch,
    fun s g f rest clocked queue => ?flits, fun s g clocked => ?repeats⟩
  case arrival =>
    intro u c size lost tu written placed ring spill detail
    have runs := exec_messageArrival clocked inbox
    have cell : u.cell g = { s.cell g with arrivals := rest } := cell_arrived rest
    have turn : (u.cell g).turn m.turn = tu := by rw [cell]; rfl
    have wrote {v : State} {t a n : Nat} {bs : List Byte} (w : u.Writes v g t a n bs) : written v t a n bs := by
      obtain ⟨outside, others, far, near⟩ := w
      exact ⟨outside, others, fun b away apart => (far b away apart).trans (by rw [cell]), near⟩
    have plain (here : ¬lost) (chan : m.chan = none) : exec (.messageArrival g) s = .next (placeRecord u g m) :=
      runs.trans (congrArg _ (placeMessage_plain (u := u) here chan))
    have enabled (here : ¬lost) (chan : m.chan = none) (on : tu.ringSize ≠ 0) :=
      (plain here chan).trans (congrArg _ (placeRecord_enabled (turn.symm ▸ on)))
    have puts (v) (off skip) (e : exec (.messageArrival g) s = .next (placeIn u g m v off skip)) :
        placed v off skip := by
      have writes := placeIn_writes u g m v off skip
      have turns := placeIn_turn u g m v off skip
      simp only [turn] at writes turns
      refine ⟨_, e, wrote writes, fun n other => ?_, (turns m.turn).trans (if_pos rfl)⟩
      rw [turns, if_neg other, cell]
      rfl
    have inRing : ((u.cell g).turn m.turn).ringPlace size = ring := congrArg (Turn.ringPlace · size) turn
    have inSpill : ((u.cell g).turn m.turn).spillPlace size = spill := congrArg (Turn.spillPlace · size) turn
    refine ⟨fun here => runs.trans (congrArg _ (placeMessage_lost here)), fun here chan off => ?_,
      fun off skip here chan on found => puts false off skip ?_,
      fun off skip here chan on full found => puts true off skip ?_, fun here chan on full spillFull => ?_,
      fun n seq here chan => ?channel⟩
    · exact (plain here chan).trans (congrArg _ (placeRecord_disabled (turn.symm ▸ off)))
    · have e := enabled here chan on
      rw [inRing.trans found] at e
      exact e
    · have e := enabled here chan on
      rw [inRing.trans full, inSpill.trans found] at e
      exact e
    · have e := enabled here chan on
      rw [inRing.trans full, inSpill.trans spillFull] at e
      exact e
    case channel =>
      intro x turned m' header at_
      have goes : exec (.messageArrival g) s = .next (placeChannel u g m n seq) :=
        runs.trans (congrArg _ (placeMessage_channel (u := u) here chan))
      have rx : (u.cell g).rx n = x := by rw [cell]; rfl
      refine ⟨fun away => goes.trans (congrArg _ (placeChannel_turned (rx.symm ▸ away))), fun takes => ?_⟩
      have taken := placeChannel_taken (u := u) (g := g) (m := m) (n := n) (seq := seq) (rx.symm ▸ takes)
      simp only [rx] at taken
      refine ⟨_, writeRecord u g at_ header m.payload x.slotSize, goes, taken, ?_, fun t => wrote ?_⟩
      · rw [cell_writeRecord]
      · exact writes_record _ _ _ _ _ _ fun c b apart => rfl
  case dispatch =>
    intro h e pc z oldest taker cell turn runs marked dispatched x
    have goes := (exec_recordDispatch oldest taker cell turn runs).trans
      (congrArg _ (dispatchTurn_eq (s := z) oldest taker))
    refine ⟨fun bad => goes.trans (congrArg _ (if_pos bad)), fun good waits => ?_, fun good starts => ?_⟩ <;>
      have goes := goes.trans (congrArg _ (if_neg (Nat.not_lt.2 good)))
    · subst waits
      exact ⟨fun ok => goes.trans (congrArg _ (if_pos ok)), fun bad =>
        goes.trans (congrArg _ (if_neg (show ¬pcOk pc = true by simp [bad])))⟩
    · subst starts
      exact goes
  case flits =>
    intro u tag queued
    refine ⟨fun kind => ?open_, fun kind => ?reply, fun kind => ?credit⟩
    case open_ =>
      intro handle bytes old reply
      have goes := exec_channelOpen clocked queue kind
      refine ⟨fun e found => ?_, fun new full => ?_, fun n base new fits => ?_⟩
      · rw [show (s.cell g).opened f = some e from found] at goes
        exact goes
      all_goals rw [show (s.cell g).opened f = none from new] at goes
      · rw [show (s.cell g).reserve _ _ = none from full] at goes
        exact goes
      · rw [show (s.cell g).reserve _ _ = some (n, base) from fits] at goes
        exact goes
    case reply =>
      intro h x
      have goes := exec_channelOpenReply clocked queue kind
      refine ⟨fun other => goes.trans (congrArg _ (if_pos other)), fun opening none_ => ?_, fun opening given => ?_⟩ <;>
        have goes := goes.trans (congrArg _ (if_neg (not_not.2 opening)))
      · exact goes.trans (congrArg _ (if_pos none_))
      · exact goes.trans (congrArg _ (if_neg given))
    case credit =>
      intro count h x credits v
      have goes := exec_channelCredit clocked queue kind
      refine ⟨fun a b => goes.trans (congrArg _ (if_pos ⟨a, b⟩)), fun phase => goes.trans (congrArg _ (if_neg ?_))⟩
      rintro ⟨a, b⟩
      exact phase.elim a b
  case repeats =>
    intro u
    exact ⟨fun n => exec_creditRepeat clocked, fun h few opening =>
      ⟨exec_openRepeat clocked few opening, exec_channelOpenGiveUp clocked few opening⟩⟩

end Sys2Proof.Machine
end


section
/-! PROOFS. Sums in the fabric: operands and their instances, the parent's slot, results and waits (chapter 11). -/

namespace Sys2Proof.Machine

section Operands

variable {s u : State} {g grp i : Nat} {p : AislePkt}

/-! ### An operand at its slot (R346, R348, R349) -/

/-- The oldest operand has left its router's inbox. -/
def State.tookOperand (s : State) (g : Nat) (rest : List AislePkt) : State :=
  { s with emitted := [] }.modCell g fun c => { c with sum := { c.sum with inbox := rest } }

theorem sumInst_tookOperand (rest : List AislePkt) :
    ((s.tookOperand g rest).cell g).sumInst grp = (s.cell g).sumInst grp := by
  unfold State.tookOperand
  rw [State.cell_modCell_self]
  rfl

section Arrival

variable {rest : List AislePkt} (runs : s.fabricRuns g = true) (inbox : (s.cell g).sum.inbox = p :: rest)

include runs inbox

theorem exec_sumOperandArrival_nowhere (nowhere : p.sumInput g = none) :
    exec (.sumOperandArrival g) s = .next (s.tookOperand g rest) := by
  change execSumOperandArrival g s = _
  unfold execSumOperandArrival
  rw [inbox]
  refine (possible_pos runs).trans (congrArg _ ?_)
  rw [nowhere]
  rfl

theorem exec_sumOperandArrival (input : p.sumInput g = some i) : exec (.sumOperandArrival g) s = .next (
    let h := s.chapel (s.chapelIx g)
    let sg := h.sum p.sumGroup
    if sg.kind = 0 ∨ (sumInputs h sg g).contains i = false ∨
        (((s.cell g).sumInst p.sumGroup).operand i).isSome then s.tookOperand g rest
    else enterSlot (s.tookOperand g rest) g p.sumGroup i sg p) := by
  change execSumOperandArrival g s = _
  unfold execSumOperandArrival
  rw [inbox]
  refine (possible_pos runs).trans (congrArg _ ?_)
  rw [input, ← sumInst_tookOperand (rest := rest)]
  rfl

end Arrival

/-- The operand, or the failure it tells of, is at its slot of the present sum. -/
def State.slotFilled (v : State) (g grp i : Nat) (sg : SumGroup) (p : AislePkt) : State :=
  if p.sumFailed then failInst (v.modCell g (·.modSum grp (·.flip i))) g grp (p.seq, p.sumSlice)
    (failCause p.sumCause) (nextInst sg (p.seq, p.sumSlice))
  else v.modCell g (·.modSum grp fun x => { x with operands := x.operands ++
    [⟨i, p.seq, p.sumSlice, p.sumCount, sumElems sg i p.payload⟩] })

variable {sg : SumGroup}

theorem enterSlot_passed {n : Nat × Nat} (next : ((u.cell g).sumInst grp).next = some n)
    (older : olderInst (p.seq, p.sumSlice) n = true) : enterSlot u g grp i sg p =
      if p.sumFailed then u.modCell g (·.modSum grp (·.flip i))
      else logC (u.modCell g (·.modSum grp (·.flip i))) 0 0x0074 (locCell g) (u.chapelIx g)
        (fabricDetail 0 grp p.src g p.seq p.sumSlice) := by
  unfold enterSlot
  exact if_pos (by simp [next, older])

/-- The operand's sum is the present one: it opens an idle slot set, joins its own, or ends an older one with
SUM_MISMATCH. -/
def State.makesPresent (u : State) (g grp : Nat) (inst : Nat × Nat) : State :=
  match ((u.cell g).sumInst grp).next, ((u.cell g).sumInst grp).operands with
  | some n, _ :: _ => if n = inst then u else failInst u g grp n 0x72 inst
  | _, _ => u.modCell g (·.modSum grp fun x => { x with next := some inst })

theorem enterSlot_present (present : ¬∃ n, ((u.cell g).sumInst grp).next = some n ∧
    olderInst (p.seq, p.sumSlice) n = true) :
    enterSlot u g grp i sg p = (u.makesPresent g grp (p.seq, p.sumSlice)).slotFilled g grp i sg p := by
  unfold enterSlot
  refine if_neg fun passed => present ?_
  obtain ⟨n, next, older⟩ := (Option.any_eq_true _ _).1 passed
  exact ⟨n, next, older⟩

section Present

variable {inst : Nat × Nat}

theorem makesPresent_idle (idle : ((u.cell g).sumInst grp).next = none ∨ ((u.cell g).sumInst grp).operands = []) :
    u.makesPresent g grp inst = u.modCell g (·.modSum grp fun x => { x with next := some inst }) := by
  unfold State.makesPresent
  rcases idle with none_ | empty
  · rw [none_]
  · rw [empty]
    cases ((u.cell g).sumInst grp).next <;> rfl

variable {n : Nat × Nat} (next : ((u.cell g).sumInst grp).next = some n)
  (holds : ((u.cell g).sumInst grp).operands ≠ [])

include next holds

theorem makesPresent_busy :
    u.makesPresent g grp inst = if n = inst then u else failInst u g grp n 0x72 inst := by
  unfold State.makesPresent
  rw [next]
  cases operands : ((u.cell g).sumInst grp).operands with
  | nil => exact absurd operands holds
  | cons o os => rfl

end Present
end Operands

/-! ### Instances (R336 to R338, R347, R349) -/

section Instances

variable {s v : State} {g grp : Nat}

theorem sumInst_modSum (v : State) (g grp : Nat) (f : SumInst → SumInst) :
    ((v.modCell g (·.modSum grp f)).cell g).sumInst grp = f ((v.cell g).sumInst grp) := by
  rw [State.cell_modCell_self]
  exact (tget_tput ..).trans (if_pos rfl)

/-- A complete sum has an operand, and its operands are folded from the first. -/
theorem complete_operands {x : SumInst} {inputs : List Nat} (complete : x.complete inputs = true) :
    ∃ first rest, inputs.filterMap x.operand = first :: rest := by
  unfold SumInst.complete at complete
  cases inputs with
  | nil => cases complete
  | cons i is =>
    simp only [List.all_cons, Bool.and_eq_true] at complete
    obtain ⟨-, first, -⟩ := complete
    obtain ⟨o, held⟩ := Option.isSome_iff_exists.1 first
    exact ⟨o, is.filterMap x.operand, by simp [held]⟩

section Runs

variable (runs : s.fabricRuns g = true)

include runs

theorem exec_sumCombineDone (kind : ((s.chapel (s.chapelIx g)).sum grp).kind ≠ 0)
    (complete : ((s.cell g).sumInst grp).complete
      (sumInputs (s.chapel (s.chapelIx g)) ((s.chapel (s.chapelIx g)).sum grp) g) = true) :
    exec (.sumCombineDone g grp) s = .next (
      let h := s.chapel (s.chapelIx g)
      let sg := h.sum grp
      let x := (s.cell g).sumInst grp
      let os := (sumInputs h sg g).filterMap x.operand
      let inst := x.next.getD (0, 0)
      sumOutcome ({ s with emitted := [] }.modCell g (·.modSum grp fun x =>
          { x.release with next := some (nextInst sg inst) })) g grp inst false
        ((os.map SumOperand.count).sum % 65536) 0 ((sumFold sg.op os).flatMap fun v => le 4 v.toNat)) := by
  change execSumCombineDone g grp s = _
  unfold execSumCombineDone
  exact possible_pos (by simp [runs, kind, complete])

theorem exec_sumSlotTimeout (holds : ((s.cell g).sumInst grp).operands ≠ [])
    (lacks : ((s.cell g).sumInst grp).complete
      (sumInputs (s.chapel (s.chapelIx g)) ((s.chapel (s.chapelIx g)).sum grp) g) = false) :
    exec (.sumSlotTimeout g grp) s = .next (
      let inst := ((s.cell g).sumInst grp).next.getD (0, 0)
      failInst { s with emitted := [] } g grp inst 0x71 (nextInst ((s.chapel (s.chapelIx g)).sum grp) inst)) := by
  change execSumSlotTimeout g grp s = _
  unfold execSumSlotTimeout
  exact possible_pos (by simp [runs, holds, lacks])

/-! ### The parent's slot (R340) -/

theorem exec_sumReleaseToggle {b : Bool} (toggle : parentToggle s g grp = some b)
    (flips : ((s.cell g).sumInst grp).seen ≠ b) : exec (.sumReleaseToggle g grp) s =
      .next (parentReleased
        ({ s with emitted := [] }.modCell g (·.modSum grp fun x => { x with seen := b })) g grp) := by
  change execSumReleaseToggle g grp s = _
  unfold execSumReleaseToggle
  rw [toggle]
  exact possible_pos (by simp [runs, flips])

theorem exec_sumReleaseWaitTimeout (waits : ((s.cell g).sumInst grp).sentWaits = true) :
    exec (.sumReleaseWaitTimeout g grp) s = .next (parentReleased { s with emitted := [] } g grp) := by
  change execSumReleaseWaitTimeout g grp s = _
  exact possible_pos (by simp [runs, waits])

/-! ### Results and waits (R343 to R345) -/

theorem exec_sumResultArrival {r : SumResult} {rest : List SumResult} (results : (s.cell g).sum.results = r :: rest) :
    exec (.sumResultArrival g) s = .next (takeResult ({ s with emitted := [] }.modCell g fun c =>
      { c with sum := { c.sum with results := rest } }) g r) := by
  change execSumResultArrival g s = _
  unfold execSumResultArrival
  rw [results]
  exact possible_pos runs

theorem exec_sumWaitTimeout {t : Nat} {p : SumWait}
    (posted : (s.cell g).sum.posted.find? (fun p => decide (p.tid = t)) = some p) :
    exec (.sumWaitTimeout g t) s = .next (endSumWait { s with emitted := [] } g p 1#64) := by
  change execSumWaitTimeout g t s = _
  unfold execSumWaitTimeout
  rw [posted]
  exact possible_pos runs

end Runs

theorem parentReleased_none (none_ : ((v.cell g).sumInst grp).ready = []) :
    parentReleased v g grp = v.modCell g (·.modSum grp fun x => { x with sentWaits := false }) := by
  unfold parentReleased
  rw [none_]

theorem parentReleased_some {p : AislePkt} {rest : List AislePkt} (some_ : ((v.cell g).sumInst grp).ready = p :: rest) :
    parentReleased v g grp =
      sumPush (v.modCell g (·.modSum grp fun x => { x with sentWaits := true, ready := rest })) g p := by
  unfold parentReleased
  rw [some_]

/-- The posted waits that a result ends. -/
def State.sumHits (s : State) (g : Nat) (r : SumResult) : List SumWait :=
  (s.cell g).sum.posted.filter fun p => r.fits p.group p.round p.slice

theorem takeResult_waited {r : SumResult} (hits : v.sumHits g r ≠ []) : takeResult v g r =
    (v.sumHits g r).foldl (fun v p => endSumWait (writeResult v g p.offset r) g p r.status) v :=
  if_pos (show (!(v.sumHits g r).isEmpty) = true by simp [hits])

theorem takeResult_unwaited {r : SumResult} (none_ : v.sumHits g r = []) : takeResult v g r =
    if (v.cell g).sum.landing.length < 2 then
      v.modCell g (·.modSumNode fun n => { n with landing := n.landing ++ [r] })
    else logC v 0 0x0075 (locCell g) (v.chapelIx g) (fabricDetail 0 r.group 0 g r.round r.slice) :=
  if_neg (show ¬(!(v.sumHits g r).isEmpty) = true by simp [none_])

end Instances

/-- Settles O51: what an operand meets at its slot, and what each way of ending a sum, a slot or a wait does. -/
theorem sumsInTheFabric : Obligations.SumsInTheFabric := by
  refine ⟨fun s g p rest runs inbox => ?operand, fun s g grp runs => ?instances, fun v g grp cause inst next_ => rfl,
    fun v g grp count cause inst failed payload => ?outcome, fun s g r rest runs results => ?results,
    fun s g t p runs posted => exec_sumWaitTimeout runs posted⟩
  case operand =>
    intro u h grp sg x inst ends entered flipped failed opened
    have same : (u.cell g).sumInst grp = x := sumInst_tookOperand rest
    refine ⟨exec_sumOperandArrival_nowhere runs inbox, fun i input => ?_⟩
    intro named passed
    have goes := exec_sumOperandArrival runs inbox input
    have shut : ¬named ↔ sg.kind = 0 ∨ (sumInputs h sg g).contains i = false ∨ (x.operand i).isSome := by
      change ¬(sg.kind ≠ 0 ∧ i ∈ sumInputs h sg g ∧ x.operand i = none) ↔ _
      simp only [not_and_or, not_not, List.contains_eq_mem, decide_eq_false_iff_not, Option.isSome_iff_ne_none, ne_eq]
    have goesOn (n : named) : exec (.sumOperandArrival g) s = .next (enterSlot u g grp i sg p) :=
      goes.trans (congrArg _ (if_neg fun other => shut.2 other n))
    have present (n : named) (now : ¬passed) :
        exec (.sumOperandArrival g) s = .next ((u.makesPresent g grp inst).slotFilled g grp i sg p) :=
      (goesOn n).trans (congrArg _ (enterSlot_present (by rwa [same])))
    have late (n : named) (away : passed) : exec (.sumOperandArrival g) s = .next (
        if p.sumFailed then flipped u i
        else logC (flipped u i) 0 0x0074 (locCell g) (s.chapelIx g) (fabricDetail 0 grp p.src g p.seq p.sumSlice)) := by
      obtain ⟨m, next, older⟩ := away
      exact (goesOn n).trans (congrArg _ (enterSlot_passed (by rwa [same]) older))
    refine ⟨fun other => goes.trans (congrArg _ (if_pos (shut.1 other))),
      fun n away told => (late n away).trans (congrArg _ (if_pos told)), fun n away sound => ?_,
      fun n now idle => (present n now).trans ?_, fun n now next holds => (present n now).trans ?_,
      fun m n now next other holds => ?_⟩
    · exact (late n away).trans (congrArg _ (if_neg (by simp [sound])))
    · rw [makesPresent_idle (by rwa [same])]
      rfl
    · rw [makesPresent_busy (n := inst) (by rwa [same]) (by rwa [same]), if_pos rfl]
      rfl
    · refine (present n now).trans ?_
      rw [makesPresent_busy (n := m) (by rwa [same]) (by rwa [same]), if_neg other]
      rfl
  case instances =>
    intro u h sg x inputs inst next_
    refine ⟨fun kind complete => ?_, exec_sumSlotTimeout runs, fun b toggle flips => ?_, fun waits => ?_⟩
    · intro os
      obtain ⟨first, rest, operands⟩ := complete_operands complete
      refine ⟨first, rest, operands, ?_⟩
      intro elems
      have folded : sumFold sg.op os = elems := congrArg (sumFold sg.op) operands
      rw [← folded]
      exact exec_sumCombineDone runs kind complete
    · intro v
      have kept : ((v.cell g).sumInst grp).ready = x.ready := by
        rw [sumInst_modSum]
        rfl
      have goes := exec_sumReleaseToggle runs toggle flips
      exact ⟨fun none_ => goes.trans (congrArg _ (parentReleased_none (kept.trans none_))),
        fun p rest some_ => goes.trans (congrArg _ (parentReleased_some (kept.trans some_)))⟩
    · have goes := exec_sumReleaseWaitTimeout runs waits
      exact ⟨fun none_ => goes.trans (congrArg _ (parentReleased_none none_)),
        fun p rest some_ => goes.trans (congrArg _ (parentReleased_some some_))⟩
  case outcome =>
    intro sg parent
    exact ⟨fun root => if_pos root, fun child => if_neg child⟩
  case results =>
    intro u hits landing ended
    have goes := exec_sumResultArrival runs results
    have posted : u.sumHits g r = hits := by
      unfold State.sumHits
      rw [State.cell_modCell_self]
      rfl
    have landed : (u.cell g).sum.landing = landing := by
      rw [State.cell_modCell_self]
      rfl
    refine ⟨fun some_ => goes.trans (congrArg _ ?_), fun none_ room => goes.trans (congrArg _ ?_),
      fun none_ full => goes.trans (congrArg _ ?_)⟩
    · rw [takeResult_waited (posted.symm ▸ some_), posted]
      rfl
    · rw [takeResult_unwaited (posted.trans none_), landed, if_pos room]
      rfl
    · rw [takeResult_unwaited (posted.trans none_), landed, if_neg (Nat.not_lt.2 full)]
      rfl

end Sys2Proof.Machine
end


section
/-! PROOFS. Bays on their way on and off, and the HBM controllers (chapters 13 and 15). -/

namespace Sys2Proof.Machine

/-! ### Bays (R389 to R391) -/

section Bays

variable {s : State} {b : Nat}

theorem State.modBay_congr {f f' : Bay → Bay} (same : f (s.bay b) = f' (s.bay b)) : s.modBay b f = s.modBay b f' := by
  unfold State.modBay
  rw [same]

section Live

variable (bay : b < 192)

include bay

theorem exec_bayFence (main : s.mainOn = true) (off : (s.bay b).offWanted = true) (on : (s.bay b).st = .on) :
    exec (.bayFence b) s = .next ({ s with emitted := [] }.modBay b fun y => { y with st := .draining }) := by
  change execBayFence b s = _
  exact possible_pos (by simp [bay, main, off, on])

theorem exec_bayDrained (drains : (s.bay b).st = .draining) (quiet : bayQuiet s b = true) :
    exec (.bayDrained b) s = .next ({ s with emitted := [] }.modBay b fun y => { y with st := .fenced }) := by
  change execBayDrained b s = _
  exact possible_pos (by simp [bay, drains, quiet])

theorem exec_bayDrainForced (drains : (s.bay b).st = .draining) : exec (.bayDrainForced b) s = .next
    (logC (((bayCells b).foldl abortTrackers { s with emitted := [] }).modBay b fun y => { y with st := .fenced }) 0
      0x0135 (locBay b) 255 []) := by
  change execBayDrainForced b s = _
  exact possible_pos (by simp [bay, drains])

theorem exec_fenceAck (fenced : (s.bay b).st = .fenced) : exec (.fenceAck b) s = .next
    ({ s with cells := s.cells.filter fun e => decide (bayOf e.1 ≠ b), emitted := [] }.modBay b fun y =>
      { st := if y.onWanted then BayState.waking else BayState.off, offWanted := false, onWanted := false }) := by
  change execFenceAck b s = _
  exact possible_pos (by simp [bay, fenced])

theorem exec_bayPowerOnRequest (main : s.mainOn = true)
    (off : (s.bay b).st = BayState.off ∨ (s.bay b).st = .draining ∨ (s.bay b).st = .fenced) :
    exec (.bayPowerOnRequest b) s = .next ({ s with emitted := [] }.modBay b fun y =>
      if y.st = BayState.off then { y with st := .waking } else { y with onWanted := true }) := by
  change execBayPowerOnRequest b s = _
  unfold execBayPowerOnRequest
  exact possible_pos (by simp [bay, main, off])

theorem exec_bayPowerGood (wakes : (s.bay b).st = .waking) :
    exec (.bayPowerGood b) s = .next ({ s with emitted := [] }.modBay b fun y => { y with st := .on }) := by
  change execBayPowerGood b s = _
  exact possible_pos (by simp [bay, wakes])

end Live
end Bays

/-! ### Sectors (R408 to R414) -/

section Sectors

theorem mem_setInsert (k : Nat) (xs : List Nat) : k ∈ setInsert k xs := by
  induction xs with
  | nil => exact List.mem_singleton_self k
  | cons x xs ih =>
    unfold setInsert
    split
    next same => rw [same]; exact List.mem_cons_self
    next =>
      split
      · exact List.mem_cons_self
      · exact List.mem_cons_of_mem x ih

theorem not_mem_setErase (k : Nat) (xs : List Nat) : k ∉ setErase k xs := by
  simp [setErase]

/-- From `v` to `w` the bytes `bs` have been written at `a` of HBM, whose mark is cleared. -/
def State.WritesHbm (v w : State) (a : Nat) (bs : List Byte) : Prop :=
  w = { v with hbm := w.hbm } ∧ a ∉ w.hbm.poison ∧ w.hbm.zeroRows = v.hbm.zeroRows ∧
  (∀ c, c < a ∨ a + bs.length ≤ c → w.hbm.mem.read? c = v.hbm.mem.read? c) ∧
  (∀ k, (h : k < bs.length) → w.hbm.mem.read? (a + k) = some bs[k])

theorem writesHbm_sector (v : State) (a : Nat) (bs : List Byte) :
    v.WritesHbm { v with hbm := v.hbm.writeSector a bs } a bs :=
  ⟨rfl, not_mem_setErase a _, rfl, fun _ away => WrittenMemory.read_writeBytes_outside _ _ _ away,
    fun k inside => WrittenMemory.read_writeBytes_inside _ _ _ k inside⟩

theorem marked_iff (h : Hbm) (a : Nat) : h.marked a = true ↔ a ∈ h.poison := List.contains_iff_mem

variable {v : State} {m a : Nat} {onDie : OnDie} {dec : EccDecode}

theorem readSector_marked (marked : a ∈ v.hbm.poison) : readSector v a = (none, v) := if_pos ((marked_iff _ _).2 marked)

theorem readSector_known (clear : a ∉ v.hbm.poison) (known : v.hbm.known a = true) :
    readSector v a = (some (v.hbm.sector a), v) :=
  (if_neg (mt (marked_iff _ _).1 clear)).trans (if_pos known)

theorem noteRead_marked (onDie : OnDie) (dec : EccDecode) :
    noteRead v m a onDie dec true = logC v oneMs 0x0142 (locHbm m) 255 (hbmDetail a) := by
  cases dec <;> rfl

theorem noteRead_uncorrectable (onDie : OnDie) : noteRead v m a onDie .uncorrectable false =
    logC (addCandidate (v.modStack m fun x => { x with ue := (x.ue + 1) % 2 ^ 64 }) m a) oneMs 0x0142 (locHbm m) 255
      (hbmDetail a) := rfl

theorem noteRead_singleBit (onDie : OnDie) : noteRead v m a onDie .singleBit false =
    logC (noteCorrected (v.modStack m fun x => { x with ce := (x.ce + 1) % 2 ^ 64 }) m a) oneMs 0x0140 (locHbm m) 255
      (hbmDetail a) := rfl

theorem noteRead_clean : noteRead v m a .clean .clean false = v := rfl

theorem noteRead_corrected : noteRead v m a .corrected .clean false =
    v.modStack m fun x => { x with odeCorr := satInc 0xFFFFFFFF x.odeCorr } := rfl

theorem noteRead_uncorrected : noteRead v m a .uncorrected .clean false = logC (addCandidate (v.modStack m fun x =>
    { x with odeCorr := satInc 0xFFFFFFFF x.odeCorr }) m a) 0 0x0141 (locHbm m) 255 (hbmDetail a) := rfl

theorem stackRead_uncorrectable : (stackRead v m a onDie .uncorrectable).1 = none := rfl

theorem stackRead_marked (marked : a ∈ v.hbm.poison) : (stackRead v m a onDie dec).1 = none :=
  ite_eq_left_iff.2 fun _ => congrArg Prod.fst (readSector_marked marked)

theorem stackRead_known (clear : a ∉ v.hbm.poison) (known : v.hbm.known a = true) (correct : dec ≠ .uncorrectable) :
    (stackRead v m a onDie dec).1 = some (v.hbm.sector a) :=
  (if_neg correct).trans (congrArg Prod.fst (readSector_known clear known))

theorem stackRead_clean (clear : a ∉ v.hbm.poison) (known : v.hbm.known a = true) :
    (stackRead v m a .clean .clean).2 = v := by
  have unmarked : v.hbm.marked a = false := Bool.eq_false_iff.2 (mt (marked_iff _ _).1 clear)
  change noteRead (readSector v a).2 m a .clean .clean (v.hbm.marked a) = v
  rw [readSector_known clear known, unmarked]
  exact noteRead_clean

end Sectors

/-! ### Requests at a controller (R255, R409 to R412) -/

section Requests

variable {s v : State} {m : Nat} {f : AmbFlit} {onDie : OnDie} {dec : EccDecode}

theorem hbmAccept_dead (dead : v.hbmDead m = true) : hbmAccept v m f = respond v f 7 [] := if_pos dead

theorem hbmAccept_queued (live : v.hbmDead m = false) (plain : ¬ (64 ≤ f.win ∧ f.win < 72)) :
    hbmAccept v m f = v.modStack m fun x => { x with queue := x.queue ++ [.req f] } :=
  (if_neg (Bool.eq_false_iff.1 live)).trans (if_neg plain)

theorem hbmAccept_lectern (live : v.hbmDead m = false) (lectern : 64 ≤ f.win ∧ f.win < 72) :
    hbmAccept v m f = coalesce v m f :=
  (if_neg (Bool.eq_false_iff.1 live)).trans (if_pos lectern)

theorem coalesce_served {e : Coalesce} {bs : List Byte}
    (joins : (v.stack m).entries.find? (·.takes v (f.addr / 2048)) = some e) (read : e.data = some bs) :
    coalesce v m f = respond (v.modStack m fun x => { x with
      reqServed := (x.reqServed + 1) % 2 ^ 64, reqCoalesced := (x.reqCoalesced + 1) % 2 ^ 64 }) f 0
        (sliceB bs (f.addr % 2048) (sizeBytes f.size)) := by
  unfold coalesce
  simp only [joins, read]
  rfl

theorem coalesce_joins {e : Coalesce} (joins : (v.stack m).entries.find? (·.takes v (f.addr / 2048)) = some e)
    (unread : e.data = none) : coalesce v m f = v.modStack m fun x => { x with
      entries := x.entries.map fun y =>
        if y.block = f.addr / 2048 ∧ y.opened = e.opened then { y with waiting := y.waiting ++ [⟨f, false⟩] }
        else y } := by
  unfold coalesce
  simp only [joins, unread]

theorem coalesce_opens (alone : (v.stack m).entries.find? (·.takes v (f.addr / 2048)) = none) :
    coalesce v m f = v.modStack m fun x => { x with
      entries := x.entries.map (fun y => if y.block = f.addr / 2048 then { y with shut := true } else y) ++
        [{ block := f.addr / 2048, opened := v.pw.tstamp, waiting := [⟨f, true⟩] }]
      queue := x.queue ++ [.block (f.addr / 2048) v.pw.tstamp]
      blockReads := (x.blockReads + 1) % 2 ^ 64 } := by
  unfold coalesce
  simp only [alone]

/-- The first access of a controller's queue leaves it. -/
def State.popped (s : State) (m : Nat) (rest : List HbmAccess) : State :=
  { s with emitted := [] }.modStack m fun x => { x with queue := rest }

section Done

variable {rest : List HbmAccess}

theorem exec_hbmAccessDone_req (stack : m < 8) (main : s.mainOn = true) (live : s.hbmDead m = false)
    (queue : (s.stack m).queue = .req f :: rest) :
    exec (.hbmAccessDone m onDie dec) s = .next (performReq (s.popped m rest) m f onDie dec) := by
  change execHbmAccessDone m onDie dec s = _
  unfold execHbmAccessDone
  rw [queue]
  exact possible_pos (by simp [stack, main, live])

theorem exec_hbmAccessDone_block {b : Nat} {opened : BitVec 64} (stack : m < 8) (main : s.mainOn = true)
    (live : s.hbmDead m = false) (queue : (s.stack m).queue = .block b opened :: rest) :
    exec (.hbmAccessDone m onDie dec) s = .next (performBlock (s.popped m rest) m b opened onDie dec) := by
  change execHbmAccessDone m onDie dec s = _
  unfold execHbmAccessDone
  rw [queue]
  exact possible_pos (by simp [stack, main, live])

end Done

theorem performReq_whole (write : f.op = .write) (whole : f.size = 4) : performReq v m f onDie dec =
    respond { v with hbm := v.hbm.writeSector (f.addr / 64 * 64) (padTo 64 f.data) } f 0 [] :=
  if_pos ⟨write, whole⟩

theorem performReq_reads (part : ¬ (f.op = .write ∧ f.size = 4)) : performReq v m f onDie dec =
    serveSector (stackRead v m (f.addr / 64 * 64) onDie dec).2 f (stackRead v m (f.addr / 64 * 64) onDie dec).1 :=
  if_neg part

variable {bs : List Byte}

theorem serveSector_none : serveSector v f none = respondErr v f 0x22 true := rfl

theorem serveSector_read (read : f.op = .read) :
    serveSector v f (some bs) = respond v f 0 (sliceB bs (f.addr % 64) (sizeBytes f.size)) := by
  unfold serveSector
  simp only [read]
  rfl

theorem serveSector_write (write : f.op = .write) : serveSector v f (some bs) = respond { v with
    hbm := v.hbm.writeSector (f.addr / 64 * 64)
      (patch bs (f.addr % 64) (sliceB f.data (f.addr % 64) (sizeBytes f.size))) }
    f 0 [] := by
  unfold serveSector
  simp only [write]
  rfl

theorem serveSector_atomic (atomic : f.op = .atomic) : serveSector v f (some bs) =
    let old := leNat (sliceB bs (f.addr % 64) (sizeBytes f.size))
    respond { v with hbm := v.hbm.writeSector (f.addr / 64 * 64) (patch bs (f.addr % 64) (le (sizeBytes f.size)
      (atomicNew f.aop (sizeBytes f.size) old (fieldN f.data 0 8) (fieldN f.data 8 8)))) }
      f 0 (le (sizeBytes f.size) old) := by
  unfold serveSector
  simp only [atomic]
  rfl

/-- What ends in the answer of a write has written its sector first. -/
theorem written_answered {r : Res} {a : Nat} {data : List Byte}
    (run : r = .next (respond { v with hbm := v.hbm.writeSector a bs } f 0 data)) :
    ∃ w : State, r = .next (respond w f 0 data) ∧ v.WritesHbm w a bs :=
  ⟨_, run, writesHbm_sector v a bs⟩

end Requests

/-! ### The scrub and the end of a coalescing window (R255, R414) -/

section Scrub

variable {s : State} {m : Nat} {onDie : OnDie} {dec : EccDecode}

/-- The scrub has read its next sector and counts on. -/
def State.scrubbed (s : State) (m : Nat) (onDie : OnDie) (dec : EccDecode) : State :=
  (noteRead { s with emitted := [] } m (scrubAddr m (s.stack m).scrub) onDie dec
    (s.hbm.marked (scrubAddr m (s.stack m).scrub))).modStack m
    fun x => { x with scrub := ((s.stack m).scrub + 1) % 603979776 }

theorem exec_hbmScrub (stack : m < 8) (trained : 6 ≤ s.pw.phase.rank) (awake : s.awake = true)
    (live : s.hbmDead m = false) : exec (.hbmScrub m onDie dec) s = .next (
      let v := s.scrubbed m onDie dec
      let a := scrubAddr m (s.stack m).scrub
      if dec = .uncorrectable ∧ v.inLectern a = false then { v with hbm := v.hbm.markSector a } else v) := by
  change execHbmScrub m onDie dec s = _
  exact possible_pos (by simp [stack, trained, awake, live])

theorem zeros_length (n : Nat) : (zeros n).length = n := List.length_replicate

theorem mem_markSector_poison (h : Hbm) (a : Nat) : a ∈ (h.markSector a).poison := mem_setInsert a _

theorem read_markSector_outside (h : Hbm) {a c : Nat} (away : c < a ∨ a + 64 ≤ c) :
    (h.markSector a).mem.read? c = h.mem.read? c :=
by
  unfold Hbm.markSector
  have length := zeros_length 64
  generalize zeros 64 = bs at length
  exact WrittenMemory.read_writeBytes_outside h.mem a bs (by omega)

theorem read_markSector_inside (h : Hbm) {a j : Nat} (inside : j < 64) :
    (h.markSector a).mem.read? (a + j) = some 0#8 :=
by
  unfold Hbm.markSector
  have length := zeros_length 64
  have blank : ∀ (k : Nat) (inside : k < (zeros 64).length), (zeros 64)[k] = 0#8 :=
    fun _ inside => List.getElem_replicate inside
  generalize zeros 64 = bs at length blank
  exact (WrittenMemory.read_writeBytes_inside bs h.mem a j (by omega)).trans (congrArg some (blank j _))

theorem exec_coalesceEntryExpiry {b : Nat} (stack : m < 8)
    (serves : ∃ e ∈ (s.stack m).entries, e.block = b ∧ e.shut = false) :
    exec (.coalesceEntryExpiry m b) s = .next ({ s with emitted := [] }.modStack m fun x => { x with
      entries := (x.entries.map fun (e : Coalesce) =>
        if e.block = b ∧ e.shut = false then { e with shut := true } else e).filter
        fun e => !(e.shut && e.data.isSome) }) := by
  change execCoalesceEntryExpiry m b s = _
  unfold execCoalesceEntryExpiry
  have found : (s.stack m).entries.any (fun e => decide (e.block = b) && !e.shut) = true := by simpa using serves
  refine (possible_pos (by simp [stack, found])).trans ?_
  simp only [Stack.prune, Coalesce.spent, Bool.and_eq_true, decide_eq_true_eq, Bool.not_eq_true']

end Scrub
section Parts

variable {s v : State} {b m : Nat}

/-- The power switch of a fenced bay opens: its cells alone lose what they hold, and its record alone changes. -/
theorem fenceAck_clears (bay : b < 192) (fenced : (s.bay b).st = .fenced) : ∃ v : State,
    exec (.fenceAck b) s = .next v ∧ v = { s with cells := v.cells, amb := v.amb, emitted := [] } ∧
    (∀ g, bayOf g = b → v.cell g = Cell.fresh) ∧ (∀ g, bayOf g ≠ b → v.cell g = s.cell g) ∧
    v.bay b = { st := if (s.bay b).onWanted then .waking else .off, offWanted := false, onWanted := false } ∧
    (∀ j, j ≠ b → v.bay j = s.bay j) := by
  refine ⟨_, exec_fenceAck bay fenced, rfl, fun g inside => ?_, fun g outside => ?_, ?_, fun j other => ?_⟩
  · exact (tget_filter Cell.fresh s.cells (fun g => decide (bayOf g ≠ b)) g).trans (if_neg (by simp [inside]))
  · exact (tget_filter Cell.fresh s.cells (fun g => decide (bayOf g ≠ b)) g).trans (if_pos (by simp [outside]))
  · rw [State.bay_modBay, if_pos rfl]; rfl
  · rw [State.bay_modBay, if_neg other]; rfl

variable {f : AmbFlit} {rest : List HbmAccess} {onDie : OnDie} {dec : EccDecode}

/-- A request that waits its turn at the stack: what `performReq` does with it, operation by operation. -/
theorem hbmAccessDone_req (stack : m < 8) (main : s.mainOn = true) (live : s.hbmDead m = false)
    (queue : (s.stack m).queue = .req f :: rest) :
    let u := s.popped m rest
    let runs (v : State) : Prop := exec (.hbmAccessDone m onDie dec) s = .next v
    let a := f.addr / 64 * 64
    let o := f.addr % 64
    let n := sizeBytes f.size
    let writes (v : State) (bs data : List Byte) : Prop := ∃ w : State, runs (respond w f 0 data) ∧ v.WritesHbm w a bs
    let r := stackRead u m a onDie dec
    (f.op = .write → f.size = 4 → writes u (padTo 64 f.data) []) ∧
    (¬ (f.op = .write ∧ f.size = 4) →
      (r.1 = none → runs (respondErr r.2 f 0x22 true)) ∧
      (∀ bs, r.1 = some bs → f.op = .read → runs (respond r.2 f 0 (sliceB bs o n))) ∧
      (∀ bs, r.1 = some bs → f.op = .write → writes r.2 (patch bs o (sliceB f.data o n)) []) ∧
      (∀ bs, r.1 = some bs → f.op = .atomic →
        let old := leNat (sliceB bs o n)
        writes r.2 (patch bs o (le n (atomicNew f.aop n old (fieldN f.data 0 8) (fieldN f.data 8 8))))
          (le n old))) := by
  intro u runs a o n writes r
  have run : runs (performReq u m f onDie dec) := exec_hbmAccessDone_req stack main live queue
  refine ⟨fun write whole => written_answered (run.trans (congrArg _ (performReq_whole write whole))), fun part => ?_⟩
  have served {x : Option (List Byte)} (read : r.1 = x) : runs (serveSector r.2 f x) :=
    read ▸ run.trans (congrArg _ (performReq_reads part))
  refine ⟨fun none => served none, fun bs some read => ?_, fun bs some write => ?_, fun bs some atomic => ?_⟩
  · exact (served some).trans (congrArg _ (serveSector_read read))
  · exact written_answered ((served some).trans (congrArg _ (serveSector_write write)))
  · exact written_answered ((served some).trans (congrArg _ (serveSector_atomic atomic)))

/-- The counts and log entries of a stack read (Table 15-2). -/
theorem noteRead_cases (v : State) (m a : Nat) (onDie : OnDie) (dec : EccDecode) (j : Bool) :
    noteRead v m a onDie dec j =
    if j then logC v oneMs 0x0142 (locHbm m) 255 (hbmDetail a)
    else match dec, onDie with
      | .uncorrectable, _ => logC (addCandidate (v.modStack m fun x => { x with ue := (x.ue + 1) % 2 ^ 64 }) m a) oneMs
          0x0142 (locHbm m) 255 (hbmDetail a)
      | .singleBit, _ => logC (noteCorrected (v.modStack m fun x => { x with ce := (x.ce + 1) % 2 ^ 64 }) m a) oneMs
          0x0140 (locHbm m) 255 (hbmDetail a)
      | .clean, .clean => v
      | .clean, .corrected => v.modStack m fun x => { x with odeCorr := satInc 0xFFFFFFFF x.odeCorr }
      | .clean, .uncorrected => logC (addCandidate (v.modStack m fun x =>
          { x with odeCorr := satInc 0xFFFFFFFF x.odeCorr }) m a) 0 0x0141 (locHbm m) 255 (hbmDetail a) := by
  cases j with
  | true => exact noteRead_marked onDie dec
  | false =>
    cases dec with
    | uncorrectable => exact noteRead_uncorrectable onDie
    | singleBit => exact noteRead_singleBit onDie
    | clean => cases onDie <;> rfl

end Parts

/-- Settles O53, part by part: the bays by their events, an arriving request by `hbmAccept`'s branches, a completed
access by its operation, the sector a stack read finds, the scrub, and the end of a window. -/
theorem baysAndHbm : Obligations.BaysAndHbm := by
  refine ⟨fun s b bay => ⟨?_, ?_, ?_, ?_, ?_, ?_, ?_⟩, fun v m f => ⟨?_, ?_, ?_⟩, ?_, ?_, ?_, ?_⟩
  · exact fun main off on => exec_bayFence bay main off on
  · exact fun drains quiet => exec_bayDrained bay drains quiet
  · exact fun drains => exec_bayDrainForced bay drains
  · exact fun fenced => fenceAck_clears bay fenced
  · exact fun main off => (exec_bayPowerOnRequest bay main (.inl off)).trans
      (congrArg _ (State.modBay_congr (if_pos off)))
  · intro main drains
    have lit : (s.bay b).st ≠ BayState.off := by rcases drains with st | st <;> simp [st]
    exact (exec_bayPowerOnRequest bay main (.inr drains)).trans (congrArg _ (State.modBay_congr (if_neg lit)))
  · exact fun wakes => exec_bayPowerGood bay wakes
  · exact hbmAccept_dead
  · exact hbmAccept_queued
  · intro live low high
    have lectern := hbmAccept_lectern live ⟨low, high⟩
    exact ⟨fun e bs joins read => lectern.trans (coalesce_served joins read),
      fun e joins unread => lectern.trans (coalesce_joins joins unread),
      fun alone => lectern.trans (coalesce_opens alone)⟩
  · rintro s m q rest onDie dec stack main live queue u runs
    refine ⟨?_, ?_⟩
    · rintro f rfl
      exact hbmAccessDone_req stack main live queue
    · rintro b opened rfl
      exact exec_hbmAccessDone_block stack main live queue
  · intro v m a onDie dec marked r
    refine ⟨?_, stackRead_known, ?_, noteRead_cases v m a onDie dec⟩
    · rintro (poisoned | rfl)
      · exact stackRead_marked poisoned
      · exact stackRead_uncorrectable
    · rintro clear known rfl rfl
      exact stackRead_clean clear known
  · intro s m onDie dec stack trained awake live k a v
    have scrub : exec (.hbmScrub m onDie dec) s =
        .next (if dec = .uncorrectable ∧ v.inLectern a = false then { v with hbm := v.hbm.markSector a } else v) :=
      exec_hbmScrub stack trained awake live
    refine ⟨fun kept => scrub.trans (congrArg _ (if_neg ?_)), fun bad outside =>
      ⟨_, scrub.trans (congrArg _ (if_pos ⟨bad, outside⟩)), rfl, mem_markSector_poison _ _,
        fun c away => read_markSector_outside _ away, fun j inside => read_markSector_inside _ inside⟩⟩
    rintro ⟨bad, outside⟩
    rcases kept with good | within
    · exact good bad
    · exact Bool.false_ne_true (outside.symm.trans within)
  · exact fun s m b stack waits => exec_coalesceEntryExpiry stack waits

end Sys2Proof.Machine
end


section
/-! PROOFS. Frames on a Transept port: what it sends, what it accepts, units, ACK, replay and silence (chapter 16). -/

namespace Sys2Proof.Machine

/-! ### A frame sent (R429 to R432) -/

section Sent

variable {s : State} {t : Nat}

/-- From `v` to `w` port `t` has sent `f` at TSTAMP `now`: its credits are granted, and a NAK it carries is counted. -/
def State.Sent (v w : State) (now : BitVec 64) (t : Nat) (f : Frame) : Prop :=
  w = { v with links := w.links, emitted := [.frame t f] } ∧ (∀ j, j ≠ t → w.link j = v.link j) ∧
  w.link t = (let y := v.link t
    let rel (x : Stream) : Stream := { x with released := x.got }
    { y with
      a := rel y.a, c := rel y.c, q := rel y.q, s := rel y.s, e := rel y.e, nakDue := false
      nakAt := if f.nak then some now else y.nakAt
      counters := if f.nak then { y.counters with nakSent := cnt32 y.counters.nakSent } else y.counters })

theorem sent_sendFrame (v : State) (t : Nat) (f : Frame) (quiet : v.emitted = []) :
    v.Sent (sendFrame v t f) v.pw.tstamp t f := by
  refine ⟨?_, fun j other => (State.link_modLink _ _ _ _).trans (if_neg other), State.link_modLink_self _ _ _⟩
  unfold sendFrame State.emit
  rw [quiet]
  rfl

/-- The traffic frame of the blocks `r.1` that left the package at `r.2`. -/
def trafficFrame (r : List (Nat × List Byte) × State) (t : Nat) : Frame :=
  let y := r.2.link t
  y.control { emptyFrame y with idle := false, classes := r.1.map Prod.fst, body := r.1.flatMap Prod.snd }

section Blocks

variable {r : List (Nat × List Byte) × State} (blocks : nextBlocks 7 s t = r)

include blocks

theorem sendNew_idle (idle : ∀ b ∈ r.1, b.1 = 0) : sendNew s t = sendFrame s t (idleFrame (s.link t)) := by
  unfold sendNew
  rw [blocks]
  exact if_pos (List.all_eq_true.2 fun b inside => decide_eq_true (idle b inside))

theorem sendNew_traffic (busy : ∃ b ∈ r.1, b.1 ≠ 0) : sendNew s t = sendFrame (r.2.modLink t fun l =>
    { l with txSeq := l.txSeq + 1, replay := l.replay ++ [trafficFrame r t] }) t (trafficFrame r t) := by
  unfold sendNew
  rw [blocks]
  refine if_neg fun idle => ?_
  obtain ⟨b, inside, traffic⟩ := busy
  exact traffic (of_decide_eq_true (List.all_eq_true.1 idle b inside))

end Blocks

section Send

variable (port : t < 12) (main : s.mainOn = true) (awake : s.awake = true) (sends : (s.link t).sends = true)

include port main awake sends

theorem exec_transeptFrameSend : exec (.transeptFrameSend t) s = .next (
    let u : State := { s with emitted := [] }
    let l := s.link t
    if l.state = 2 ∧ l.bodyOp = false then
      if 0 < l.resend then sendFrame (u.modLink t fun l => { l with resend := l.resend - 1 }) t
        (l.control (l.replay.getD (l.replay.length - l.resend) (emptyFrame l)))
      else if l.replay.length < 96 then sendNew u t
      else sendFrame u t (idleFrame l)
    else sendFrame u t (idleFrame l)) := by
  change execTranseptFrameSend t s = _
  unfold execTranseptFrameSend
  exact possible_pos (by simp [port, main, awake, sends])

theorem exec_transeptFrameSend_idle (idle : (s.link t).state ≠ 2 ∨ (s.link t).bodyOp = true) :
    exec (.transeptFrameSend t) s = .next (sendFrame { s with emitted := [] } t (idleFrame (s.link t))) := by
  refine (exec_transeptFrameSend port main awake sends).trans (congrArg _ (if_neg ?_))
  rintro ⟨up, bare⟩
  rcases idle with other | body
  · exact other up
  · exact Bool.false_ne_true (bare.symm.trans body)

section Up

variable (up : (s.link t).state = 2) (bare : (s.link t).bodyOp = false)

include up bare

theorem exec_transeptFrameSend_replay (replays : 0 < (s.link t).resend) : exec (.transeptFrameSend t) s = .next (
    sendFrame ({ s with emitted := [] }.modLink t fun l => { l with resend := l.resend - 1 }) t
      ((s.link t).control
        ((s.link t).replay.getD ((s.link t).replay.length - (s.link t).resend) (emptyFrame (s.link t))))) :=
  (exec_transeptFrameSend port main awake sends).trans
    (congrArg _ ((if_pos ⟨up, bare⟩).trans (if_pos replays)))

theorem exec_transeptFrameSend_full (fresh : (s.link t).resend = 0) (full : 96 ≤ (s.link t).replay.length) :
    exec (.transeptFrameSend t) s = .next (sendFrame { s with emitted := [] } t (idleFrame (s.link t))) :=
  (exec_transeptFrameSend port main awake sends).trans (congrArg _ ((if_pos ⟨up, bare⟩).trans
    ((if_neg (Nat.not_lt.2 fresh.le)).trans (if_neg (Nat.not_lt.2 full)))))

theorem exec_transeptFrameSend_new (fresh : (s.link t).resend = 0) (room : (s.link t).replay.length < 96) :
    exec (.transeptFrameSend t) s = .next (sendNew { s with emitted := [] } t) :=
  (exec_transeptFrameSend port main awake sends).trans (congrArg _ ((if_pos ⟨up, bare⟩).trans
    ((if_neg (Nat.not_lt.2 fresh.le)).trans (if_pos room))))

end Up
end Send

/-- What ends in sending a frame sends it. -/
theorem sent_of {v : State} {f : Frame} {r : Res} (quiet : v.emitted = []) (run : r = .next (sendFrame v t f)) :
    ∃ w, r = .next w ∧ v.Sent w v.pw.tstamp t f :=
  ⟨_, run, sent_sendFrame v t f quiet⟩

end Sent

/-! ### A frame received (R432, R452) -/

section Received

variable {s v w : State} {t : Nat} {f : Frame}

theorem takeTraffic_next (next : f.fseq % 4096 = (s.link t).rxSeq) : takeTraffic s t f =
    let taken := s.modLink t fun l => { l with rxSeq := (l.rxSeq + 1) % 4096, ackValid := true, nakAt := none }
    (feedBlocks (frameBlocks f) taken t).getD (linkDown taken t 5) := by
  refine (if_pos next).trans ?_
  dsimp only
  cases feedBlocks (frameBlocks f) (s.modLink t fun l =>
    { l with rxSeq := (l.rxSeq + 1) % 4096, ackValid := true, nakAt := none }) t <;> rfl

theorem takeTraffic_older (other : f.fseq % 4096 ≠ (s.link t).rxSeq)
    (older : ((s.link t).rxSeq + 4096 - f.fseq % 4096) % 4096 ≤ 2048) : takeTraffic s t f = s :=
  (if_neg other).trans (if_pos older)

theorem takeTraffic_missing (other : f.fseq % 4096 ≠ (s.link t).rxSeq)
    (missing : 2048 < ((s.link t).rxSeq + 4096 - f.fseq % 4096) % 4096) : takeTraffic s t f = frameFails s t :=
  (if_neg other).trans (if_neg (Nat.not_le.2 missing))

theorem frameGood_violation (live : (s.link t).state ≠ 0) (bad : takeControl s t f = none) :
    frameGood s t f = linkDown s t 5 := by
  refine (if_neg live).trans ?_
  rw [bad]

/-- The control operation a good frame carries takes effect. -/
def frameCtrl (w : State) (t : Nat) (f : Frame) : State :=
  ctrlReceived w t f.ctrlOp f.ctrlArg.toNat (if ctrlHasBody f.ctrlOp then f.body.take 32 else [])

theorem frameGood_taken (live : (s.link t).state ≠ 0) (good : takeControl s t f = some w) : frameGood s t f =
    let z := frameCtrl w t f
    if f.idle ∨ (z.link t).state < 2 ∨ (z.link t).state = 5 then z else takeTraffic z t f := by
  refine (if_neg live).trans ?_
  rw [good]
  rfl

section Live

variable (port : t < 12) (main : s.mainOn = true) (awake : s.awake = true)

include port main awake

theorem exec_transeptFrameReceived_uncorrectable : exec (.transeptFrameReceived t .uncorrectable) s = .next (frameFails
    ({ s with emitted := [] }.countLink t fun k => { k with cwUncorrectable := cnt32 k.cwUncorrectable }) t) := by
  change execTranseptFrameReceived t .uncorrectable s = _
  unfold execTranseptFrameReceived
  exact possible_pos (by simp [port, main, awake])

section Decoded

variable {errs : List Nat} (lanes : errs.length = 8) (body : f.body.length = 616) (classes : f.classes.length = 7)
  (credit : f.credit.length = 5)

include lanes body classes credit

theorem exec_transeptFrameReceived_decoded (fmark fcrc : Bool) :
    exec (.transeptFrameReceived t (.decoded errs fmark fcrc f)) s = .next (
      let v := countErrors { s with emitted := [] } t errs
      if !fcrc then frameFails (v.countLink t fun k => { k with fcrcFail := cnt32 k.fcrcFail }) t
      else if !fmark then frameFails v t
      else frameGood v t f) := by
  change execTranseptFrameReceived t (.decoded errs fmark fcrc f) s = _
  unfold execTranseptFrameReceived
  exact possible_pos (by simp [port, main, awake, lanes, body, classes, credit])

theorem exec_transeptFrameReceived_good : exec (.transeptFrameReceived t (.decoded errs true true f)) s =
    .next (frameGood (countErrors { s with emitted := [] } t errs) t f) :=
  exec_transeptFrameReceived_decoded port main awake lanes body classes credit true true

end Decoded
end Live
end Received

/-! ### ACK, units and replay (R429, R431, R433, R447) -/

section Ack

variable {l : TPort} {f : Frame}

theorem takeAck_invalid (invalid : f.ackValid = false) : takeAck l f = some l := by
  unfold takeAck
  rw [invalid]
  rfl

theorem takeAck_valid (valid : f.ackValid = true) : takeAck l f =
    let d := (l.txSeq + 4095 - f.ack) % 4096
    if l.txSeq ≤ d ∨ 2048 ≤ d then none
    else if l.replay.length ≤ d then some l
    else some { l with replay := l.replay.drop (l.replay.length - d), resend := min l.resend d, replays := 0 } := by
  unfold takeAck
  rw [valid]
  rfl

end Ack

section Units

variable {s : State} {t k : Nat} {unit : List Byte}

/-- The unit takes its credits of class `k`. -/
def State.credited (s : State) (t k : Nat) (unit : List Byte) : State :=
  s.modLink t (·.modStream k fun x => { x with got := (x.got + unitCredits k unit.length) % 256 })

/-- The credits of class `k` the peer has used once the unit has come. -/
def TPort.usedWith (l : TPort) (k : Nat) (unit : List Byte) : Nat :=
  ((l.stream k).got + unitCredits k unit.length + 256 - (l.stream k).released) % 256

theorem owner_modStream (l : TPort) (k : Nat) (f : Stream → Stream) : (l.modStream k f).owner = l.owner := by
  unfold TPort.modStream
  split <;> rfl

theorem span_modStream (l : TPort) (k : Nat) (f : Stream → Stream) : (l.modStream k f).span = l.span := by
  unfold TPort.modStream
  split <;> rfl

theorem State.owner_credited : ((s.credited t k unit).link t).owner = (s.link t).owner :=
  (congrArg TPort.owner (State.link_modLink_self _ _ _)).trans (owner_modStream _ _ _)

theorem State.span_credited : ((s.credited t k unit).link t).span = (s.link t).span :=
  (congrArg TPort.span (State.link_modLink_self _ _ _)).trans (span_modStream _ _ _)

theorem unitIn_beyond (beyond : ¬ (s.link t).usedWith k unit ≤ pool k) : unitIn s t k unit = none :=
  if_pos (Nat.not_le.1 beyond)

section Within

variable (within : (s.link t).usedWith k unit ≤ pool k)

include within

theorem unitIn_stranger (stranger : (s.link t).owner = 255 ∨ fieldN unit 1 1 ≠ (s.link t).owner) :
    unitIn s t k unit = some (logLink ((s.credited t k unit).countLink t fun k =>
      { k with screenDiscards := cnt32 k.screenDiscards }) t oneMs 0x0152 0 0xFF) := by
  rw [← State.owner_credited (k := k) (unit := unit)] at stranger
  exact (if_neg (Nat.not_lt.2 within)).trans (if_pos stranger)

/-- A unit of the owner's chapel is delivered as its class says. -/
def State.delivered (v : State) (t k : Nat) (unit : List Byte) (n : Nat) : State :=
  let c := fieldN unit 1 1
  match k with
  | 1 => if (v.chapel c).state = .empty then v else gateEnterPacket v c n (aisleOfBytes unit)
  | 2 => if (v.chapel c).state = .empty then v else gateEnterFlit v c n (chFlitOfBytes unit)
  | _ => flitIn v t k unit

theorem unitIn_owner (owned : (s.link t).owner ≠ 255) (own : fieldN unit 1 1 = (s.link t).owner) :
    unitIn s t k unit = some ((s.credited t k unit).delivered t k unit (s.link t).span) := by
  have mine : ¬ (((s.credited t k unit).link t).owner = 255 ∨
      fieldN unit 1 1 ≠ ((s.credited t k unit).link t).owner) := by
    rw [State.owner_credited]
    exact not_or.2 ⟨owned, not_not.2 own⟩
  refine (if_neg (Nat.not_lt.2 within)).trans ((if_neg mine).trans ?_)
  rw [← State.span_credited (s := s) (t := t) (k := k) (unit := unit)]
  match k with
  | 0 | 1 | 2 | n + 3 => rfl

end Within
end Units

section Replay

variable {s : State} {t : Nat}

theorem exec_replayTimer (live : linkLive s t = true) (up : (s.link t).state = 2) (kept : (s.link t).replay ≠ [])
    (few : (s.link t).replays < 16) : exec (.replayTimer t) s = .next (({ s with emitted := [] }.countLink t fun k =>
      { k with replayTimeouts := cnt32 k.replayTimeouts }).modLink t TPort.replayAll) := by
  change execReplayTimer t s = _
  unfold execReplayTimer
  exact possible_pos (by simp [live, up, kept, few])

theorem TPort.replayAll_kept {l : TPort} (kept : l.replay ≠ []) :
    l.replayAll = { l with resend := l.replay.length, replays := l.replays + 1 } :=
  if_neg (by simpa using kept)

theorem exec_replayExhausted (live : linkLive s t = true) (kept : (s.link t).replay ≠ [])
    (many : 16 ≤ (s.link t).replays) :
    exec (.replayExhausted t) s = .next (linkDown { s with emitted := [] } t 3) := by
  change execReplayExhausted t s = _
  unfold execReplayExhausted
  exact possible_pos (by simp [live, kept, many])

theorem exec_peerSilent (live : linkLive s t = true) (trained : 2 ≤ (s.link t).state) :
    exec (.peerSilent t) s = .next (linkDown { s with emitted := [] } t 4) := by
  change execPeerSilent t s = _
  exact possible_pos (by simp [live, trained])

/-- REPLAY_TIMER changes its port alone: every frame kept is sent again, and the timeout is counted. -/
theorem replayTimer_replays (live : linkLive s t = true) (up : (s.link t).state = 2) (kept : (s.link t).replay ≠ [])
    (few : (s.link t).replays < 16) :
    let u := { s with emitted := [] }
    let l := s.link t
    ∃ v : State, exec (.replayTimer t) s = .next v ∧
      v = { u with links := v.links } ∧ (∀ j, j ≠ t → v.link j = s.link j) ∧
      v.link t = { l with
        resend := l.replay.length, replays := l.replays + 1
        counters := { l.counters with replayTimeouts := cnt32 l.counters.replayTimeouts } } := by
  refine ⟨_, exec_replayTimer live up kept few, rfl, fun j other => ?_, ?_⟩
  · unfold State.countLink
    rw [State.link_modLink, if_neg other, State.link_modLink, if_neg other]
    rfl
  · unfold State.countLink
    rw [State.link_modLink_self, State.link_modLink_self]
    exact TPort.replayAll_kept kept

end Replay

/-! ### O54 by its parts -/

section Parts

variable {s : State} {t : Nat}

/-- What a port that sends frames sends, by the order of R430 to R433. -/
theorem transeptFrameSend_sends (port : t < 12) (main : s.mainOn = true) (awake : s.awake = true)
    (sends : (s.link t).sends = true) {traffic : List (Nat × List Byte) × State}
    (blocks : nextBlocks 7 { s with emitted := [] } t = traffic) :
    let u := { s with emitted := [] }
    let l := s.link t
    let sent (v : State) (f : Frame) : Prop := ∃ w : State, exec (.transeptFrameSend t) s = .next w ∧
      v.Sent w s.pw.tstamp t f
    let new := trafficFrame traffic t
    (l.state ≠ 2 ∨ l.bodyOp = true → sent u (idleFrame l)) ∧
    (l.state = 2 → l.bodyOp = false → 0 < l.resend →
      sent (u.modLink t fun l => { l with resend := l.resend - 1 })
        (l.control (l.replay.getD (l.replay.length - l.resend) (emptyFrame l)))) ∧
    (l.state = 2 → l.bodyOp = false → l.resend = 0 → 96 ≤ l.replay.length → sent u (idleFrame l)) ∧
    (l.state = 2 → l.bodyOp = false → l.resend = 0 → l.replay.length < 96 → (∀ b ∈ traffic.1, b.1 = 0) →
      sent u (idleFrame l)) ∧
    (l.state = 2 → l.bodyOp = false → l.resend = 0 → l.replay.length < 96 → (∃ b ∈ traffic.1, b.1 ≠ 0) →
      traffic.2.emitted = [] → traffic.2.pw = s.pw →
      sent (traffic.2.modLink t fun l => { l with txSeq := l.txSeq + 1, replay := l.replay ++ [new] }) new) := by
  intro u l sent new
  refine ⟨fun idle => ?_, fun up bare replays => ?_, fun up bare fresh full => ?_, fun up bare fresh room idle => ?_,
    fun up bare fresh room busy quiet still => ?_⟩
  · exact sent_of (v := u) rfl (exec_transeptFrameSend_idle port main awake sends idle)
  · exact sent_of (v := u.modLink t _) rfl (exec_transeptFrameSend_replay port main awake sends up bare replays)
  · exact sent_of (v := u) rfl (exec_transeptFrameSend_full port main awake sends up bare fresh full)
  · exact sent_of (v := u) rfl ((exec_transeptFrameSend_new port main awake sends up bare fresh room).trans
      (congrArg _ (sendNew_idle blocks idle)))
  · have run := sent_of (v := traffic.2.modLink t _) quiet
      ((exec_transeptFrameSend_new port main awake sends up bare fresh room).trans
        (congrArg _ (sendNew_traffic blocks busy)))
    have clock : (traffic.2.modLink t fun l =>
        { l with txSeq := l.txSeq + 1, replay := l.replay ++ [new] }).pw.tstamp = s.pw.tstamp :=
      congrArg (·.tstamp) still
    rw [clock] at run
    exact run

/-- What a decoded frame does, failure by failure and then by its control field and its number. -/
theorem transeptFrameReceived_decoded {errs : List Nat} {f : Frame} (port : t < 12) (main : s.mainOn = true)
    (awake : s.awake = true) (lanes : errs.length = 8) (body : f.body.length = 616) (classes : f.classes.length = 7)
    (credit : f.credit.length = 5) :
    let runs (rx : FrameRx) (v : State) : Prop := exec (.transeptFrameReceived t rx) s = .next v
    let v := countErrors { s with emitted := [] } t errs
    let st := (v.link t).state
    (∀ b, runs (.decoded errs b false f)
      (frameFails (v.countLink t fun k => { k with fcrcFail := cnt32 k.fcrcFail }) t)) ∧
    runs (.decoded errs false true f) (frameFails v t) ∧
    (st ≠ 0 → takeControl v t f = none → runs (.decoded errs true true f) (linkDown v t 5)) ∧
    (∀ w, st ≠ 0 → takeControl v t f = some w →
      let z := frameCtrl w t f
      let y := z.link t
      let behind := (y.rxSeq + 4096 - f.fseq % 4096) % 4096
      let taken := z.modLink t fun l => { l with rxSeq := (l.rxSeq + 1) % 4096, ackValid := true, nakAt := none }
      (f.idle = true ∨ y.state < 2 ∨ y.state = 5 → runs (.decoded errs true true f) z) ∧
      (f.idle = false → 2 ≤ y.state → y.state ≠ 5 →
        (f.fseq % 4096 = y.rxSeq → runs (.decoded errs true true f)
          ((feedBlocks (frameBlocks f) taken t).getD (linkDown taken t 5))) ∧
        (f.fseq % 4096 ≠ y.rxSeq → behind ≤ 2048 → runs (.decoded errs true true f) z) ∧
        (f.fseq % 4096 ≠ y.rxSeq → 2048 < behind → runs (.decoded errs true true f) (frameFails z t)))) := by
  intro runs v st
  have run (fmark fcrc : Bool) :=
    exec_transeptFrameReceived_decoded port main awake lanes body classes credit fmark fcrc
  have good : runs (.decoded errs true true f) (frameGood v t f) := run true true
  refine ⟨fun fmark => run fmark false, run false true,
    fun live bad => good.trans (congrArg _ (frameGood_violation live bad)), fun w live control => ?_⟩
  intro z y behind taken
  have ends := good.trans (congrArg _ (frameGood_taken live control))
  refine ⟨fun stops => ends.trans (congrArg _ (if_pos stops)), fun traffic trained unfenced => ?_⟩
  have goes : ¬ (f.idle = true ∨ y.state < 2 ∨ y.state = 5) := by
    rw [traffic]
    rintro (idle | training | fenced)
    · exact Bool.false_ne_true idle
    · exact Nat.not_lt.2 trained training
    · exact unfenced fenced
  have taking := ends.trans (congrArg _ (if_neg goes))
  exact ⟨fun next => taking.trans (congrArg _ (takeTraffic_next next)),
    fun other older => taking.trans (congrArg _ (takeTraffic_older other older)),
    fun other missing => taking.trans (congrArg _ (takeTraffic_missing other missing))⟩

/-- The frames an ACK covers leave the replay; one that names a frame never sent is none. -/
theorem takeAck_cases (l : TPort) (f : Frame) : let d := (l.txSeq + 4095 - f.ack) % 4096
    (f.ackValid = false → takeAck l f = some l) ∧
    (f.ackValid = true → l.txSeq ≤ d ∨ 2048 ≤ d → takeAck l f = none) ∧
    (f.ackValid = true → d < l.txSeq → d < 2048 → l.replay.length ≤ d → takeAck l f = some l) ∧
    (f.ackValid = true → d < l.txSeq → d < 2048 → d < l.replay.length → takeAck l f =
      some { l with replay := l.replay.drop (l.replay.length - d), resend := min l.resend d, replays := 0 }) := by
  intro d
  have known (sent : d < l.txSeq) (recent : d < 2048) : ¬ (l.txSeq ≤ d ∨ 2048 ≤ d) :=
    not_or.2 ⟨Nat.not_le.2 sent, Nat.not_le.2 recent⟩
  exact ⟨takeAck_invalid, fun valid wrong => (takeAck_valid valid).trans (if_pos wrong),
    fun valid sent recent none => (takeAck_valid valid).trans ((if_neg (known sent recent)).trans (if_pos none)),
    fun valid sent recent some => (takeAck_valid valid).trans
      ((if_neg (known sent recent)).trans (if_neg (Nat.not_le.2 some)))⟩

end Parts

/-- Settles O54, part by part: a frame sent, a frame received, an ACK, a unit, and the port's timers. -/
theorem transeptFrames : Obligations.TranseptFrames := by
  refine ⟨?_, fun s t port main awake => ⟨?_, ?_⟩, takeAck_cases, fun s t k unit => ⟨?_, ?_, ?_⟩,
    fun s t live => ⟨?_, ?_, ?_⟩⟩
  · intro s t port main awake sends u l sent traffic
    have blocks : nextBlocks 7 u t = traffic := rfl
    clear_value traffic
    exact transeptFrameSend_sends port main awake sends blocks
  · exact exec_transeptFrameReceived_uncorrectable port main awake
  · exact fun errs f lanes body classes credit =>
      transeptFrameReceived_decoded port main awake lanes body classes credit
  · exact unitIn_beyond
  · exact fun within stranger => unitIn_stranger within stranger
  · intro within owned own
    refine (unitIn_owner within owned own).trans (congrArg some ?_)
    match k with
    | 0 | 1 | 2 | n + 3 => rfl
  · exact fun up kept few => replayTimer_replays live up kept few
  · exact fun kept many => exec_replayExhausted live kept many
  · exact fun trained => exec_peerSilent live trained

end Sys2Proof.Machine
end
